-- ==== Sys2Proof/Word.lean ====
section
/-! DEFINITION. The word types, bit-slices, and the keyed lists in which the state holds sparse data.
Bits are numbered from 0 at the least significant bit and multi-byte values are little-endian (R5). -/

namespace Sys2Proof

/-- One byte. -/
abbrev Byte := BitVec 8

/-- The 64-bit payload of a token (R33), a literal entry, an address. -/
abbrev Word := BitVec 64

/-- A 24-bit tag: die 23:21, frame 20:9, ix 8:0 (R33). -/
abbrev Tag := BitVec 24

/-- The 64 data bytes of a line (R87). -/
abbrev LineData := BitVec 512

/-- A 16-bit line descriptor: format 15:8, scale byte 7:0 (R87). -/
abbrev Desc := BitVec 16

/-- The bits `hi:lo` of a natural number (R5). -/
def bits (v hi lo : Nat) : Nat := v / 2 ^ lo % 2 ^ (hi + 1 - lo)

/-- Bit `i` of a natural number (R5). -/
def bitAt (v i : Nat) : Bool := v / 2 ^ i % 2 == 1

/-- Two's complement reading of the low `w` bits (R76). -/
def toSigned (w v : Nat) : Int :=
  if v % 2 ^ w < 2 ^ (w - 1) then (v % 2 ^ w : Nat) else (v % 2 ^ w : Nat) - (2 ^ w : Nat)

/-- The low `w` bits of an integer (R12, `trunc`). -/
def truncInt (w : Nat) (x : Int) : Nat := (x % (2 ^ w : Nat)).toNat

namespace Tag

/-- A tag from its three fields (R33). -/
def mk (die frame ix : Nat) : Tag := BitVec.ofNat 24 (die % 8 * 2 ^ 21 + frame % 4096 * 2 ^ 9 + ix % 512)

/-- Home die of the frame, bits 23:21 (R33). -/
def die (t : Tag) : Nat := bits t.toNat 23 21

/-- Frame number, bits 20:9 (R33). -/
def frame (t : Tag) : Nat := bits t.toNat 20 9

/-- Local tag index, bits 8:0 (R33). -/
def ix (t : Tag) : Nat := bits t.toNat 8 0

/-- The tag with another index (R42, actions 1, 2 and 5). -/
def withIx (t : Tag) (i : Nat) : Tag := mk t.die t.frame i

end Tag

/-- Format field of a descriptor, bits 15:8 (R87). -/
def Desc.fmt (d : Desc) : Nat := bits d.toNat 15 8

/-- Scale byte of a descriptor, bits 7:0 (R87). -/
def Desc.scale (d : Desc) : Nat := bits d.toNat 7 0

/-- A descriptor from its format code and scale byte (R87). -/
def Desc.mk (fmt scale : Nat) : Desc := BitVec.ofNat 16 (fmt % 256 * 256 + scale % 256)

/-- A keyed list: sparse data, absent keys reading as a default the reader supplies. -/
abbrev AL (α β : Type) := List (α × β)

namespace AL
variable {α β : Type} [DecidableEq α]

/-- The entry of a key, if any. -/
def find? : AL α β → α → Option β
  | [], _ => none
  | (a, b) :: l, k => if a = k then some b else find? l k

/-- The value of a key, or the default. -/
def get (d : β) (l : AL α β) (k : α) : β := (find? l k).getD d

/-- Write one key: in place if it is listed, else at the end. -/
def set : AL α β → α → β → AL α β
  | [], k, v => [(k, v)]
  | (a, b) :: l, k, v => if a = k then (a, v) :: l else (a, b) :: set l k v

/-- Drop one key. -/
def del : AL α β → α → AL α β
  | [], _ => []
  | (a, b) :: l, k => if a = k then del l k else (a, b) :: del l k

end AL

end Sys2Proof
end

