-- ==== Sys2Proof/Syntax.lean ====
section
/-! DEFINITION. The instructions: one constructor for each row of the opcode table. An encoded node has its fields; a
step of the device that no node causes names the token, unit, access, partition or command it concerns. -/

namespace Sys2Proof

/-- Configuration-load refusals, Table 06-14 (R166). -/
inductive LoadStatus where
  | reservedOpcode | wrongUnit | reservedSelect | reservedTagAction | reservedModifier | badArc | badLiteral
  | extensionConflict | replicate | privileged | verifier
deriving DecidableEq, Repr

/-- The status code of Table 06-14. -/
def LoadStatus.code : LoadStatus → Nat
  | .reservedOpcode => 0x01 | .wrongUnit => 0x02 | .reservedSelect => 0x03 | .reservedTagAction => 0x04
  | .reservedModifier => 0x05 | .badArc => 0x06 | .badLiteral => 0x07 | .extensionConflict => 0x08
  | .replicate => 0x09 | .privileged => 0x0A | .verifier => 0x0B

/-- Source selects, Table 06-2 (R151): codes 4-7 are `fs`, codes 8-15 are `lit`. -/
inductive Src where
  | left | right | zero | ix
  | fs (k : BitVec 2)
  | lit (k : BitVec 3)
deriving DecidableEq, Repr

/-- Destination selects, Table 06-4 (R154); codes 10 to 13 are reserved. -/
inductive Dst where
  | arc (k : BitVec 3)
  | slot | ret | term | none
deriving DecidableEq, Repr

/-- Tag actions, Table 02-3 (R42). -/
inductive TagAct where
  | keep | up | into | frame | ret | clear | repl
deriving DecidableEq, Repr

/-- Integer widths, Table 06-5 (R155). -/
inductive Width where
  | i32 | i64 | i16x4 | i8x8
deriving DecidableEq, Repr

/-- Rounding modes, Table 03-3 (R81): nearest ties to even, toward zero, toward plus infinity, toward minus infinity. -/
inductive Rnd where
  | ne | rz | up | dn
deriving DecidableEq, Repr

/-- Conditions, Table 06-6 (R156); the last two are `ltu`, `leu` for integers and `un`, `ord` for floats. -/
inductive Cond where
  | eq | ne | lt | le | gt | ge | c6 | c7
deriving DecidableEq, Repr

/-- Scopes, Table 05-1 (R126), narrowest first. -/
inductive Scope where
  | elem | clu | strip | part | sys
deriving DecidableEq, Repr

/-- Unit kinds, the arc target kinds 0 to 4 of Table 06-8. -/
inductive UKind where
  | el | mp | ln | lmu | eng
deriving DecidableEq, Repr

/-- A unit: cluster number y*64+x, kind and number (R21). -/
structure UId where
  cl : Nat
  kind : UKind
  num : Nat
deriving DecidableEq, Repr

/-- Select fields of a node with two destinations (R150). -/
structure Nd where
  t : TagAct
  a : Src
  b : Src
  d : Dst
  e : Dst
deriving DecidableEq, Repr

/-- Select fields of a three-operand form (R153). -/
structure N3 where
  t : TagAct
  a : Src
  b : Src
  c : Src
  d : Dst
deriving DecidableEq, Repr

/-- A Headgate command entry (R371): `fn` is the issuing function, 0 the physical one. -/
structure Cmd where
  fn : Nat
  code : Nat
  tag : Nat
  rsvd : Nat
  buflen : Nat
  buf : Nat
  handle : Nat
  args : Nat
deriving DecidableEq, Repr

/-- What a remote operation does at its target (R289, R290). -/
inductive RemoteOp where
  | get (line : Bool)
  | put (line : Bool)
  | amo (op : Nat) (word : Bool)
deriving DecidableEq, Repr

/-- A remote request that reaches this device from a peer (R289, R398); `ord` says whether its node had an ordering input. -/
structure RemoteReq where
  peer : Nat
  win : Nat
  off : Nat
  op : RemoteOp
  data : LineData
  desc : Desc
  ord : Bool
deriving DecidableEq, Repr

/-- What comes back to a remote operation of this device: the data, or a remote fault (R289). -/
structure RemoteAnswer where
  ok : Bool
  data : LineData
  desc : Desc
deriving DecidableEq, Repr

/-- The instructions: 201 encoded nodes, then the 90 steps of the device without an encoding: what it does of itself, inputs
from outside, and Headgate commands. -/
inductive Instr where
  /-- `add` (R184). -/
  | add (n : Nd) (u : Bool) (s : Bool) (w : Width)
  /-- `sub` (R184). -/
  | sub (n : Nd) (u : Bool) (s : Bool) (w : Width)
  /-- `mul` (R184). -/
  | mul (n : Nd) (u : Bool) (s : Bool) (w : Width)
  /-- `mulhi` (R184). -/
  | mulhi (n : Nd) (u : Bool) (w : Width)
  /-- `div` (R184). -/
  | div (n : Nd) (u : Bool) (s : Bool) (w : Width)
  /-- `rem` (R184). -/
  | rem (n : Nd) (u : Bool) (w : Width)
  /-- `min` (R184). -/
  | min (n : Nd) (u : Bool) (w : Width)
  /-- `max` (R184). -/
  | max (n : Nd) (u : Bool) (w : Width)
  /-- `abs` (R184). -/
  | abs (n : Nd) (s : Bool) (w : Width)
  /-- `neg` (R184). -/
  | neg (n : Nd) (s : Bool) (w : Width)
  /-- `lea` (R185). -/
  | lea (n : Nd) (k : BitVec 2)
  /-- `mov` (R186). -/
  | mov (n : Nd) (w : Width)
  /-- `and` (R187). -/
  | and (n : Nd) (w : Width)
  /-- `or` (R187). -/
  | or (n : Nd) (w : Width)
  /-- `xor` (R187). -/
  | xor (n : Nd) (w : Width)
  /-- `andn` (R187). -/
  | andn (n : Nd) (w : Width)
  /-- `not` (R187). -/
  | not (n : Nd) (w : Width)
  /-- `shl` (R187). -/
  | shl (n : Nd) (w : Width)
  /-- `shr` (R187). -/
  | shr (n : Nd) (w : Width)
  /-- `sar` (R187). -/
  | sar (n : Nd) (w : Width)
  /-- `rotl` (R187). -/
  | rotl (n : Nd) (w : Width)
  /-- `clz` (R187). -/
  | clz (n : Nd) (w : Width)
  /-- `popc` (R187). -/
  | popc (n : Nd) (w : Width)
  /-- `bfx` (R188). -/
  | bfx (n : Nd) (u : Bool) (w : Bool)
  /-- `bfi` (R188). -/
  | bfi (n : N3) (w : Bool)
  /-- `cmp` (R189). -/
  | cmp (n : Nd) (w : Bool) (k : Cond)
  /-- `sel` (R190). -/
  | sel (n : N3)
  /-- `fadd.f32` (R191). -/
  | faddF32 (n : Nd) (f : Bool) (r : Rnd)
  /-- `fsub.f32` (R191). -/
  | fsubF32 (n : Nd) (f : Bool) (r : Rnd)
  /-- `fmul.f32` (R191). -/
  | fmulF32 (n : Nd) (f : Bool) (r : Rnd)
  /-- `fma.f32` (R96). -/
  | fmaF32 (n : N3) (f : Bool) (r : Rnd)
  /-- `fmin.f32` (R192). -/
  | fminF32 (n : Nd) (nm : Bool) (f : Bool)
  /-- `fmax.f32` (R192). -/
  | fmaxF32 (n : Nd) (nm : Bool) (f : Bool)
  /-- `fneg.f32` (R191). -/
  | fnegF32 (n : Nd) (f : Bool)
  /-- `fabs.f32` (R191). -/
  | fabsF32 (n : Nd) (f : Bool)
  /-- `fcmp.f32` (R193). -/
  | fcmpF32 (n : Nd) (k : Cond)
  /-- `frcp.f32` (R194). -/
  | frcpF32 (n : Nd) (f : Bool) (r : Rnd)
  /-- `fsqrt.f32` (R194). -/
  | fsqrtF32 (n : Nd) (f : Bool) (r : Rnd)
  /-- `fexp2.f32` (R194). -/
  | fexp2F32 (n : Nd) (f : Bool) (r : Rnd)
  /-- `flog2.f32` (R194). -/
  | flog2F32 (n : Nd) (f : Bool) (r : Rnd)
  /-- `fadd.bf16x4` (R191). -/
  | faddBf16x4 (n : Nd) (f : Bool) (r : Rnd)
  /-- `fsub.bf16x4` (R191). -/
  | fsubBf16x4 (n : Nd) (f : Bool) (r : Rnd)
  /-- `fmul.bf16x4` (R191). -/
  | fmulBf16x4 (n : Nd) (f : Bool) (r : Rnd)
  /-- `fma.bf16x4` (R96). -/
  | fmaBf16x4 (n : N3) (f : Bool) (r : Rnd)
  /-- `fmin.bf16x4` (R192). -/
  | fminBf16x4 (n : Nd) (nm : Bool) (f : Bool)
  /-- `fmax.bf16x4` (R192). -/
  | fmaxBf16x4 (n : Nd) (nm : Bool) (f : Bool)
  /-- `fneg.bf16x4` (R191). -/
  | fnegBf16x4 (n : Nd) (f : Bool)
  /-- `fabs.bf16x4` (R191). -/
  | fabsBf16x4 (n : Nd) (f : Bool)
  /-- `fcmp.bf16x4` (R193). -/
  | fcmpBf16x4 (n : Nd) (k : Cond)
  /-- `frcp.bf16x4` (R194). -/
  | frcpBf16x4 (n : Nd) (f : Bool) (r : Rnd)
  /-- `fsqrt.bf16x4` (R194). -/
  | fsqrtBf16x4 (n : Nd) (f : Bool) (r : Rnd)
  /-- `fexp2.bf16x4` (R194). -/
  | fexp2Bf16x4 (n : Nd) (f : Bool) (r : Rnd)
  /-- `flog2.bf16x4` (R194). -/
  | flog2Bf16x4 (n : Nd) (f : Bool) (r : Rnd)
  /-- `dot.bf16` (R195). -/
  | dotBf16 (n : N3) (f : Bool)
  /-- `fadd.e4x8` (R191). -/
  | faddE4x8 (n : Nd) (f : Bool) (r : Rnd)
  /-- `fsub.e4x8` (R191). -/
  | fsubE4x8 (n : Nd) (f : Bool) (r : Rnd)
  /-- `fmul.e4x8` (R191). -/
  | fmulE4x8 (n : Nd) (f : Bool) (r : Rnd)
  /-- `fmin.e4x8` (R192). -/
  | fminE4x8 (n : Nd) (nm : Bool) (f : Bool)
  /-- `fmax.e4x8` (R192). -/
  | fmaxE4x8 (n : Nd) (nm : Bool) (f : Bool)
  /-- `fcmp.e4x8` (R193). -/
  | fcmpE4x8 (n : Nd) (k : Cond)
  /-- `dot.e4x8` (R195). -/
  | dotE4x8 (n : N3) (f : Bool)
  /-- `fadd.e5x8` (R191). -/
  | faddE5x8 (n : Nd) (f : Bool) (r : Rnd)
  /-- `fsub.e5x8` (R191). -/
  | fsubE5x8 (n : Nd) (f : Bool) (r : Rnd)
  /-- `fmul.e5x8` (R191). -/
  | fmulE5x8 (n : Nd) (f : Bool) (r : Rnd)
  /-- `fmin.e5x8` (R192). -/
  | fminE5x8 (n : Nd) (nm : Bool) (f : Bool)
  /-- `fmax.e5x8` (R192). -/
  | fmaxE5x8 (n : Nd) (nm : Bool) (f : Bool)
  /-- `fcmp.e5x8` (R193). -/
  | fcmpE5x8 (n : Nd) (k : Cond)
  /-- `dot.e5x8` (R195). -/
  | dotE5x8 (n : N3) (f : Bool)
  /-- `cvt.i64` (R196). -/
  | cvtI64 (n : Nd) (u : Bool) (f : Bool) (r : Rnd)
  /-- `cvt.i32` (R196). -/
  | cvtI32 (n : Nd) (u : Bool) (f : Bool) (r : Rnd)
  /-- `cvt.i16x4` (R196). -/
  | cvtI16x4 (n : Nd) (u : Bool) (f : Bool) (r : Rnd)
  /-- `cvt.i8x8` (R196). -/
  | cvtI8x8 (n : Nd) (u : Bool) (f : Bool) (r : Rnd)
  /-- `cvt.f32` (R196). -/
  | cvtF32 (n : Nd) (u : Bool) (f : Bool) (r : Rnd)
  /-- `cvt.bf16x4` (R196). -/
  | cvtBf16x4 (n : Nd) (u : Bool) (f : Bool) (r : Rnd)
  /-- `cvt.e4x8` (R196). -/
  | cvtE4x8 (n : Nd) (u : Bool) (f : Bool) (r : Rnd)
  /-- `cvt.e5x8` (R196). -/
  | cvtE5x8 (n : Nd) (u : Bool) (f : Bool) (r : Rnd)
  /-- `cvt.qn4x16` (R198). -/
  | cvtQn4x16 (n : Nd) (u : Bool) (f : Bool) (r : Rnd)
  /-- `scl` (R199). -/
  | scl (n : Nd) (f : Bool) (r : Rnd)
  /-- `uscl` (R199). -/
  | uscl (n : Nd) (f : Bool) (r : Rnd)
  /-- `pack` (R200). -/
  | pack (n : Nd) (k : BitVec 4)
  /-- `unpk` (R200). -/
  | unpk (n : Nd) (k : BitVec 4)
  /-- `switch` (R201). -/
  | switch (n : Nd)
  /-- `merge` (R202). -/
  | merge (n : Nd)
  /-- `dup` (R203). -/
  | dup (n : Nd)
  /-- `gate` (R206). -/
  | gate (n : Nd)
  /-- `sink` (R201). -/
  | sink (n : Nd)
  /-- `fcomp` (R204). -/
  | fcomp (n : Nd)
  /-- `steer` (R205). -/
  | steer (n : Nd)
  /-- `ojoin` (R207). -/
  | ojoin (n : Nd)
  /-- `talloc` (R44). -/
  | talloc (n : Nd)
  /-- `tfree` (R45). -/
  | tfree (n : Nd)
  /-- `falloc` (R50). -/
  | falloc (n : Nd)
  /-- `ffree` (R54). -/
  | ffree (n : Nd)
  /-- `call` (R209). -/
  | call (n : Nd)
  /-- `ret` (R210). -/
  | ret (n : Nd)
  /-- `fbcast` (R52). -/
  | fbcast (n : Nd)
  /-- `tagv` (R211). -/
  | tagv (n : Nd)
  /-- `ld.b` (R219). -/
  | ldB (n : Nd) (x : Bool) (s : Scope)
  /-- `ld.h` (R219). -/
  | ldH (n : Nd) (x : Bool) (s : Scope)
  /-- `ld.w` (R219). -/
  | ldW (n : Nd) (x : Bool) (s : Scope)
  /-- `ld.d` (R219). -/
  | ldD (n : Nd) (p : Bool) (s : Scope)
  /-- `st.b` (R220). -/
  | stB (n : Nd) (s : Scope)
  /-- `st.h` (R220). -/
  | stH (n : Nd) (s : Scope)
  /-- `st.w` (R220). -/
  | stW (n : Nd) (s : Scope)
  /-- `st.d` (R220). -/
  | stD (n : Nd) (s : Scope)
  /-- `ld.acq` (R136). -/
  | ldAcq (n : Nd) (w : Bool) (s : Scope)
  /-- `st.rel` (R136). -/
  | stRel (n : Nd) (w : Bool) (s : Scope)
  /-- `ldl` (R222). -/
  | ldl (n : Nd) (s : Scope)
  /-- `stl` (R223). -/
  | stl (n : Nd) (s : Scope)
  /-- `stlm` (R224). -/
  | stlm (n : Nd) (s : Scope)
  /-- `ldd` (R225). -/
  | ldd (n : Nd) (s : Scope)
  /-- `std` (R225). -/
  | std (n : Nd) (s : Scope)
  /-- `pf` (R226). -/
  | pf (n : Nd)
  /-- `aadd` (R227). -/
  | aadd (n : Nd) (w : Bool) (s : Scope)
  /-- `aand` (R227). -/
  | aand (n : Nd) (w : Bool) (s : Scope)
  /-- `aor` (R227). -/
  | aor (n : Nd) (w : Bool) (s : Scope)
  /-- `axor` (R227). -/
  | axor (n : Nd) (w : Bool) (s : Scope)
  /-- `amin` (R227). -/
  | amin (n : Nd) (w : Bool) (s : Scope)
  /-- `amax` (R227). -/
  | amax (n : Nd) (w : Bool) (s : Scope)
  /-- `aswp` (R227). -/
  | aswp (n : Nd) (w : Bool) (s : Scope)
  /-- `acas` (R229). -/
  | acas (n : Nd) (w : Bool) (s : Scope)
  /-- `afadd` (R228). -/
  | afadd (n : Nd) (w : Bool) (s : Scope)
  /-- `fence.pub` (R136). -/
  | fencePub (n : Nd) (s : Scope)
  /-- `fence.acq` (R136). -/
  | fenceAcq (n : Nd) (s : Scope)
  /-- `strm` (R232). -/
  | strm (n : Nd) (s : Scope)
  /-- `vadd` (R258). -/
  | vadd (n : Nd) (x : Bool) (f : Bool) (r : Rnd)
  /-- `vsub` (R258). -/
  | vsub (n : Nd) (x : Bool) (f : Bool) (r : Rnd)
  /-- `vmul` (R258). -/
  | vmul (n : Nd) (x : Bool) (f : Bool) (r : Rnd)
  /-- `vfma` (R258). -/
  | vfma (n : Nd) (f : Bool) (r : Rnd)
  /-- `vmin` (R258). -/
  | vmin (n : Nd) (nm : Bool) (f : Bool) (r : Rnd)
  /-- `vmax` (R258). -/
  | vmax (n : Nd) (nm : Bool) (f : Bool) (r : Rnd)
  /-- `vabs` (R258). -/
  | vabs (n : Nd) (x : Bool) (f : Bool) (r : Rnd)
  /-- `vneg` (R258). -/
  | vneg (n : Nd) (x : Bool) (f : Bool) (r : Rnd)
  /-- `vexp2` (R258). -/
  | vexp2 (n : Nd) (f : Bool) (r : Rnd)
  /-- `vlog2` (R258). -/
  | vlog2 (n : Nd) (f : Bool) (r : Rnd)
  /-- `vrcp` (R258). -/
  | vrcp (n : Nd) (f : Bool) (r : Rnd)
  /-- `vrsqrt` (R258). -/
  | vrsqrt (n : Nd) (f : Bool) (r : Rnd)
  /-- `vcmp` (R259). -/
  | vcmp (n : Nd) (k : Cond)
  /-- `vsel` (R258). -/
  | vsel (n : Nd) (m : BitVec 3)
  /-- `vand` (R258). -/
  | vand (n : Nd) (m : BitVec 3)
  /-- `vor` (R258). -/
  | vor (n : Nd) (m : BitVec 3)
  /-- `vxor` (R258). -/
  | vxor (n : Nd) (m : BitVec 3)
  /-- `vshl` (R258). -/
  | vshl (n : Nd) (m : BitVec 3)
  /-- `vshr` (R258). -/
  | vshr (n : Nd) (u : Bool) (m : BitVec 3)
  /-- `vcvt` (R260). -/
  | vcvt (n : Nd) (f : Bool) (r : Rnd)
  /-- `vscl` (R261). -/
  | vscl (n : Nd) (f : Bool) (r : Rnd)
  /-- `vbcast` (R262). -/
  | vbcast (n : Nd) (m : BitVec 3)
  /-- `vext` (R262). -/
  | vext (n : Nd) (m : BitVec 3)
  /-- `vperm` (R262). -/
  | vperm (n : Nd) (m : BitVec 3)
  /-- `rsum` (R263). -/
  | rsum (n : Nd) (m : BitVec 2)
  /-- `rmin` (R263). -/
  | rmin (n : Nd) (nm : Bool) (x : Bool) (m : BitVec 2)
  /-- `rmax` (R263). -/
  | rmax (n : Nd) (nm : Bool) (x : Bool) (m : BitVec 2)
  /-- `racc` (R264). -/
  | racc (n : Nd) (f : Bool) (r : Rnd)
  /-- `lm.claim` (R269). -/
  | lmClaim (n : Nd)
  /-- `lm.release` (R270). -/
  | lmRelease (n : Nd)
  /-- `lm.fill` (R273). -/
  | lmFill (n : Nd)
  /-- `lm.build` (R271). -/
  | lmBuild (n : Nd) (x : Bool)
  /-- `lm.arm` (R274). -/
  | lmArm (n : Nd) (l : Bool) (c : Bool)
  /-- `lm.look` (R275). -/
  | lmLook (n : Nd) (k : BitVec 3) (p : Bool)
  /-- `lm.direct` (R277). -/
  | lmDirect (n : Nd) (f : BitVec 2)
  /-- `lm.drain` (R278). -/
  | lmDrain (n : Nd) (x : Bool) (s : Scope)
  /-- `lm.spill` (R279). -/
  | lmSpill (n : Nd) (s : Scope)
  /-- `lm.reload` (R280). -/
  | lmReload (n : Nd) (s : Scope)
  /-- `lm.stat` (R281). -/
  | lmStat (n : Nd)
  /-- `cp` (R286). -/
  | cp (n : Nd) (s : Scope)
  /-- `nm.add` (R287). -/
  | nmAdd (n : Nd) (s : Scope)
  /-- `nm.axpy` (R287). -/
  | nmAxpy (n : Nd) (s : Scope)
  /-- `nm.scl` (R287). -/
  | nmScl (n : Nd) (s : Scope)
  /-- `nm.cvt` (R287). -/
  | nmCvt (n : Nd) (s : Scope)
  /-- `xr.get` (R290). -/
  | xrGet (n : Nd) (k : Bool) (l : Bool)
  /-- `xr.put` (R290). -/
  | xrPut (n : Nd) (l : Bool)
  /-- `xr.amo` (R290). -/
  | xrAmo (n : Nd) (w : Bool) (o : BitVec 3)
  /-- `cv.in` (R292). -/
  | cvIn (n : Nd)
  /-- `cv.out` (R292). -/
  | cvOut (n : Nd)
  /-- `cv.open` (R291). -/
  | cvOpen (n : Nd) (x : Bool) (nm : Bool)
  /-- `cv.close` (R291). -/
  | cvClose (n : Nd) (x : Bool)
  /-- `spawn` (R243). -/
  | spawn (n : Nd)
  /-- `suspend` (R242). -/
  | suspend (n : Nd)
  /-- `jinit` (R240). -/
  | jinit (n : Nd) (s : Scope)
  /-- `jarrive` (R241). -/
  | jarrive (n : Nd) (s : Scope)
  /-- `bar.arrive` (R246). -/
  | barArrive (n : Nd) (s : Scope)
  /-- `bar.wait` (R247). -/
  | barWait (n : Nd) (s : Scope)
  /-- `q.push` (R249). -/
  | qPush (n : Nd) (s : Scope)
  /-- `q.pop` (R249). -/
  | qPop (n : Nd) (p : Bool) (s : Scope)
  /-- `launch` (R245). -/
  | launch (n : Nd) (s : Scope)
  /-- `cut` (R250). -/
  | cut (n : Nd)
  /-- `trap` (R297). -/
  | trap (n : Nd) (k : BitVec 4)
  /-- `brk` (R298). -/
  | brk (n : Nd)
  /-- `rdctr` (R299). -/
  | rdctr (n : Nd) (k : BitVec 4)
  /-- `csr.rd` (R315). -/
  | csrRd (n : Nd)
  /-- `csr.wr` (R315). -/
  | csrWr (n : Nd)
  /-- `publish` (R403). -/
  | publish (n : Nd)
  /-- `hg.take` (R382). -/
  | hgTake (n : Nd)
  /-- `hg.post` (R382). -/
  | hgPost (n : Nd)
  /-- `hg.quote` (R382). -/
  | hgQuote (n : Nd)
  /-- `scrub.zero` (R382). -/
  | scrubZero (n : Nd)
  /-- `scrub.wait` (R382). -/
  | scrubWait (n : Nd)
  /-- `gate.src.close` (R363). -/
  | gateSrcClose (n : Nd)
  /-- `gate.src.open` (R365). -/
  | gateSrcOpen (n : Nd)
  /-- `gate.src.freeze` (R363). -/
  | gateSrcFreeze (n : Nd)
  /-- `gate.src.evict` (R363). -/
  | gateSrcEvict (n : Nd)
  /-- TOKEN_ARRIVAL (R37). -/
  | tokenArrival (i : Nat)
  /-- BREAKPOINT_HALT (R386). -/
  | breakpointHalt (rid : Nat)
  /-- SLUICE_DROP (R317). -/
  | sluiceDrop (i : Nat)
  /-- CONFIG_PACKET (R164). -/
  | configPacket (i : Nat)
  /-- CONFIG_SEAL (R165). -/
  | configSeal (i : Nat)
  /-- FRAME_COPY_ROOM_FREED (R53). -/
  | frameCopyRoomFreed (cl : Nat)
  /-- LAST_COPY_RELEASED (R54). -/
  | lastCopyReleased (rid : Nat) (die : Nat) (fr : Nat)
  /-- RECORD_DISPATCH (R62). -/
  | recordDispatch (cl : Nat)
  /-- PARK_WAIT_END (R60). -/
  | parkWaitEnd (u : UId)
  /-- SPILL_ROOM_FREED (R61). -/
  | spillRoomFreed (rid : Nat)
  /-- SPILL_WATCHDOG (R357). -/
  | spillWatchdog (rid : Nat)
  /-- SINK_TOKEN_ARRIVAL (R58). -/
  | sinkTokenArrival (i : Nat)
  /-- MEMORY_ACCESS_PERFORMED (R129). -/
  | memoryAccessPerformed (u : UId) (id : Nat)
  /-- UN_STORE_DRAIN_TIMEOUT (R134). -/
  | unStoreDrainTimeout (cl : Nat) (k : Nat)
  /-- READ_BUFFER_EXPIRY (R135). -/
  | readBufferExpiry (u : UId) (line : Nat)
  /-- PAGE_WALK_COMPLETE (R340). -/
  | pageWalkComplete (u : UId) (id : Nat)
  /-- HELD_ACCESS_WAKE (R345). -/
  | heldAccessWake (u : UId) (id : Nat)
  /-- MIGRATION_WAIT_END (R348). -/
  | migrationWaitEnd (u : UId) (id : Nat)
  /-- SIDE_LOG_REPLAY (R236). -/
  | sideLogReplay (u : UId)
  /-- SIDE_LOG_WAIT_END (R237). -/
  | sideLogWaitEnd (u : UId)
  /-- STREAM_LINE (R233). -/
  | streamLine (u : UId) (sc : Nat)
  /-- TILE_LINE_ARRIVAL (R113). -/
  | tileLineArrival (i : Nat)
  /-- TILE_DRAIN_END (R113). -/
  | tileDrainEnd (cl : Nat) (k : Nat)
  /-- FENCE_DRAIN_COMPLETE (R136). -/
  | fenceDrainComplete (u : UId) (id : Nat)
  /-- INTERVAL_COMMIT_COMPLETE (R147). -/
  | intervalCommitComplete (u : UId) (id : Nat)
  /-- ENGINE_OPERATION_COMPLETE (R138). -/
  | engineOperationComplete (u : UId) (id : Nat)
  /-- CV_IN_COMPLETE (R292). -/
  | cvInComplete (u : UId) (id : Nat)
  /-- BARRIER_EVENT (R247). -/
  | barrierEvent (cl : Nat) (k : Nat)
  /-- CLAIM_CLEAR_COMPLETE (R269). -/
  | claimClearComplete (cl : Nat) (bank : Nat)
  /-- LM_BUILD_COMPLETE (R271). -/
  | lmBuildComplete (cl : Nat)
  /-- PASS_TILE_USE (R276). -/
  | passTileUse (cl : Nat)
  /-- LM_DRAIN_LINE (R278). -/
  | lmDrainLine (cl : Nat)
  /-- GRANT_IDLE_RETURN (R332). -/
  | grantIdleReturn (u : UId)
  /-- SLOT_BOUNDARY (R322). -/
  | slotBoundary (p : Nat)
  /-- FORCED_PREEMPTION (R323). -/
  | forcedPreemption (p : Nat)
  /-- PHASE_BOUNDARY_SAVE (R359). -/
  | phaseBoundarySave (rid : Nat)
  /-- QUIESCENCE_REPORT (R360). -/
  | quiescenceReport (rid : Nat)
  /-- HOLDER_CHANGE (R323). -/
  | holderChange (p : Nat)
  /-- QUEUE_NOTIFY (R326). -/
  | queueNotify (p : Nat) (qid : Nat)
  /-- FAULT_RING_ROOM (R351). -/
  | faultRingRoom (p : Nat)
  /-- SCRUB_UNIT_DONE (R409). -/
  | scrubUnitDone (p : Nat)
  /-- CLUSTER_WAKE_START (R389). -/
  | clusterWakeStart (cl : Nat)
  /-- CLUSTER_WAKE_END (R389). -/
  | clusterWakeEnd (cl : Nat)
  /-- RESERVED_FKIND_FLIT (R162). -/
  | reservedFkindFlit (cl : Nat) (hdr : BitVec 128)
  /-- CONFIG_WORD_UNCORRECTABLE (R354). -/
  | configWordUncorrectable (u : UId)
  /-- XR_GET_RETURN (R290). -/
  | xrGetReturn (u : UId) (id : Nat) (ans : RemoteAnswer)
  /-- REMOTE_REQUEST_ARRIVAL (R289). -/
  | remoteRequestArrival (r : RemoteReq)
  /-- REGISTER_WRITE (R315). -/
  | registerWrite (p : Nat) (num : Nat) (v : Nat)
  /-- HG_CMDTAIL_WRITE (R370). -/
  | hgCmdtailWrite (fn : Nat) (v : Word)
  /-- HG_CMDSTAT_READ (R370). -/
  | hgCmdstatRead (fn : Nat)
  /-- HG_RECOVERY_WRITE (R393). -/
  | hgRecoveryWrite (v : Word) (len : BitVec 32)
  /-- KN_DEVNUM_WRITE (R397). -/
  | knDevnumWrite (v : Word)
  /-- KN_ROUTE_WRITE (R397). -/
  | knRouteWrite (k : Nat) (v : Word)
  /-- HOST_WINDOW_READ (R378). -/
  | hostWindowRead (fn : Nat) (off : Nat) (len : Nat)
  /-- HOST_WINDOW_WRITE (R378). -/
  | hostWindowWrite (fn : Nat) (off : Nat) (data : List Byte)
  /-- RESET (R418). -/
  | reset
  /-- KNANOLO_FLIT_AUTH_FAILURE (R396). -/
  | knanoloFlitAuthFailure (port : Nat)
  /-- SYNC_MESSAGE (R399). -/
  | syncMessage (t : Nat)
  /-- DRIVE_FAILURE (R395). -/
  | driveFailure (drive : Nat)
  /-- PART_SET (R313). -/
  | partSet (c : Cmd)
  /-- CAL_SET (R319). -/
  | calSet (c : Cmd)
  /-- VD_CREATE (R374). -/
  | vdCreate (c : Cmd)
  /-- VD_DESTROY (R371). -/
  | vdDestroy (c : Cmd)
  /-- CTX_CREATE (R375). -/
  | ctxCreate (c : Cmd)
  /-- CODE_LOAD (R403). -/
  | codeLoad (c : Cmd)
  /-- SCHED (R371). -/
  | sched (c : Cmd)
  /-- LAUNCH_CMD (R334). -/
  | launchCmd (c : Cmd)
  /-- PAUSE (R371). -/
  | pause (c : Cmd)
  /-- RESUME (R371). -/
  | resume (c : Cmd)
  /-- EVICT (R371). -/
  | evict (c : Cmd)
  /-- RESTORE (R365). -/
  | restore (c : Cmd)
  /-- TEARDOWN (R383). -/
  | teardown (c : Cmd)
  /-- WIN_OPEN (R398). -/
  | winOpen (c : Cmd)
  /-- WIN_CLOSE (R371). -/
  | winClose (c : Cmd)
  /-- ATTEST (R380). -/
  | attest (c : Cmd)
  /-- DEBUG_SET (R385). -/
  | debugSet (c : Cmd)
  /-- DEBUG_CLEAR (R385). -/
  | debugClear (c : Cmd)
  /-- DEBUG_STEP (R386). -/
  | debugStep (c : Cmd)
  /-- DEBUG_RESUME (R386). -/
  | debugResume (c : Cmd)
  /-- DEBUG_HALT (R386). -/
  | debugHalt (c : Cmd)
  /-- DEBUG_READ (R391). -/
  | debugRead (c : Cmd)
  /-- DEBUG_RELEASE (R63). -/
  | debugRelease (c : Cmd)
  /-- POWER (R388). -/
  | power (c : Cmd)
  /-- UNASSIGNED_COMMAND (R371). -/
  | unassignedCommand (c : Cmd)
  /-- POWER_GOOD (R392). -/
  | powerGood
  /-- RECOVERY_FETCH_DONE (R393). -/
  | recoveryFetchDone (readError : Bool)
  /-- TIME_SYNC_LOSS (R399). -/
  | timeSyncLoss
  /-- CULVERT_DELETION_COMPLETE (R291). -/
  | culvertDeletionComplete (oid : Nat)
  /-- CLUSTER_POWER_GATE (R388). -/
  | clusterPowerGate (cl : Nat)
  /-- BANK_POWER_GATE (R389). -/
  | bankPowerGate (cl : Nat) (bank : Nat)
deriving DecidableEq, Repr

end Sys2Proof
end

