-- ==== Sys2Proof/Config.lean ====
section
/-! DEFINITION. The free values: what the spec leaves to the implementation or does not state. Each is a constant with no
body, so nothing can be proved of its value. The assumption log names every one. -/

namespace Sys2Proof.Config

/-- Clock counts that pass in one step of the model; latencies are left out (log 2). -/
opaque elapsed : Nat → Nat

/-- Which of the moves that are enabled is made next, when no input is pending (log 13). -/
opaque choose : Nat → Nat

/-- Whether a plain load that may be served from a read buffer is so served (R135; log 14). -/
opaque useBuffer : Nat → Bool

/-- A byte of HBM that was not written under the keys and tweak of its reader, or not since the last reset: its place, the
reader's slot, generation and tweak, how the 16 bytes of its cipher block are encrypted, and what they hold (R376, R414,
R418; log 3). -/
opaque hbmByte : Nat → List Nat → List Nat → Nat → Byte

/-- Where the copy of a frame stands in the frame class of a cluster, by region, die and frame, and where a parked record
stands there, by its name: which pool lines an uncorrectable error of it can be in (R48, R60, R355; log 61). -/
opaque copyPlace : Nat → Nat → Nat → Nat → Nat
/-- The place of a parked record in the frame class of a cluster. -/
opaque recordPlace : Nat → Nat → Nat

/-- The number of the next Culvert handle that is issued, where it is free (R283, R291; log 52). -/
opaque handleNo : Nat → Nat

/-- Which of the lines left a copy performs next (R139, R286; log 15). -/
opaque copyOrder : Nat → Nat

/-- Whether a signature is good: RSA-3072 (1) and SLH-DSA (2), under a public key, over a body, with a signature (R374, R379;
log 17). -/
opaque sigGood : Nat → List Byte → List Byte → List Byte → Bool

/-- Signature bytes the Headgate makes, RSA (1) and SLH-DSA (2), under the key that it derives at boot from the device secret
and a firmware measurement, with a salt, over a body (R380; log 17). -/
opaque sign : Nat → Nat → Nat → List Byte → List Byte

/-- The seven keys of a key blob, or none where it does not unwrap: with the key-encapsulation key of a boot, and the tenant
identity as info (R375; log 17). -/
opaque unwrapKeys : Nat → Nat → List Byte → Option (List Nat)

/-- The keys of the slot that a supervisor region is given, by what is drawn (R314, R371; log 17). -/
opaque drawnKeys : Nat → List Nat

/-- What the Headgate draws at random (R377; log 17). -/
opaque random : Nat → Nat

/-- The key that HKDF-SHA384 makes of an image key and the device secret (R377; log 17). -/
opaque deviceKey : Nat → Nat

/-- AES-256-GCM under a key with a nonce, of authenticated data and a body: the tag, 16 bytes, and the ciphertext (R377;
log 17). -/
opaque gcmSeal : Nat → Nat → List Byte → List Byte → List Byte

/-- The body that a sealed image holds, from its key, nonce, and tag and ciphertext, with the image's own header line as
authenticated data; none where authentication fails (R377; log 17). -/
opaque imageOpen : Nat → Nat → List Byte → Option (List Byte)

/-- The handle word of a kind and number under the handle key of a boot (R368; log 17). -/
opaque handleWord : Nat → Nat → Nat → Nat

/-- A window line under the window keys, for a tweak, and back (R377, R378; log 17). -/
opaque windowSeal : List Nat → Nat → Nat → Nat
/-- The plaintext of a window line (R377, R378; log 17). -/
opaque windowOpen : List Nat → Nat → Nat → Nat

/-- A host buffer decrypted under the window keys (R371; log 17). -/
opaque bufferOpen : List Nat → List Byte → List Byte

/-- The lowest firmware version that the fuses admit (R379, R392; log 20). -/
opaque fuseVersion : Nat

/-- The hashes of Precen's public keys in the fuses, RSA (1) and SLH-DSA (2) (R379, R392; log 20). -/
opaque fuseKeyHash : Nat → Nat

/-- The parts of a firmware image, whose layout the spec does not give: what is signed (0), the public keys (1, 2), the
signatures (3, 4) (R379; log 20). -/
opaque firmwarePart : Nat → List Byte → List Byte

/-- Whether a step of Table 15-1 other than the check of the image succeeds at a boot (R392; log 20). -/
opaque bootStep : Nat → Nat → Bool

/-- Version of a firmware image (R379; log 20). -/
opaque firmwareVersion : List Byte → Nat

/-- Retired mask of a firmware image (R405; log 20). -/
opaque firmwareRetired : List Byte → Nat

/-- The supervisor region's code object for a firmware version and a supervisor cluster: its bytes (R314; log 20). -/
opaque supervisorBody : Nat → Nat → List Byte
/-- The descriptors of the supervisor region's code object (R314; log 20). -/
opaque supervisorDescs : Nat → Nat → List Desc
/-- The supervisor region's control block in a partition (R314; log 20). -/
opaque supervisorBlock : Nat → Nat → Nat
/-- The block of level 1 (partition) or 2 (virtual device) that the Headgate writes, where it is admissible (R329, R331;
log 43). -/
opaque headgateBlock : Nat → Nat → Nat
/-- The supervisor region's entry record (R314; log 20). -/
opaque supervisorEntry : Nat → Nat

/-- The tag spaces of a region of a code object, as pairs (K, parent number, 0 for none), in declaration order; Table
15-5 has no field for them (R43; log 18). -/
opaque tagSpaces : List Byte → Nat → List (Nat × Nat)

/-- The frame slots a region of a code object declares (R152, R175; log 18). -/
opaque frameSlots : List Byte → Nat → Nat

/-- The innermost tag space that encloses a node of a region of a code object, 0 for none, as the verifier finds it: unit
and slot (R69, item 4; log 19). -/
opaque enclosing : List Byte → Nat → UId → Nat → Nat

/-- The arcs into one side of a node that can deliver a token under one tag before it fires, as the verifier counts them
(R69, item 4; log 19). -/
opaque sideArcs : List Byte → Nat → UId → Nat → Nat

/-- Whether a region meets items 1 and 2 of the verifier, which look at paths through the graph (R69; log 19). -/
opaque verified : List Byte → Nat → Bool

/-- A content line of a context image: its save and its place in the image; Table 13-10 lays out no section (R364;
log 11). -/
opaque imageLine : Nat → Nat → Nat

/-- Whether the link of a Knanolo port comes up at a boot (R392, R396; log 10). -/
opaque linkTrained : Nat → Nat → Bool

/-- The Culvert drive that holds a page of an object (R395; log 9). -/
opaque driveOf : Nat → Nat → Nat

/-- SHA3-384 of the key-encapsulation public key of a boot (R380; log 21). -/
opaque kemKey : Nat → Nat

/-- SHA3-384 of the device identity public keys (R380; log 21). -/
opaque deviceId : Nat

end Sys2Proof.Config
end

