-- ==== Sys2Proof/Machine/State.lean ====
section
/-! DEFINITION. The state of the device: plain data, every piece of state that the spec names. Sparse parts are keyed
lists, an absent key reading as the default. -/

namespace Sys2Proof.Machine

open Sys2Proof

/-! ### Tokens -/

/-- Token types, Table 02-2 (R34). -/
inductive TType where
  | i64 | i32 | u64 | f32 | bf16x4 | i16x4 | e4x8 | e5x8 | i8x8 | qn4x16 | tagix | handle | control | marker
deriving DecidableEq, Repr

/-- A scalar value: 64 bits, type, scaled bit (R33). -/
structure Scalar where
  val : Word
  ty : TType
  sc : Bool
deriving DecidableEq, Repr

/-- What a token carries: a scalar, or a 64-byte line with its descriptor; `src` is the source type of a broadcast line
(R161). -/
inductive Payload where
  | scal (x : Scalar)
  | line (data : LineData) (desc : Desc) (src : Option TType)
deriving DecidableEq, Repr

/-- The side of a slot a token goes to. `ord` and `exp` are the left and right side of its extension slot (R157, R229). -/
inductive Side where
  | left | right | ord | exp
deriving DecidableEq, Repr

/-- A token on its way (R160, R161): the sending unit and arc, the target cluster, the target kind, unit, slot and side
of Table 06-8, and the region whose token it is, the number of the issue of the firing that sent it (R52), and the clock in
which it leaves its unit (R179). -/
structure Flit where
  src : UId
  arc : Nat
  rid : Nat
  cl : Nat
  kind : Nat
  unit : Nat
  slot : Nat
  side : Bool
  pay : Payload
  tag : Tag
  seq : Nat
  depart : Nat
deriving DecidableEq, Repr

/-- A configuration packet on its way (R163): target cluster, kind 0 to 5 and unit, and the 64 bytes of its line. -/
structure Packet where
  cl : Nat
  kind : Nat
  unit : Nat
  rid : Nat
  line : LineData
deriving DecidableEq, Repr

/-- A matched firing (R37, R40): slot, region, tag, and the tokens of the sides it consumed. `stage` counts what a
firing that waits inside its own effect has done already (a copy's lines, an allocated frame), `formedAt` is the clock at
which its match formed (R40), and `seq` the number of its issue among those of the device, from which R52 tells the later
of two writes. -/
structure Firing where
  slot : Nat
  rid : Nat
  tag : Tag
  l : Option Payload
  r : Option Payload
  o : Option Payload
  x : Option Payload
  stage : Nat
  formedAt : Nat
  seq : Nat
deriving DecidableEq, Repr

/-- An entry of a matching store (R37, R38). -/
structure MatchEntry where
  slot : Nat
  side : Side
  tag : Tag
  rid : Nat
  pay : Payload
  spilled : Bool
deriving DecidableEq, Repr

/-! ### Units -/

/-- The state of an issued access or engine operation (R215, R234, R237, R238, R149): waiting to be performed, on a page
walk, held at a page fault, waiting for side-log room, waiting on a migrating page, accepted with its store on the way,
parked with its work done elsewhere, waiting for room for a record (R60, R61), or with its child, peer or flash (R138). -/
inductive AccSt where
  | queued | walking | held | sideWait | migrating | accepted | parking | spill | flight
deriving DecidableEq, Repr

/-- An issued access of a memory port, or an issued operation of an engine port: the node it came from, its firing, for
a line read of a stream its context, and for a waiting access the page-table line it waits on (R345). -/
structure Access where
  id : Nat
  i : Instr
  f : Firing
  st : AccSt
  stream : Option Nat
  wline : Option Nat
  woken : Bool
  aux : Nat
deriving DecidableEq, Repr

/-- A stream context (R231, R232): descriptor, scope, position, the page-table line it waits on, be it held at an absent page
or waiting on one that migrates, and in `ahead` the lines whose reads it has issued and that it has not sent, in the order
of the loops, none where the read is not complete (R233). -/
structure Stream where
  desc : LineData
  f : Firing
  i : Instr
  jpos : Nat
  ipos : Nat
  started : Bool
  wline : Option Nat
  held : Bool
  ahead : List (Option (LineData × Desc))
deriving DecidableEq, Repr

/-- A line of a read buffer (R135): the key of its first byte in memory, its data and descriptor, and when it came. -/
structure RbLine where
  key : Nat
  data : LineData
  desc : Desc
  since : Nat
deriving DecidableEq, Repr

/-- A TLB entry (R342): context, page base and size in device virtual space, leaf entry and the lines it was read from. -/
structure TlbEntry where
  cx : Nat
  base : Nat
  size : Nat
  leaf : Nat
  lines : List Nat
deriving DecidableEq, Repr

/-- A side-log entry, Table 08-6 (R235), with its node and firing, and the page-table line it waits on (R345). -/
structure SideEntry where
  word : BitVec 640
  i : Instr
  f : Firing
  wline : Nat
  woken : Bool
deriving DecidableEq, Repr

/-- A unit: an element, memory port, line unit, lookup matrix unit or engine port. -/
structure HwUnit where
  /-- node words by slot, each with the region it belongs to (R150) -/
  words : AL Nat (BitVec 32 × Nat)
  /-- literal entries (R152) -/
  lits : AL Nat Word
  /-- arc entries (R158) -/
  arcs : AL Nat (BitVec 32)
  /-- unit flags word (R159) -/
  flags : Word
  /-- whether the part is complete (R165) -/
  complete : Bool
  /-- entries received for the part that is being loaded: pkind, index, bytes (R165) -/
  rcv : List (Nat × Nat × List Byte)
  /-- a packet of this part broke a rule of R163 or R164 -/
  rcvBad : Bool
  /-- the part is being sent again, which freezes its region (R165, R354) -/
  reload : Bool
  /-- failed sends of the part (R165) -/
  fails : Nat
  /-- an uncorrectable word began that, so that a record is due when the part is complete (R354) -/
  wordLost : Bool
  store : List MatchEntry
  ready : List Firing
  formed : List Firing
  ingress : List Flit
  /-- the sending unit and arc of the token for which the unit has no room; until it has, it accepts no other (R39) -/
  refused : Option (UId × Nat)
  withheld : List (Nat × Firing)
  fired : Nat
  ovDiscard : Nat
  grantWait : Nat
  rebuilds : Nat
  grant : Option Nat
  grantIdle : Nat
  /-- the region whose grant it returned last, and when (R299, R332) -/
  returned : Option (Nat × Nat)
  access : List Access
  streams : AL Nat Stream
  readBuf : List RbLine
  tlb : List TlbEntry
  sideLog : List SideEntry
  ops : List Access
  watchers : List Access
  /-- the region whose part the unit holds or is receiving -/
  part : Nat
deriving DecidableEq, Repr

/-- A unit with nothing loaded (log 1). -/
def HwUnit.empty : HwUnit :=
  ⟨[], [], [], 0, false, [], false, false, 0, false, [], [], [], [], none, [], 0, 0, 0, 0, none, 0, none, [], [], [], [], [], [], [],
    0⟩

/-! ### Clusters -/

/-- How a byte of HBM is encrypted (R376, R414, R418): `any` once hardware has zeroed it; under a key slot, key generation
and tweak address; read under these from what another tag says and encrypted again, as a write of a part of its line does to
the rest of it; or `lost`, where nothing is known since the last reset. -/
inductive EncTag where
  | any
  | key (slot gen tweak : Nat)
  | over (slot gen tweak : Nat) (under : EncTag)
  | lost
deriving DecidableEq, Repr

/-- Tile states (R111). -/
inductive TileSt where
  | empty | filling | ready | draining
deriving DecidableEq, Repr

/-- A declared tile-table entry, Table 04-7 (`om`: in operand memory, location 0), with the region that declared it and the
uses still reading it (R113). -/
structure Tile where
  st : TileSt
  om : Bool
  format : Nat
  lines : Nat
  arrived : Nat
  readers : Nat
  left : Nat
  scaleoff : Nat
  base : Nat
  reading : Nat
  rid : Nat
deriving DecidableEq, Repr

/-- The state of a table bank (R116, R266), with its claims (R269). -/
structure Bank where
  valid : Bool
  auto : Bool
  planes : Bool
  len : Nat
  groups : Nat
  rows : Nat
  srcCl : Nat
  srcOff : Nat
  srcLines : Nat
  src : Option Nat
  filled : Nat
  owner : Option Nat
  clearing : Bool
  last : Option Nat
  claims : List (UId × Firing)
  gated : Bool
  /-- when it last lost its owner (R389) -/
  since : Nat
deriving DecidableEq, Repr

/-- A bank after configuration load or zeroing (R116). -/
def Bank.none : Bank :=
  ⟨false, false, false, 256, 0, 0, 0, 0, 0, Option.none, 0, Option.none, false, Option.none, [], false, 0⟩

/-- The pass register (R266, R274). -/
structure Pass where
  armed : Bool
  running : Bool
  n : Nat
  u : Nat
  rows : Nat
  cols : Nat
  pick : Nat
  rid : Nat
deriving DecidableEq, Repr

/-- A running look or direct pass, build, drain, spill or reload of the lookup matrix unit: its firing and progress. Of a
build, `aux` holds the cluster, offset and lines of its source, and `dirty` says that a write met it (R145). A run whose line
lies in an absent page is held at it, and waits, as one does on a page that migrates, on a page-table line (R149, R345). -/
structure LmRun where
  i : Instr
  f : Firing
  pos : Nat
  aux : List Nat
  dirty : Bool
  wline : Option Nat
  held : Bool
deriving DecidableEq, Repr

/-- A store held in a cluster's write queue (R134), or accepted and on its way to its pseudo-channel (R129): the memory
keys and bytes it writes, its descriptor if it writes one, the access that waits for it, and when it was accepted. -/
structure HeldStore where
  id : Nat
  rid : Nat
  bytes : List Host.Cell
  line : Nat
  desc : Option Desc
  un : Bool
  enc : Option EncTag
  port : UId
  acc : Nat
  since : Nat
deriving DecidableEq, Repr

/-- Where a fault arises, for its record (Table 13-4): unit or none, cluster, slot, region, opcode, tag, operands; the
frame slot of an arc of kind 6 stands in the unit field, as Table 06-8 has it (R54). -/
structure FaultSite where
  u : Option UId
  cl : Nat
  slot : Nat
  rid : Nat
  opcode : Nat
  tag : Tag
  aval : Word
  atype : Nat
  bval : Word
  btype : Nat
  cls : Option Nat
  frameSlot : Nat := 0
deriving DecidableEq, Repr

/-- What the format check of a store asks of its line when it is performed (R122, R123): nothing, a format that admits the
declared one, or the descriptor of a masked store. -/
inductive Admit where
  | any
  | scalar (fmt : Nat)
  | masked (d : Desc)
deriving DecidableEq, Repr

/-- A store held in an interval log (R146), with the check that it meets when it is performed, and where its fault arises
(R124). `va` is its address where page tables place it, which may move before it is performed (R149). -/
structure LogStore where
  rid : Nat
  bytes : List Host.Cell
  line : Nat
  desc : Option Desc
  enc : Option EncTag
  scope : Scope
  rule : Admit
  site : FaultSite
  va : Option Nat
deriving DecidableEq, Repr

/-- A continuation record (R59): its 160 bytes, the name it is parked under, its region, whether it is held or has a place in
the spill area, the operation it waits for, that place, and for a queued record that was parked the cluster whose frame class
holds it until it is dispatched (R62, Table 02-9). -/
structure Rec where
  name : Nat
  img : BitVec 1280
  rid : Nat
  held : Bool
  spilled : Bool
  waitOp : Option (UId × Nat)
  spot : Nat
  home : Option Nat
deriving DecidableEq, Repr

/-- A firing that waits inside the effect of its node, with the unit it came from. -/
structure Stall where
  u : UId
  i : Instr
  f : Firing
deriving DecidableEq, Repr

/-- Power states of a cluster (R388, R389); the clock gating of a unit (R29) shows in no state. -/
inductive PowerSt where
  | on | gated | waking
deriving DecidableEq, Repr

/-! ### Frames -/

/-- Frame states, Table 02-7. -/
inductive FrameSt where
  | free | live | returning
deriving DecidableEq, Repr

/-- A frame: header fields (R49), the region its return goes to, copies by cluster, slots of each copy (R48), slots an `fbcast` wrote for later copies
(R51), link table (R46), free lists of runs (R44) and stalled allocations (R45). `stamps` holds, for a cluster and slot,
the issue number of the last write (R52). -/
structure Frame where
  st : FrameSt
  join : Word
  retarc : BitVec 32
  rettag : Tag
  recur : Bool
  retRid : Nat
  copies : List Nat
  slots : AL (Nat × Nat) Word
  bcast : AL Nat Word
  link : AL Nat Nat
  runs : AL (Nat × Nat) (List Nat)
  talloc : List (Nat × Nat × Stall)
  stamps : AL (Nat × Nat) Nat
deriving DecidableEq, Repr

/-- A frame that was never allocated (R54). -/
def Frame.none : Frame := ⟨.free, 0, 0, 0, false, 0, [], [], [], [], [], [], []⟩

/-- What a rollback puts back (R361): the state of a frame, tile, stream or dispatcher before the interval changed it. -/
inductive Undo where
  | frame (die fr : Nat) (old : Frame)
  | tile (cl k : Nat) (old : Tile)
  | stream (u : UId) (k : Nat) (old : Option Stream)
  | pool (key : Nat) (old : List Host.Cell)
deriving DecidableEq, Repr

/-- A cluster. -/
structure Cluster where
  /-- the partition word it holds, and for which virtual device and context (R106) -/
  pword : Word
  pwordVd : Option Nat
  tiles : AL Nat Tile
  tileIn : List (Nat × Flit)
  bankA : Bank
  bankB : Bank
  pass : Pass
  look : Option LmRun
  build : Option LmRun
  drains : List LmRun
  writeQ : List HeldStore
  ilog : List LogStore
  /-- undo entries, newest first: region, number in the order of the changes of the device, and what is put back (R361) -/
  undo : List (Nat × Nat × Undo)
  disp : List Rec
  skip : Nat
  drain : Bool
  /-- the head that the skip count and drain belong to: another head starts with a count of 0 (R63) -/
  skipOf : Option Rec
  parked : List Rec
  slotWait : List Stall
  comps : List (BitVec 256)
  power : PowerSt
  wakeBuf : List Flit
  lastFlit : Nat
  /-- the regions of which the load waits in it for the end of a wake (R389, R401) -/
  onWake : List Nat
deriving DecidableEq, Repr

/-- A pass register that is not armed (log 1). -/
def Pass.none : Pass := ⟨false, false, 0, 0, 0, 0, 0, 0⟩

/-- A cluster after reset (R392, R116; log 1). -/
def Cluster.empty : Cluster :=
  ⟨0, Option.none, [], [], Bank.none, Bank.none, Pass.none, Option.none, Option.none, [], [], [], [], [], 0, false,
   Option.none, [], [], List.replicate 8 0, .on, [], 0, []⟩

/-! ### Regions -/

/-- A declared tag space (R43): base, K, footprint and the number of its parent space, 0 for none. -/
structure Space where
  base : Nat
  k : Nat
  foot : Nat
  parent : Nat
deriving DecidableEq, Repr

/-- What a region is doing (R57, R58, R359, R363): `ending` once its last token is counted and until its issued work has
ended. -/
inductive RegionSt where
  | loading | active | ending | completed | frozen | saved | lost
deriving DecidableEq, Repr

/-- Where a region that is asked to yield is saved to: for a change of holder, by a `gate.src.close` in an engine queue, or
by an `EVICT` of a function (R323, R363, R371). -/
inductive SaveTo where
  | slot
  | op (u : UId) (id : Nat)
  | evict (fn : Nat)
deriving DecidableEq, Repr

/-- A yield asked of a region (R359, R387): to where, since what partition time, and whether a halt or a freeze was lifted
for it. -/
structure Yield where
  dest : SaveTo
  since : Nat
  halt : Bool
  frozen : Bool
deriving DecidableEq, Repr

/-- A loaded region. `rcb` is its effective control block, Table 12-7, after inheritance (R330); `host` and `nodes` are the
clusters and the units and slots of its node words as its code object fixes them (R57, R60); `rev` is its region revision (R175); `permits` lists
the units that a debugger's step lets issue once (R386); `image` numbers its last save. -/
structure Region where
  num : Nat
  part : Nat
  vd : Nat
  cx : Nat
  code : Nat
  rcb : BitVec 2048
  parent : Option Nat
  priv : Bool
  spaces : List Space
  nslots : Nat
  recursive : Bool
  streamForm : Bool
  logged : Bool
  ident : Nat
  sig : Word
  rev : Nat
  host : List Nat
  nodes : List (UId × Nat)
  st : RegionSt
  halted : Bool
  gated : Bool
  permits : List UId
  /-- issue numbers of the firings that steps of a halted region have issued since it was halted (R251, R282, R386) -/
  stepped : List Nat
  /-- tokens at the termination sink by activation, which is a frame: die and number (R48, R58) -/
  sunk : AL (Nat × Nat) Nat
  spill : List Rec
  cutRec : Option (BitVec 1280)
  irrevocable : Bool
  errLine : Option Nat
  entryRec : Option Rec
  /-- its activation has begun: a record of it has been dispatched (R58, R245) -/
  begun : Bool
  falloc : List (Nat × Stall)
  spillArmed : Bool
  spillSince : Option Nat
  grantQueue : List UId
  launchTag : Option (Nat × Nat)
  qid : Option Nat
  yield : Option Yield
  image : Nat
deriving DecidableEq, Repr

/-- A region that is not loaded. -/
def Region.none : Region :=
  ⟨0, 0, 0, 0, 0, 0, Option.none, false, [], 0, false, false, false, 0, 0, 0, [], [], .completed, false, false, [], [], [], [],
   Option.none, false, Option.none, Option.none, false, [], true, Option.none, [], Option.none, Option.none, Option.none, 0⟩

/-! ### Partitions -/

/-- A change of holder under way (R323): the virtual device that is to hold the fabric, the slot that asked, when, and
whether the grace has ended. -/
structure Yielding where
  owner : Nat
  slot : Nat
  since : Nat
  forced : Bool
deriving DecidableEq, Repr

/-- A scrub under way (R383, R384, R409): its context, none at boot, what `SCRUB_PROGRESS` names, and the clusters and
ranges of partition-relative physical addresses still to zero. -/
structure Scrub where
  cx : Option Nat
  vd : Nat
  slot : Nat
  clusters : List Nat
  ranges : List (Nat × Nat)
deriving DecidableEq, Repr

/-- A partition, known by the number of its westmost strip (R313). -/
structure Part where
  cfg : Word
  sluiceDrop : Word
  sluiceCnt : Word
  hashMask : List Word
  slotCtl : Word
  slotEnt : List Word
  slotStaged : List (Option Word)
  qslot : List Word
  qpending : AL Nat Bool
  evtQueue : Word
  evtLost : Nat
  /-- events whose push waits for a page that migrates, oldest first: code and data (R149, R328) -/
  evtHeld : List (Nat × Nat)
  qpendBase : Word
  retired : Word
  scrubs : List Scrub
  faultWait : List (Option UId × Nat × BitVec 512)
  yielding : Option Yielding
  powerEn : Bool
  ptime : Nat
  supRid : Option Nat
  /-- the level-1 block (R329, R330); 0 while no `PART_SET` has written one -/
  block : BitVec 2048
deriving DecidableEq, Repr

/-- A partition at reset: `n` = 1 and `s0` its number (Table 12-1), empty slot table with `none` set (Table 12-4). -/
def Part.reset (s : Nat) : Part :=
  ⟨BitVec.ofNat 64 (2 ^ 8 + s % 16), 0, 0, [0, 0, 0, 0, 0], 2 ^ 10, List.replicate 64 0, List.replicate 64 none,
   List.replicate 64 0, [], 0, 0, [], 0, 0, [], [], none, false, 0, none, 0⟩

/-! ### Headgate -/

/-- A virtual device (R374): number, partition, bound function, policy blob and level-2 block (R329). -/
structure VDev where
  num : Nat
  part : Nat
  fn : Nat
  policy : List Byte
  block : BitVec 2048
deriving DecidableEq, Repr

/-- Teardown states, Table 14-9 (R383); `marked` says that the scrub-pending mark of the teardown is durable, which it is
before the keys are overwritten (R410). -/
inductive CtxSt where
  | active
  | zeroing (marked : Bool)
  | scrubbing
  | free
deriving DecidableEq, Repr

/-- A context (R375): its virtual device, key slot and teardown state; its level-3 block stands in its region entry. `fence`
is the fence-strengthening mode that the memory ports keep for it, always 0 (R402). -/
structure Ctx where
  vd : Nat
  slot : Nat
  st : CtxSt
  fence : Bool
deriving DecidableEq, Repr

/-- States of a key slot (R375). -/
inductive KeySt where
  | free | bound | zeroed
deriving DecidableEq, Repr

/-- A key slot (R375, R376): its state and virtual device, a number that its HBM keys go by in the tags of HBM (log 3), and
its keys: two HBM and two window XTS keys, a Culvert and an image key, and the debug key held beside them. -/
structure KeySlot where
  st : KeySt
  vd : Nat
  gen : Nat
  keys : List Nat
deriving DecidableEq, Repr

/-- A free key slot. -/
def KeySlot.none : KeySlot := ⟨.free, 0, 0, List.replicate 7 0⟩

/-- A window (R378, R398, Table 15-3): its context and virtual device, kind (0 host, 1 host and peers, 2 host memory),
base and size, rights, format of host lines, and peer filter. -/
structure Window where
  cx : Nat
  vd : Nat
  kind : Nat
  base : Nat
  size : Nat
  rd : Bool
  wr : Bool
  fmt : Nat
  peer : Nat
  pmask : Nat
deriving DecidableEq, Repr

/-- The registers of one function (R370, Tables 14-1 and 14-2); `pending` is a command that is being processed. -/
structure FnRegs where
  cmdring : Word
  cmdtail : Word
  cplring : Word
  cplhead : Word
  cmdstat : Word
  taken : Nat
  cpl : Nat
  pending : Option Cmd
deriving DecidableEq, Repr

/-- The registers of a function at reset (log 7). -/
def FnRegs.none : FnRegs := ⟨0, 0, 0, 0, 0, 0, 0, Option.none⟩

/-- A queued launch (R325, R371). -/
structure Launch where
  id : Nat
  vd : Nat
  q : Nat
  cx : Nat
  rcb : Nat
  img : Nat
  fn : Nat
  tag : Nat
deriving DecidableEq, Repr

/-- A sealed code object (R400, R403): its bytes, and the descriptor of each line. -/
structure Code where
  cx : Nat
  body : List Byte
  descs : List Desc
deriving DecidableEq, Repr

/-- A saved region: the parts of the state that a context image holds (R364; log 11); `lines` are the physical addresses
at which it was written, `slot` marks a save for a change of holder, and `strm` that the region has a `strm` (Table
13-10). -/
structure Image where
  rid : Nat
  cx : Nat
  vd : Nat
  strips : Nat
  west : Nat
  region : Region
  units : List (UId × HwUnit)
  frames : List ((Nat × Nat × Nat) × Frame)
  clusters : List (Nat × Cluster)
  cells : List Host.Cell
  lines : List Nat
  slot : Bool
  strm : Bool
deriving DecidableEq, Repr

/-- A configuration-load refusal (R166), as the loader reports it: its status, and the unit and slot that caused it, where one did. -/
structure LoadFailure where
  status : Nat
  unit : Option UId
  slot : Nat
deriving DecidableEq, Repr

/-- The Headgate; `comps` keeps the comparators of each virtual device by cluster (R387), and `refusal` the last
configuration-load refusal that a loader reported (R166); `quotes` holds the reports that an `hg.quote` is still writing, by
its operation. -/
structure Headgate where
  fns : AL Nat FnRegs
  vds : AL Nat VDev
  ctxs : AL Nat Ctx
  slots : AL Nat KeySlot
  windows : AL Nat Window
  codes : AL Nat Code
  launches : List Launch
  images : AL Nat Image
  recovery : Word
  recoveryLen : BitVec 32
  inRom : Bool
  boots : Nat
  booting : Bool
  fwVersion : Nat
  fwImage : List Byte
  retiredMask : Nat
  scrubPending : Bool
  notifies : List (Nat × Nat)
  comps : AL (Nat × Nat) (List (BitVec 256))
  refusal : Option LoadFailure
  quotes : AL Nat (List LineData)
deriving DecidableEq, Repr

/-! ### Culvert and links -/

/-- A Culvert object (R291): its name, context, pages and mark; the pages written so far, those that fail
authentication (R395), and whether it is being deleted. -/
structure CvObject where
  name : Nat
  cx : Nat
  vd : Nat
  pages : Nat
  ctxMark : Bool
  written : List Nat
  bad : List Nat
  deleting : Bool
deriving DecidableEq, Repr

/-- Flash behind Culvert (objects, and the object of each open handle, by context and number), the Knanolo links (`drops`: port and
clock of each flit dropped lately), the clock source, and the bytes that the host's last read returned. -/
structure Outside where
  objects : AL Nat CvObject
  handles : AL (Nat × Nat) Nat
  badDrives : List Nat
  devnum : Word
  routes : List Word
  linksUp : List Bool
  drops : List (Nat × Nat)
  timeAt : Nat
  timeLost : Bool
  hostRead : List Byte
deriving DecidableEq, Repr

/-! ### The device -/

/-- What may move next: the issue of a unit's head firing (R40), an input or event of the table, or a step of the table
that is named here by itself: the next command of a function, power gating of a cluster or a bank, boot, the end of a
recovery fetch or of a deletion, the loss of time synchronisation, steps 2 to 4 of a region's completion (R58), and the
push of an event that waited (R328). An uncorrectable error of a line of a pool, operand memory or HBM (R355, R356) comes
from outside, by the key of the line's first byte. -/
inductive Move where
  | issue (u : UId)
  | event (i : Instr)
  | command (fn : Nat)
  | gateCluster (cl : Nat)
  | gateBank (cl bank : Nat)
  | boot
  | fetched (readError : Bool)
  | deleted (oid : Nat)
  | timeLost
  | finish (rid : Nat)
  | postHeld (p : Nat)
  | uncorrectable (line : Nat)
  /-- the host writes its own memory (R370, R371) -/
  | hostStore (addr : Nat) (data : List Byte)
  /-- the host reads a register of a function (Table 14-1) -/
  | hostRead (fn off : Nat)
deriving DecidableEq, Repr

/-- The firing being issued and its unit. -/
structure Cur where
  u : UId
  f : Firing
deriving DecidableEq, Repr

/-- The state of the device. -/
structure State where
  clock : Nat
  nonce : Nat
  nextId : Nat
  /-- firings issued so far (R40) -/
  issued : Nat
  agenda : List Move
  cur : Option Cur
  mem : List Host.Cell
  enc : AL Nat EncTag
  zeroed : List (Nat × Nat)
  poison : List Nat
  pageRecs : List Nat
  units : AL UId HwUnit
  clusters : AL Nat Cluster
  frames : AL (Nat × Nat × Nat) Frame
  regions : AL Nat Region
  net : List Flit
  cfgNet : List Packet
  parts : AL Nat Part
  partMap : Word
  edgeCal : BitVec 128
  hg : Headgate
  out : Outside
deriving DecidableEq, Repr

/-- Why the machine stops. No ordinary fault of the spec is here: those are taken (R349 to R352). -/
inductive Fault where
  /-- raised by `step` when the agenda asks a unit to issue that has no firing ready (R40); safe -/
  | nothingReady
deriving DecidableEq, Repr

/-- Why a step has no meaning. -/
inductive Refusal where
  /-- raised by `exec` for an instruction without a meaning yet; safe -/
  | notModelled (mnemonic : String)
  /-- raised by `step` when a slot's word is no instruction, which configuration load refuses (R166); safe -/
  | undecodable (word : BitVec 32)
  /-- raised by an event's meaning when what it names is not there, so that the event cannot happen; safe -/
  | notEnabled (event : String)
deriving DecidableEq, Repr

/-- The Headgate at reset (Tables 14-1, 14-2, 15-2; R410; logs 7, 8). -/
def Headgate.reset : Headgate :=
  ⟨[], [], [], [], [], [], [], [], 0, 0, false, 0, false, 0x00010000, [], 0, false, [], [], none, []⟩

/-- Flash and links at reset (logs 5, 9, 10). -/
def Outside.reset : Outside :=
  ⟨[], [], [], 0, List.replicate 16 0, List.replicate 16 false, [], 0, false, []⟩

/-- The device right after reset: boot has ended with no surviving scrub mark (R392, Table 15-1), every register at the
reset value of its table, everything else as the assumption log names. -/
def State.reset : State where
  clock := 0
  nonce := 0
  nextId := 1
  issued := 0
  agenda := []
  cur := none
  mem := []
  enc := []
  zeroed := []
  poison := []
  pageRecs := []
  units := []
  clusters := []
  frames := []
  regions := []
  net := []
  cfgNet := []
  parts := (List.range 16).map fun s => (s, Part.reset s)
  partMap := 0xFEDCBA9876543210
  edgeCal := BitVec.ofNat 128 0xFEDCBA9876543210FEDCBA9876543210
  hg := Headgate.reset
  out := Outside.reset

end Sys2Proof.Machine
end

