-- ==== Sys2Proof/Machine/Memory.lean ====
section
/-! DEFINITION. Memory: one list of (key, byte) pairs, keys strictly rising, no zero byte listed. Every store of the
device has its own range of keys; an unlisted key reads 0. -/

namespace Sys2Proof.Machine

open Sys2Proof

/-- The memory of the device. -/
abbrev Memory := List Host.Cell

/-- The byte at a key; a key not listed reads 0 (R392; for HBM see `readHbm`). -/
def Memory.read : Memory → Nat → Byte
  | [], _ => 0
  | (a, b) :: m, k => if a = k then b else if k < a then 0 else Memory.read m k

/-- Write one byte, keeping the canonical form. -/
def Memory.write : Memory → Nat → Byte → Memory
  | [], k, v => if v = 0 then [] else [(k, v)]
  | (a, b) :: m, k, v =>
    if k < a then (if v = 0 then (a, b) :: m else (k, v) :: (a, b) :: m)
    else if k = a then (if v = 0 then m else (k, v) :: m)
    else (a, b) :: Memory.write m k v

/-- Whether every key of the list is above `k` and the rest is canonical. -/
def Memory.above : Memory → Nat → Bool
  | [], _ => true
  | (a, b) :: m, k => decide (k < a) && decide (b ≠ 0) && Memory.above m a

/-- The canonical form: keys strictly rising, no zero listed. -/
def Memory.wf : Memory → Bool
  | [] => true
  | (a, b) :: m => decide (b ≠ 0) && Memory.above m a

/-- The `n` bytes from key `k` up, least significant first (R5). -/
def Memory.readN (m : Memory) (k : Nat) : Nat → Nat
  | 0 => 0
  | n + 1 => (Memory.read m k).toNat + 256 * Memory.readN m (k + 1) n

/-- Write the low `n` bytes of a number from key `k` up (R5). -/
def Memory.writeN (m : Memory) (k : Nat) : Nat → Nat → Memory
  | 0, _ => m
  | n + 1, v => Memory.writeN (Memory.write m k (BitVec.ofNat 8 v)) (k + 1) n (v / 256)

/-- Write a list of cells, in order. -/
def Memory.writeCells (m : Memory) : List Host.Cell → Memory
  | [] => m
  | (k, b) :: l => Memory.writeCells (Memory.write m k b) l

/-- The cells that `writeN` writes. -/
def cellsOf (k : Nat) : Nat → Nat → List Host.Cell
  | 0, _ => []
  | n + 1, v => (k, BitVec.ofNat 8 v) :: cellsOf (k + 1) n (v / 256)

/-! ### Keys: where each store of the device lies -/

/-- Rows of 128 bytes in one pseudo-channel: 24,000,000,000 bytes a strip over 32 of them (R20). -/
def rowsPerChannel : Nat := 5859375

/-- Bytes of HBM a strip owns (R20). -/
def stripBytes : Nat := 24000000000

/-- The key of byte `b` of row `row` of channel `w` of strip `s` (R117). -/
def hbmKey (s w row b : Nat) : Nat := ((s * 32 + w) * rowsPerChannel + row) * 128 + b

/-- The key of offset `o` of the pool of cluster `c` (R105). -/
def poolKey (c o : Nat) : Nat := 2 ^ 40 + c * 2 ^ 19 + o

/-- The key of a byte of line `n` of the operand memory of cluster `c` (R110). -/
def omKey (c n : Nat) : Nat := 2 ^ 42 + c * 2 ^ 17 + n * 64

/-- The key of entry `e` of table `t` of bank `k` of the table file of cluster `c` (R115). -/
def tableKey (c k t e : Nat) : Nat := 2 ^ 43 + c * 2 ^ 17 + k * 2 ^ 16 + t * 512 + 2 * e

/-- The key of accumulator `a` of the accumulator buffer of cluster `c` (R266). -/
def accKey (c a : Nat) : Nat := 2 ^ 44 + c * 2 ^ 16 + 4 * a

/-- The key of a host address (R371). -/
def hostKey (a : Nat) : Nat := 2 ^ 65 + a % 2 ^ 64

/-- The key of byte `b` of page `p` of a Culvert object (R291). -/
def flashKey (o p b : Nat) : Nat := 2 ^ 67 + o * 2 ^ 50 + p * 4096 + b

/-- The key of the descriptor of the line whose first byte has key `k` (R87). -/
def descKey (k : Nat) : Nat := 2 ^ 120 + 2 * (k / 64)

/-- Whether a key lies in HBM. -/
def isHbm (k : Nat) : Bool := k < 2 ^ 40

/-- The line of a key. -/
def lineOf (k : Nat) : Nat := k / 64 * 64

/-- Exclusive or of the bits of a number (R117, `parity`), over `n` bits. -/
def parity (v : Nat) : Nat → Bool
  | 0 => false
  | n + 1 => xor (bitAt v n) (parity v n)

/-- The key of partition-relative physical address `p`: westmost strip `s0`, `n` strips, mask registers (R117). -/
def placeHbm (s0 n : Nat) (masks : List Word) (p : Nat) : Nat :=
  let u := p / 128
  let j := u / 32 % n
  let wbit := fun i => (xor (bitAt u i) (parity (p &&& (masks.getD i 0).toNat) 52)).toNat
  let w := wbit 0 + 2 * wbit 1 + 4 * wbit 2 + 8 * wbit 3 + 16 * wbit 4
  hbmKey (s0 + j) w (u / 32 / n) (p % 128)

end Sys2Proof.Machine
end

