-- ==== Sys2Proof/Machine/Ops.lean ====
section
/-! DEFINITION. The named operations on the state: access to its parts, the pool classes, visible writes, arcs and flits,
and taking a fault. -/

namespace Sys2Proof.Machine

open Sys2Proof

/-! ### Faults a meaning can raise -/

/-- Fault causes, Table 13-5 (R350). -/
inductive Cause where
  | type | scaleMismatch | featureMasked | deadSlot | lane | trap | tagRange | tagDoubleFree | tagBusy | frameExhausted
  | frameBusy | callTarget | contFormat | joinUnderflow | joinBusy | barrier | queue | launch | csr | gate | address
  | alignment | permission | identity | order | format | handle | stream | page | unmappable | pageTable | claim | pass
  | tableStale | indexRange | route | bankImage | command | remote | culvert | memError | poolError | configLoad
  | spillExhausted | linkError | configReloaded | preemptionLoss
deriving DecidableEq, Repr

/-- The code of a cause, Table 13-5. -/
def Cause.code : Cause → Nat
  | .type => 0x01 | .scaleMismatch => 0x02 | .featureMasked => 0x03 | .deadSlot => 0x04 | .lane => 0x05 | .trap => 0x06
  | .tagRange => 0x07 | .tagDoubleFree => 0x08 | .tagBusy => 0x09 | .frameExhausted => 0x0A | .frameBusy => 0x0B
  | .callTarget => 0x0C | .contFormat => 0x0D | .joinUnderflow => 0x0E | .joinBusy => 0x0F | .barrier => 0x10
  | .queue => 0x11 | .launch => 0x12 | .csr => 0x13 | .gate => 0x14 | .address => 0x18 | .alignment => 0x19
  | .permission => 0x1A | .identity => 0x1B | .order => 0x1C | .format => 0x1D | .handle => 0x1E | .stream => 0x1F
  | .page => 0x20 | .unmappable => 0x21 | .pageTable => 0x22 | .claim => 0x28 | .pass => 0x29 | .tableStale => 0x2A
  | .indexRange => 0x2B | .route => 0x2C | .bankImage => 0x2D | .command => 0x30 | .remote => 0x31 | .culvert => 0x32
  | .memError => 0x38 | .poolError => 0x39 | .configLoad => 0x3A | .spillExhausted => 0x3B | .linkError => 0x3C
  | .configReloaded => 0x3D | .preemptionLoss => 0x3E

/-- The class of a cause, Table 13-5: 0 handled, 1 delivered, 2 notice. -/
def Cause.cls : Cause → Nat
  | .page => 0
  | .linkError | .configReloaded => 2
  | _ => 1

/-- A fault: cause, detail and address of Table 13-4. -/
structure Flt where
  cause : Cause
  detail : Nat
  addr : Nat
deriving DecidableEq, Repr

/-- Why a meaning takes no effect now: it faults (R13), or it waits and stays where it is (R40). -/
inductive Stop where
  | fault (f : Flt)
  | wait
deriving DecidableEq, Repr

/-- What a meaning answers. -/
abbrev Res (α : Type) := Except Stop α

/-- Raise a fault with a detail. -/
def flt {α : Type} (c : Cause) (detail : Nat := 0) (addr : Nat := 0) : Res α := .error (.fault ⟨c, detail, addr⟩)

/-- Demand a condition, or fault. -/
def need (ok : Bool) (c : Cause) (detail : Nat := 0) (addr : Nat := 0) : Res Unit :=
  if ok then .ok () else flt c detail addr

/-- Demand a condition, or wait. -/
def needWait (ok : Bool) : Res Unit := if ok then .ok () else .error .wait

/-! ### Parts of the state -/

namespace State

/-- A unit. -/
def unit (s : State) (u : UId) : HwUnit := AL.get HwUnit.empty s.units u

/-- Change a unit. -/
def modUnit (s : State) (u : UId) (g : HwUnit → HwUnit) : State := { s with units := AL.set s.units u (g (s.unit u)) }

/-- A cluster. -/
def cluster (s : State) (c : Nat) : Cluster := AL.get Cluster.empty s.clusters c

/-- Change a cluster. -/
def modCluster (s : State) (c : Nat) (g : Cluster → Cluster) : State :=
  { s with clusters := AL.set s.clusters c (g (s.cluster c)) }

/-- A region. -/
def region (s : State) (r : Nat) : Region := AL.get Region.none s.regions r

/-- Change a region. -/
def modRegion (s : State) (r : Nat) (g : Region → Region) : State :=
  { s with regions := AL.set s.regions r (g (s.region r)) }

/-- A frame of a region (R35). -/
def frame (s : State) (r die fr : Nat) : Frame := AL.get Frame.none s.frames (r, die, fr)

/-- Set a frame. -/
def setFrame (s : State) (r die fr : Nat) (f : Frame) : State := { s with frames := AL.set s.frames (r, die, fr) f }

/-- A partition. -/
def part (s : State) (p : Nat) : Part := AL.get (Part.reset p) s.parts p

/-- Change a partition. -/
def modPart (s : State) (p : Nat) (g : Part → Part) : State := { s with parts := AL.set s.parts p (g (s.part p)) }

/-- A fresh number for an access, region or operation. -/
def fresh (s : State) : Nat × State := (s.nextId, { s with nextId := s.nextId + 1 })

/-- A fresh index for a free value. -/
def free (s : State) : Nat × State := (s.nonce, { s with nonce := s.nonce + 1 })

end State

/-- The column and row of a cluster number y*64+x (R16). -/
def colOf (cl : Nat) : Nat := cl % 64
/-- The row of a cluster number. -/
def rowOf' (cl : Nat) : Nat := cl / 64
/-- The strip of a cluster (R18). -/
def stripOf (cl : Nat) : Nat := colOf cl / 4
/-- The die of a cluster (R17). -/
def dieOf (cl : Nat) : Nat := 4 * (rowOf' cl / 32) + colOf cl / 16

/-- The partition that `PART_MAP` gives a strip (R313). -/
def partOfStrip (s : State) (st : Nat) : Nat := bits s.partMap.toNat (4 * st + 3) (4 * st)

/-- The partition of a cluster (R313). -/
def partOf (s : State) (cl : Nat) : Nat := partOfStrip s (stripOf cl)

namespace Part
/-- Fields of `PART_CFG`, Table 12-1. -/
def valid (p : Part) : Bool := bitAt p.cfg.toNat 63
/-- frozen after a double fault -/
def frozen (p : Part) : Bool := bitAt p.cfg.toNat 62
/-- heavy-unit grants of the partition -/
def gpool (p : Part) : Nat := bits p.cfg.toNat 47 32
/-- strips in the partition -/
def strips (p : Part) : Nat := bits p.cfg.toNat 12 8
/-- westmost strip -/
def west (p : Part) : Nat := bits p.cfg.toNat 3 0
/-- the supervisor cluster (R314) -/
def supCluster (p : Part) : Nat := bits p.cfg.toNat 25 20 * 64 + bits p.cfg.toNat 19 14
/-- bytes of HBM of the partition (R337) -/
def hbmBytes (p : Part) : Nat := p.strips * stripBytes
end Part

/-- The unit kind of a target kind 0 to 4 of Table 06-8. -/
def ukindOf : Nat → Option UKind
  | 0 => some .el | 1 => some .mp | 2 => some .ln | 3 => some .lmu | 4 => some .eng | _ => none

/-- The target kind of a unit kind, Table 06-8. -/
def kindCode : UKind → Nat
  | .el => 0 | .mp => 1 | .ln => 2 | .lmu => 3 | .eng => 4

/-! ### The partition word and the pool classes (R105, R106) -/

/-- Size in bytes of pool class `k` of Table 04-3, 0 scratchpad to 5 side log, under a partition word. -/
def classSize (w : Word) (k : Nat) : Nat :=
  let v := w.toNat
  let f := bits v 7 0
  let a := bits v 15 8
  let o := bits v 23 16
  let i := bits v 31 24
  let l := bits v 39 32
  4096 * (match k with
    | 0 => 128 - (f + a + o + i + l) | 1 => f | 2 => a | 3 => o | 4 => i | _ => l)

/-- First pool offset of a class (R105). -/
def classBase (w : Word) : Nat → Nat
  | 0 => 0
  | k + 1 => classBase w k + classSize w k

/-- Size of the scratchpad class of a cluster. -/
def padSize (s : State) (cl : Nat) : Nat := classSize (s.cluster cl).pword 0

/-- Entries of 80 bytes the interval log of a cluster holds (R361). -/
def ilogRoom (s : State) (cl : Nat) : Nat :=
  classSize (s.cluster cl).pword 4 / 80 - ((s.cluster cl).ilog.length + (s.cluster cl).undo.length)

/-! ### Visible writes -/

/-- Whether a bank was built from a range that holds the line (R116, R143). -/
def Bank.covers (b : Bank) (line : Nat) : Bool :=
  b.srcLines != 0 && decide (poolKey b.srcCl b.srcOff ≤ line) && decide (line < poolKey b.srcCl b.srcOff + 64 * b.srcLines)

/-- Whether a build reads a source range that holds the line (R145). -/
def buildCovers (r : LmRun) (line : Nat) : Bool :=
  match r.aux with
  | cl :: off :: n :: _ => decide (poolKey cl off ≤ line) && decide (line < poolKey cl off + 64 * n)
  | _ => false

/-- A write into a bank's source range clears its valid bit (R143); one during a build leaves it invalid after (R145). -/
def invalidateBanks (line : Nat) (c : Cluster) : Cluster :=
  let hit := fun (b : Bank) => if b.covers line then { b with valid := false } else b
  let spoil := fun (r : LmRun) => if buildCovers r line then { r with dirty := true } else r
  { c with bankA := hit c.bankA, bankB := hit c.bankB, build := c.build.map spoil }

/-- A write into a line that a port's translations were read from drops them (R343) and wakes what waits on it (R345). -/
def wakeOn (line : Nat) (h : HwUnit) : HwUnit :=
  let wake := fun (a : Access) => if a.wline = some line then { a with woken := true } else a
  let keep := h.tlb.filter fun e => !e.lines.contains line
  { h with
    tlb := keep
    readBuf := if keep.length = h.tlb.length then h.readBuf else []
    access := h.access.map wake
    ops := h.ops.map wake
    streams := h.streams.map fun p => if p.2.wline = some line then (p.1, { p.2 with wline := none }) else p
    sideLog := h.sideLog.map fun e => if e.wline = line then { e with woken := true } else e }

/-- A write into a page-table line wakes the runs of a lookup matrix unit that wait on it (R345, R348). -/
def wakeRuns (line : Nat) (c : Cluster) : Cluster :=
  { c with drains := c.drains.map fun r => if r.wline = some line then { r with wline := none } else r }

/-- The tag a byte of HBM carries: that of its last write, or `any` where hardware has zeroed it since (R418). -/
def encOf (s : State) (k : Nat) : Option EncTag :=
  match AL.find? s.enc k with
  | some t => some t
  | none => if s.zeroed.any fun r => decide (r.1 ≤ k) && decide (k < r.2) then some .any else none

/-- The tag of a byte that is read under a tag's keys and written back, from the tag it had: a zeroed byte and one under
the same keys keep their value. -/
def EncTag.rewrap (t : EncTag) (old : Option EncTag) : EncTag :=
  match t, old.getD .lost with
  | .key _ _ _, .any => t
  | .key a b c, .key x y z => if a = x ∧ b = y ∧ c = z then t else .over a b c (.key x y z)
  | .key a b c, .over x y z u => if a = x ∧ b = y ∧ c = z then .over x y z u else .over a b c (.over x y z u)
  | .key a b c, .lost => .over a b c .lost
  | t, _ => t

/-- The tags of the bytes of an HBM line, the first `n` of which are done, after some of them are written under one tag:
the line is encrypted as one unit, and the rest of it is read under that tag and written back (R376, R414). -/
def retag (s : State) (line : Nat) (written : List Nat) (t : EncTag) : Nat → AL Nat EncTag
  | 0 => s.enc
  | n + 1 =>
    let k := line + n
    AL.set (retag s line written t n) k (if written.contains k then t else t.rewrap (encOf s k))

/-- Bytes of one line reach memory, with its descriptor if one is written, and for HBM the tag they are encrypted under. -/
def landWrite (s : State) (line : Nat) (cells : List Host.Cell) (desc : Option Desc) (tag : Option EncTag) : State :=
  let mem := Memory.writeCells s.mem cells
  let mem := match desc with
    | some d => Memory.writeN mem (descKey line) 2 d.toNat
    | none => mem
  let enc := match tag with
    | some t => if isHbm line then retag s line (cells.map (·.1)) t 64 else s.enc
    | none => s.enc
  let poison := if desc.isSome && cells.length == 64 then s.poison.filter (· != line) else s.poison
  let clusters := s.clusters.map fun p => (p.1, if isHbm line then wakeRuns line p.2 else invalidateBanks line p.2)
  let units := if isHbm line then s.units.map fun p => (p.1, wakeOn line p.2) else s.units
  { s with mem, enc, poison, clusters, units, pageRecs := s.pageRecs.filter (· != line) }

/-- Put a held store in its place in a list that has the one accepted first in front. -/
def insertHeld (e : HeldStore) : List HeldStore → List HeldStore
  | [] => [e]
  | d :: l => if e.id ≤ d.id then e :: d :: l else d :: insertHeld e l

/-- The stores to a line that the write queues hold, of those a test names, in the order of their acceptance. -/
def heldTo (s : State) (line : Nat) (p : Nat → HeldStore → Bool) : List HeldStore :=
  (s.clusters.flatMap fun c => c.2.writeQ.filter fun e => e.line == line && p c.1 e).foldr insertHeld []

/-- Land the held stores to a line that a test names, in the order of their acceptance (R131, R134; log 44). -/
def landHeld (s : State) (line : Nat) (p : Nat → HeldStore → Bool) : State :=
  let s1 := (heldTo s line p).foldl (fun s (e : HeldStore) => landWrite s e.line e.bytes e.desc e.enc) s
  { s1 with clusters := s1.clusters.map fun c =>
      (c.1, { c.2 with writeQ := c.2.writeQ.filter fun e => !(e.line == line && p c.1 e) }) }

/-- Land every held store, in the order of acceptance. -/
def landAll (s : State) : State :=
  ((s.clusters.flatMap fun c => c.2.writeQ).foldr insertHeld []).foldl (fun s e => landHeld s e.line fun _ d => d.id ≤ e.id) s

/-- Whether a translation that some port holds was read from a line. -/
def translates (s : State) (line : Nat) : Bool := s.units.any fun p => p.2.tlb.any fun e => e.lines.contains line

/-- Drain the held stores to a line that a test names (R134). Where one of them changes a table entry that a port has
translated by, every other held store, which may go to its page, is drained with it (R149, R343). -/
def drainLine (s : State) (line : Nat) (p : Nat → HeldStore → Bool) : State :=
  let t := landHeld s line p
  if translates s line && !(heldTo s line p).isEmpty then landAll t else t

/-- Drain a held store, after those to its line that were accepted before it (R131, R134). -/
def drainStore (s : State) (e : HeldStore) : State := drainLine s e.line fun _ d => d.id ≤ e.id

/-- Drain the held stores that a test names, in the order of their acceptance. -/
def drainWhere (s : State) (p : Nat → HeldStore → Bool) : State :=
  ((s.clusters.flatMap fun c => c.2.writeQ.filter (p c.1)).foldr insertHeld []).foldl drainStore s

/-- A write that becomes visible to every agent (R129). The stores to its line that a cluster holds were accepted before
it and land before it, so that each line has one coherence order (R131; log 44). A write to a table line that a port has
translated by, which may let a page enter migration, lands after every held store (R149). -/
def visibleWrite (s : State) (line : Nat) (cells : List Host.Cell) (desc : Option Desc) (tag : Option EncTag) : State :=
  let s := if translates s line then drainWhere s fun _ _ => true else drainLine s line fun _ _ => true
  landWrite s line cells desc tag

/-- Discard one line from the read buffers of the memory ports of a cluster (R135). -/
def dropLine (s : State) (cl line : Nat) : State :=
  { s with units := s.units.map fun p =>
      if p.1.cl = cl ∧ p.1.kind = .mp then (p.1, { p.2 with readBuf := p.2.readBuf.filter (·.key != line) }) else p }

/-- Discard the read buffers of the memory ports of a cluster (R135, R136). -/
def dropBuffers (s : State) (cl : Nat) : State :=
  { s with units := s.units.map fun p =>
      if p.1.cl = cl ∧ p.1.kind = .mp then (p.1, { p.2 with readBuf := [] }) else p }

/-! ### Arcs and flits -/

namespace Arc
/-- Fields of an arc entry, Table 06-7 (R158). -/
def valid (w : BitVec 32) : Bool := bitAt w.toNat 31
/-- target kind -/
def kind (w : BitVec 32) : Nat := bits w.toNat 30 28
/-- target unit -/
def unit (w : BitVec 32) : Nat := bits w.toNat 27 20
/-- target slot -/
def slot (w : BitVec 32) : Nat := bits w.toNat 19 15
/-- target side -/
def side (w : BitVec 32) : Bool := bitAt w.toNat 14
/-- column field -/
def dx (w : BitVec 32) : Nat := bits w.toNat 13 7
/-- row field -/
def dy (w : BitVec 32) : Nat := bits w.toNat 6 0
/-- The column that an arc of a unit in cluster `cl` reaches: its offset is signed (R158). -/
def targetCol (w : BitVec 32) (cl : Nat) : Int := (colOf cl : Int) + toSigned 7 (dx w)
/-- The row that an arc of a unit in cluster `cl` reaches (R158). -/
def targetRow (w : BitVec 32) (cl : Nat) : Int := (rowOf' cl : Int) + toSigned 7 (dy w)
/-- Whether the target cluster (x + dx, y + dy) of an arc exists (R16, R158). -/
def onDevice (w : BitVec 32) (cl : Nat) : Bool :=
  decide (0 ≤ targetCol w cl) && decide (targetCol w cl < 64) && decide (0 ≤ targetRow w cl) && decide (targetRow w cl < 64)
/-- The cluster an arc of a unit in cluster `cl` reaches (R158); 4096, which no cluster is, for one that leaves the
device, which configuration load refuses (log 34). -/
def target (w : BitVec 32) (cl : Nat) : Nat :=
  if onDevice w cl then (targetRow w cl).toNat * 64 + (targetCol w cl).toNat else 4096
/-- The entry with its offsets replaced by the absolute coordinates of its target (R209). -/
def absolute (w : BitVec 32) (cl : Nat) : BitVec 32 :=
  BitVec.ofNat 32 (w.toNat / 2 ^ 14 * 2 ^ 14 + colOf (target w cl) * 2 ^ 7 + rowOf' (target w cl))
/-- The cluster of an entry with absolute coordinates (R209). -/
def absTarget (w : BitVec 32) : Nat := dy w % 64 * 64 + dx w % 64
end Arc

/-- The kind that a flit for a region's termination sink carries in this model. -/
def sinkKind : Nat := 8

/-- Put a flit on its way; a token for a sink arc is discarded (Table 06-8, kind 7). -/
def post (s : State) (f : Flit) : State := if f.kind = 7 then s else { s with net := s.net ++ [f] }

/-! ### Taking a fault (R349 to R352) -/

/-- The code of a token type, Table 02-2. -/
def TType.code : TType → Nat
  | .i64 => 0 | .i32 => 1 | .u64 => 2 | .f32 => 3 | .bf16x4 => 4 | .i16x4 => 5 | .e4x8 => 6 | .e5x8 => 7 | .i8x8 => 8
  | .qn4x16 => 9 | .tagix => 10 | .handle => 11 | .control => 12 | .marker => 13

/-- The type of a code, Table 02-2; codes 14 and 15 name none. -/
def TType.ofCode? : Nat → Option TType
  | 0 => some .i64 | 1 => some .i32 | 2 => some .u64 | 3 => some .f32 | 4 => some .bf16x4 | 5 => some .i16x4
  | 6 => some .e4x8 | 7 => some .e5x8 | 8 => some .i8x8 | 9 => some .qn4x16 | 10 => some .tagix | 11 => some .handle
  | 12 => some .control | 13 => some .marker | _ => none

/-- The fault record, Table 13-4 (R349). -/
def faultRecord (s : State) (w : FaultSite) (f : Flt) : BitVec 512 :=
  let r := s.region w.rid
  let ukind := match w.u with | some u => kindCode u.kind | none => 7
  let unit := match w.u with | some u => u.num | none => w.frameSlot
  let put := fun (lo width v : Nat) => v % 2 ^ width * 2 ^ lo
  BitVec.ofNat 512 (put 448 64 s.clock + put 384 64 w.bval.toNat + put 320 64 w.aval.toNat + put 256 64 f.addr
    + put 192 64 f.detail + put 176 16 (bits r.rcb.toNat 47 32) + put 160 16 r.num + put 150 10 r.vd
    + put 148 2 (w.cls.getD f.cause.cls) + put 140 8 f.cause.code + put 132 8 w.opcode + put 128 4 w.btype
    + put 124 4 w.atype + put 100 24 w.tag.toNat + put 94 6 (colOf w.cl) + put 88 6 (rowOf' w.cl) + put 85 3 ukind
    + put 77 8 unit + put 72 5 w.slot)

/-- The unit, slot and side of the fault entry of a partition: element 255, slot 15, left (R351). -/
def faultEntry (p : Part) : UId := ⟨p.supCluster, .el, 255⟩

/-- Whether the fault entry is configured and complete, and frame 0 of the supervisor region live (R352). -/
def faultReady (s : State) (p : Part) : Bool :=
  let h := s.unit (faultEntry p)
  match p.supRid with
  | none => false
  | some r => h.complete && (AL.find? h.words 15).isSome && (s.frame r (dieOf p.supCluster) 0).st == .live

/-- Entries of the fault ring in use: tail minus head, modulo 2^32 (R351). -/
def ringUsed (s : State) (p : Part) : Nat :=
  let h := poolKey p.supCluster 0
  (Memory.readN s.mem h 4 + 2 ^ 32 - Memory.readN s.mem (h + 4) 4) % 2 ^ 32

/-- Write a record into the ring, advance tail and send the record's pointer to the fault entry (R351). -/
def ringWrite (s : State) (p : Part) (record : BitVec 512) : State :=
  let sc := p.supCluster
  let tail := Memory.readN s.mem (poolKey sc 0) 4
  let off := 0x40 + 64 * (tail % 255)
  let s := visibleWrite s (poolKey sc off) (cellsOf (poolKey sc off) 64 record.toNat) (some 0) none
  let s := visibleWrite s (poolKey sc 0) (cellsOf (poolKey sc 0) 4 ((tail + 1) % 2 ^ 32)) none none
  let u := faultEntry p
  let ptr := BitVec.ofNat 64 (0xFC * 2 ^ 56 + off)
  post s ⟨⟨sc, .eng, 1⟩, 0, p.supRid.getD 0, sc, 0, u.num, 15, false, .scal ⟨ptr, .u64, false⟩, Tag.mk (dieOf sc) 0 0,
    s.issued, 0⟩

/-- Post a completion entry to a function's completion ring (R370, R371). DESIGN CHOICE: the entry after the last takes the
place of the first whatever `HG_CPLHEAD` holds, since no rule stops a full ring (log 62). -/
def postCpl (s : State) (fn status detail tag result : Nat) : State :=
  let r := AL.get FnRegs.none s.hg.fns fn
  let k := bits r.cplring.toNat 3 0
  let base := r.cplring.toNat / 4096 * 4096
  let phase := (r.cpl / 2 ^ k + 1) % 2
  let e := phase + tag % 2 ^ 16 * 2 ^ 16 + status % 256 * 2 ^ 32 + detail % 256 * 2 ^ 40 + result % 2 ^ 64 * 2 ^ 64
  { s with
    mem := Memory.writeN s.mem (hostKey (base + 16 * (r.cpl % 2 ^ k))) 16 e
    hg := { s.hg with fns := AL.set s.hg.fns fn { r with cpl := r.cpl + 1 } } }

/-- Freeze a partition after a double fault and tell the physical function, status 0x20 (R352, Table 14-4). -/
def doubleFault (s : State) (p : Nat) : State :=
  postCpl (s.modPart p fun q => { q with cfg := q.cfg ||| BitVec.ofNat 64 (2 ^ 62) }) 0 0x20 p 0xFFFF 0

/-- Tell the function of a queued launch that a record of class 1 was written for its region (Table 14-4, 0x11). -/
def tellLaunch (s : State) (rid cls : Nat) : State :=
  match (s.region rid).launchTag with
  | some (fn, h) => if cls = 1 then postCpl s fn 0x11 0 0xFFFF h else s
  | none => s

/-- Take a fault: a record to the ring and its pointer to the fault entry; a double fault where R352 says so; without
ring room the unit keeps its record and waits (R349 to R352). -/
def takeFault (s : State) (w : FaultSite) (f : Flt) : State :=
  let pn := if (s.region w.rid).host = [] then partOf s w.cl else (s.region w.rid).part
  let p := s.part pn
  if p.supRid = some w.rid || !faultReady s p then doubleFault s pn
  else
    let record := faultRecord s w f
    let s := tellLaunch s w.rid (w.cls.getD f.cause.cls)
    if ringUsed s p = 255 then s.modPart pn fun q => { q with faultWait := q.faultWait ++ [(w.u, w.rid, record)] }
    else ringWrite s p record

end Sys2Proof.Machine
end

