-- ==== Sys2Proof/Machine/Records.lean ====
section
/-! DEFINITION. The fields of control blocks and of continuation records, and the check of a record (R59, R60). -/

namespace Sys2Proof.Machine

open Sys2Proof

/-! ### Control block fields, Table 12-7 -/

namespace Rcb
/-- key slot -/
def keyslot (b : BitVec 2048) : Nat := bits b.toNat 905 896
/-- page-table root -/
def ptroot (b : BitVec 2048) : Nat := bits b.toNat 895 832
/-- heap-window ordering kind -/
def hkind (b : BitVec 2048) : Nat := bits b.toNat 771 770
/-- heap window writable -/
def hwr (b : BitVec 2048) : Bool := bitAt b.toNat 769
/-- heap window readable -/
def hrd (b : BitVec 2048) : Bool := bitAt b.toNat 768
/-- heap-window offset; bits 11:0 are read as zero (R336) -/
def hoff (b : BitVec 2048) : Nat := bits b.toNat 767 704 / 4096 * 4096
/-- heap-window limit; bits 11:0 are read as zero (R336) -/
def hlimit (b : BitVec 2048) : Nat := bits b.toNat 703 640 / 4096 * 4096
/-- heap-window base; bits 11:0 are read as zero (R336) -/
def hbase (b : BitVec 2048) : Nat := bits b.toNat 639 576 / 4096 * 4096
/-- spill area size in records -/
def spilln (b : BitVec 2048) : Nat := bits b.toNat 543 512
/-- spill area address -/
def spill (b : BitVec 2048) : Nat := bits b.toNat 511 448
/-- region signature -/
def sig (b : BitVec 2048) : Nat := bits b.toNat 447 384
/-- termination count -/
def term (b : BitVec 2048) : Nat := bits b.toNat 367 352
/-- code object handle -/
def code (b : BitVec 2048) : Nat := bits b.toNat 351 320
/-- heavy-unit grants -/
def grants (b : BitVec 2048) : Nat := bits b.toNat 311 296
/-- overflow reserve, entries a unit -/
def reserve (b : BitVec 2048) : Nat := bits b.toNat 295 288
/-- tag-space total -/
def tags (b : BitVec 2048) : Nat := bits b.toNat 280 272
/-- frame budget per die -/
def frames (b : BitVec 2048) : Nat := bits b.toNat 268 256
/-- partition word -/
def pword (b : BitVec 2048) : Nat := bits b.toNat 255 192
/-- feature mask -/
def fmask (b : BitVec 2048) : Nat := bits b.toNat 183 176
/-- configuration identity -/
def ident (b : BitVec 2048) : Nat := bits b.toNat 175 168
/-- inheritance mask -/
def inherit' (b : BitVec 2048) : Nat := bits b.toNat 167 152
/-- last row -/
def y1 (b : BitVec 2048) : Nat := bits b.toNat 151 146
/-- last column -/
def x1 (b : BitVec 2048) : Nat := bits b.toNat 145 140
/-- first row -/
def y0 (b : BitVec 2048) : Nat := bits b.toNat 139 134
/-- first column -/
def x0 (b : BitVec 2048) : Nat := bits b.toNat 133 128
/-- address of the parent block -/
def parent (b : BitVec 2048) : Nat := bits b.toNat 127 64
/-- priority -/
def prio (b : BitVec 2048) : Nat := bits b.toNat 51 48
/-- fault domain -/
def fdom (b : BitVec 2048) : Nat := bits b.toNat 47 32
/-- region number -/
def region (b : BitVec 2048) : Nat := bits b.toNat 31 16
/-- runs in logged intervals -/
def logged (b : BitVec 2048) : Bool := bitAt b.toNat 10
/-- arcs exempt from the rectangle check -/
def waive (b : BitVec 2048) : Bool := bitAt b.toNat 9
/-- privileged -/
def priv (b : BitVec 2048) : Bool := bitAt b.toNat 8
/-- level -/
def level (b : BitVec 2048) : Nat := bits b.toNat 7 0
/-- Whether a cluster lies in the rectangle. -/
def holds (b : BitVec 2048) (cl : Nat) : Bool :=
  decide (x0 b ≤ colOf cl) && decide (colOf cl ≤ x1 b) && decide (y0 b ≤ rowOf' cl) && decide (rowOf' cl ≤ y1 b)
end Rcb

/-! ### Record images, Table 02-8 -/

namespace RecImg
/-- Bits `hi:lo` of the record. -/
def fld (r : BitVec 1280) (hi lo : Nat) : Nat := bits r.toNat hi lo
/-- token type code of live value `i` -/
def ctype (r : BitVec 1280) (i : Nat) : Nat := fld r (4 * i + 195) (4 * i + 192)
/-- join counter address -/
def join (r : BitVec 1280) : Nat := fld r 191 128
/-- why it was parked -/
def cause (r : BitVec 1280) : Nat := fld r 127 120
/-- dispatch allocates a new frame -/
def newf (r : BitVec 1280) : Bool := bitAt r.toNat 116
/-- tag of the frame it resumes in -/
def tag (r : BitVec 1280) : Tag := Tag.mk (fld r 111 109) (fld r 99 88) (fld r 108 100)
/-- number of live values -/
def live (r : BitVec 1280) : Nat := fld r 84 80
/-- region number -/
def region (r : BitVec 1280) : Nat := fld r 79 64
/-- entry arc -/
def entry (r : BitVec 1280) : BitVec 32 := BitVec.ofNat 32 (fld r 63 32)
/-- live value `i` -/
def value (r : BitVec 1280) (i : Nat) : Word := BitVec.ofNat 64 (fld r (64 * i + 319) (64 * i + 256))
/-- Set bits `lo` up, `w` wide, to a value. -/
def set (r : BitVec 1280) (lo w v : Nat) : BitVec 1280 :=
  BitVec.ofNat 1280 (r.toNat - fld r (lo + w - 1) lo * 2 ^ lo + v % 2 ^ w * 2 ^ lo)
end RecImg

/-- A record image as hardware keeps it: its cause, live, not from a `cut`, not held (Table 02-8, R353). -/
def liveImage (img : BitVec 1280) (cause : Nat) : BitVec 1280 :=
  RecImg.set (RecImg.set (RecImg.set (RecImg.set img 120 8 cause) 112 1 1) 113 1 0) 114 1 0

/-- The unit of an entry arc in a cluster, if its kind is 0 to 4 (R59). -/
def entryUnit (w : BitVec 32) (cl : Nat) : Option UId := (ukindOf (Arc.kind w)).map fun k => ⟨cl, k, Arc.unit w⟩

/-- Whether a cluster holds a node of the region at an entry arc's unit and slot, as its code object fixes it (R60,
R61). -/
def hostsEntry (s : State) (rid : Nat) (w : BitVec 32) (cl : Nat) : Bool :=
  match entryUnit w cl with
  | none => false
  | some u => (s.region rid).nodes.contains (u, Arc.slot w)

/-- Whether a region is loaded: its configuration is on the fabric and it has not ended (R57, R58), be it frozen (R371;
log 35). -/
def Region.isLoaded (r : Region) : Bool := r.st == .active || r.st == .frozen

/-- The region that a region's nodes and records name by a number: itself for 0, else a loaded region of the same context
(R60, R209). -/
def namedRegion (s : State) (rid num : Nat) : Option Nat :=
  if num = 0 then some rid
  else
    let me := s.region rid
    (List.find? (fun p => p.2.num = num && p.2.cx = me.cx && p.2.part = me.part && p.2.isLoaded) s.regions).map (·.1)

/-- The region a record's region field names: 0 the parking one, else a loaded region of its context (R60). -/
def recordRegion (s : State) (rid num : Nat) : Option Nat := namedRegion s rid num

/-- Whether a record's fields are well formed (R60, R239, R244), but for the host-set condition. -/
def recordFields (r : BitVec 1280) : Bool :=
  let n := RecImg.live r
  let slot := Arc.slot (RecImg.entry r)
  decide (n ≤ 16) && decide (slot + n ≤ 16)
    && (List.range n).all (fun i => decide (RecImg.ctype r i < 14))
    && RecImg.fld r 119 117 == 0 && RecImg.fld r 87 85 == 0 && decide (RecImg.cause r ≤ 6)
    && Arc.dx (RecImg.entry r) == 0 && Arc.dy (RecImg.entry r) == 0
    && RecImg.join r / 2 ^ 56 == 0
    && (RecImg.newf r || RecImg.join r == 0 || decide (slot + n ≤ 15))

/-- The checks of R60 on a record image: the region it resumes in, or the call-target or continuation-format fault. -/
def checkRecord (s : State) (rid : Nat) (r : BitVec 1280) : Res Nat :=
  match recordRegion s rid (RecImg.region r) with
  | none => flt .callTarget (RecImg.region r)
  | some k =>
    if recordFields r && (s.region k).host.any (hostsEntry s k (RecImg.entry r)) then .ok k else flt .contFormat

end Sys2Proof.Machine
end

