-- ==== Sys2Proof/Machine/Translate.lean ====
section
/-! DEFINITION. Addresses: pointer forms (R102, R103), the heap window (R119, R337), page tables and the TLB (R338 to
R342), and reading memory as an agent sees it (R129, R376). -/

namespace Sys2Proof.Machine

open Sys2Proof

/-- Page ordering kinds (R134). -/
inductive PKind where
  | rc | un | so
deriving DecidableEq, Repr

/-- The kind of a two-bit code; 0b11 is reserved (Table 12-7, Table 13-2). -/
def PKind.ofCode? : Nat → Option PKind
  | 0 => some .rc | 1 => some .un | 2 => some .so | _ => none

/-- Whose HBM keys an access uses, and in which partition (R376): part, key slot, key generation. -/
structure KeyRef where
  part : Nat
  slot : Nat
  gen : Nat
deriving DecidableEq, Repr

/-- The keys of a region's accesses: the slot its effective control block names (R376). -/
def keysOf (s : State) (rid : Nat) : KeyRef :=
  let r := s.region rid
  let k := Rcb.keyslot r.rcb
  ⟨r.part, k, (AL.get KeySlot.none s.hg.slots k).gen⟩

/-- The memory key of a partition-relative physical address (R117). -/
def physKey (s : State) (p : Nat) (a : Nat) : Nat :=
  let q := s.part p
  placeHbm q.west q.strips q.hashMask a

/-- Where an access lands: the pool of a cluster, or HBM with the page's kind and rights. -/
structure Target where
  key : Nat
  pool : Bool
  cl : Nat
  off : Nat
  phys : Nat
  kind : PKind
  ident : Nat
  r : Bool
  w : Bool
deriving DecidableEq, Repr

/-- The line of a target. -/
def Target.line (t : Target) : Nat := lineOf t.key

/-- The encryption tag that a write through a target carries (R376). -/
def Target.enc (t : Target) (k : KeyRef) : Option EncTag :=
  if t.pool then none else some (.key k.slot k.gen (t.phys / 64))

/-- What translation finds (R340, R345, R347, R348). -/
inductive Found where
  | at (t : Target)
  | walk
  | page (level pte line : Nat)
  | migr (line : Nat)
  | no (f : Flt)
deriving DecidableEq, Repr

/-! ### Plain reads -/

/-- A tag as a list of numbers. -/
def EncTag.code : EncTag → List Nat
  | .any => [0]
  | .lost => [1]
  | .key a b c => [2, a, b, c]
  | .over a b c u => 3 :: a :: b :: c :: u.code

/-- A byte of HBM that its reader did not write under its own keys and tweak: a free function of the 16-byte cipher block
that holds it, of how that is encrypted, and of the reader's keys and tweak (R376, R414; log 3). -/
def foreignByte (s : State) (k : KeyRef) (key phys : Nat) : Byte :=
  let block := key / 16 * 16
  Config.hbmByte key [k.slot, k.gen, phys / 64]
    ((List.range 16).flatMap fun i => ((encOf s (block + i)).getD .lost).code) (Memory.readN s.mem block 16)

/-- A byte of HBM as the holder of some keys reads it: what was last written under those keys, a zero where hardware
zeroed it, else a free byte (R376, R418). -/
def hbmByteAt (s : State) (k : KeyRef) (key phys : Nat) : Byte :=
  match encOf s key with
  | some .any => Memory.read s.mem key
  | some (.key sl g tw) =>
    if sl = k.slot ∧ g = k.gen ∧ tw = phys / 64 then Memory.read s.mem key else foreignByte s k key phys
  | _ => foreignByte s k key phys

/-- The `n` bytes of HBM at physical address `a` of a partition, as every agent outside the cluster sees them. -/
def physRead (s : State) (k : KeyRef) (a : Nat) : Nat → Nat
  | 0 => 0
  | n + 1 => (hbmByteAt s k (physKey s k.part a) a).toNat + 256 * physRead s k (a + 1) n

/-! ### Page tables -/

/-- What one walk found: a leaf with page size and the table lines read, or why there is none. -/
inductive Walked where
  | leaf (size e : Nat) (lines : List Nat)
  | page (level pte line : Nat)
  | migr (line : Nat)
  | no (f : Flt)
deriving DecidableEq, Repr

/-- Detail of a page-table or page-unmappable fault: level and physical address of the entry (Table 13-5). -/
def walkDetail (level pte : Nat) : Nat := level * 2 ^ 40 + pte % 2 ^ 40

/-- The table index of a virtual address at a level (Table 13-1). -/
def levelIndex (level a : Nat) : Nat :=
  match level with
  | 0 => bits a 51 39 | 1 => bits a 38 30 | 2 => bits a 29 21 | _ => bits a 20 12

/-- Page size of a leaf at a level (Table 13-1, Table 13-2). -/
def leafSize (level e : Nat) : Nat :=
  match level with
  | 1 => 2 ^ 30 | 2 => 2 ^ 21 | _ => if bitAt e 61 then 2 ^ 16 else 2 ^ 12

/-- Whether a leaf entry breaks R340, for a partition of `limit` bytes. DEDUCED (log 57): a page that begins inside the
partition's memory and ends beyond it lies beyond it. -/
def leafBad (level e limit : Nat) : Bool :=
  let size := leafSize level e
  let frame := bits e 39 12 * 4096
  level == 0 || (bitAt e 61 && level != 3) || bits e 45 40 != 0 || bits e 11 0 != 0 || bits e 58 57 == 3
    || frame % size != 0 || decide (limit < frame + size)

/-- Whether a table entry breaks R340. -/
def tableBad (level e limit : Nat) : Bool :=
  level == 3 || bits e 61 40 != 0 || bits e 11 0 != 0 || decide (limit < bits e 39 12 * 4096 + 4096)

/-- Walk from a level's table (R338 to R340); `fuel` is the levels that remain. The fields of a leaf are read only where it
is resident. DESIGN CHOICE (log 57): `dead` is looked at before them, and `migr` after them. -/
def walkFrom (s : State) (k : KeyRef) (limit a : Nat) : Nat → Nat → Nat → List Nat → Walked
  | 0, level, table, _ => .no ⟨.pageTable, walkDetail level table, a⟩
  | fuel + 1, level, table, lines =>
    let pte := table + 8 * levelIndex level a
    let key := physKey s k.part pte
    let line := lineOf key
    let lines := lines ++ [line]
    if limit < pte + 8 then .no ⟨.pageTable, walkDetail level pte, a⟩
    else if s.poison.contains line then .no ⟨.memError, pte / 64 * 64, a⟩
    else
      let e := physRead s k pte 8
      let bad := Walked.no ⟨.pageTable, walkDetail level pte, a⟩
      if !bitAt e 63 then .page level pte line
      else if bitAt e 62 then
        if level = 0 then bad
        else if bitAt e 46 then .no ⟨.unmappable, walkDetail level pte, a⟩
        else if !bitAt e 60 then .page level pte line
        else if leafBad level e limit then bad
        else if bitAt e 59 then .migr line
        else .leaf (leafSize level e) e lines
      else if tableBad level e limit then bad
      else walkFrom s k limit a fuel (level + 1) (bits e 39 12 * 4096) lines

/-- The walk of a region's page tables for a device virtual address (R342). -/
def walk (s : State) (rid a : Nat) : Walked :=
  walkFrom s (keysOf s rid) (s.part (s.region rid).part).hbmBytes a 4 0 (Rcb.ptroot (s.region rid).rcb) []

/-- The target that a leaf entry gives an address (R339). -/
def leafTarget (s : State) (rid a size e : Nat) : Found :=
  match PKind.ofCode? (bits e 58 57) with
  | none => .no ⟨.pageTable, 0, a⟩
  | some k =>
    let p := bits e 39 12 * 4096 / size * size + a % size
    .at ⟨physKey s (s.region rid).part p, false, 0, 0, p, k, bits e 54 47, bitAt e 55, bitAt e 56⟩

/-- The heap window of a region, if it holds the address (R119, R336, R337); it holds none at or above 2^52. -/
def heapTarget (s : State) (rid a : Nat) : Option Found :=
  let b := (s.region rid).rcb
  if Rcb.hbase b ≤ a ∧ a < min (Rcb.hbase b + Rcb.hlimit b) (2 ^ 52) then
    let p := (a + Rcb.hoff b) % 2 ^ 40
    if (s.part (s.region rid).part).hbmBytes ≤ p then some (.no ⟨.address, 0, a⟩)
    else some (match PKind.ofCode? (Rcb.hkind b) with
      | some k => .at ⟨physKey s (s.region rid).part p, false, 0, 0, p, k, 0, Rcb.hrd b, Rcb.hwr b⟩
      | none => .no ⟨.address, 0, a⟩)
  else none

/-- The TLB entry of a port that maps an address (R342). -/
def tlbFind (h : HwUnit) (cx a : Nat) : Option TlbEntry :=
  h.tlb.find? fun e => e.cx = cx && decide (e.base ≤ a) && decide (a < e.base + e.size)

/-- Fill a TLB, dropping the least recently used of 32 entries; the newest stands last (R342). With an entry the port's
read buffer goes, as it may at any time (R135), so that a buffered line of a page always has its entry. -/
def tlbFill (h : HwUnit) (e : TlbEntry) : HwUnit :=
  let l := h.tlb.filter (· != e)
  { h with
    tlb := (if 32 ≤ l.length then l.drop 1 else l) ++ [e]
    readBuf := if 32 ≤ l.length then [] else h.readBuf }

/-- A hit makes its entry the most recently used (R342). -/
def touchTlb (s : State) (u : UId) (rid v : Nat) : State :=
  match tlbFind (s.unit u) (s.region rid).cx v with
  | some e => s.modUnit u fun h => { h with tlb := h.tlb.filter (· != e) ++ [e] }
  | none => s

/-- Translate in a port: heap window, else TLB, else a walk is needed (R119). -/
def lookup (s : State) (u : UId) (rid a : Nat) : Found :=
  match heapTarget s rid a with
  | some f => f
  | none =>
    match tlbFind (s.unit u) (s.region rid).cx a with
    | some e => leafTarget s rid a e.size e.leaf
    | none => .walk

/-- The result of a finished walk: the port's TLB filled, and what was found (R342). Where that drops an entry, the stores
that the cluster holds drain, so that a held store of a page always has its entry (R149). -/
def finishWalk (s : State) (u : UId) (rid a : Nat) : Found × State :=
  match walk s rid a with
  | .leaf size e lines =>
    let s := if 32 ≤ (s.unit u).tlb.length then drainWhere s fun c _ => c == u.cl else s
    (leafTarget s rid a size e,
      s.modUnit u fun h => tlbFill h ⟨(s.region rid).cx, a / size * size, size, e, lines⟩)
  | .page l p k => (.page l p k, s)
  | .migr k => (.migr k, s)
  | .no f => (.no f, s)

/-! ### Pointer forms -/

/-- The pointer forms of Table 04-1. -/
inductive Form where
  | virt (a : Nat)
  | pool (cl off : Nat)
deriving DecidableEq, Repr

/-- The form of a pointer that a unit of cluster `cl` uses (R102). -/
def formOf (s : State) (cl : Nat) (v : Nat) : Option Form :=
  match v / 2 ^ 56 with
  | 0x00 => if bits v 55 52 = 0 then some (.virt (bits v 51 0)) else none
  | 0xFC => if bits v 55 19 = 0 then some (.pool cl (bits v 18 0)) else none
  | 0xFD =>
    if bits v 55 31 = 0 then
      let x := 4 * (s.part (partOf s cl)).west + bits v 30 25
      some (.pool (bits v 24 19 * 64 + x) (bits v 18 0))
    else none
  | _ => none

/-- Whether a pointer is a pool-window one (R103). -/
def isWindow (v : Nat) : Bool := v / 2 ^ 56 == 0xFD

/-- The pool target of an access of `n` bytes, or the address fault of R103. -/
def poolTarget (s : State) (rid : Nat) (window : Bool) (cl off n v : Nat) : Res Target := do
  need (decide (off + n ≤ padSize s cl)) .address 0 v
  need (!window || (decide (cl < 4096) && Rcb.holds (s.region rid).rcb cl)) .address 0 v
  return ⟨poolKey cl off, true, cl, off, 0, .rc, 0, true, true⟩

/-- Checks 2 to 4 of Table 08-1: pointer form, alignment, pool bound and rectangle. -/
def checkPointer (s : State) (u : UId) (rid v n align : Nat) : Res Form :=
  match formOf s u.cl v with
  | none => flt .address 0 v
  | some (.virt a) => do
    need (a % align == 0) .alignment 0 v
    return .virt a
  | some (.pool cl off) => do
    need (off % align == 0) .alignment 0 v
    let _ ← poolTarget s rid (isWindow v) cl off n v
    return .pool cl off

/-- Find the target of a checked pointer in a port. -/
def findTarget (s : State) (u : UId) (rid n v : Nat) : Form → Found
  | .virt a => lookup s u rid a
  | .pool cl off =>
    match poolTarget s rid (isWindow v) cl off n v with
    | .ok t => .at t
    | .error (.fault f) => .no f
    | .error .wait => .walk

/-- Checks 6 and 7 of Table 08-1: permission and configuration identity. -/
def checkRights (s : State) (rid : Nat) (t : Target) (rd wr : Bool) (v : Nat) : Res Unit := do
  need ((!rd || t.r) && (!wr || t.w)) .permission 0 v
  need (t.pool || t.ident == 0 || t.ident == Rcb.ident (s.region rid).rcb) .identity t.ident v

/-- Pages that wait: raise nothing, hold (R345). -/
def pageDetail (level pte : Nat) : Nat := walkDetail level pte

/-! ### Reading as an agent sees -/

/-- Whose view of memory a read takes (R129): what every agent sees, or that with every store that the cluster has
accepted, as its memory ports see it. -/
inductive View where
  | outside | cluster
deriving DecidableEq, Repr

/-- The stores of a cluster's write queue that a view sees, oldest first. -/
def viewStores (s : State) (v : View) (cl : Nat) : List HeldStore :=
  match v with
  | .outside => []
  | .cluster => (s.cluster cl).writeQ

/-- The last value that a list of cells gives a key. -/
def overlay (l : List Host.Cell) (k : Nat) (b : Byte) : Byte :=
  l.foldl (fun b c => if c.1 = k then c.2 else b) b

/-- A store of an interval log where its page lies now, which is where it is performed; none while the page migrates
(R147, R149). -/
def LogStore.placed (s : State) (e : LogStore) : Option LogStore :=
  match e.va with
  | none => some e
  | some a =>
    match walk s e.rid a with
    | .migr _ => none
    | .leaf size l _ =>
      match leafTarget s e.rid a size l with
      | .at t => some { e with
          line := t.line, bytes := e.bytes.map fun c => (c.1 - e.line + t.line, c.2), enc := t.enc (keysOf s e.rid) }
      | _ => some e
    | _ => some e

/-- The address of a store of an interval log that page tables place: neither a pool nor a heap-window one (R119). -/
def pagedAt (s : State) (rid : Nat) (t : Target) (v : Nat) : Option Nat :=
  if t.pool || (heapTarget s rid v).isSome then none else some v

/-- What a region holds in a cluster's interval log, oldest first, each store where its page lies now. -/
def logOf (s : State) (rid cl : Nat) : List LogStore :=
  ((s.cluster cl).ilog.filter fun e => e.rid = rid).map fun e => (e.placed s).getD e

/-- The stores to a line that a region holds in a cluster's interval log, oldest first: its accesses in that cluster, and
no other access, see them (R146). -/
def logStores (s : State) (rid cl line : Nat) : List LogStore := (logOf s rid cl).filter fun e => e.line = line

/-- Whether a region holds in a log a store to a page that migrates: its logs are not committed before the page has come to
its place (R147, R149). -/
def logMigrates (s : State) (rid : Nat) : Bool :=
  (s.region rid).host.any fun cl => (s.cluster cl).ilog.any fun e => e.rid == rid && (e.placed s).isNone

/-- The bytes of a line that the held stores of a view write, oldest first. -/
def heldCells (s : State) (v : View) (cl line : Nat) : List Host.Cell :=
  ((viewStores s v cl).filter (·.line = line)).flatMap (·.bytes)

/-- The cells that overlay a line for a region's access in a cluster: held stores, then the region's own log (R146). -/
def overlays (s : State) (v : View) (rid cl line : Nat) : List Host.Cell :=
  heldCells s v cl line ++ (logStores s rid cl line).flatMap (·.bytes)

/-- The `n` bytes of a target under a region's keys, with cells that overlay them. -/
def readUnder (s : State) (rid : Nat) (t : Target) (ov : List Host.Cell) (n : Nat) : Nat :=
  let k := keysOf s rid
  let base := fun (i : Nat) =>
    if t.pool then Memory.read s.mem (t.key + i) else hbmByteAt s k (t.key + i) (t.phys + i)
  (List.range n).foldr (fun i acc => (overlay ov (t.key + i) (base i)).toNat + 256 * acc) 0

/-- The `n` bytes of a target as a region's access in a cluster reads them. -/
def readTarget (s : State) (v : View) (rid cl : Nat) (t : Target) (n : Nat) : Nat :=
  readUnder s rid t (overlays s v rid cl t.line) n

/-- The descriptor of a line as a view sees it, without what any interval log holds (R87, R122). -/
def heldDesc (s : State) (v : View) (cl line : Nat) : Desc :=
  ((viewStores s v cl).filter (·.line = line)).foldl (fun d e => e.desc.getD d)
    (BitVec.ofNat 16 (Memory.readN s.mem (descKey line) 2))

/-- A descriptor as a region's own log changes it (R146). -/
def logDesc (s : State) (rid cl line : Nat) (d : Desc) : Desc := (logStores s rid cl line).foldl (fun d e => e.desc.getD d) d

/-- The descriptor of a target's line as a region's access in a cluster reads it (R87, R122). -/
def readDesc (s : State) (v : View) (rid cl : Nat) (t : Target) : Desc :=
  logDesc s rid cl t.line (heldDesc s v cl t.line)

/-- The target of the line that holds a target. -/
def Target.lineTarget (t : Target) : Target :=
  { t with key := t.line, off := t.off / 64 * 64, phys := t.phys / 64 * 64 }

/-- Line format codes that are assigned, Table 03-7 (R88). -/
def formatOk (f : Nat) : Bool :=
  [0x00, 0x01, 0x02, 0x03, 0x04, 0x05, 0x07, 0x08, 0x09, 0x0A, 0x10].contains f

end Sys2Proof.Machine
end

