-- ==== Sys2Proof/Machine/Frames.lean ====
section
/-! DEFINITION. Logged intervals (R146 to R148, R361), frames and their copies (R48 to R54), and sending tokens (R154,
R178). -/

namespace Sys2Proof.Machine

open Sys2Proof

/-! ### Logged intervals (R146 to R148, R361) -/

/-- Whether a store of the region is held in an interval log now (R146, R148). -/
def logging (s : State) (rid : Nat) : Bool := (s.region rid).logged && !(s.region rid).irrevocable

/-- Whether a scalar store or atomic of a declared format may write a line of a format (R122, R220). -/
def formatAdmits (line decl : Nat) : Bool := line == 0x00 || line == decl || (decl == 0x09 && line == 0x10)

/-- Whether a line of a descriptor admits a store (R122, R123). -/
def Admit.holds (a : Admit) (d : Desc) : Bool :=
  match a with
  | .any => true
  | .scalar f => formatAdmits (d.toNat / 2 ^ 8) f
  | .masked e => d.toNat / 2 ^ 8 == 0 || d == e

/-- Perform a held store of an interval log: it is checked against the descriptor its line has at that instant (R124, R147).
The port's read buffers let the line go (R135). -/
def commitStore (s : State) (cl : Nat) (e : LogStore) : State :=
  let s := dropLine (if translates s e.line then landAll s else drainLine s e.line fun _ _ => true) cl e.line
  let d : Desc := BitVec.ofNat 16 (Memory.readN s.mem (descKey e.line) 2)
  if e.rule.holds d then landWrite s e.line e.bytes e.desc e.enc
  else takeFault s e.site ⟨.format, d.toNat, e.site.aval.toNat⟩

/-- Perform the held stores of a region in one cluster's log, oldest first, each where its page lies (R147, R149). DESIGN
CHOICE (log 58): the log overflow of an undo entry, which cannot wait, leaves a store to a migrating page at its old
frame. -/
def commitCluster (s : State) (rid cl : Nat) : State :=
  let s := (logOf s rid cl).foldl (fun s e => commitStore s cl e) s
  s.modCluster cl fun c => { c with ilog := c.ilog.filter (·.rid != rid), undo := c.undo.filter (·.1 != rid) }

/-- Commit the logs of every cluster of the host set (R147). -/
def commitLogs (s : State) (rid : Nat) : State :=
  (s.region rid).host.foldl (fun s cl => commitCluster s rid cl) s

/-- An irrevocable operation commits what is held and makes the interval irrevocable (R148). -/
def makeIrrevocable (s : State) (rid : Nat) : State :=
  if logging s rid then (commitLogs s rid).modRegion rid fun r => { r with irrevocable := true } else s

/-- The number of the next undo entry: above that of every entry that a cluster holds, each of which has its newest first. -/
def nextUndo (s : State) : Nat :=
  (s.clusters.map fun p => match p.2.undo with | e :: _ => e.2.1 + 1 | [] => 0).foldl max 0

/-- Record an undo entry before a change in a logged interval; where there is no room the interval becomes irrevocable
(R361). -/
def logUndo (s : State) (rid cl : Nat) (u : Undo) : State :=
  if logging s rid then
    if ilogRoom s cl = 0 then makeIrrevocable s rid
    else s.modCluster cl fun c => { c with undo := (rid, nextUndo s, u) :: c.undo }
  else s

/-! ### Frames -/

/-- The part of a tag that names a frame, as fault details give it: bits 23:9 (Table 13-5, 0x0B). -/
def frameBits (t : Tag) : Nat := t.toNat / 2 ^ 9 * 2 ^ 9

/-- The frame of a tag in a region. -/
def frameAt (s : State) (rid : Nat) (t : Tag) : Frame := s.frame rid t.die t.frame

/-- Change a frame, recording the undo entry (R361); `cl` is the cluster whose log takes it. -/
def changeFrame (s : State) (rid cl : Nat) (t : Tag) (f : Frame) : State :=
  (logUndo s rid cl (.frame t.die t.frame (frameAt s rid t))).setFrame rid t.die t.frame f

/-- The records in a cluster's frame class: those parked there, and those that wait in a queue for their dispatch after that
(R60, R62). -/
def recordsIn (s : State) (cl : Nat) : Nat :=
  ((s.cluster cl).parked.filter fun r => !r.spilled).length
    + ((s.clusters.flatMap fun p => p.2.disp).filter fun r => r.home == some cl).length

/-- Bytes of a cluster's frame class that copies and parked records take (R48, R60). -/
def frameUsed (s : State) (cl : Nat) : Nat :=
  2080 * (s.frames.filter fun p => p.2.copies.contains cl).length + 160 * recordsIn s cl

/-- Whether the frame class of a cluster has room for one more copy (R51). -/
def copyRoom (s : State) (cl : Nat) : Bool := frameUsed s cl + 2080 ≤ classSize (s.cluster cl).pword 1

/-- A place in the frame class of a cluster, as an offset of its pool. -/
def frameClassAt (s : State) (cl place : Nat) : Nat :=
  classBase (s.cluster cl).pword 1 + place % max 1 (classSize (s.cluster cl).pword 1)

/-- The pool offset of a byte of a frame's copy at a cluster (R48; log 61). -/
def copyOffset (s : State) (rid : Nat) (t : Tag) (cl off : Nat) : Nat :=
  frameClassAt s cl (Config.copyPlace cl rid t.die t.frame + off)

/-- The line of the pool that holds a byte of a frame's copy. -/
def frameLine (s : State) (rid : Nat) (t : Tag) (cl off : Nat) : Nat := poolKey cl (copyOffset s rid t cl off / 64 * 64)

/-- Demand that the line of a byte of a frame's copy has no uncorrectable error (R355). -/
def copyClean (s : State) (rid : Nat) (t : Tag) (cl off : Nat) : Res Unit :=
  let p := copyOffset s rid t cl off / 64 * 64
  need (!s.poison.contains (frameLine s rid t cl off)) .poolError p (0xFC * 2 ^ 56 + p)

/-- The lines of a new copy of a frame, 260 words that hardware writes, have no uncorrectable error (R51, R355). -/
def cleanCopy (s : State) (rid : Nat) (t : Tag) (cl : Nat) : State :=
  { s with poison := s.poison.filter fun k => !(List.range 260).any fun i => k == frameLine s rid t cl (8 * i) }

/-- A frame with copies at more clusters (R51): each reads zero but for the slots that an `fbcast` has written. -/
def Frame.copiedAt (f : Frame) (cls : List Nat) : Frame :=
  { f with
    copies := f.copies ++ cls
    slots := cls.foldl (fun m cl => f.bcast.foldl (fun m p => AL.set m (cl, p.1) p.2) m) f.slots }

/-- Make sure a cluster holds a copy of a live frame, or wait for room (R51). -/
def ensureCopy (s : State) (rid : Nat) (t : Tag) (cl : Nat) : Res State :=
  let f := frameAt s rid t
  if f.copies.contains cl then .ok s
  else if copyRoom s cl then
    .ok ((cleanCopy s rid t cl).setFrame rid t.die t.frame (f.copiedAt [cl]))
  else .error .wait

/-- Demand that the frame of a tag is live (R54). -/
def needLive (s : State) (rid : Nat) (t : Tag) : Res Unit :=
  need ((frameAt s rid t).st == .live) .frameBusy (frameBits t)

/-- Write one frame slot of a cluster's copy for the firing of an issue number; of two writes to it the one issued later
stays (R52). -/
def writeSlot (s : State) (rid : Nat) (t : Tag) (cl slot : Nat) (v : Word) (seq : Nat) : Res State := do
  needLive s rid t
  let s ← ensureCopy s rid t cl
  copyClean s rid t cl (32 + 8 * slot)
  let f := frameAt s rid t
  return if AL.get 0 f.stamps (cl, slot) ≤ seq then
      changeFrame s rid cl t
        { f with slots := AL.set f.slots (cl, slot) v, stamps := AL.set f.stamps (cl, slot) seq }
    else s

/-- Read one frame slot of a cluster's copy (R52). -/
def readSlot (s : State) (rid : Nat) (t : Tag) (cl slot : Nat) : Res (Word × State) := do
  needLive s rid t
  let s ← ensureCopy s rid t cl
  copyClean s rid t cl (32 + 8 * slot)
  return (AL.get 0 (frameAt s rid t).slots (cl, slot), s)

/-! ### Sending tokens -/

/-- Latency of an element instruction by its opcode (Tables 07-3, 07-5 and 07-11, R185 to R200). DESIGN CHOICE: `trap`, `brk`
and `rdctr`, for which no table gives one, have 1 (log 2). -/
def latency (op : Nat) : Nat :=
  if op = 0x02 ∨ op = 0x03 then 3
  else if op = 0x04 ∨ op = 0x05 then 16
  else if [0x20, 0x21, 0x22, 0x30, 0x31, 0x32, 0x40, 0x41, 0x42, 0x48, 0x49, 0x4A, 0x59, 0x5A, 0x72, 0x74].contains op then 3
  else if op = 0x23 ∨ op = 0x33 then 4
  else if [0x29, 0x2A, 0x2B, 0x2C, 0x39, 0x3A, 0x3B, 0x3C].contains op then 6
  else if op = 0x3D ∨ op = 0x46 ∨ op = 0x4E then 5
  else if (0x50 ≤ op ∧ op ≤ 0x58) ∨ op = 0x70 ∨ op = 0x75 ∨ op = 0x76 then 2
  else 1

/-- The clock in which the next token of a firing leaves its unit (R179): an element's, `L` clocks after its issue, two in a
clock. -/
def departs (s : State) (c : Cur) : Nat :=
  if c.u.kind = .el then
    let op := bits (AL.get (0, 0) (s.unit c.u).words c.f.slot).1.toNat 31 24
    s.clock + latency op + (s.net.filter fun f => f.src == c.u && f.seq == c.f.seq).length / 2
  else s.clock

/-- A token that a firing sends on an arc entry, to a target cluster. -/
def flitOf (s : State) (c : Cur) (k rid : Nat) (w : BitVec 32) (cl : Nat) (p : Payload) (t : Tag) : Flit :=
  ⟨c.u, k, rid, cl, Arc.kind w, Arc.unit w, Arc.slot w, Arc.side w, p, t, c.f.seq, departs s c⟩

/-- The number under which tokens on a return arc keep their order (R26): the tokens of one unit to one return arc are
sent on one arc, those to different return arcs are not. -/
def retArc (w : BitVec 32) : Nat := 16 + w.toNat

/-- Whether a payload carries a set scaled bit. -/
def Payload.scaled : Payload → Bool
  | .scal x => x.sc
  | .line _ _ _ => false

/-- The 64-bit value of a payload; of a line, its first 8 bytes. -/
def Payload.value : Payload → Word
  | .scal x => x.val
  | .line d _ _ => d.extractLsb' 0 64

/-- Send a token on arc entry `k` of a unit (R178). A frame slot takes no scaled value (R91). -/
def sendArc (s : State) (c : Cur) (k : Nat) (p : Payload) (t : Tag) : Res State :=
  let w := AL.get 0 (s.unit c.u).arcs k
  if Arc.valid w then
    if Arc.kind w == 6 && p.scaled then flt .scaleMismatch
    else .ok (post s (flitOf s c k c.f.rid w (Arc.target w c.u.cl) p t))
  else .ok s

/-- Send a token to one destination select, Table 06-4 (R154). -/
def sendTo (s : State) (c : Cur) (d : Dst) (p : Payload) (t : Tag) : Res State :=
  match d with
  | .arc k => sendArc s c k.toNat p t
  | .slot =>
    if p.scaled then flt .scaleMismatch
    else writeSlot s c.f.rid t c.u.cl (bits (AL.get 0 (s.unit c.u).lits 12).toNat 6 0) p.value c.f.seq
  | .ret =>
    let f := frameAt s c.f.rid c.f.tag
    if Arc.valid f.retarc then
      if Arc.kind f.retarc == 6 && p.scaled then flt .scaleMismatch
      else .ok (post s (flitOf s c (retArc f.retarc) f.retRid f.retarc (Arc.absTarget f.retarc) p t))
    else .ok s
  | .term => .ok (post s ⟨c.u, 14, c.f.rid, c.u.cl, sinkKind, 0, 0, false, p, t, c.f.seq, departs s c⟩)
  | .none => .ok s

/-- Send one token to each distinct destination of two (R178). -/
def sendBoth (s : State) (c : Cur) (d e : Dst) (p : Payload) (t : Tag) : Res State := do
  let s ← sendTo s c d p t
  if e = d then return s else sendTo s c e p t

end Sys2Proof.Machine
end

