-- ==== Sys2Proof/Machine/Rollback.lean ====
section
/-! DEFINITION. Records that are enqueued, parked and spilled (R60, R61), and the rollback of a region to its last cut
(R362). -/

namespace Sys2Proof.Machine

open Sys2Proof

/-- Entries of a dispatcher queue (R61). -/
def queueSize : Nat := 64

/-- The records that have a place in the spill area of a region, the queued ones until they are dispatched (R60 to R62). -/
def spilledOf (s : State) (rid : Nat) : List Rec :=
  (s.region rid).spill ++ s.clusters.flatMap fun p => (p.2.parked ++ p.2.disp).filter fun r => r.rid = rid && r.spilled

/-- A record in the spill area of its region, its spilled bit set: in the place it has, else in the lowest free one; none
while the area is full (R60). DESIGN CHOICE: the area is an array of 160-byte places, filled from the lowest (log 51). -/
def spillRec (s : State) (r : Rec) : Option Rec :=
  let free := (List.range (Rcb.spilln (s.region r.rid).rcb)).find? fun k => (spilledOf s r.rid).all fun q => q.spot != k
  (if r.spilled then some r.spot else free).map fun k =>
    { r with img := RecImg.set r.img 115 1 1, spilled := true, spot := k, home := none }

/-- A record's image written into its place of the spill area, 32 bytes at a time, by way of the heap window (R60). -/
def writeSpill (s : State) (r : Rec) : State :=
  (List.range 5).foldl (fun s i =>
    match heapTarget s r.rid (Rcb.spill (s.region r.rid).rcb + 160 * r.spot + 32 * i) with
    | some (.at t) =>
      visibleWrite s t.line (cellsOf t.key 32 (RecImg.fld r.img (256 * i + 255) (256 * i))) none (t.enc (keysOf s r.rid))
    | _ => s) s

/-- A record as a dispatcher queue holds it (Table 02-9): its spilled bit is clear, and the memory that holds it is its own
until its tokens are emitted (R62). -/
def Rec.inQueue (r : Rec) : Rec := { r with img := RecImg.set r.img 115 1 0 }

/-- A record in the frame class of the cluster that parks it (R60). -/
def Rec.inFrameClass (r : Rec) : Rec := { r with img := RecImg.set r.img 115 1 0, spilled := false, spot := 0, home := none }

/-- The host cluster that a record goes to: fewest queued, then lowest number (R61). -/
def dispatcherFor (s : State) (rid : Nat) (w : BitVec 32) : Option Nat :=
  ((s.region rid).host.filter (hostsEntry s rid w)).foldl
    (fun best cl => match best with
      | none => some cl
      | some b =>
        let lb := (s.cluster b).disp.length
        let lc := (s.cluster cl).disp.length
        if lc < lb ∨ (lc = lb ∧ cl < b) then some cl else some b) none

/-- Enqueue a record whose wait has ended (R61): at a dispatcher, or in the spill area; `none` while both are full. -/
def enqueueRecord (s : State) (r : Rec) : Option State :=
  match dispatcherFor s r.rid (RecImg.entry r.img) with
  | none => some s
  | some cl =>
    if (s.cluster cl).disp.length < queueSize then
      some (s.modCluster cl fun c => { c with disp := c.disp ++ [r.inQueue] })
    else (spillRec s r).map fun q => writeSpill (s.modRegion r.rid fun g => { g with spill := g.spill ++ [q] }) q

/-- Enqueue the cut record of a region; with every place full it waits among the spilled ones (R250, R362). -/
def requeue (s : State) (rid : Nat) (img : BitVec 1280) : State :=
  let e : Rec := ⟨0, img, rid, false, false, none, 0, none⟩
  (enqueueRecord s e).getD (s.modRegion rid fun g => { g with spill := g.spill ++ [e] })

/-- Park a record at a cluster: in its frame class, else in the spill area; `none` while both are full (R60). DESIGN CHOICE:
the spill area is that of the region that the record names, which need not be the parking one (log 51). -/
def parkRecord (s : State) (cl : Nat) (r : Rec) : Option State :=
  if frameUsed s cl + 160 ≤ classSize (s.cluster cl).pword 1 then
    some (s.modCluster cl fun c => { c with parked := c.parked ++ [r.inFrameClass] })
  else (spillRec s r).map fun q => writeSpill (s.modCluster cl fun c => { c with parked := c.parked ++ [q] }) q

/-! ### Discarding a region's tokens, rollback -/

/-- A unit without the tokens, firings and issued work of a region (R58, R359, R362). -/
def HwUnit.discard (rid : Nat) (h : HwUnit) : HwUnit :=
  { h with
    store := h.store.filter (·.rid != rid)
    ready := h.ready.filter (·.rid != rid)
    formed := h.formed.filter (·.rid != rid)
    ingress := h.ingress.filter (·.rid != rid)
    withheld := h.withheld.filter (·.2.rid != rid)
    access := h.access.filter (·.f.rid != rid)
    sideLog := h.sideLog.filter (·.f.rid != rid)
    ops := h.ops.filter (·.f.rid != rid)
    watchers := h.watchers.filter (·.f.rid != rid) }

/-- A cluster without the tokens and stalled firings of a region; records too where `records`. -/
def Cluster.discard (rid : Nat) (records : Bool) (c : Cluster) : Cluster :=
  { c with
    tileIn := c.tileIn.filter (·.2.rid != rid)
    slotWait := c.slotWait.filter (·.f.rid != rid)
    wakeBuf := c.wakeBuf.filter (·.rid != rid)
    bankA := { c.bankA with claims := c.bankA.claims.filter (·.2.rid != rid) }
    bankB := { c.bankB with claims := c.bankB.claims.filter (·.2.rid != rid) }
    disp := if records then c.disp.filter (·.rid != rid) else c.disp
    parked := if records then c.parked.filter (·.rid != rid) else c.parked }

/-- A unit that waits for the token it has refused only while one of the tokens given is that token (R39). -/
def HwUnit.refuses (net : List Flit) (h : HwUnit) : HwUnit :=
  { h with refused := h.refused.filter fun a => net.any fun f => f.src == a.1 && f.arc == a.2 }

/-- Discard every token of a region, its stalled firings, and its records where `records` (R58, R362). The stores that its
ports have accepted reach memory first (R129, R134). A unit that had refused one of the tokens accepts others again
(R39). -/
def discardTokens (s : State) (rid : Nat) (records : Bool) : State :=
  let s := drainWhere s fun _ e => e.rid == rid
  let net := s.net.filter (·.rid != rid)
  let s := { s with
    net
    units := s.units.map fun p => (p.1, (p.2.discard rid).refuses net)
    clusters := s.clusters.map fun p => (p.1, p.2.discard rid records)
    frames := s.frames.map fun p =>
      if p.1.1 = rid then (p.1, { p.2 with talloc := [] }) else p
    regions := s.regions.map fun p =>
      (p.1, { p.2 with falloc := p.2.falloc.filter (·.2.f.rid != rid) }) }
  if records then s.modRegion rid fun r => { r with spill := [] } else s

/-- Apply one undo entry (R361, R362). A rollback has discarded the stalled allocations of a frame. -/
def applyUndo (s : State) (rid : Nat) (u : Undo) : State :=
  match u with
  | .frame die fr old => s.setFrame rid die fr { old with talloc := [] }
  | .tile cl k old => s.modCluster cl fun c => { c with tiles := AL.set c.tiles k old }
  | .stream u k old => s.modUnit u fun h =>
    { h with streams := match old with | some x => AL.set h.streams k { x with ahead := [] } | none => AL.del h.streams k }
  | .pool _ old => { s with mem := Memory.writeCells s.mem old }

/-- A cluster without the lookup-matrix work of a region; a pass of it no longer runs. -/
def Cluster.dropRuns (rid : Nat) (c : Cluster) : Cluster :=
  { c with
    pass := if c.look.any fun r => r.f.rid == rid then { c.pass with running := false } else c.pass
    look := c.look.filter fun r => r.f.rid != rid
    build := c.build.filter fun r => r.f.rid != rid
    drains := c.drains.filter fun r => r.f.rid != rid }

/-- Put an undo entry in its place in a list that has the newest first. -/
def insertUndo (e : Nat × Undo) : List (Nat × Undo) → List (Nat × Undo)
  | [] => [e]
  | d :: l => if d.1 ≤ e.1 then e :: d :: l else d :: insertUndo e l

/-- The undo entries of a region in every cluster, newest first. -/
def undoOf (s : State) (rid : Nat) : List (Nat × Undo) :=
  ((s.clusters.flatMap fun p => p.2.undo.filter (·.1 = rid)).map (·.2)).foldr insertUndo []

/-- Whether an operation is a remote or Culvert command in flight, which completes whatever becomes of the interval: it was
issued before the last cut, since an interval with one is irrevocable (R148, R295). -/
def inFlight (rid : Nat) (a : Access) : Bool :=
  a.f.rid == rid && match a.i with
    | .xrGet _ _ _ | .xrPut _ _ | .xrAmo _ _ _ | .cvIn _ | .cvOut _ | .cvOpen _ _ _ | .cvClose _ _ =>
      a.st == .flight || a.st == .parking || a.aux != 0
    | _ => false

/-- Put back the commands in flight of a region that some units held. -/
def keepInFlight (s : State) (rid : Nat) (units : AL UId HwUnit) : State :=
  units.foldl (fun s p =>
    let l := p.2.ops.filter (inFlight rid)
    if l = [] then s else s.modUnit p.1 fun h => { h with ops := h.ops ++ l }) s

/-- Roll a region back to its last cut (R362): tokens, running builds, passes, drains and spills, and held stores
go, undo entries are applied newest first over all
clusters, and the cut record is the region's one continuation. What its stores left in read buffers goes with them
(R148). Remote and Culvert commands in flight go on (R295). -/
def rollback (s : State) (rid : Nat) : State :=
  let r := s.region rid
  let undo := undoOf s rid
  let s := keepInFlight (discardTokens s rid true) rid s.units
  let s := { s with clusters := s.clusters.map fun p => (p.1, p.2.dropRuns rid) }
  let s := undo.foldl (fun s e => applyUndo s rid e.2) s
  let s := s.clusters.foldl (fun s p =>
    s.modCluster p.1 fun c => { c with ilog := c.ilog.filter (·.rid != rid), undo := c.undo.filter (·.1 != rid) }) s
  let s := r.host.foldl dropBuffers s
  match r.cutRec with
  | none => s
  | some img => requeue s rid img

/-! ### Uncorrectable errors (R355, R356) -/

/-- The line at which an uncorrectable error was met (R355): by its physical address, or its place in a pool, or in operand
memory where the fault names a tile. -/
def errLineOf (s : State) (w : FaultSite) (f : Flt) : Nat :=
  if f.cause == .memError then f.detail
  else if f.addr / 2 ^ 56 = 0x01 then omKey w.cl 0 + f.detail
  else match formOf s w.cl f.addr with
    | some (.pool cl _) => poolKey cl f.detail
    | _ => poolKey w.cl f.detail

/-- Take a fault (R349). An uncorrectable error met in a revocable logged interval rolls the region back; a second one on
the line is delivered (R355). The record of a pool error is then a notice; DEDUCED (log 60): that of a memory error, which
R356 treats so, keeps the one class that Table 13-5 gives it. -/
def faultOrRollback (s : State) (w : FaultSite) (f : Flt) : State :=
  let mem := f.cause == .poolError || f.cause == .memError
  let line := errLineOf s w f
  if mem && logging s w.rid && (s.region w.rid).errLine != some line then
    let s := (rollback s w.rid).modRegion w.rid fun r => { r with errLine := some line }
    takeFault s { w with cls := if f.cause == .poolError then some 2 else none } f
  else takeFault s w f

end Sys2Proof.Machine
end

