-- ==== Sys2Proof/Machine/Operands.lean ====
section
/-! DEFINITION. Reading the operands of a node, forming the tags and tokens it emits, and the wrapper that runs a node's
meaning on the firing being issued. -/

namespace Sys2Proof.Machine

open Sys2Proof

/-- An operand: its payload, and whether it was read through select 2, whose type the node may fix (R177). -/
structure Opd where
  pay : Payload
  zero : Bool
deriving DecidableEq, Repr

/-- A scalar payload with the scaled bit clear. -/
def plain (v : Word) (ty : TType) : Payload := .scal ⟨v, ty, false⟩

/-- The value 0 of a given type. -/
def zeroOf (ty : TType) : Scalar := ⟨0, ty, false⟩

/-- The type of value literal `k`, from the unit flags word (R159). -/
def litType (h : HwUnit) (k : Nat) : TType := (TType.ofCode? (bits h.flags.toNat (4 * k + 3) (4 * k))).getD .i64

/-- A payload as nodes read and emit it: bits 63:32 of an i32 or f32 are zero (R74). -/
def Payload.clean : Payload → Payload
  | .scal x => if x.ty = .i32 ∨ x.ty = .f32 then .scal { x with val := x.val &&& 0xFFFFFFFF } else .scal x
  | .line d e t => .line d e t

/-- Read a source select, Table 06-2 (R151, R52). A side that brought no token reads as zero. -/
def readSrc (s : State) (c : Cur) (a : Src) : Res (Opd × State) :=
  let h := s.unit c.u
  match a with
  | .left => .ok (⟨(c.f.l.getD (plain 0 .i64)).clean, c.f.l.isNone⟩, s)
  | .right => .ok (⟨(c.f.r.getD (plain 0 .i64)).clean, c.f.r.isNone⟩, s)
  | .zero => .ok (⟨plain 0 .i64, true⟩, s)
  | .ix => .ok (⟨plain (BitVec.ofNat 64 c.f.tag.ix) .tagix, false⟩, s)
  | .fs k => do
    let sel := (AL.get 0 h.lits (8 + k.toNat)).toNat
    let (v, s) ← readSlot s c.f.rid c.f.tag c.u.cl (bits sel 6 0)
    return (⟨(plain v ((TType.ofCode? (bits sel 11 8)).getD .i64)).clean, false⟩, s)
  | .lit k => .ok (⟨(plain (AL.get 0 h.lits k.toNat) (litType h k.toNat)).clean, false⟩, s)

/-- The value and type code of a source for a fault record: no effect, no fault (Table 13-4). -/
def peekSrc (s : State) (c : Cur) (a : Src) : Word × Nat :=
  match readSrc s c a with
  | .ok (⟨.scal x, _⟩, _) => (x.val, x.ty.code)
  | .ok (⟨.line d _ _, _⟩, _) => (d.extractLsb' 0 64, 0)
  | .error _ => (0, 0)

/-- A scalar operand of one of the types a node accepts; a zero takes the one type, or i64 (R34, R177). -/
def asScalar (o : Opd) (ts : List TType) : Res Scalar :=
  match o.pay with
  | .scal x =>
    if o.zero then .ok (zeroOf (if ts.contains .i64 then .i64 else ts.headD .i64))
    else if ts.contains x.ty then .ok x
    else flt .type
  | .line _ _ _ => flt .type

/-- Every token type, Table 02-2. -/
def allTypes : List TType :=
  [.i64, .i32, .u64, .f32, .bf16x4, .i16x4, .e4x8, .e5x8, .i8x8, .qn4x16, .tagix, .handle, .control, .marker]

/-- An operand of class U: its scaled bit must be clear (R90). -/
def clearOf (x : Scalar) : Res Unit := need (!x.sc) .scaleMismatch

/-- A scalar operand of class U. -/
def scalarU (o : Opd) (ts : List TType) : Res Scalar := do
  let x ← asScalar o ts
  clearOf x
  return x

/-- A scalar operand of class U and of one type, where the node's own rule names the fault of any other operand (R264,
R278). -/
def scalarOr (o : Opd) (t : TType) (k : Cause) : Res Scalar :=
  match asScalar o [t] with
  | .ok x => do
    clearOf x
    return x
  | .error _ => flt k

/-! ### Tags and results -/

/-- The tag a firing emits, Table 02-3 (R42); `b` is operand B. -/
def tagOf (s : State) (c : Cur) (t : TagAct) (b : Payload) : Res Tag :=
  let g := c.f.tag
  match t with
  | .keep | .repl => .ok g
  | .up => .ok (g.withIx (if g.ix = 0 then 0 else AL.get 0 (frameAt s c.f.rid g).link g.ix))
  | .into =>
    if b.value.toNat / 512 = 0 then .ok (g.withIx b.value.toNat)
    else flt .tagRange (bits b.value.toNat 8 0)
  | .frame => .ok (BitVec.ofNat 24 (bits b.value.toNat 23 9 * 512 + g.ix))
  | .ret => .ok (frameAt s c.f.rid g).rettag
  | .clear => .ok (g.withIx 0)

/-- The line format a scalar type declares, Table 04-12 (R122). -/
def declared : TType → Nat
  | .i32 => 0x03 | .f32 => 0x04 | .bf16x4 => 0x05 | .i16x4 => 0x02 | .i8x8 => 0x01 | .e4x8 => 0x07 | .e5x8 => 0x08
  | .qn4x16 => 0x09 | .i64 | .u64 | .tagix | .handle | .control | .marker => 0x00

/-- A replicate firing's token as a broadcast line: eight granules of the value (R161). -/
def broadcast (p : Payload) : Payload :=
  match p with
  | .scal x =>
    let g := x.val
    .line (g ++ g ++ g ++ g ++ g ++ g ++ g ++ g) (Desc.mk (declared x.ty) 0) (some x.ty)
  | .line d e t => .line d e t

/-- The form in which a node's token leaves: a broadcast line under tag action 6 (R27, R42). -/
def outForm (t : TagAct) (p : Payload) : Payload := if t = .repl then broadcast p else p

/-- The firing with the tag a node's tag action gives, sent to both destinations (R178). -/
def finish (s : State) (c : Cur) (n : Nd) (b : Payload) (p : Payload) : Res State := do
  let t ← tagOf s c n.t b
  sendBoth s c n.d n.e (outForm n.t p) t

/-- The same for a three-operand form, which has destination 0 only (R153). -/
def finish3 (s : State) (c : Cur) (n : N3) (b : Payload) (p : Payload) : Res State := do
  let t ← tagOf s c n.t b
  sendTo s c n.d (outForm n.t p) t

/-- A result on destination 0 and another on destination 1, under one tag; neither where there is none. Where both
selects name one destination it receives one token, that of destination 0 (R178). -/
def finishPair (s : State) (c : Cur) (n : Nd) (b : Payload) (p q : Option Payload) : Res State := do
  let t ← tagOf s c n.t b
  let s ← match p with
    | some x => sendTo s c n.d (outForm n.t x) t
    | none => .ok s
  match q with
  | some x => if n.e = n.d ∧ p.isSome then return s else sendTo s c n.e (outForm n.t x) t
  | none => return s

/-! ### Running a node -/

/-- The feature group of an opcode, Table 06-21 (R169). -/
def featureGroup (op : Nat) : Option Nat :=
  if (0x40 ≤ op ∧ op ≤ 0x4E) ∨ op = 0x56 ∨ op = 0x57 then some 0
  else if op = 0xC6 then some 1
  else if 0xE1 ≤ op ∧ op ≤ 0xE4 then some 2
  else if 0xE5 ≤ op ∧ op ≤ 0xE7 then some 3
  else if 0xE8 ≤ op ∧ op ≤ 0xEB then some 4
  else none

/-- Raise the feature-masked fault where the region's effective mask has the opcode's group (R169, R330). -/
def featureCheck (s : State) (c : Cur) (op : Nat) : Res Unit :=
  match featureGroup op with
  | some g => need (!bitAt (s.region c.f.rid).rcb.toNat (176 + g)) .featureMasked g
  | none => .ok ()

/-- Count a firing of a retired opcode that issues (R405, Table 15-10); a `brk` that was withheld was counted when it issued. -/
def countRetired (s : State) (c : Cur) (op : Nat) : State :=
  if bitAt s.hg.retiredMask op && c.f.stage == 0 then
    s.modPart (partOf s c.u.cl) fun p =>
      let n := bits p.retired.toNat 47 0
      { p with retired := BitVec.ofNat 64 (op * 2 ^ 56 + (if n + 1 = 2 ^ 48 then n else n + 1)) }
  else s

/-- Where a firing's fault arises (R349): operands A and B as its selects read them. -/
def siteOf (s : State) (c : Cur) (op : Nat) (a b : Src) : FaultSite :=
  let (av, at') := peekSrc s c a
  let (bv, bt) := peekSrc s c b
  ⟨some c.u, c.u.cl, c.f.slot, c.f.rid, op, c.f.tag, av, at', bv, bt, none, 0⟩

/-- Run the meaning of a node on the firing being issued: its effect, or its fault with no other effect (R13,
R355). One that
waits (R40) leaves the state as it stands, its firing still in hand. -/
def runNode (op : Nat) (a b : Src) (s : State)
    (body : State → Cur → Res State) : Host.Outcome State Fault Refusal :=
  match s.cur with
  | none => .refused (.notEnabled "a node without a firing")
  | some c =>
    let s0 := { s with cur := none }
    match featureCheck s c op >>= fun _ => body s0 c with
    | .ok t => .next (countRetired t c op)
    | .error (.fault f) =>
      .next (faultOrRollback (if f.cause = .featureMasked then s0 else countRetired s0 c op) (siteOf s c op a b) f)
    | .error .wait => .next s

/-- Run an event of the device that is enabled; one that is not has no meaning. -/
def runEvent (name : String) (t : Option State) : Host.Outcome State Fault Refusal :=
  match t with
  | some t => .next t
  | none => .refused (.notEnabled name)

end Sys2Proof.Machine
end

