-- ==== Sys2Proof/Machine/Float.lean ====
section
/-! DEFINITION. Floating-point and QN4 values as exact numbers, and the one rounding of chapter 03. -/

namespace Sys2Proof.Machine

open Sys2Proof

/-- A floating-point format, Table 03-2 (R77): exponent and fraction widths, bias; `ieee` is false for FP8-E4M3, which
has no infinity (R78). `pad` zero bits stand below the fraction: 12 for the set P12 (R194). -/
structure Fmt where
  eb : Nat
  fb : Nat
  bias : Nat
  ieee : Bool
  pad : Nat
deriving DecidableEq, Repr

/-- FP32, Table 03-2. -/
def Fmt.f32 : Fmt := ⟨8, 23, 127, true, 0⟩
/-- BF16, Table 03-2. -/
def Fmt.bf16 : Fmt := ⟨8, 7, 127, true, 0⟩
/-- FP8-E4M3, Table 03-2. -/
def Fmt.e4 : Fmt := ⟨4, 3, 7, false, 0⟩
/-- FP8-E5M2, Table 03-2. -/
def Fmt.e5 : Fmt := ⟨5, 2, 15, true, 0⟩
/-- P12: FP32 values whose fraction bits 11:0 are zero (R194). -/
def Fmt.p12 : Fmt := ⟨8, 11, 127, true, 12⟩

/-- Width of a format's codes. -/
def Fmt.width (f : Fmt) : Nat := 1 + f.eb + f.fb + f.pad

/-- Magnitude code of infinity, or of the least NaN in E4M3. -/
def Fmt.infMag (f : Fmt) : Nat := if f.ieee then (2 ^ f.eb - 1) * 2 ^ f.fb else 0x7F

/-- Magnitude code of the largest finite value. -/
def Fmt.maxMag (f : Fmt) : Nat := f.infMag - 1

/-- The canonical NaN of a format, Table 03-2 (R79). -/
def Fmt.nan (f : Fmt) : Nat :=
  if f.ieee then ((2 ^ f.eb - 1) * 2 ^ f.fb + 2 ^ (f.fb - 1)) * 2 ^ f.pad else 0x7F

/-- An exact value: NaN, a signed infinity, or a signed magnitude m*2^e; a zero keeps its sign. -/
inductive FV where
  | nan
  | inf (neg : Bool)
  | fin (neg : Bool) (m : Nat) (e : Int)
deriving DecidableEq, Repr

/-- Is a value a zero? -/
def FV.isZero : FV → Bool
  | .fin _ m _ => m == 0
  | _ => false

/-- The value of a code (R77, R78). -/
def Fmt.value (f : Fmt) (code : Nat) : FV :=
  let w := 1 + f.eb + f.fb
  let c := code / 2 ^ f.pad % 2 ^ w
  let neg := bitAt c (w - 1)
  let mag := c % 2 ^ (w - 1)
  let e := mag / 2 ^ f.fb
  let fr := mag % 2 ^ f.fb
  if f.ieee && e == 2 ^ f.eb - 1 then (if fr == 0 then .inf neg else .nan)
  else if !f.ieee && mag == 0x7F then .nan
  else if e == 0 then .fin neg fr (1 - (f.bias : Int) - f.fb)
  else .fin neg (2 ^ f.fb + fr) ((e : Int) - f.bias - f.fb)

/-- Treat a subnormal input as zero of its sign (R80, fz). -/
def Fmt.flushIn (f : Fmt) (fz : Bool) (v : FV) : FV :=
  match v with
  | .fin neg m e => if fz && decide (m < 2 ^ f.fb) && decide (e = 1 - (f.bias : Int) - f.fb) then .fin neg 0 e else v
  | v => v

/-- How a result beyond the format's range is brought into it: as arithmetic does, or saturating as conversion does
(R82, R92). -/
inductive Over where
  | arith | saturate
deriving DecidableEq, Repr

/-- Whether rounding in a mode goes away from zero: `rest` is the discarded part times two against `unit`, `sticky` says
that more lies below (R81). -/
def roundUp (mode : Rnd) (neg odd sticky : Bool) (rest2 unit : Nat) : Bool :=
  match mode with
  | .ne => decide (unit < rest2) || (decide (unit = rest2) && (sticky || odd))
  | .rz => false
  | .up => !neg && (decide (0 < rest2) || sticky)
  | .dn => neg && (decide (0 < rest2) || sticky)

/-- The rounded magnitude of m*2^e (plus a little where `sticky`), as a count of units 2^q and that q (R82). -/
def roundMag (f : Fmt) (mode : Rnd) (neg : Bool) (m : Nat) (e : Int) (sticky : Bool) : Nat × Int :=
  let q := max (1 - (f.bias : Int) - f.fb) (Nat.log2 m + e - f.fb)
  if q ≤ e then
    let n := m * 2 ^ (e - q).toNat
    (if roundUp mode neg (n % 2 == 1) sticky 0 1 then n + 1 else n, q)
  else
    let d := (q - e).toNat
    let n := m / 2 ^ d
    (if roundUp mode neg (n % 2 == 1) sticky (2 * (m % 2 ^ d)) (2 ^ d) then n + 1 else n, q)

/-- Magnitude code of n units of 2^q, which may lie beyond the largest finite one. -/
def magCode (f : Fmt) (n : Nat) (q : Int) : Nat :=
  if n < 2 ^ f.fb then n else ((q + f.fb + f.bias - 1).toNat) * 2 ^ f.fb + n

/-- A code with its sign, in the format's width. -/
def Fmt.signed (f : Fmt) (neg : Bool) (mag : Nat) : Nat := (neg.toNat * 2 ^ (f.eb + f.fb) + mag) * 2 ^ f.pad

/-- Whether overflow in a mode stops at the largest finite value (R82). -/
def stopsAtMax (mode : Rnd) (neg : Bool) : Bool :=
  match mode with
  | .ne => false | .rz => true | .up => neg | .dn => !neg

/-- Round an exact value once to a format (R82): the code, and whether the conversion's overflow bit is set (R92). -/
def Fmt.round (f : Fmt) (mode : Rnd) (fz : Bool) (beyond : Over) (v : FV) (sticky : Bool := false) : Nat × Bool :=
  match v with
  | .nan => (f.nan, false)
  | .inf neg => if f.ieee then (f.signed neg f.infMag, false) else (f.signed neg f.maxMag, true)
  | .fin neg m e =>
    if m = 0 then (f.signed neg 0, false)
    else
      let (n, q) := roundMag f mode neg m e sticky
      let mag := magCode f n q
      if f.infMag ≤ mag then
        match beyond with
        | .saturate => (f.signed neg f.maxMag, true)
        | .arith => (f.signed neg (if !f.ieee || stopsAtMax mode neg then f.maxMag else f.infMag), false)
      else (f.signed neg (if fz && decide (mag < 2 ^ f.fb) then 0 else mag), false)

/-! ### Exact operations -/

/-- Negate. -/
def FV.neg : FV → FV
  | .nan => .nan
  | .inf s => .inf (!s)
  | .fin s m e => .fin (!s) m e

/-- Exact sum; the sign of an exact zero follows R82 in the given mode. -/
def FV.add (mode : Rnd) : FV → FV → FV
  | .nan, _ | _, .nan => .nan
  | .inf s, .inf t => if s = t then .inf s else .nan
  | .inf s, _ => .inf s
  | _, .inf t => .inf t
  | .fin s m e, .fin t n d =>
    let g := min e d
    let a : Int := m * 2 ^ (e - g).toNat
    let b : Int := n * 2 ^ (d - g).toNat
    let x := (if s then -a else a) + (if t then -b else b)
    if x = 0 then .fin (if s = t then s else decide (mode = .dn)) 0 g
    else .fin (decide (x < 0)) x.natAbs g

/-- Exact product (R82): a zero product carries the exclusive or of the signs; 0 times infinity is NaN. -/
def FV.mul : FV → FV → FV
  | .nan, _ | _, .nan => .nan
  | .inf s, .inf t => .inf (xor s t)
  | .inf s, .fin t n _ => if n = 0 then .nan else .inf (xor s t)
  | .fin s m _, .inf t => if m = 0 then .nan else .inf (xor s t)
  | .fin s m e, .fin t n d => .fin (xor s t) (m * n) (e + d)

/-- A value times 2^k. -/
def FV.scale (k : Int) : FV → FV
  | .fin s m e => .fin s m (e + k)
  | v => v

/-- The signed integer that a finite value is at exponent `g`, which is at most its own. -/
def FV.at (g : Int) : FV → Int
  | .fin s m e => if s then -((m * 2 ^ (e - g).toNat : Nat) : Int) else (m * 2 ^ (e - g).toNat : Nat)
  | _ => 0

/-- Order of two values that are not NaN, with -0 below +0 where `zeros` (R192): negative, zero or positive. -/
def FV.cmp (zeros : Bool) : FV → FV → Int
  | .inf s, .inf t => if s = t then 0 else if s then -1 else 1
  | .inf s, _ => if s then -1 else 1
  | _, .inf t => if t then 1 else -1
  | .fin s m e, .fin t n d =>
    let g := min e d
    let a := FV.at g (.fin s m e)
    let b := FV.at g (.fin t n d)
    if a < b then -1 else if b < a then 1
    else if zeros && m == 0 && s != t then (if s then -1 else 1) else 0
  | _, _ => 0

/-- An integer as an exact value. -/
def FV.ofInt (x : Int) : FV := .fin (decide (x < 0)) x.natAbs 0

/-- Round to an integer in a mode (R92, to INTn): the magnitude's integer part with its sign. -/
def FV.toInt (mode : Rnd) (neg : Bool) (m : Nat) (e : Int) : Int :=
  let n :=
    if 0 ≤ e then m * 2 ^ e.toNat
    else
      let d := (-e).toNat
      let k := m / 2 ^ d
      if roundUp mode neg (k % 2 == 1) false (2 * (m % 2 ^ d)) (2 ^ d) then k + 1 else k
  if neg then -(n : Int) else n

/-- Pairs of neighbours combined, an odd last term passing unchanged (R95). -/
def treeLevel : List FV → List FV
  | a :: b :: l => Fmt.f32.value (Fmt.f32.round .ne false .arith (FV.add .ne a b)).1 :: treeLevel l
  | l => l

/-- The pairwise tree of R95; `fuel` bounds its levels. -/
def tree : Nat → List FV → FV
  | _, [] => .fin false 0 0
  | _, [a] => a
  | 0, a :: _ => a
  | fuel + 1, l => tree fuel (treeLevel l)

/-- The pairwise tree over a list (R95). -/
def treeSum (l : List FV) : FV := tree l.length l

/-- One addition rounded to FP32 nearest even (R95). -/
def addF32 (a b : FV) : FV := Fmt.f32.value (Fmt.f32.round .ne false .arith (FV.add .ne a b)).1

/-! ### Approximated functions (R194) -/

/-- Integer square root, one bit of the root at a time. -/
def isqrt (n : Nat) : Nat → Nat → Nat
  | 0, r => r
  | b + 1, r => if (r + 2 ^ b) * (r + 2 ^ b) ≤ n then isqrt n b (r + 2 ^ b) else isqrt n b r

/-- ln 2 times 2^256, rounded down. -/
def ln2 : Nat := 0xb17217f7d1cf79abc9e3b39803f2f6af40f343267298b62d8a0d175b8baafa2b

/-- The terms t^i / i! from `term` on, in units of 2^-256. -/
def expTerms (t : Nat) : Nat → Nat → Nat → Nat
  | 0, _, _ => 0
  | fuel + 1, i, term => term + expTerms t fuel (i + 1) (term * t / 2 ^ 256 / (i + 1))

/-- 2^f for a fraction f given in units of 2^-256, in the same units, rounded down within a few units. -/
def exp2Frac (f : Nat) : Nat := expTerms (f * ln2 / 2 ^ 256) 70 0 (2 ^ 256)

/-- The terms y^(2j+1)/(2j+1) of the inverse hyperbolic tangent, in units of 2^-256. -/
def atanhTerms (y2 : Nat) : Nat → Nat → Nat → Nat
  | 0, _, _ => 0
  | fuel + 1, j, p => p / (2 * j + 1) + atanhTerms y2 fuel (j + 1) (p * y2 / 2 ^ 256)

/-- log2 of x in [1, 2), x = m / 2^k, in units of 2^-240, rounded down within a few units of 2^-256. -/
def log2Frac (m k : Nat) : Nat :=
  let y := (m - 2 ^ k) * 2 ^ 256 / (m + 2 ^ k)
  2 * atanhTerms (y * y / 2 ^ 256) 90 0 y * 2 ^ 240 / ln2

/-- A value known to lie just above an exact one. -/
abbrev Near := FV × Bool

/-- 1/a (R194, Table 07-6). -/
def frcp : FV → Near
  | .nan => (.nan, false)
  | .inf s => (.fin s 0 0, false)
  | .fin s m e =>
    if m = 0 then (.inf s, false)
    else
      let k := Nat.log2 m + 64
      (.fin s (2 ^ k / m) (-e - k), 2 ^ k % m != 0)

/-- The square root (R194, Table 07-6). -/
def fsqrt : FV → Near
  | .nan => (.nan, false)
  | .inf s => (if s then .nan else .inf false, false)
  | .fin s m e =>
    if m = 0 then (.fin s 0 0, false)
    else if s then (.nan, false)
    else
      let odd := (e % 2).toNat
      let n := m * 2 ^ (odd + 96)
      let r := isqrt n 64 0
      (.fin false r ((e - odd - 96) / 2), r * r != n)

/-- 1 over the square root (R258, 0xAB): the root of an exact quotient. -/
def frsqrt : FV → Near
  | .nan => (.nan, false)
  | .inf s => (if s then .nan else .fin false 0 0, false)
  | .fin s m e =>
    if m = 0 then (.inf s, false)
    else if s then (.nan, false)
    else
      let odd := (e % 2).toNat
      let m' := m * 2 ^ odd
      let k := 2 * (Nat.log2 m' / 2 + 1) + 96
      let r := isqrt (2 ^ k / m') 64 0
      (.fin false r (-((e - odd) / 2) - k / 2), r * r * m' != 2 ^ k)

/-- 2^a (R194, Table 07-6). Far outside every format's range the magnitude is replaced by one still outside it. -/
def fexp2 : FV → Near
  | .nan => (.nan, false)
  | .inf s => (if s then .fin false 0 0 else .inf false, false)
  | .fin s m e =>
    if m = 0 then (.fin false 1 0, false)
    else if 12 ≤ Nat.log2 m + e then (if s then (.fin false 1 (-4096), true) else (.fin false 1 4096, true))
    else
      let x : Int := FV.at (min e 0) (.fin s m e)
      let d : Nat := 2 ^ (-(min e 0)).toNat
      let n := x / (d : Int)
      let f := (x % (d : Int)).toNat
      if f = 0 then (.fin false 1 n, false)
      else (.fin false (exp2Frac (f * 2 ^ 256 / d)) (n - 256), true)

/-- log2 a (R194, Table 07-6). -/
def flog2 : FV → Near
  | .nan => (.nan, false)
  | .inf s => (if s then .nan else .inf false, false)
  | .fin s m e =>
    if m = 0 then (.inf true, false)
    else if s then (.nan, false)
    else
      let k := Nat.log2 m
      let n : Int := k + e
      if m = 2 ^ k then (FV.ofInt n, false)
      else
        let x : Int := n * (2 ^ 240 : Nat) + (log2Frac m k : Nat)
        if x < 0 then (.fin true (x.natAbs - 1) (-240), true) else (.fin false x.natAbs (-240), true)

/-! ### QN4 (R83 to R86) -/

/-- The BF16 codes of the levels, Table 03-4. -/
def qnLevels : List Nat :=
  [0xBF80, 0xBF32, 0xBF06, 0xBECA, 0xBE92, 0xBE3C, 0xBDB8, 0x0000,
   0x3DA2, 0x3E24, 0x3E7C, 0x3EAD, 0x3EE1, 0x3F10, 0x3F39, 0x3F80]

/-- The level of a code (R83). -/
def qnLevel (c : Nat) : FV := Fmt.bf16.value (qnLevels.getD c 0)

/-- Whether a super-scale is acceptable: not NaN, not infinite, not negative; a negative zero is zero (R84). -/
def superOk (code : Nat) : Bool :=
  match Fmt.f32.value code with
  | .fin neg m _ => !neg || m == 0
  | _ => false

/-- The line scale super*(s+1)/256, exactly (R84); a zero super-scale reads as +0. -/
def lineScale (code s : Nat) : FV :=
  match Fmt.f32.value code with
  | .fin _ m e => .fin false (m * (s + 1)) (e - 8)
  | v => v

/-- The exact value of a QN4 code under a line scale (R86). -/
def qnValue (ls : FV) (c : Nat) : FV := FV.mul (qnLevel c) ls

/-- Twice the distance-compare of two levels to x/ls: the better code so far, ties to the smaller magnitude (R85). -/
def qnBetter (ls x : FV) (best c : Nat) : Nat :=
  let dist := fun (k : Nat) =>
    match FV.add .ne x (FV.neg (qnValue ls k)) with
    | .fin _ m e => FV.fin false m e
    | v => v
  let order := FV.cmp false (dist c) (dist best)
  let mag := fun (k : Nat) => match qnLevel k with | .fin _ m e => FV.fin false m e | v => v
  if order < 0 then c
  else if order = 0 ∧ FV.cmp false (mag c) (mag best) < 0 then c
  else best

/-- The code of a value under a line scale, and its overflow bit (R85 steps 4 and 5, R198). -/
def qnEncode (ls x : FV) : Nat × Bool :=
  match x with
  | .nan | .inf _ => (7, true)
  | .fin neg m e =>
    if ls.isZero then (7, false)
    else if FV.cmp false (.fin false m e) ls > 0 then (if neg then 0 else 15, true)
    else ((List.range 16).foldl (qnBetter ls x) 7, false)

end Sys2Proof.Machine
end

