-- ==== Sys2Proof/Machine/Flags.lean ====
section
/-! DEFINITION. Conditions, the flags a node derives from its operands: comparison outcomes, lane masks, the truth of a
condition operand, and the overflow lane mask of a conversion. -/

namespace Sys2Proof.Machine

open Sys2Proof

/-- An integer condition on raw values of `w` bits, Table 06-6 (R156): signed but for the last two. -/
def intCond (k : Cond) (w a b : Nat) : Bool :=
  let x := toSigned w a
  let y := toSigned w b
  match k with
  | .eq => x == y | .ne => x != y | .lt => decide (x < y) | .le => decide (x ≤ y)
  | .gt => decide (y < x) | .ge => decide (y ≤ x)
  | .c6 => decide (a % 2 ^ w < b % 2 ^ w) | .c7 => decide (a % 2 ^ w ≤ b % 2 ^ w)

/-- A floating condition, Table 06-6, with the NaN outcomes of R156. -/
def floatCond (k : Cond) (a b : FV) : Bool :=
  let unordered := a == .nan || b == .nan
  let o := FV.cmp false a b
  match k with
  | .eq => !unordered && o == 0 | .ne => unordered || o != 0 | .lt => !unordered && decide (o < 0)
  | .le => !unordered && decide (o ≤ 0) | .gt => !unordered && decide (0 < o) | .ge => !unordered && decide (0 ≤ o)
  | .c6 => unordered | .c7 => !unordered

/-- Bits as a mask, the first lane in bit 0 (R93, R193). -/
def laneMask : List Bool → Nat
  | [] => 0
  | b :: l => b.toNat + 2 * laneMask l

/-- Types a condition operand may have (R190). -/
def condTypes : List TType := [.control, .i64, .u64, .i32]

/-- Whether a condition operand is true (R190): 64 bits, or bits 31:0 of an i32. -/
def truth (x : Scalar) : Bool := if x.ty = .i32 then x.val.toNat % 2 ^ 32 != 0 else x.val != 0

/-- Clamp an exact integer to the lane's range (R184, R92); the flag says that it lay outside. -/
def clampInt (w : Nat) (unsigned : Bool) (x : Int) : Int × Bool :=
  let lo : Int := if unsigned then 0 else -((2 ^ (w - 1) : Nat) : Int)
  let hi : Int := if unsigned then (2 ^ w : Nat) - 1 else (2 ^ (w - 1) : Nat) - 1
  if x < lo then (lo, true) else if hi < x then (hi, true) else (x, false)

end Sys2Proof.Machine
end

