-- ==== Sys2Proof/Machine/Lanes.lean ====
section
/-! DEFINITION. Lanes of packed values (R74, R75, R183) and lane-by-lane operations. -/

namespace Sys2Proof.Machine

open Sys2Proof

/-- `n` lanes of `w` bits, lane 0 first (R74). -/
def lanesOf (w : Nat) : Nat → Nat → List Nat
  | 0, _ => []
  | n + 1, v => v % 2 ^ w :: lanesOf w n (v / 2 ^ w)

/-- The value whose lanes these are (R74). -/
def joinLanes (w : Nat) : List Nat → Nat
  | [] => 0
  | x :: l => x % 2 ^ w + 2 ^ w * joinLanes w l

/-- Width and count of the lanes of an integer width (R183). -/
def Width.shape : Width → Nat × Nat
  | .i32 => (32, 1) | .i64 => (64, 1) | .i16x4 => (16, 4) | .i8x8 => (8, 8)

/-- Operand types an integer width accepts, Table 07-1. -/
def intTypes : Width → List TType
  | .i32 => [.i32, .i64, .u64, .tagix] | .i64 => [.i64, .u64, .tagix, .i32] | .i16x4 => [.i16x4, .i64]
  | .i8x8 => [.i8x8, .i64]

/-- How an operand is read at a width, Table 07-1. -/
def intRead (w : Width) (unsigned : Bool) (x : Scalar) : Nat :=
  match w with
  | .i32 => x.val.toNat % 2 ^ 32
  | .i64 =>
    if x.ty = .i32 then
      (if unsigned then x.val.toNat % 2 ^ 32 else truncInt 64 (toSigned 32 x.val.toNat))
    else x.val.toNat
  | .i16x4 | .i8x8 => x.val.toNat

/-- The result type at a width, Table 07-1; `a` is the type of operand A. -/
def intResult (w : Width) (a : TType) : TType :=
  match w with
  | .i32 => .i32 | .i64 => if a = .u64 then .u64 else .i64 | .i16x4 => .i16x4 | .i8x8 => .i8x8

/-- A value in the lanes of a width, lane by lane over two operands. -/
def mapLanes2 (w : Width) (g : Nat → Nat → Nat) (a b : Nat) : Nat :=
  let (k, n) := Width.shape w
  joinLanes k (List.zipWith g (lanesOf k n a) (lanesOf k n b))

/-- A value in the lanes of a width, lane by lane. -/
def mapLanes1 (w : Width) (g : Nat → Nat) (a : Nat) : Nat :=
  let (k, n) := Width.shape w
  joinLanes k ((lanesOf k n a).map g)

/-- A lane as the integer it stands for (R184). -/
def laneInt (w : Nat) (unsigned : Bool) (x : Nat) : Int := if unsigned then (x % 2 ^ w : Nat) else toSigned w x

/-- Bring an exact lane result into the lane: its low bits, or clamped under `.sat` (R184). -/
def laneFit (w : Nat) (unsigned sat : Bool) (x : Int) : Nat :=
  truncInt w (if sat then (clampInt w unsigned x).1 else x)

/-- Leading zero bits of a `w`-bit value (Table 07-4). -/
def clz (w v : Nat) : Nat := if v % 2 ^ w = 0 then w else w - 1 - Nat.log2 (v % 2 ^ w)

/-- One bits among the low `w` of a value (Table 07-4). -/
def popc : Nat → Nat → Nat
  | 0, _ => 0
  | w + 1, v => v % 2 + popc w (v / 2)

/-- Rotate a `w`-bit value left (Table 07-4). -/
def rotl (w v k : Nat) : Nat := v * 2 ^ (k % w) % 2 ^ w + v % 2 ^ w / 2 ^ (w - k % w)

/-- Length of the field of `bfx` and `bfi` (R188). -/
def fieldLen (w ctl : Nat) : Nat :=
  let pos := bits ctl 5 0
  if w ≤ pos then 0 else min (bits ctl 14 8) (w - pos)

/-- `bfx` (R188). -/
def bfx (w : Nat) (unsigned : Bool) (a ctl : Nat) : Nat :=
  let len := fieldLen w ctl
  if len = 0 then 0
  else
    let f := a / 2 ^ bits ctl 5 0 % 2 ^ len
    if unsigned then f else truncInt w (toSigned len f)

/-- `bfi` (R188). -/
def bfi (w a b ctl : Nat) : Nat :=
  let pos := bits ctl 5 0
  let len := fieldLen w ctl
  a % 2 ^ pos + (b % 2 ^ len) * 2 ^ pos + a / 2 ^ (pos + len) * 2 ^ (pos + len)

/-- The lanes of a packed or scalar floating format (Table 03-1). -/
structure LaneFmt where
  ty : TType
  fmt : Fmt
  w : Nat
  n : Nat
deriving DecidableEq, Repr

/-- f32 tokens. -/
def LaneFmt.f32 : LaneFmt := ⟨.f32, .f32, 32, 1⟩
/-- bf16x4 tokens. -/
def LaneFmt.bf16 : LaneFmt := ⟨.bf16x4, .bf16, 16, 4⟩
/-- fp8e4x8 tokens. -/
def LaneFmt.e4 : LaneFmt := ⟨.e4x8, .e4, 8, 8⟩
/-- fp8e5x8 tokens. -/
def LaneFmt.e5 : LaneFmt := ⟨.e5x8, .e5, 8, 8⟩

/-- The lanes of a value as codes. -/
def LaneFmt.codes (f : LaneFmt) (v : Nat) : List Nat := lanesOf f.w f.n v

/-- The lanes of a value as exact values, flushed under fz (R80). -/
def LaneFmt.values (f : LaneFmt) (fz : Bool) (v : Nat) : List FV :=
  (f.codes v).map fun c => f.fmt.flushIn fz (f.fmt.value c)

/-- Lane codes as a token value, bits above the lanes zero (R74). -/
def LaneFmt.pack (f : LaneFmt) (l : List Nat) : Word := BitVec.ofNat 64 (joinLanes f.w l)

/-- Round each lane once as arithmetic does (R82). -/
def LaneFmt.round (f : LaneFmt) (mode : Rnd) (fz : Bool) (l : List FV) : Word :=
  f.pack (l.map fun v => (f.fmt.round mode fz .arith v).1)

/-- The smaller or larger of two lane values (R192): `more` picks the larger; `nan` demands NaN of any NaN. -/
def minMax (more nan : Bool) (a b : FV) : FV :=
  match a, b with
  | .nan, .nan => .nan
  | .nan, y => if nan then .nan else y
  | x, .nan => if nan then .nan else x
  | x, y =>
    let o := FV.cmp true x y
    if more then (if o < 0 then y else x) else (if o > 0 then y else x)

/-- An approximation rounded once: to P12 in the FP32 forms, to BF16 in the BF16 forms (R194). -/
def approx (f : Fmt) (mode : Rnd) (fz : Bool) (g : FV → Near) (v : FV) : Nat :=
  let (x, sticky) := g (f.flushIn fz v)
  let target := if f = .f32 then Fmt.p12 else f
  (target.round mode fz .arith x sticky).1

end Sys2Proof.Machine
end

