-- ==== Sys2Proof/Machine/ElementInt.lean ====
section
/-! DEFINITION. Element instructions on integers and addresses: opcodes 0x00 to 0x1E (R183 to R190). -/

namespace Sys2Proof.Machine

open Sys2Proof

/-- What a meaning answers. -/
abbrev Answer := Host.Outcome State Fault Refusal

/-- The result of a two-operand integer node on its operands: types first, then class U, then the lanes (R183, R90). -/
def intResult2 (w : Width) (u : Bool) (lane : Nat → Nat → Nat) (a b : Opd) : Res Scalar := do
  let x ← asScalar a (intTypes w)
  let y ← asScalar b (intTypes w)
  need (!x.sc && !y.sc) .scaleMismatch
  return ⟨BitVec.ofNat 64 (mapLanes2 w lane (intRead w u x) (intRead w u y)), intResult w x.ty, false⟩

/-- The result of a one-operand integer node (R183, R90). -/
def intResult1 (w : Width) (lane : Nat → Nat) (a : Opd) : Res Scalar := do
  let x ← scalarU a (intTypes w)
  return ⟨BitVec.ofNat 64 (mapLanes1 w lane (intRead w false x)), intResult w x.ty, false⟩

/-- Run a node whose result is a function of operands A and B. -/
def node2 (op : Nat) (n : Nd) (s : State) (g : Opd → Opd → Res Scalar) : Answer :=
  runNode op n.a n.b s fun s c => do
    let (a, s) ← readSrc s c n.a
    let (b, s) ← readSrc s c n.b
    let x ← g a b
    finish s c n b.pay (.scal x)

/-- Run a three-operand form whose result is a function of A, B and C (R153). -/
def node3 (op : Nat) (n : N3) (s : State) (g : Opd → Opd → Opd → Res Scalar) : Answer :=
  runNode op n.a n.b s fun s c => do
    let (a, s) ← readSrc s c n.a
    let (b, s) ← readSrc s c n.b
    let (d, s) ← readSrc s c n.c
    let x ← g a b d
    finish3 s c n b.pay (.scal x)

/-- Lane arithmetic: read signed or unsigned, form the exact result, fit it (R184). -/
def laneArith (w : Width) (u sat : Bool) (g : Int → Int → Int) (a b : Nat) : Nat :=
  let k := (Width.shape w).1
  laneFit k u sat (g (laneInt k u a) (laneInt k u b))

/-- `div` of a lane: by zero all bits 1, else truncated toward zero (Table 07-2). -/
def laneDiv (w : Width) (u sat : Bool) (a b : Nat) : Nat :=
  let k := (Width.shape w).1
  if b % 2 ^ k = 0 then 2 ^ k - 1 else laneArith w u sat Int.tdiv a b

/-- `rem` of a lane: by zero the dividend, else a - b*trunc(a/b) (Table 07-2). -/
def laneRem (w : Width) (u : Bool) (a b : Nat) : Nat :=
  let k := (Width.shape w).1
  if b % 2 ^ k = 0 then a % 2 ^ k else laneArith w u false Int.tmod a b

/-- `mulhi` of a lane: bits 2w-1:w of the exact product (Table 07-2). -/
def laneMulhi (w : Width) (u : Bool) (a b : Nat) : Nat :=
  let k := (Width.shape w).1
  truncInt k (laneInt k u a * laneInt k u b / (2 ^ k : Nat))

/-- `add` (R184, Table 07-2). -/
def execAdd (n : Nd) (u : Bool) (s : Bool) (w : Width) (st : State) : Answer :=
  node2 0x00 n st (intResult2 w u (laneArith w u s (· + ·)))

/-- `sub` (R184, Table 07-2). -/
def execSub (n : Nd) (u : Bool) (s : Bool) (w : Width) (st : State) : Answer :=
  node2 0x01 n st (intResult2 w u (laneArith w u s (· - ·)))

/-- `mul` (R184, Table 07-2). -/
def execMul (n : Nd) (u : Bool) (s : Bool) (w : Width) (st : State) : Answer :=
  node2 0x02 n st (intResult2 w u (laneArith w u s (· * ·)))

/-- `mulhi` (R184, Table 07-2). -/
def execMulhi (n : Nd) (u : Bool) (w : Width) (st : State) : Answer :=
  node2 0x03 n st (intResult2 w u (laneMulhi w u))

/-- `div` (R184, Table 07-2). -/
def execDiv (n : Nd) (u : Bool) (s : Bool) (w : Width) (st : State) : Answer :=
  node2 0x04 n st (intResult2 w u (laneDiv w u s))

/-- `rem` (R184, Table 07-2). -/
def execRem (n : Nd) (u : Bool) (w : Width) (st : State) : Answer :=
  node2 0x05 n st (intResult2 w u (laneRem w u))

/-- `min` (R184, Table 07-2). -/
def execMin (n : Nd) (u : Bool) (w : Width) (st : State) : Answer :=
  node2 0x06 n st (intResult2 w u (laneArith w u false (fun x y => if x ≤ y then x else y)))

/-- `max` (R184, Table 07-2). -/
def execMax (n : Nd) (u : Bool) (w : Width) (st : State) : Answer :=
  node2 0x07 n st (intResult2 w u (laneArith w u false (fun x y => if x ≤ y then y else x)))

/-- `abs` (R184, Table 07-2): lanes read as signed. -/
def execAbs (n : Nd) (s : Bool) (w : Width) (st : State) : Answer :=
  node2 0x08 n st fun a _ => intResult1 w (fun a => laneArith w false s (fun x _ => if x < 0 then -x else x) a 0) a

/-- `neg` (R184, Table 07-2): lanes read as signed. -/
def execNeg (n : Nd) (s : Bool) (w : Width) (st : State) : Answer :=
  node2 0x09 n st fun a _ => intResult1 w (fun a => laneArith w false s (fun x _ => -x) a 0) a

/-- The result of `lea`: A + B*2^k to 64 bits, a u64 (R185). -/
def leaResult (k : Nat) (a b : Opd) : Res Scalar := do
  let x ← asScalar a [.u64, .i64]
  let y ← asScalar b [.i64, .u64, .i32, .tagix]
  need (!x.sc && !y.sc) .scaleMismatch
  return ⟨x.val + BitVec.ofNat 64 (intRead .i64 false y * 2 ^ k), .u64, false⟩

/-- `lea` (R185). -/
def execLea (n : Nd) (k : BitVec 2) (st : State) : Answer := node2 0x0A n st (leaResult k.toNat)

/-- `mov` (R186): operand A unchanged; the width suffix has no effect. -/
def execMov (n : Nd) (_w : Width) (st : State) : Answer := node2 0x0B n st fun a _ => asScalar a allTypes

/-- `and` (R187, Table 07-4). -/
def execAnd (n : Nd) (w : Width) (st : State) : Answer :=
  node2 0x10 n st (intResult2 w false (fun a b => a &&& b))

/-- `or` (R187, Table 07-4). -/
def execOr (n : Nd) (w : Width) (st : State) : Answer :=
  node2 0x11 n st (intResult2 w false (fun a b => a ||| b))

/-- `xor` (R187, Table 07-4). -/
def execXor (n : Nd) (w : Width) (st : State) : Answer :=
  node2 0x12 n st (intResult2 w false (fun a b => a ^^^ b))

/-- `andn` (R187, Table 07-4). -/
def execAndn (n : Nd) (w : Width) (st : State) : Answer :=
  node2 0x13 n st (intResult2 w false (fun a b => a &&& (b ^^^ (2 ^ (Width.shape w).1 - 1))))

/-- `shl` (R187, Table 07-4). -/
def execShl (n : Nd) (w : Width) (st : State) : Answer :=
  node2 0x15 n st (intResult2 w false (fun a b => a * 2 ^ (b % (Width.shape w).1)))

/-- `shr` (R187, Table 07-4). -/
def execShr (n : Nd) (w : Width) (st : State) : Answer :=
  node2 0x16 n st (intResult2 w false (fun a b => a / 2 ^ (b % (Width.shape w).1)))

/-- `sar` (R187, Table 07-4). -/
def execSar (n : Nd) (w : Width) (st : State) : Answer :=
  node2 0x17 n st (intResult2 w false (fun a b => truncInt (Width.shape w).1 (toSigned (Width.shape w).1 a / (2 ^ (b % (Width.shape w).1) : Nat))))

/-- `rotl` (R187, Table 07-4). -/
def execRotl (n : Nd) (w : Width) (st : State) : Answer :=
  node2 0x18 n st (intResult2 w false (fun a b => rotl (Width.shape w).1 a b))

/-- `not` (R187, Table 07-4). -/
def execNot (n : Nd) (w : Width) (st : State) : Answer :=
  node2 0x14 n st fun a _ => intResult1 w (fun a => 2 ^ (Width.shape w).1 - 1 - a) a

/-- `clz` (R187, Table 07-4). -/
def execClz (n : Nd) (w : Width) (st : State) : Answer :=
  node2 0x19 n st fun a _ => intResult1 w (clz (Width.shape w).1) a

/-- `popc` (R187, Table 07-4). -/
def execPopc (n : Nd) (w : Width) (st : State) : Answer :=
  node2 0x1A n st fun a _ => intResult1 w (popc (Width.shape w).1) a

/-- The width that the one width bit of `bfx`, `bfi` and `cmp` names (R188, R189). -/
def wide (w : Bool) : Width := if w then .i64 else .i32

/-- `bfx` (R188): the control value is operand B. -/
def execBfx (n : Nd) (u w : Bool) (st : State) : Answer :=
  node2 0x1B n st (intResult2 (wide w) u (bfx (Width.shape (wide w)).1 u))

/-- The result of `bfi`: base A, inserted value B, control value C (R188). -/
def bfiResult (w : Bool) (a b d : Opd) : Res Scalar := do
  let x ← asScalar a (intTypes (wide w))
  let y ← asScalar b (intTypes (wide w))
  let z ← asScalar d (intTypes (wide w))
  need (!x.sc && !y.sc && !z.sc) .scaleMismatch
  let k := (Width.shape (wide w)).1
  let rd := intRead (wide w) false
  return ⟨BitVec.ofNat 64 (bfi k (rd x) (rd y) (rd z) % 2 ^ k), intResult (wide w) x.ty, false⟩

/-- `bfi` (R188). -/
def execBfi (n : N3) (w : Bool) (st : State) : Answer := node3 0x1C n st (bfiResult w)

/-- The result of `cmp`: a control token of 1 or 0, class C (R189). -/
def cmpResult (w : Bool) (k : Cond) (a b : Opd) : Res Scalar := do
  let x ← asScalar a (intTypes (wide w))
  let y ← asScalar b (intTypes (wide w))
  need (x.sc == y.sc) .scaleMismatch
  let r := intCond k (Width.shape (wide w)).1 (intRead (wide w) false x) (intRead (wide w) false y)
  return ⟨BitVec.ofNat 64 r.toNat, .control, false⟩

/-- `cmp` (R189). -/
def execCmp (n : Nd) (w : Bool) (k : Cond) (st : State) : Answer := node2 0x1D n st (cmpResult w k)

/-- The result of `sel`: B when A is true, else C, each as it is (R190). -/
def selResult (a b d : Opd) : Res Scalar := do
  let x ← asScalar a condTypes
  let y ← asScalar b allTypes
  let z ← asScalar d allTypes
  need (!x.sc) .scaleMismatch
  return if truth x then y else z

/-- `sel` (R190). -/
def execSel (n : N3) (st : State) : Answer := node3 0x1E n st selResult

end Sys2Proof.Machine
end

