-- ==== Sys2Proof/Machine/ElementFloat.lean ====
section
/-! DEFINITION. Element floating-point instructions: opcodes 0x20 to 0x4E (R191 to R195). -/

namespace Sys2Proof.Machine

open Sys2Proof

/-- Two operands of one format under class E: scaled bits equal, which is the result's (R90, R191). -/
def floatE (f : LaneFmt) (g : Nat → Nat → Word) (a b : Opd) : Res Scalar := do
  let x ← asScalar a [f.ty]
  let y ← asScalar b [f.ty]
  need (x.sc == y.sc) .scaleMismatch
  return ⟨g x.val.toNat y.val.toNat, f.ty, x.sc⟩

/-- Two operands of one format under class M: at most one set bit, which sets the result's (R90). -/
def floatM (f : LaneFmt) (g : Nat → Nat → Word) (a b : Opd) : Res Scalar := do
  let x ← asScalar a [f.ty]
  let y ← asScalar b [f.ty]
  need (!(x.sc && y.sc)) .scaleMismatch
  return ⟨g x.val.toNat y.val.toNat, f.ty, x.sc || y.sc⟩

/-- Lanes combined and rounded once (R191). -/
def lanes2 (f : LaneFmt) (mode : Rnd) (fz : Bool) (g : FV → FV → FV) (a b : Nat) : Word :=
  f.round mode fz (List.zipWith g (f.values fz a) (f.values fz b))

/-- `fadd` of a format (R191). -/
def faddResult (f : LaneFmt) (fz : Bool) (mode : Rnd) : Opd → Opd → Res Scalar :=
  floatE f (lanes2 f mode fz (FV.add mode))

/-- `fsub` of a format (R191). -/
def fsubResult (f : LaneFmt) (fz : Bool) (mode : Rnd) : Opd → Opd → Res Scalar :=
  floatE f (lanes2 f mode fz fun x y => FV.add mode x (FV.neg y))

/-- `fmul` of a format (R191). -/
def fmulResult (f : LaneFmt) (fz : Bool) (mode : Rnd) : Opd → Opd → Res Scalar :=
  floatM f (lanes2 f mode fz FV.mul)

/-- `fmin` and `fmax` of a format (R192). -/
def fminmaxResult (f : LaneFmt) (more nan fz : Bool) : Opd → Opd → Res Scalar :=
  floatE f (lanes2 f .ne false fun x y => minMax more nan (f.fmt.flushIn fz x) (f.fmt.flushIn fz y))

/-- `fma` of a format: M for A and B, E for C against the product (R191, R96). -/
def fmaResult (f : LaneFmt) (fz : Bool) (mode : Rnd) (a b d : Opd) : Res Scalar := do
  let x ← asScalar a [f.ty]
  let y ← asScalar b [f.ty]
  let z ← asScalar d [f.ty]
  need (!(x.sc && y.sc) && z.sc == (x.sc || y.sc)) .scaleMismatch
  let prods := List.zipWith FV.mul (f.values fz x.val.toNat) (f.values fz y.val.toNat)
  return ⟨f.round mode fz (List.zipWith (FV.add mode) prods (f.values fz z.val.toNat)), f.ty, z.sc⟩

/-- `fneg` and `fabs` of a format: flush first under fz, NaN canonical (R191). -/
def fsignResult (f : LaneFmt) (fz : Bool) (g : FV → FV) (a : Opd) : Res Scalar := do
  let x ← asScalar a [f.ty]
  return ⟨f.round .ne false ((f.values fz x.val.toNat).map g), f.ty, x.sc⟩

/-- The magnitude of a value. -/
def FV.abs : FV → FV
  | .nan => .nan
  | .inf _ => .inf false
  | .fin _ m e => .fin false m e

/-- `fcmp` of a format: one bit a lane, class C (R193); its modifier has no fz. -/
def fcmpResult (f : LaneFmt) (k : Cond) (a b : Opd) : Res Scalar := do
  let x ← asScalar a [f.ty]
  let y ← asScalar b [f.ty]
  need (x.sc == y.sc) .scaleMismatch
  let m := laneMask (List.zipWith (floatCond k) (f.values false x.val.toNat) (f.values false y.val.toNat))
  return ⟨BitVec.ofNat 64 m, .control, false⟩

/-- The approximations of a format, class U (R194). -/
def approxResult (f : LaneFmt) (fz : Bool) (mode : Rnd) (g : FV → Near) (a : Opd) : Res Scalar := do
  let x ← scalarU a [f.ty]
  return ⟨f.pack ((f.codes x.val.toNat).map fun c => approx f.fmt mode fz g (f.fmt.value c)), f.ty, false⟩

/-- The dot forms: exact products, the tree, one addition of C (R195). -/
def dotResult (f : LaneFmt) (fz : Bool) (a b d : Opd) : Res Scalar := do
  let x ← asScalar a [f.ty]
  let y ← asScalar b [f.ty]
  let z ← asScalar d [.f32]
  need (!(x.sc && y.sc) && z.sc == (x.sc || y.sc)) .scaleMismatch
  let p := List.zipWith FV.mul (f.values fz x.val.toNat) (f.values fz y.val.toNat)
  let addend := Fmt.f32.flushIn fz (Fmt.f32.value (z.val.toNat % 2 ^ 32))
  return ⟨LaneFmt.f32.round .ne fz [FV.add .ne (treeSum p) addend], .f32, z.sc⟩

/-- `fadd.f32` (R191, Table 07-5). -/
def execFaddF32 (n : Nd) (f : Bool) (r : Rnd) (st : State) : Answer :=
  node2 0x20 n st (faddResult LaneFmt.f32 f r)

/-- `fsub.f32` (R191, Table 07-5). -/
def execFsubF32 (n : Nd) (f : Bool) (r : Rnd) (st : State) : Answer :=
  node2 0x21 n st (fsubResult LaneFmt.f32 f r)

/-- `fmul.f32` (R191, Table 07-5). -/
def execFmulF32 (n : Nd) (f : Bool) (r : Rnd) (st : State) : Answer :=
  node2 0x22 n st (fmulResult LaneFmt.f32 f r)

/-- `fma.f32` (R191, R96). -/
def execFmaF32 (n : N3) (f : Bool) (r : Rnd) (st : State) : Answer :=
  node3 0x23 n st (fmaResult LaneFmt.f32 f r)

/-- `fmin.f32` (R192). -/
def execFminF32 (n : Nd) (nm f : Bool) (st : State) : Answer :=
  node2 0x24 n st (fminmaxResult LaneFmt.f32 false nm f)

/-- `fmax.f32` (R192). -/
def execFmaxF32 (n : Nd) (nm f : Bool) (st : State) : Answer :=
  node2 0x25 n st (fminmaxResult LaneFmt.f32 true nm f)

/-- `fneg.f32` (R191). -/
def execFnegF32 (n : Nd) (f : Bool) (st : State) : Answer :=
  node2 0x26 n st fun a _ => fsignResult LaneFmt.f32 f FV.neg a

/-- `fabs.f32` (R191). -/
def execFabsF32 (n : Nd) (f : Bool) (st : State) : Answer :=
  node2 0x27 n st fun a _ => fsignResult LaneFmt.f32 f FV.abs a

/-- `fcmp.f32` (R193). -/
def execFcmpF32 (n : Nd) (k : Cond) (st : State) : Answer :=
  node2 0x28 n st (fcmpResult LaneFmt.f32 k)

/-- `frcp.f32` (R194). -/
def execFrcpF32 (n : Nd) (f : Bool) (r : Rnd) (st : State) : Answer :=
  node2 0x29 n st fun a _ => approxResult LaneFmt.f32 f r Sys2Proof.Machine.frcp a

/-- `fsqrt.f32` (R194). -/
def execFsqrtF32 (n : Nd) (f : Bool) (r : Rnd) (st : State) : Answer :=
  node2 0x2A n st fun a _ => approxResult LaneFmt.f32 f r Sys2Proof.Machine.fsqrt a

/-- `fexp2.f32` (R194). -/
def execFexp2F32 (n : Nd) (f : Bool) (r : Rnd) (st : State) : Answer :=
  node2 0x2B n st fun a _ => approxResult LaneFmt.f32 f r Sys2Proof.Machine.fexp2 a

/-- `flog2.f32` (R194). -/
def execFlog2F32 (n : Nd) (f : Bool) (r : Rnd) (st : State) : Answer :=
  node2 0x2C n st fun a _ => approxResult LaneFmt.f32 f r Sys2Proof.Machine.flog2 a

/-- `fadd.bf16x4` (R191, Table 07-5). -/
def execFaddBf16x4 (n : Nd) (f : Bool) (r : Rnd) (st : State) : Answer :=
  node2 0x30 n st (faddResult LaneFmt.bf16 f r)

/-- `fsub.bf16x4` (R191, Table 07-5). -/
def execFsubBf16x4 (n : Nd) (f : Bool) (r : Rnd) (st : State) : Answer :=
  node2 0x31 n st (fsubResult LaneFmt.bf16 f r)

/-- `fmul.bf16x4` (R191, Table 07-5). -/
def execFmulBf16x4 (n : Nd) (f : Bool) (r : Rnd) (st : State) : Answer :=
  node2 0x32 n st (fmulResult LaneFmt.bf16 f r)

/-- `fma.bf16x4` (R191, R96). -/
def execFmaBf16x4 (n : N3) (f : Bool) (r : Rnd) (st : State) : Answer :=
  node3 0x33 n st (fmaResult LaneFmt.bf16 f r)

/-- `fmin.bf16x4` (R192). -/
def execFminBf16x4 (n : Nd) (nm f : Bool) (st : State) : Answer :=
  node2 0x34 n st (fminmaxResult LaneFmt.bf16 false nm f)

/-- `fmax.bf16x4` (R192). -/
def execFmaxBf16x4 (n : Nd) (nm f : Bool) (st : State) : Answer :=
  node2 0x35 n st (fminmaxResult LaneFmt.bf16 true nm f)

/-- `fneg.bf16x4` (R191). -/
def execFnegBf16x4 (n : Nd) (f : Bool) (st : State) : Answer :=
  node2 0x36 n st fun a _ => fsignResult LaneFmt.bf16 f FV.neg a

/-- `fabs.bf16x4` (R191). -/
def execFabsBf16x4 (n : Nd) (f : Bool) (st : State) : Answer :=
  node2 0x37 n st fun a _ => fsignResult LaneFmt.bf16 f FV.abs a

/-- `fcmp.bf16x4` (R193). -/
def execFcmpBf16x4 (n : Nd) (k : Cond) (st : State) : Answer :=
  node2 0x38 n st (fcmpResult LaneFmt.bf16 k)

/-- `frcp.bf16x4` (R194). -/
def execFrcpBf16x4 (n : Nd) (f : Bool) (r : Rnd) (st : State) : Answer :=
  node2 0x39 n st fun a _ => approxResult LaneFmt.bf16 f r Sys2Proof.Machine.frcp a

/-- `fsqrt.bf16x4` (R194). -/
def execFsqrtBf16x4 (n : Nd) (f : Bool) (r : Rnd) (st : State) : Answer :=
  node2 0x3A n st fun a _ => approxResult LaneFmt.bf16 f r Sys2Proof.Machine.fsqrt a

/-- `fexp2.bf16x4` (R194). -/
def execFexp2Bf16x4 (n : Nd) (f : Bool) (r : Rnd) (st : State) : Answer :=
  node2 0x3B n st fun a _ => approxResult LaneFmt.bf16 f r Sys2Proof.Machine.fexp2 a

/-- `flog2.bf16x4` (R194). -/
def execFlog2Bf16x4 (n : Nd) (f : Bool) (r : Rnd) (st : State) : Answer :=
  node2 0x3C n st fun a _ => approxResult LaneFmt.bf16 f r Sys2Proof.Machine.flog2 a

/-- `dot.bf16` (R195). -/
def execDotBf16 (n : N3) (f : Bool) (st : State) : Answer :=
  node3 0x3D n st (dotResult LaneFmt.bf16 f)

/-- `fadd.e4x8` (R191, Table 07-5). -/
def execFaddE4x8 (n : Nd) (f : Bool) (r : Rnd) (st : State) : Answer :=
  node2 0x40 n st (faddResult LaneFmt.e4 f r)

/-- `fsub.e4x8` (R191, Table 07-5). -/
def execFsubE4x8 (n : Nd) (f : Bool) (r : Rnd) (st : State) : Answer :=
  node2 0x41 n st (fsubResult LaneFmt.e4 f r)

/-- `fmul.e4x8` (R191, Table 07-5). -/
def execFmulE4x8 (n : Nd) (f : Bool) (r : Rnd) (st : State) : Answer :=
  node2 0x42 n st (fmulResult LaneFmt.e4 f r)

/-- `fmin.e4x8` (R192). -/
def execFminE4x8 (n : Nd) (nm f : Bool) (st : State) : Answer :=
  node2 0x43 n st (fminmaxResult LaneFmt.e4 false nm f)

/-- `fmax.e4x8` (R192). -/
def execFmaxE4x8 (n : Nd) (nm f : Bool) (st : State) : Answer :=
  node2 0x44 n st (fminmaxResult LaneFmt.e4 true nm f)

/-- `fcmp.e4x8` (R193). -/
def execFcmpE4x8 (n : Nd) (k : Cond) (st : State) : Answer :=
  node2 0x45 n st (fcmpResult LaneFmt.e4 k)

/-- `dot.e4x8` (R195). -/
def execDotE4x8 (n : N3) (f : Bool) (st : State) : Answer :=
  node3 0x46 n st (dotResult LaneFmt.e4 f)

/-- `fadd.e5x8` (R191, Table 07-5). -/
def execFaddE5x8 (n : Nd) (f : Bool) (r : Rnd) (st : State) : Answer :=
  node2 0x48 n st (faddResult LaneFmt.e5 f r)

/-- `fsub.e5x8` (R191, Table 07-5). -/
def execFsubE5x8 (n : Nd) (f : Bool) (r : Rnd) (st : State) : Answer :=
  node2 0x49 n st (fsubResult LaneFmt.e5 f r)

/-- `fmul.e5x8` (R191, Table 07-5). -/
def execFmulE5x8 (n : Nd) (f : Bool) (r : Rnd) (st : State) : Answer :=
  node2 0x4A n st (fmulResult LaneFmt.e5 f r)

/-- `fmin.e5x8` (R192). -/
def execFminE5x8 (n : Nd) (nm f : Bool) (st : State) : Answer :=
  node2 0x4B n st (fminmaxResult LaneFmt.e5 false nm f)

/-- `fmax.e5x8` (R192). -/
def execFmaxE5x8 (n : Nd) (nm f : Bool) (st : State) : Answer :=
  node2 0x4C n st (fminmaxResult LaneFmt.e5 true nm f)

/-- `fcmp.e5x8` (R193). -/
def execFcmpE5x8 (n : Nd) (k : Cond) (st : State) : Answer :=
  node2 0x4D n st (fcmpResult LaneFmt.e5 k)

/-- `dot.e5x8` (R195). -/
def execDotE5x8 (n : N3) (f : Bool) (st : State) : Answer :=
  node3 0x4E n st (dotResult LaneFmt.e5 f)

end Sys2Proof.Machine
end

