-- ==== Sys2Proof/Machine/ElementConvert.lean ====
section
/-! DEFINITION. Conversion, scale and lane instructions: opcodes 0x50 to 0x5C (R92, R93, R196 to R200). -/

namespace Sys2Proof.Machine

open Sys2Proof

/-- An input lane of a conversion: an exact value, an integer, or a QN4 code. -/
inductive InLane where
  | fv (v : FV)
  | int (x : Int)
  | qn (c : Nat)
deriving DecidableEq, Repr

/-- The input lanes of a conversion by the type of operand A (R196); `none` for the types that fault. -/
def inLanes (u fz : Bool) (x : Scalar) : Option (List InLane) :=
  let v := x.val.toNat
  let ints := fun (w n : Nat) => some ((lanesOf w n v).map fun c => InLane.int (laneInt w u c))
  let floats := fun (f : LaneFmt) => some ((f.values fz v).map InLane.fv)
  match x.ty with
  | .i64 => ints 64 1 | .i32 => ints 32 1 | .i16x4 => ints 16 4 | .i8x8 => ints 8 8
  | .u64 | .tagix => some [.int (v : Nat)]
  | .f32 => floats .f32 | .bf16x4 => floats .bf16 | .e4x8 => floats .e4 | .e5x8 => floats .e5
  | .qn4x16 => some ((lanesOf 4 16 v).map InLane.qn)
  | .handle | .control | .marker => none

/-- An output format of a conversion (Table 07-8). -/
inductive OutFmt where
  | int (ty : TType) (w n : Nat)
  | float (f : LaneFmt)
  | qn4
deriving DecidableEq, Repr

/-- Its token type. -/
def OutFmt.ty : OutFmt → TType
  | .int t _ _ => t | .float f => f.ty | .qn4 => .qn4x16
/-- Its lane width. -/
def OutFmt.w : OutFmt → Nat
  | .int _ w _ => w | .float f => f.w | .qn4 => 4
/-- Its lane count. -/
def OutFmt.n : OutFmt → Nat
  | .int _ _ n => n | .float f => f.n | .qn4 => 16
/-- The lane that stands where no input lane does: zero of the format, code 7 in QN4 (R197). -/
def OutFmt.fill : OutFmt → Nat
  | .qn4 => 7 | _ => 0

/-- A floating value to an integer lane (Table 03-9): NaN gives 0 with the bit set. -/
def floatToInt (w : Nat) (u : Bool) (mode : Rnd) (v : FV) : Nat × Bool :=
  match v with
  | .nan => (0, true)
  | .inf neg => (truncInt w (clampInt w u (if neg then -((2 ^ 70 : Nat) : Int) else (2 ^ 70 : Nat))).1, true)
  | .fin neg m e =>
    let (x, o) := clampInt w u (FV.toInt mode neg m e)
    (truncInt w x, o)

/-- One converted lane and its overflow bit (R92, Table 03-9); `ls` is the line scale of operand B. -/
def cvtLane (o : OutFmt) (u fz : Bool) (mode : Rnd) (ls : FV) (i : InLane) : Nat × Bool :=
  match o, i with
  | .int _ w _, .fv v => floatToInt w u mode v
  | .int _ w _, .int x => let (y, b) := clampInt w u x; (truncInt w y, b)
  | .float f, .fv v => f.fmt.round mode fz .saturate v
  | .float f, .int x => f.fmt.round mode fz .saturate (FV.ofInt x)
  | .float f, .qn c => f.fmt.round mode fz .saturate (qnValue ls c)
  | .qn4, .fv v => qnEncode ls v
  | .int _ _ _, .qn _ | .qn4, .int _ | .qn4, .qn _ => (0, false)

/-- Whether a conversion between these formats exists (R196). -/
def cvtAllowed (o : OutFmt) (l : List InLane) : Bool :=
  match o, l with
  | .qn4, .int _ :: _ | .qn4, .qn _ :: _ | .int _ _ _, .qn _ :: _ => false
  | _, _ => true

/-- Whether operand B is read: the input or the output is QN4 (R198). -/
def cvtReadsB (o : OutFmt) (x : Scalar) : Bool := o == .qn4 || x.ty == .qn4x16

/-- The line scale in operand B: super in bits 31:0, s in 39:32, the rest zero (R198). -/
def scaleWord (v : Nat) : Res FV :=
  if v / 2 ^ 40 = 0 && superOk (v % 2 ^ 32) then .ok (lineScale (v % 2 ^ 32) (bits v 39 32)) else flt .format

/-- The converted value and the lane mask of overflows (R92, R93, R197). -/
def cvtResult (o : OutFmt) (u fz : Bool) (mode : Rnd) (a b : Opd) : Res (Scalar × Nat) := do
  let x ← asScalar a [.i64, .i32, .u64, .f32, .bf16x4, .i16x4, .e4x8, .e5x8, .i8x8, .qn4x16, .tagix]
  match inLanes u fz x with
  | none => flt .type
  | some l =>
    need (cvtAllowed o l) .type
    let ls ← if cvtReadsB o x then (do
        let y ← asScalar b [.i64]
        need (!x.sc && !y.sc) .scaleMismatch
        scaleWord y.val.toNat)
      else (do
        need (!x.sc) .scaleMismatch
        return FV.fin false 0 0)
    let r := (l.take o.n).map (cvtLane o u fz mode ls)
    let codes := r.map (·.1) ++ List.replicate (o.n - r.length) o.fill
    return (⟨BitVec.ofNat 64 (joinLanes o.w codes), o.ty, false⟩, laneMask (r.map (·.2)))

/-- Count an overflow token that destination 15 discards; the counter stops at all ones (R93). -/
def countDiscard (s : State) (u : UId) : State :=
  s.modUnit u fun h => { h with ovDiscard := min (h.ovDiscard + 1) 0xFFFFFFFF }

/-- The operand B of a conversion: read only where QN4 is involved (R198), or where the tag action takes it (R42). -/
def cvtScale (s : State) (c : Cur) (o : OutFmt) (n : Nd) (a : Opd) : Res (Opd × State) :=
  let qn := match a.pay with | .scal x => cvtReadsB o x | .line _ _ _ => false
  if qn || n.t == .into || n.t == .frame then readSrc s c n.b else .ok (⟨plain 0 .i64, true⟩, s)

/-- Run a conversion: the value on destination 0 and, if a lane overflowed, the mask on destination 1 (R93). -/
def nodeCvt (op : Nat) (o : OutFmt) (n : Nd) (u fz : Bool) (mode : Rnd) (st : State) : Answer :=
  runNode op n.a n.b st fun s c => do
    let (a, s) ← readSrc s c n.a
    let (b, s) ← cvtScale s c o n a
    let (x, mask) ← cvtResult o u fz mode a b
    let late := if mask = 0 then none else some (plain (BitVec.ofNat 64 mask) .control)
    let s ← finishPair s c n b.pay (some (.scal x)) late
    return if mask ≠ 0 ∧ n.e = .none then countDiscard s c.u else s

/-- `cvt.i64` (R196 to R198). -/
def execCvtI64 (n : Nd) (u f : Bool) (r : Rnd) (st : State) : Answer := nodeCvt 0x50 (.int .i64 64 1) n u f r st

/-- `cvt.i32` (R196 to R198). -/
def execCvtI32 (n : Nd) (u f : Bool) (r : Rnd) (st : State) : Answer := nodeCvt 0x51 (.int .i32 32 1) n u f r st

/-- `cvt.i16x4` (R196 to R198). -/
def execCvtI16x4 (n : Nd) (u f : Bool) (r : Rnd) (st : State) : Answer := nodeCvt 0x52 (.int .i16x4 16 4) n u f r st

/-- `cvt.i8x8` (R196 to R198). -/
def execCvtI8x8 (n : Nd) (u f : Bool) (r : Rnd) (st : State) : Answer := nodeCvt 0x53 (.int .i8x8 8 8) n u f r st

/-- `cvt.f32` (R196 to R198). -/
def execCvtF32 (n : Nd) (u f : Bool) (r : Rnd) (st : State) : Answer := nodeCvt 0x54 (.float .f32) n u f r st

/-- `cvt.bf16x4` (R196 to R198). -/
def execCvtBf16x4 (n : Nd) (u f : Bool) (r : Rnd) (st : State) : Answer := nodeCvt 0x55 (.float .bf16) n u f r st

/-- `cvt.e4x8` (R196 to R198). -/
def execCvtE4x8 (n : Nd) (u f : Bool) (r : Rnd) (st : State) : Answer := nodeCvt 0x56 (.float .e4) n u f r st

/-- `cvt.e5x8` (R196 to R198). -/
def execCvtE5x8 (n : Nd) (u f : Bool) (r : Rnd) (st : State) : Answer := nodeCvt 0x57 (.float .e5) n u f r st

/-- `cvt.qn4x16` (R196 to R198). -/
def execCvtQn4x16 (n : Nd) (u f : Bool) (r : Rnd) (st : State) : Answer := nodeCvt 0x58 (.qn4) n u f r st

/-- The floating formats `scl` takes, by the type of operand A (R199). -/
def sclFmt : TType → Option LaneFmt
  | .f32 => some .f32 | .bf16x4 => some .bf16 | .e4x8 => some .e4 | .e5x8 => some .e5 | _ => none

/-- The product of `scl` and `uscl`: each lane times the scale, rounded once (R199). -/
def sclResult (set fz : Bool) (mode : Rnd) (a b : Opd) : Res Scalar := do
  let x ← asScalar a [.f32, .bf16x4, .e4x8, .e5x8]
  let y ← asScalar b [.f32]
  need (x.sc == !set && !y.sc) .scaleMismatch
  match sclFmt x.ty with
  | none => flt .type
  | some f =>
    let k := Fmt.f32.flushIn fz (Fmt.f32.value (y.val.toNat % 2 ^ 32))
    return ⟨f.round mode fz ((f.values fz x.val.toNat).map fun v => FV.mul v k), x.ty, set⟩

/-- `scl` (R199). -/
def execScl (n : Nd) (f : Bool) (r : Rnd) (st : State) : Answer := node2 0x59 n st (sclResult true f r)

/-- `uscl` (R199). -/
def execUscl (n : Nd) (f : Bool) (r : Rnd) (st : State) : Answer := node2 0x5A n st (sclResult false f r)

/-- Lane width and count of a packed type, Table 03-1. -/
def packedShape : TType → Nat × Nat
  | .bf16x4 | .i16x4 => (16, 4) | .e4x8 | .e5x8 | .i8x8 => (8, 8) | .qn4x16 => (4, 16) | _ => (64, 1)

/-- The packed types 4 to 9 (R200). -/
def packedTypes : List TType := [.bf16x4, .i16x4, .e4x8, .e5x8, .i8x8, .qn4x16]

/-- Zero of a packed format: code 7 in QN4 (R200). -/
def packedZero (t : TType) : Nat := if t = .qn4x16 then 7 else 0

/-- The result of `pack`: a zero operand takes the other's type (R177, R200). -/
def packResult (k : Nat) (a b : Opd) : Res Scalar := do
  let x0 ← if a.zero then .ok (zeroOf .bf16x4) else asScalar a packedTypes
  let y0 ← if b.zero then .ok (zeroOf x0.ty) else asScalar b packedTypes
  let x := if a.zero then zeroOf y0.ty else x0
  need (x.ty == y0.ty) .type
  need (x.sc == y0.sc) .scaleMismatch
  let (w, n) := packedShape x.ty
  need (decide (k < n)) .lane k
  let la := lanesOf w n x.val.toNat
  let lb := lanesOf w n y0.val.toNat
  return ⟨BitVec.ofNat 64 (joinLanes w (la.take k ++ lb.take (n - k))), x.ty, x.sc⟩

/-- `pack` (R200). -/
def execPack (n : Nd) (k : BitVec 4) (st : State) : Answer := node2 0x5B n st (packResult k.toNat)

/-- The result of `unpk` (R200). -/
def unpkResult (k : Nat) (a : Opd) : Res Scalar := do
  let x ← asScalar a packedTypes
  let (w, n) := packedShape x.ty
  need (decide (k < n)) .lane k
  let l := (lanesOf w n x.val.toNat).drop k ++ List.replicate k (packedZero x.ty)
  return ⟨BitVec.ofNat 64 (joinLanes w l), x.ty, x.sc⟩

/-- `unpk` (R200). -/
def execUnpk (n : Nd) (k : BitVec 4) (st : State) : Answer := node2 0x5C n st fun a _ => unpkResult k.toNat a

end Sys2Proof.Machine
end

