-- ==== Sys2Proof/Machine/ElementGraph.lean ====
section
/-! DEFINITION. Tag spaces and frames (R43 to R54) and the element instructions of graph control, tags and frames:
opcodes 0x60 to 0x77 (R201 to R211). -/

namespace Sys2Proof.Machine

open Sys2Proof

/-! ### Tag spaces -/

/-- The space of a number from 1 up (R43, R204). -/
def spaceOf (r : Region) (k : Nat) : Option Space := if k = 0 then none else r.spaces[k - 1]?

/-- The number, from 0, of a parent index among the indices of a space's parent space, if it is one (R43, R44). -/
def parentNo (r : Region) (sp : Space) (ix : Nat) : Option Nat :=
  if sp.parent = 0 then (if ix = 0 then some 0 else none)
  else match spaceOf r sp.parent with
    | none => none
    | some p => if p.base ≤ ix ∧ ix < p.base + p.foot then some (ix - p.base) else none

/-- The full run of a space under the p-th index of its parent: base + p*K up (R43). -/
def fullRun (sp : Space) (p : Nat) : List Nat := (List.range sp.k).map (sp.base + p * sp.k + ·)

/-- The free list of a run in a frame: full when the frame is created (R44, R50). -/
def freeRun (f : Frame) (k : Nat) (sp : Space) (p : Nat) : List Nat := AL.get (fullRun sp p) f.runs (k, p)

/-- The spaces of a region with their numbers. -/
def numbered (r : Region) : List (Nat × Space) := r.spaces.zipIdx.map fun p => (p.2 + 1, p.1)

/-- The space, its number and the run that an index lies in (R43). -/
def runOf (r : Region) (ix : Nat) : Option (Nat × Space × Nat) :=
  ((numbered r).find? fun p => decide (p.2.base ≤ ix) && decide (ix < p.2.base + p.2.foot)).map
    fun p => (p.1, p.2, (ix - p.2.base) / p.2.k)

/-- Whether an index is allocated in a frame (R47). -/
def allocated (r : Region) (f : Frame) (ix : Nat) : Bool :=
  match runOf r ix with
  | none => false
  | some (k, sp, p) => !(freeRun f k sp p).contains ix

/-- The indices of child spaces that lie under an index (R45). -/
def childrenOf (r : Region) (ix : Nat) : List Nat :=
  match runOf r ix with
  | none => []
  | some (k, sp, _) => (numbered r).flatMap fun q => if q.2.parent = k then fullRun q.2 (ix - sp.base) else []

/-- Every index of every space of a region. -/
def allIndices (r : Region) : List Nat := r.spaces.flatMap fun sp => (List.range sp.foot).map (sp.base + ·)

/-- An index token (R208). -/
def indexToken (ix : Nat) : Payload := plain (BitVec.ofNat 64 ix) .tagix

/-- Take an index for a firing (R44): the new index, or `none` when the run is empty and the firing stalls. -/
def takeIndex (s : State) (c : Cur) (k : Nat) : Res (Option Nat × State) := do
  needLive s c.f.rid c.f.tag
  let s ← ensureCopy s c.f.rid c.f.tag c.u.cl
  let r := s.region c.f.rid
  match spaceOf r k with
  | none => flt .tagRange k
  | some sp =>
    match parentNo r sp c.f.tag.ix with
    | none => flt .tagRange c.f.tag.ix
    | some p =>
      let f := frameAt s c.f.rid c.f.tag
      match freeRun f k sp p with
      | [] => return (none, s)
      | ix :: l =>
        let f := { f with runs := AL.set f.runs (k, p) l, link := AL.set f.link ix c.f.tag.ix }
        return (some ix, changeFrame s c.f.rid c.u.cl c.f.tag f)

/-- A firing that holds its operands as they were read when it issued (R52). -/
def Cur.holding (c : Cur) (a b : Payload) : Cur := { c with f := { c.f with l := some a, r := some b } }

/-- Operand B of a firing that holds its operands. -/
def heldB (c : Cur) : Payload := c.f.r.getD (plain 0 .i64)

/-- Put a firing among the stalled allocations of its run (R44). -/
def stallOn (s : State) (c : Cur) (i : Instr) (k : Nat) : State :=
  let r := s.region c.f.rid
  let p := match spaceOf r k with
    | some sp => (parentNo r sp c.f.tag.ix).getD 0
    | none => 0
  let f := frameAt s c.f.rid c.f.tag
  s.setFrame c.f.rid c.f.tag.die c.f.tag.frame { f with talloc := f.talloc ++ [(k, p, ⟨c.u, i, c.f⟩)] }

/-- The space number in parameter literal 13, bits 8:0 (R204). -/
def spaceLit (s : State) (u : UId) : Nat := bits (AL.get 0 (s.unit u).lits 13).toNat 8 0

/-- `talloc` once its index is known: the index token on both destinations (Table 07-11). -/
def tallocEmit (s : State) (c : Cur) (n : Nd) (ix : Nat) : Res State := finish s c n (plain 0 .i64) (indexToken ix)

/-- `fcomp` once its index is known: the value on destination 0, tagged with the new index (R68, R204). -/
def fcompEmit (s : State) (c : Cur) (n : Nd) (b : Payload) (ix : Nat) : Res State :=
  sendTo s c n.d b (c.f.tag.withIx ix)

/-! ### Frames -/

/-- Frames of a region that are not free on a die (R53). -/
def framesUsed (s : State) (rid die : Nat) : Nat :=
  (s.frames.filter fun p => p.1.1 = rid && p.1.2.1 = die && p.2.st != .free).length

/-- The frame budget per die of a region (R56, Table 12-7). -/
def frameBudget (r : Region) : Nat := bits r.rcb.toNat 268 256

/-- The lowest-numbered free frame of a region on a die (R50). -/
def lowestFree (s : State) (rid die : Nat) : Nat :=
  ((List.range 4096).find? fun k => (s.frame rid die k).st == .free).getD 0

/-- Make a frame live with a copy at a cluster, every slot zero and every run full (R50). The activation that begins with it
has sent nothing to the sink yet (R58). -/
def newFrame (s : State) (rid die fr cl : Nat) (join : Word) (retarc : BitVec 32) (rettag : Tag) (retRid : Nat) : State :=
  let f : Frame :=
    { Frame.none with st := .live, join, retarc, rettag, recur := (s.region rid).recursive, retRid, copies := [cl] }
  ((logUndo (cleanCopy s rid (Tag.mk die fr 0) cl) rid cl (.frame die fr (s.frame rid die fr))).modRegion rid fun r => { r with sunk := AL.del r.sunk (die, fr) }).setFrame
    rid die fr f

/-- The frame a firing may take now: `some`, or `none` when it must stall (R53). -/
def frameToTake (s : State) (rid die : Nat) : Res (Option Nat) :=
  if framesUsed s rid die < frameBudget (s.region rid) then .ok (some (lowestFree s rid die))
  else if (s.region rid).recursive then flt .frameExhausted
  else .ok none

/-- Put a firing among the stalled allocations of a region and die (R53). -/
def stallFrame (s : State) (rid die : Nat) (c : Cur) (i : Instr) : State :=
  s.modRegion rid fun r => { r with falloc := r.falloc ++ [(die, ⟨c.u, i, c.f⟩)] }

/-- A frame token (R208). -/
def frameToken (die fr : Nat) : Payload := plain (BitVec.ofNat 64 (die % 8 * 2 ^ 21 + fr % 4096 * 2 ^ 9)) .tagix

/-- The callee of a `call`, from `lit13` (R209). -/
def calleeOf (s : State) (c : Cur) : Option Nat :=
  namedRegion s c.f.rid (bits (AL.get 0 (s.unit c.u).lits 13).toNat 31 16)

/-- `falloc` once its frame is known (Table 07-11). -/
def fallocEmit (s : State) (c : Cur) (n : Nd) (fr : Nat) : Res State :=
  let die := dieOf c.u.cl
  finish (newFrame s c.f.rid die fr c.u.cl 0 0 0 0) c n (plain 0 .i64) (frameToken die fr)

/-- `call` once its frame is known: header, then the arguments into the new frame (R209). -/
def callEmit (s : State) (c : Cur) (n : Nd) (x y : Payload) (callee fr : Nat) : Res State := do
  let die := dieOf c.u.cl
  let k := bits (AL.get 0 (s.unit c.u).lits 13).toNat 2 0
  let back := Arc.absolute (AL.get 0 (s.unit c.u).arcs k) c.u.cl
  let s := newFrame s callee die fr c.u.cl 0 back c.f.tag c.f.rid
  let t := Tag.mk die fr 0
  let c' : Cur := ⟨c.u, { c.f with rid := callee, tag := t }⟩
  let s ← sendTo s c' n.d x t
  if n.e = n.d then return s else sendTo s c' n.e y t

/-! ### Stalled allocations -/

/-- The effect of a stalled allocation with what it is handed (R45, R53), on the operands that it read when it issued. -/
def stallDone (s : State) (st : Stall) (got : Nat) : Res State :=
  let c : Cur := ⟨st.u, st.f⟩
  match st.i with
  | .talloc n => tallocEmit s c n got
  | .fcomp n => fcompEmit s c n (heldB c) got
  | .falloc n => fallocEmit s c n got
  | .call n => match calleeOf s c with
    | some k => callEmit s c n (st.f.l.getD (plain 0 .i64)) (heldB c) k got
    | none => flt .callTarget (bits (AL.get 0 (s.unit c.u).lits 13).toNat 31 16)
  | _ => .ok s

/-- Where the fault of a stalled allocation arises. -/
def stallSite (s : State) (st : Stall) : FaultSite :=
  let op := match st.i with
    | .talloc _ => 0x70 | .fcomp _ => 0x65 | .falloc _ => 0x72 | .call _ => 0x74 | _ => 0
  siteOf s ⟨st.u, st.f⟩ op .left .right

/-- A stalled allocation keeps what it was handed while its cluster has no room for a frame copy it needs (R51, R53);
`stage` is one more than the number. -/
def keepStall (s : State) (st : Stall) (got : Nat) : State :=
  s.modCluster st.u.cl fun k => { k with slotWait := k.slotWait ++ [{ st with f := { st.f with stage := got + 1 } }] }

/-- Change a frame for a stalled allocation that leaves its list, and record the link of the index it is handed. -/
def Frame.handed (f : Frame) (w : Nat × Nat × Stall) (ix : Nat) : Frame :=
  { f with talloc := f.talloc.erase w, link := AL.set f.link ix w.2.2.f.tag.ix }

/-- Pass an index of a run to the first of the stalled allocations given that takes it, else back to the run (R45). One
whose completion faults takes nothing (R13), so the index passes on. -/
def handIndex (s : State) (rid cl : Nat) (t : Tag) (run : List Nat) (ix : Nat) : List (Nat × Nat × Stall) → Nat × Nat → State
  | [], key =>
    let f := frameAt s rid t
    changeFrame s rid cl t { f with runs := AL.set f.runs key (run ++ [ix]) }
  | w :: l, key =>
    let f := frameAt s rid t
    let s1 := changeFrame s rid cl t (f.handed w ix)
    match stallDone s1 w.2.2 ix with
    | .ok v => v
    | .error .wait => keepStall s1 w.2.2 ix
    | .error (.fault e) =>
      let s0 := s.setFrame rid t.die t.frame { f with talloc := f.talloc.erase w }
      handIndex (faultOrRollback s0 (stallSite s0 w.2.2) e) rid cl t run ix l key

/-- Pass a freed frame to the first of the stalled allocations given that takes it, else leave it free (R53). A firing
whose cluster has no room for the copy keeps the frame, which is then not free. -/
def handFrame (s : State) (rid die fr : Nat) : List (Nat × Stall) → State
  | [] => s.setFrame rid die fr Frame.none
  | w :: l =>
    let s0 := (s.modRegion rid fun r => { r with falloc := r.falloc.erase w }).setFrame rid die fr Frame.none
    let kept := keepStall (s0.setFrame rid die fr { Frame.none with st := .live }) w.2 fr
    if copyRoom s0 w.2.u.cl then
      match stallDone s0 w.2 fr with
      | .ok v => v
      | .error .wait => kept
      | .error (.fault e) => handFrame (faultOrRollback s0 (stallSite s0 w.2) e) rid die fr l
    else kept

/-- Hand a freed frame to the earliest stalled allocation of its region and die, or leave it free (R53). What the frame was
goes into the undo entries first (R361), of a cluster that holds a copy of it. -/
def releaseFrame (s : State) (rid die fr : Nat) : State :=
  let f := s.frame rid die fr
  let s := logUndo s rid (f.copies.headD ((s.region rid).host.headD 0)) (.frame die fr f)
  handFrame s rid die fr ((s.region rid).falloc.filter (·.1 = die))

/-- The first allocation of a cluster that keeps what it was handed completes, where it now can (R51, R53). A fault gives
back what it kept: an index to its run, a frame to the next allocation that waits (R13). -/
def resumeStall (s : State) (st : Stall) (got : Nat) : Option State :=
  match stallDone s st got with
  | .ok t => some t
  | .error .wait => none
  | .error (.fault e) =>
    let t := faultOrRollback s (stallSite s st) e
    let r := s.region st.f.rid
    let index := match runOf r got with
      | some (k, sp, p) =>
        let f := frameAt t st.f.rid st.f.tag
        handIndex t st.f.rid st.u.cl st.f.tag (freeRun f k sp p) got (f.talloc.filter fun w => w.1 = k && w.2.1 = p) (k, p)
      | none => t
    match st.i with
    | .talloc _ | .fcomp _ => some index
    | .falloc _ => some (releaseFrame t st.f.rid (dieOf st.u.cl) got)
    | .call _ => some (match calleeOf s ⟨st.u, st.f⟩ with
      | some k => releaseFrame t k (dieOf st.u.cl) got
      | none => t)
    | _ => some t

/-- The arrival that an ending activation owes the counter in its header, as an engine operation that follows (R66); its
stage, 1, marks it as one that waits for its frame to be free and performs as a release at system scope. It issues as a
`jarrive` does: in a logged interval what the log holds is performed first (R148, R252). -/
def owedArrival (s : State) (rid cl : Nat) (t : Tag) (join : Word) : State :=
  if join = 0 then s
  else
    let (id, s) := (makeIrrevocable s rid).fresh
    let f : Firing := ⟨0, rid, t, some (plain join .u64), none, none, none, 1, s.clock, s.issued⟩
    let a : Access := ⟨id, .jarrive ⟨.keep, .left, .zero, .none, .none⟩ .sys, f, .queued, none, none, false, 0⟩
    s.modUnit ⟨cl, .eng, 0⟩ fun h => { h with ops := h.ops ++ [a] }

/-- `ffree` of a frame (R54): live and no index but 0 allocated, else the frame-busy fault. -/
def freeFrame (s : State) (rid cl : Nat) (t : Tag) : Res State := do
  needLive s rid t
  let f := frameAt s rid t
  let r := s.region rid
  need (!(allIndices r).any (allocated r f)) .frameBusy (frameBits t)
  needWait (f.join == 0 || !logging s rid || !logMigrates s rid)
  return owedArrival (changeFrame s rid cl t { f with st := .returning }) rid cl t f.join

/-! ### Graph control -/

/-- `switch` (R201, Table 07-10). -/
def execSwitch (n : Nd) (st : State) : Answer :=
  runNode 0x60 n.a n.b st fun s c => do
    let (a, s) ← readSrc s c n.a
    let (b, s) ← readSrc s c n.b
    let x ← asScalar a condTypes
    let y ← asScalar b allTypes
    clearOf x
    let t ← tagOf s c n.t b.pay
    sendTo s c (if truth x then n.d else n.e) (outForm n.t (.scal y)) t

/-- `merge` (R202): the token that reached either side, as it arrived. DESIGN CHOICE: the operand B that tag actions 2 and
3 read is that token, on whichever side it came (log 36). -/
def execMerge (n : Nd) (st : State) : Answer :=
  runNode 0x61 n.a n.b st fun s c => do
    let p := ((c.f.l <|> c.f.r).getD (plain 0 .i64)).clean
    finish s c n p p

/-- `dup` (R203): destinations 0 and 1 and the arcs of the mask in `lit13`, each distinct one once. -/
def execDup (n : Nd) (st : State) : Answer :=
  runNode 0x62 n.a n.b st fun s c => do
    let (a, s) ← readSrc s c n.a
    let x ← asScalar a allTypes
    let t ← tagOf s c n.t (plain 0 .i64)
    let p := outForm n.t (.scal x)
    let s ← sendBoth s c n.d n.e p t
    let mask := (AL.get 0 (s.unit c.u).lits 13).toNat
    (List.range 8).foldlM (fun s k =>
      let d : Dst := .arc (BitVec.ofNat 3 k)
      if bitAt mask k && n.d != d && n.e != d then sendTo s c d p t else .ok s) s

/-- `gate` (R206): B once A has met it; A's value is not used. -/
def execGate (n : Nd) (st : State) : Answer :=
  runNode 0x63 n.a n.b st fun s c => do
    let (a, s) ← readSrc s c n.a
    let (b, s) ← readSrc s c n.b
    let x ← asScalar a allTypes
    let y ← asScalar b allTypes
    clearOf x
    finish s c n b.pay (.scal y)

/-- `sink` (Table 07-10): the tokens are consumed and nothing is sent. -/
def execSink (n : Nd) (st : State) : Answer :=
  runNode 0x64 n.a n.b st fun s c => do
    let (_, s) ← readSrc s c n.a
    let (_, s) ← readSrc s c n.b
    return s

/-- `fcomp` (R68, R204): true takes an index downstream, or stalls; false goes to destination 1 with the firing's tag. -/
def execFcomp (n : Nd) (st : State) : Answer :=
  runNode 0x65 n.a n.b st fun s c => do
      let (a, s) ← readSrc s c n.a
      let (b, s) ← readSrc s c n.b
      let x ← asScalar a condTypes
      let y ← asScalar b allTypes
      clearOf x
      let k := spaceLit s c.u
      let r := s.region c.f.rid
      match spaceOf r k with
      | none => flt .tagRange k
      | some sp =>
        need (parentNo r sp c.f.tag.ix).isSome .tagRange c.f.tag.ix
        if truth x then
          let (got, s) ← takeIndex s c k
          match got with
          | some ix => fcompEmit s c n (.scal y) ix
          | none => return stallOn s (c.holding a.pay (.scal y)) (.fcomp n) k
        else sendTo s c n.e (.scal y) c.f.tag

/-- The value of a `steer` selector (R205). -/
def steerValue (x : Scalar) : Nat := if x.ty = .i32 then x.val.toNat % 2 ^ 32 else x.val.toNat

/-- `steer` (R205): B on the arc that A numbers, if it is one of the 8 and valid, else on destination 0. -/
def execSteer (n : Nd) (st : State) : Answer :=
  runNode 0x66 n.a n.b st fun s c => do
    let (a, s) ← readSrc s c n.a
    let (b, s) ← readSrc s c n.b
    let x ← asScalar a [.i32, .i64, .u64, .control]
    let y ← asScalar b allTypes
    clearOf x
    let t ← tagOf s c n.t b.pay
    let v := steerValue x
    let d : Dst := if v < 8 ∧ Arc.valid (AL.get 0 (s.unit c.u).arcs v) then .arc (BitVec.ofNat 3 v) else n.d
    sendTo s c d (outForm n.t (.scal y)) t

/-- The value of an ordering token, Table 05-2. -/
def markerWord (scope : Nat) (logged : Bool) : Word := BitVec.ofNat 64 (scope % 8 + 8 * logged.toNat)

/-- The ordering token of `ojoin`: the narrower scope, the OR of the logged bits (R128, R207). -/
def ojoinResult (a b : Opd) : Res Scalar := do
  let x ← asScalar a [.marker]
  let y ← asScalar b [.marker]
  need (!x.sc && !y.sc) .scaleMismatch
  let v := x.val.toNat
  let w := y.val.toNat
  return ⟨markerWord (min (v % 8) (w % 8)) (bitAt v 3 || bitAt w 3), .marker, false⟩

/-- `ojoin` (R207). -/
def execOjoin (n : Nd) (st : State) : Answer := node2 0x67 n st ojoinResult

/-! ### Tags and frames -/

/-- `talloc` (R44, R208). -/
def execTalloc (n : Nd) (st : State) : Answer :=
  runNode 0x70 n.a n.b st fun s c => do
      let k := spaceLit s c.u
      let (got, s) ← takeIndex s c k
      match got with
      | some ix => tallocEmit s c n ix
      | none => return stallOn s c (.talloc n) k

/-- The operand of `tfree` as an index: at most 511, nothing above (R208). -/
def freeIndex (a : Opd) : Res Nat := do
  let x ← scalarU a [.tagix, .i32, .i64]
  let v := if x.ty = .i32 then x.val.toNat % 2 ^ 32 else x.val.toNat
  need (decide (v < 512)) .tagRange (v % 512)
  return v

/-- Give an index back to its run, or straight to the earliest stalled allocation on it (R45). -/
def giveIndex (s : State) (c : Cur) (ix : Nat) : Res State := do
  needLive s c.f.rid c.f.tag
  let s ← ensureCopy s c.f.rid c.f.tag c.u.cl
  let r := s.region c.f.rid
  let f := frameAt s c.f.rid c.f.tag
  match runOf r ix with
  | none => flt .tagRange ix
  | some (k, sp, p) =>
    need (allocated r f ix) .tagDoubleFree ix
    match (childrenOf r ix).find? (allocated r f) with
    | some child => flt .tagBusy child
    | none =>
      return handIndex s c.f.rid c.u.cl c.f.tag (freeRun f k sp p) ix
        (f.talloc.filter fun w => w.1 = k && w.2.1 = p) (k, p)

/-- `tfree` (R45, R208): a control token of the operand's value. -/
def execTfree (n : Nd) (st : State) : Answer :=
  runNode 0x71 n.a n.b st fun s c => do
    let (a, s) ← readSrc s c n.a
    let ix ← freeIndex a
    let s ← giveIndex s c ix
    finish s c n (plain 0 .i64) (plain (BitVec.ofNat 64 ix) .control)

/-- `falloc` (R50, R53): the frame token, or a stall while the budget is used up. -/
def execFalloc (n : Nd) (st : State) : Answer :=
  runNode 0x72 n.a n.b st fun s c => do
      let die := dieOf c.u.cl
      match ← frameToTake s c.f.rid die with
      | none => return stallFrame s c.f.rid die c (.falloc n)
      | some fr =>
        needWait (copyRoom s c.u.cl)
        fallocEmit s c n fr

/-- The frame that a frame token names, as a tag (R208); anything else raises the tag-range fault. -/
def frameOperand (a : Opd) : Res Tag :=
  match a.pay with
  | .scal x =>
    let v := x.val.toNat
    if (a.zero || x.ty = .tagix) && v / 2 ^ 24 = 0 && v % 512 = 0 then
      (if x.sc then flt .scaleMismatch else .ok (BitVec.ofNat 24 v))
    else flt .tagRange (v % 512)
  | .line _ _ _ => flt .tagRange

/-- `ffree` (R54, R208). -/
def execFfree (n : Nd) (st : State) : Answer :=
  runNode 0x73 n.a n.b st fun s c => do
    let (a, s) ← readSrc s c n.a
    let t ← frameOperand a
    let s ← freeFrame s c.f.rid c.u.cl t
    finish s c n (plain 0 .i64) (plain 0 .control)

/-- `call` (R209). -/
def execCall (n : Nd) (st : State) : Answer :=
  runNode 0x74 n.a n.b st fun s c => do
    match calleeOf s c with
    | none => flt .callTarget (bits (AL.get 0 (s.unit c.u).lits 13).toNat 31 16)
    | some callee =>
      let (a, s) ← readSrc s c n.a
      let (b, s) ← readSrc s c n.b
      let x ← scalarU a allTypes
      let y ← scalarU b allTypes
      let die := dieOf c.u.cl
      match ← frameToTake s callee die with
      | none => return stallFrame s callee die (c.holding (.scal x) (.scal y)) (.call n)
      | some fr =>
        needWait (copyRoom s c.u.cl)
        callEmit s c n (.scal x) (.scal y) callee fr

/-- `ret` (R210): A on the return arc under the return tag, then the frame is freed; a frame-busy fault cancels both. -/
def execRet (n : Nd) (st : State) : Answer :=
  runNode 0x75 n.a n.b st fun s c => do
    let (a, s) ← readSrc s c n.a
    let x ← scalarU a allTypes
    needLive s c.f.rid c.f.tag
    let s ← sendTo s c .ret (.scal x) (frameAt s c.f.rid c.f.tag).rettag
    freeFrame s c.f.rid c.u.cl c.f.tag


/-- Write slot `lit12` in every copy of the firing's frame that exists or will be created (R52). The host clusters that
hold no copy receive the `fbcast`, and a copy is made at each whose frame class has room for it (R51; log 37). -/
def broadcastSlot (s : State) (c : Cur) (v : Word) : Res State := do
  needLive s c.f.rid c.f.tag
  let s ← ensureCopy s c.f.rid c.f.tag c.u.cl
  let k := bits (AL.get 0 (s.unit c.u).lits 12).toNat 6 0
  let f := frameAt s c.f.rid c.f.tag
  let host := (s.region c.f.rid).host
  let f := f.copiedAt (host.filter fun cl => !f.copies.contains cl && copyRoom s cl)
  let g := { f with
    bcast := AL.set f.bcast k v
    slots := f.copies.foldl (fun m cl => AL.set m (cl, k) v) f.slots
    stamps := (f.copies ++ host).foldl (fun m cl => AL.set m (cl, k) c.f.seq) f.stamps }
  return changeFrame s c.f.rid c.u.cl c.f.tag g

/-- `fbcast` (R52, R208): slot `lit12` in every copy of the frame that exists or will be created. -/
def execFbcast (n : Nd) (st : State) : Answer :=
  runNode 0x76 n.a n.b st fun s c => do
    let (a, s) ← readSrc s c n.a
    let x ← scalarU a allTypes
    let s ← broadcastSlot s c x.val
    finish s c n (plain 0 .i64) (plain 0 .control)

/-- `tagv` (R208, R211): an i64 of the firing's tag. -/
def execTagv (n : Nd) (st : State) : Answer :=
  runNode 0x77 n.a n.b st fun s c => finish s c n (plain 0 .i64) (plain (BitVec.ofNat 64 c.f.tag.toNat) .i64)

end Sys2Proof.Machine
end

