-- ==== Sys2Proof/WellFormed.lean ====
section
/-! DEFINITION. The checks of one node word beyond its field codes: what configuration load refuses (R151, R154, R166,
R181) whatever unit the word is placed on. -/

namespace Sys2Proof

/-- The first condition of a list that does not hold, as the status that refuses the word (R166). -/
def refuse : List (Bool × LoadStatus) → Option LoadStatus
  | [] => none
  | (ok, e) :: l => if ok then refuse l else some e

/-- What holds of every node with two destinations: destination 9 needs tag action 4 (R154), and tag action 6 stands on
an element and reaches no frame slot (R27, R161). -/
def Nd.base (n : Nd) (element : Bool) : List (Bool × LoadStatus) :=
  [((n.d != .ret && n.e != .ret) || n.t == .ret, .reservedSelect),
   (n.t != .repl || (element && n.d != .slot && n.e != .slot), .replicate)]

/-- The same for a three-operand form (R153). -/
def N3.base (n : N3) (element : Bool) : List (Bool × LoadStatus) :=
  [(n.d != .ret || n.t == .ret, .reservedSelect),
   (n.t != .repl || (element && n.d != .slot), .replicate)]

/-- The status that refuses an instruction, if any: unused selects hold code 2 (R151, R176), selects and tag actions are
those its description allows (R181), a zero whose type nothing fixes is refused (R177), and so are the modifier values
its description names. An event of the device is no word and is never refused here. -/
def Instr.check : Instr → Option LoadStatus
  | .add n _ _ _ => refuse (n.base true)
  | .sub n _ _ _ => refuse (n.base true)
  | .mul n _ _ _ => refuse (n.base true)
  | .mulhi n _ _ => refuse (n.base true)
  | .div n _ _ _ => refuse (n.base true)
  | .rem n _ _ => refuse (n.base true)
  | .min n _ _ => refuse (n.base true)
  | .max n _ _ => refuse (n.base true)
  | .abs n _ _ => refuse (n.base true ++ [(n.b == .zero, .reservedSelect)])
  | .neg n _ _ => refuse (n.base true ++ [(n.b == .zero, .reservedSelect)])
  | .lea n _ => refuse (n.base true)
  | .mov n _ => refuse (n.base true ++ [(n.b == .zero, .reservedSelect)])
  | .and n _ => refuse (n.base true)
  | .or n _ => refuse (n.base true)
  | .xor n _ => refuse (n.base true)
  | .andn n _ => refuse (n.base true)
  | .not n _ => refuse (n.base true ++ [(n.b == .zero, .reservedSelect)])
  | .shl n _ => refuse (n.base true)
  | .shr n _ => refuse (n.base true)
  | .sar n _ => refuse (n.base true)
  | .rotl n _ => refuse (n.base true)
  | .clz n _ => refuse (n.base true ++ [(n.b == .zero, .reservedSelect)])
  | .popc n _ => refuse (n.base true ++ [(n.b == .zero, .reservedSelect)])
  | .bfx n _ _ => refuse (n.base true)
  | .bfi n _ => refuse (n.base true)
  | .cmp n _ _ => refuse (n.base true)
  | .sel n => refuse (n.base true)
  | .faddF32 n _ _ => refuse (n.base true)
  | .fsubF32 n _ _ => refuse (n.base true)
  | .fmulF32 n _ _ => refuse (n.base true)
  | .fmaF32 n _ _ => refuse (n.base true)
  | .fminF32 n _ _ => refuse (n.base true)
  | .fmaxF32 n _ _ => refuse (n.base true)
  | .fnegF32 n _ => refuse (n.base true ++ [(n.b == .zero, .reservedSelect)])
  | .fabsF32 n _ => refuse (n.base true ++ [(n.b == .zero, .reservedSelect)])
  | .fcmpF32 n _ => refuse (n.base true)
  | .frcpF32 n _ _ => refuse (n.base true ++ [(n.b == .zero, .reservedSelect)])
  | .fsqrtF32 n _ _ => refuse (n.base true ++ [(n.b == .zero, .reservedSelect)])
  | .fexp2F32 n _ _ => refuse (n.base true ++ [(n.b == .zero, .reservedSelect)])
  | .flog2F32 n _ _ => refuse (n.base true ++ [(n.b == .zero, .reservedSelect)])
  | .faddBf16x4 n _ _ => refuse (n.base true)
  | .fsubBf16x4 n _ _ => refuse (n.base true)
  | .fmulBf16x4 n _ _ => refuse (n.base true)
  | .fmaBf16x4 n _ _ => refuse (n.base true)
  | .fminBf16x4 n _ _ => refuse (n.base true)
  | .fmaxBf16x4 n _ _ => refuse (n.base true)
  | .fnegBf16x4 n _ => refuse (n.base true ++ [(n.b == .zero, .reservedSelect)])
  | .fabsBf16x4 n _ => refuse (n.base true ++ [(n.b == .zero, .reservedSelect)])
  | .fcmpBf16x4 n _ => refuse (n.base true)
  | .frcpBf16x4 n _ _ => refuse (n.base true ++ [(n.b == .zero, .reservedSelect)])
  | .fsqrtBf16x4 n _ _ => refuse (n.base true ++ [(n.b == .zero, .reservedSelect)])
  | .fexp2Bf16x4 n _ _ => refuse (n.base true ++ [(n.b == .zero, .reservedSelect)])
  | .flog2Bf16x4 n _ _ => refuse (n.base true ++ [(n.b == .zero, .reservedSelect)])
  | .dotBf16 n _ => refuse (n.base true)
  | .faddE4x8 n _ _ => refuse (n.base true)
  | .fsubE4x8 n _ _ => refuse (n.base true)
  | .fmulE4x8 n _ _ => refuse (n.base true)
  | .fminE4x8 n _ _ => refuse (n.base true)
  | .fmaxE4x8 n _ _ => refuse (n.base true)
  | .fcmpE4x8 n _ => refuse (n.base true)
  | .dotE4x8 n _ => refuse (n.base true)
  | .faddE5x8 n _ _ => refuse (n.base true)
  | .fsubE5x8 n _ _ => refuse (n.base true)
  | .fmulE5x8 n _ _ => refuse (n.base true)
  | .fminE5x8 n _ _ => refuse (n.base true)
  | .fmaxE5x8 n _ _ => refuse (n.base true)
  | .fcmpE5x8 n _ => refuse (n.base true)
  | .dotE5x8 n _ => refuse (n.base true)
  | .cvtI64 n _ _ _ => refuse (n.base true ++ [(n.b == .zero, .reservedSelect)])
  | .cvtI32 n _ _ _ => refuse (n.base true ++ [(n.b == .zero, .reservedSelect)])
  | .cvtI16x4 n _ _ _ => refuse (n.base true ++ [(n.b == .zero, .reservedSelect)])
  | .cvtI8x8 n _ _ _ => refuse (n.base true ++ [(n.b == .zero, .reservedSelect)])
  | .cvtF32 n _ _ _ => refuse (n.base true)
  | .cvtBf16x4 n _ _ _ => refuse (n.base true)
  | .cvtE4x8 n _ _ _ => refuse (n.base true ++ [(n.b == .zero, .reservedSelect)])
  | .cvtE5x8 n _ _ _ => refuse (n.base true ++ [(n.b == .zero, .reservedSelect)])
  | .cvtQn4x16 n _ _ _ => refuse (n.base true ++ [(n.a != .zero, .reservedSelect)])
  | .scl n _ _ => refuse (n.base true ++ [(n.a != .zero, .reservedSelect)])
  | .uscl n _ _ => refuse (n.base true ++ [(n.a != .zero, .reservedSelect)])
  | .pack n _ => refuse (n.base true ++ [(n.a != .zero || n.b != .zero, .reservedSelect)])
  | .unpk n _ => refuse (n.base true ++ [(n.b == .zero, .reservedSelect), (n.a != .zero, .reservedSelect)])
  | .switch n => refuse (n.base true)
  | .merge n => refuse (n.base true ++ [(n.a == .left, .reservedSelect), (n.b == .right, .reservedSelect)])
  | .dup n => refuse (n.base true ++ [(n.b == .zero, .reservedSelect)])
  | .gate n => refuse (n.base true)
  | .sink n => refuse (n.base true ++ [(n.d == .none, .reservedSelect), (n.e == .none, .reservedSelect)])
  | .fcomp n => refuse (n.base true ++ [(n.t == .keep, .reservedTagAction)])
  | .steer n => refuse (n.base true ++ [(n.e == .none, .reservedSelect)])
  | .ojoin n => refuse (n.base true)
  | .talloc n => refuse (n.base true ++ [(n.a == .zero, .reservedSelect), (n.b == .zero, .reservedSelect)])
  | .tfree n => refuse (n.base true ++ [(n.b == .zero, .reservedSelect)])
  | .falloc n => refuse (n.base true ++ [(n.a == .zero, .reservedSelect), (n.b == .zero, .reservedSelect)])
  | .ffree n => refuse (n.base true ++ [(n.b == .zero, .reservedSelect)])
  | .call n => refuse (n.base true ++ [(n.t == .keep, .reservedTagAction)])
  | .ret n => refuse (n.base true ++ [(n.t == .ret, .reservedTagAction), (n.b == .zero, .reservedSelect), (n.d == .ret, .reservedSelect), (n.e == .none, .reservedSelect)])
  | .fbcast n => refuse (n.base true ++ [(n.b == .zero, .reservedSelect)])
  | .tagv n => refuse (n.base true ++ [(n.a == .zero, .reservedSelect), (n.b == .zero, .reservedSelect)])
  | .ldB n _ _ => refuse (n.base false ++ [(n.b == .zero, .reservedSelect)])
  | .ldH n _ _ => refuse (n.base false ++ [(n.b == .zero, .reservedSelect)])
  | .ldW n _ _ => refuse (n.base false ++ [(n.b == .zero, .reservedSelect)])
  | .ldD n _ _ => refuse (n.base false ++ [(n.b == .zero, .reservedSelect)])
  | .stB n _ => refuse (n.base false)
  | .stH n _ => refuse (n.base false)
  | .stW n _ => refuse (n.base false)
  | .stD n _ => refuse (n.base false)
  | .ldAcq n _ _ => refuse (n.base false ++ [(n.b == .zero, .reservedSelect)])
  | .stRel n _ _ => refuse (n.base false)
  | .ldl n _ => refuse (n.base false ++ [(n.b == .zero, .reservedSelect)])
  | .stl n _ => refuse (n.base false)
  | .stlm n _ => refuse (n.base false)
  | .ldd n _ => refuse (n.base false ++ [(n.b == .zero, .reservedSelect)])
  | .std n _ => refuse (n.base false)
  | .pf n => refuse (n.base false ++ [(n.b == .zero, .reservedSelect)])
  | .aadd n _ _ => refuse (n.base false)
  | .aand n _ _ => refuse (n.base false)
  | .aor n _ _ => refuse (n.base false)
  | .axor n _ _ => refuse (n.base false)
  | .amin n _ _ => refuse (n.base false)
  | .amax n _ _ => refuse (n.base false)
  | .aswp n _ _ => refuse (n.base false)
  | .acas n _ _ => refuse (n.base false)
  | .afadd n _ _ => refuse (n.base false)
  | .fencePub n _ => refuse (n.base false ++ [(n.a == .zero, .reservedSelect), (n.b == .zero, .reservedSelect)])
  | .fenceAcq n _ => refuse (n.base false ++ [(n.a == .zero, .reservedSelect), (n.b == .zero, .reservedSelect)])
  | .strm n _ => refuse (n.base false ++ [(n.b == .zero, .reservedSelect)])
  | .vadd n _ _ _ => refuse (n.base false)
  | .vsub n _ _ _ => refuse (n.base false)
  | .vmul n _ _ _ => refuse (n.base false)
  | .vfma n _ _ => refuse (n.base false)
  | .vmin n _ _ _ => refuse (n.base false)
  | .vmax n _ _ _ => refuse (n.base false)
  | .vabs n _ _ _ => refuse (n.base false ++ [(n.b == .zero, .reservedSelect)])
  | .vneg n _ _ _ => refuse (n.base false ++ [(n.b == .zero, .reservedSelect)])
  | .vexp2 n _ _ => refuse (n.base false ++ [(n.b == .zero, .reservedSelect)])
  | .vlog2 n _ _ => refuse (n.base false ++ [(n.b == .zero, .reservedSelect)])
  | .vrcp n _ _ => refuse (n.base false ++ [(n.b == .zero, .reservedSelect)])
  | .vrsqrt n _ _ => refuse (n.base false ++ [(n.b == .zero, .reservedSelect)])
  | .vcmp n _ => refuse (n.base false)
  | .vsel n _ => refuse (n.base false)
  | .vand n _ => refuse (n.base false)
  | .vor n _ => refuse (n.base false)
  | .vxor n _ => refuse (n.base false)
  | .vshl n _ => refuse (n.base false)
  | .vshr n _ _ => refuse (n.base false)
  | .vcvt n _ _ => refuse (n.base false)
  | .vscl n _ _ => refuse (n.base false)
  | .vbcast n _ => refuse (n.base false ++ [(n.b == .zero, .reservedSelect)])
  | .vext n _ => refuse (n.base false)
  | .vperm n _ => refuse (n.base false)
  | .rsum n _ => refuse (n.base false ++ [(n.b == .zero, .reservedSelect)])
  | .rmin n _ _ _ => refuse (n.base false ++ [(n.b == .zero, .reservedSelect)])
  | .rmax n _ _ _ => refuse (n.base false ++ [(n.b == .zero, .reservedSelect)])
  | .racc n _ _ => refuse (n.base false)
  | .lmClaim n => refuse (n.base false ++ [(n.b == .zero, .reservedSelect)])
  | .lmRelease n => refuse (n.base false ++ [(n.b == .zero, .reservedSelect)])
  | .lmFill n => refuse (n.base false)
  | .lmBuild n _ => refuse (n.base false)
  | .lmArm n l c => refuse (n.base false ++ [(!(l && c), .reservedModifier)])
  | .lmLook n k p => refuse (n.base false ++ [(p || k == 0, .reservedModifier)])
  | .lmDirect n _ => refuse (n.base false)
  | .lmDrain n _ _ => refuse (n.base false)
  | .lmSpill n _ => refuse (n.base false)
  | .lmReload n _ => refuse (n.base false)
  | .lmStat n => refuse (n.base false ++ [(n.b == .zero, .reservedSelect)])
  | .cp n _ => refuse (n.base false ++ [(n.b == .zero, .reservedSelect)])
  | .nmAdd n _ => refuse (n.base false ++ [(n.b == .zero, .reservedSelect)])
  | .nmAxpy n _ => refuse (n.base false ++ [(n.b == .zero, .reservedSelect)])
  | .nmScl n _ => refuse (n.base false ++ [(n.b == .zero, .reservedSelect)])
  | .nmCvt n _ => refuse (n.base false ++ [(n.b == .zero, .reservedSelect)])
  | .xrGet n k l => refuse (n.base false ++ [(!(k && l), .reservedModifier), (k || n.b == .zero, .reservedSelect)])
  | .xrPut n _ => refuse (n.base false)
  | .xrAmo n _ o => refuse (n.base false ++ [(o != 7, .reservedModifier)])
  | .cvIn n => refuse (n.base false)
  | .cvOut n => refuse (n.base false ++ [(n.b == .zero, .reservedSelect)])
  | .cvOpen n x nm => refuse (n.base false ++ [(nm || !x, .reservedModifier), (nm || n.b == .zero, .reservedSelect)])
  | .cvClose n _ => refuse (n.base false ++ [(n.b == .zero, .reservedSelect)])
  | .spawn n => refuse (n.base false ++ [(n.b == .zero, .reservedSelect)])
  | .suspend n => refuse (n.base false)
  | .jinit n _ => refuse (n.base false)
  | .jarrive n _ => refuse (n.base false ++ [(n.b == .zero, .reservedSelect)])
  | .barArrive n _ => refuse (n.base false ++ [(n.b == .zero, .reservedSelect)])
  | .barWait n _ => refuse (n.base false)
  | .qPush n _ => refuse (n.base false)
  | .qPop n _ _ => refuse (n.base false ++ [(n.b == .zero, .reservedSelect)])
  | .launch n _ => refuse (n.base false)
  | .cut n => refuse (n.base false ++ [(n.b == .zero, .reservedSelect)])
  | .trap n _ => refuse (n.base true ++ [(n.b == .zero, .reservedSelect), (n.d == .none, .reservedSelect), (n.e == .none, .reservedSelect)])
  | .brk n => refuse (n.base true ++ [(n.b == .zero, .reservedSelect)])
  | .rdctr n k => refuse (n.base true ++ [(n.a == .zero, .reservedSelect), (n.b == .zero, .reservedSelect), (k.toNat < 7, .reservedModifier)])
  | .csrRd n => refuse (n.base false ++ [(n.b == .zero, .reservedSelect)])
  | .csrWr n => refuse (n.base false)
  | .publish n => refuse (n.base false)
  | .hgTake n => refuse (n.base false ++ [(n.b == .zero, .reservedSelect)])
  | .hgPost n => refuse (n.base false ++ [(n.b == .zero, .reservedSelect)])
  | .hgQuote n => refuse (n.base false)
  | .scrubZero n => refuse (n.base false)
  | .scrubWait n => refuse (n.base false ++ [(n.a == .zero, .reservedSelect), (n.b == .zero, .reservedSelect)])
  | .gateSrcClose n => refuse (n.base false)
  | .gateSrcOpen n => refuse (n.base false)
  | .gateSrcFreeze n => refuse (n.base false ++ [(n.b == .zero, .reservedSelect)])
  | .gateSrcEvict n => refuse (n.base false ++ [(n.b == .zero, .reservedSelect)])
  | .tokenArrival _ => none
  | .breakpointHalt _ => none
  | .reservedFkindFlit _ _ => none
  | .sluiceDrop _ => none
  | .configPacket _ => none
  | .configSeal _ => none
  | .configWordUncorrectable _ => none
  | .frameCopyRoomFreed _ => none
  | .lastCopyReleased _ _ _ => none
  | .recordDispatch _ => none
  | .parkWaitEnd _ => none
  | .spillRoomFreed _ => none
  | .spillWatchdog _ => none
  | .sinkTokenArrival _ => none
  | .memoryAccessPerformed _ _ => none
  | .unStoreDrainTimeout _ _ => none
  | .readBufferExpiry _ _ => none
  | .pageWalkComplete _ _ => none
  | .heldAccessWake _ _ => none
  | .migrationWaitEnd _ _ => none
  | .sideLogReplay _ => none
  | .sideLogWaitEnd _ => none
  | .streamLine _ _ => none
  | .tileLineArrival _ => none
  | .tileDrainEnd _ _ => none
  | .fenceDrainComplete _ _ => none
  | .intervalCommitComplete _ _ => none
  | .engineOperationComplete _ _ => none
  | .cvInComplete _ _ => none
  | .xrGetReturn _ _ _ => none
  | .remoteRequestArrival _ => none
  | .barrierEvent _ _ => none
  | .claimClearComplete _ _ => none
  | .lmBuildComplete _ => none
  | .passTileUse _ => none
  | .lmDrainLine _ => none
  | .grantIdleReturn _ => none
  | .slotBoundary _ => none
  | .forcedPreemption _ => none
  | .phaseBoundarySave _ => none
  | .quiescenceReport _ => none
  | .holderChange _ => none
  | .queueNotify _ _ => none
  | .faultRingRoom _ => none
  | .registerWrite _ _ _ => none
  | .hgCmdtailWrite _ _ => none
  | .hgCmdstatRead _ => none
  | .hgRecoveryWrite _ _ => none
  | .recoveryFetchDone _ => none
  | .knDevnumWrite _ => none
  | .knRouteWrite _ _ => none
  | .hostWindowRead _ _ _ => none
  | .hostWindowWrite _ _ _ => none
  | .partSet _ => none
  | .calSet _ => none
  | .vdCreate _ => none
  | .vdDestroy _ => none
  | .ctxCreate _ => none
  | .codeLoad _ => none
  | .sched _ => none
  | .launchCmd _ => none
  | .pause _ => none
  | .resume _ => none
  | .evict _ => none
  | .restore _ => none
  | .teardown _ => none
  | .scrubUnitDone _ => none
  | .winOpen _ => none
  | .winClose _ => none
  | .attest _ => none
  | .debugSet _ => none
  | .debugClear _ => none
  | .debugStep _ => none
  | .debugResume _ => none
  | .debugHalt _ => none
  | .debugRead _ => none
  | .debugRelease _ => none
  | .power _ => none
  | .unassignedCommand _ => none
  | .clusterPowerGate _ => none
  | .clusterWakeStart _ => none
  | .clusterWakeEnd _ => none
  | .bankPowerGate _ _ => none
  | .powerGood => none
  | .reset => none
  | .knanoloFlitAuthFailure _ => none
  | .syncMessage _ => none
  | .timeSyncLoss => none
  | .driveFailure _ => none
  | .culvertDeletionComplete _ => none

/-- An instruction that configuration load admits, as far as its own word decides. -/
abbrev Instr.WellFormed (i : Instr) : Prop := i.check = none

end Sys2Proof
end

