-- ==== Sys2Proof/Decode.lean ====
section
/-! DEFINITION. From a node word to an instruction and back: Table 06-1 with the select, tag-action and modifier tables
of chapter 06. Decoding answers an instruction or the status of Table 06-14 that refuses the word. -/

namespace Sys2Proof

/-- The fields of a node word, Table 06-1 (R150): `x` is bits 7:4, destination 1 or source C. -/
structure Fields where
  op : BitVec 8
  t : BitVec 4
  a : BitVec 4
  b : BitVec 4
  d : BitVec 4
  x : BitVec 4
  k : BitVec 4
deriving DecidableEq, Repr

/-- The fields of a word (R150). -/
def Fields.ofWord (w : BitVec 32) : Fields :=
  ⟨w.extractLsb' 24 8, w.extractLsb' 20 4, w.extractLsb' 16 4, w.extractLsb' 12 4, w.extractLsb' 8 4,
   w.extractLsb' 4 4, w.extractLsb' 0 4⟩

/-- The word of its fields (R150). -/
def Fields.toWord (f : Fields) : BitVec 32 := f.op ++ f.t ++ f.a ++ f.b ++ f.d ++ f.x ++ f.k

/-- Table 06-2. -/
def Src.code : Src → BitVec 4
  | .left => 0 | .right => 1 | .zero => 2 | .ix => 3
  | .fs k => 0b01#2 ++ k
  | .lit k => 1#1 ++ k

/-- Table 06-2, the other way. -/
def Src.ofCode (c : BitVec 4) : Src :=
  if c.getLsbD 3 then .lit (c.extractLsb' 0 3)
  else if c.getLsbD 2 then .fs (c.extractLsb' 0 2)
  else match c.toNat with
    | 0 => .left | 1 => .right | 2 => .zero | _ => .ix

/-- Table 06-4. -/
def Dst.code : Dst → BitVec 4
  | .arc k => 0#1 ++ k
  | .slot => 8 | .ret => 9 | .term => 14 | .none => 15

/-- Table 06-4, the other way; codes 10 to 13 have no meaning. -/
def Dst.ofCode? (c : BitVec 4) : Option Dst :=
  if c.getLsbD 3 then
    match c.toNat with
    | 8 => some .slot | 9 => some .ret | 14 => some .term | 15 => some .none | _ => Option.none
  else some (.arc (c.extractLsb' 0 3))

/-- Table 02-3. -/
def TagAct.code : TagAct → BitVec 4
  | .keep => 0 | .up => 1 | .into => 2 | .frame => 3 | .ret => 4 | .clear => 5 | .repl => 6

/-- Table 02-3, the other way; codes 7 to 15 are refused (R42). -/
def TagAct.ofCode? (c : BitVec 4) : Option TagAct :=
  match c.toNat with
  | 0 => some .keep | 1 => some .up | 2 => some .into | 3 => some .frame | 4 => some .ret | 5 => some .clear
  | 6 => some .repl | _ => Option.none

/-- Table 06-5, integer family. -/
def Width.code : Width → BitVec 2
  | .i32 => 0 | .i64 => 1 | .i16x4 => 2 | .i8x8 => 3

/-- Table 06-5, the other way. -/
def Width.ofCode (c : BitVec 2) : Width :=
  match c.toNat with | 0 => .i32 | 1 => .i64 | 2 => .i16x4 | _ => .i8x8

/-- Table 03-3. -/
def Rnd.code : Rnd → BitVec 2
  | .ne => 0 | .rz => 1 | .up => 2 | .dn => 3

/-- Table 03-3, the other way. -/
def Rnd.ofCode (c : BitVec 2) : Rnd :=
  match c.toNat with | 0 => .ne | 1 => .rz | 2 => .up | _ => .dn

/-- Table 06-6. -/
def Cond.code : Cond → BitVec 3
  | .eq => 0 | .ne => 1 | .lt => 2 | .le => 3 | .gt => 4 | .ge => 5 | .c6 => 6 | .c7 => 7

/-- Table 06-6, the other way. -/
def Cond.ofCode (c : BitVec 3) : Cond :=
  match c.toNat with
  | 0 => .eq | 1 => .ne | 2 => .lt | 3 => .le | 4 => .gt | 5 => .ge | 6 => .c6 | _ => .c7

/-- Table 05-1. -/
def Scope.code : Scope → BitVec 3
  | .elem => 0 | .clu => 1 | .strip => 2 | .part => 3 | .sys => 4

/-- Table 05-1, the other way; 0b101 to 0b111 are refused (Table 06-14, status 0x05). -/
def Scope.ofCode? (c : BitVec 3) : Option Scope :=
  match c.toNat with
  | 0 => some .elem | 1 => some .clu | 2 => some .strip | 3 => some .part | 4 => some .sys | _ => Option.none

/-- A one-bit modifier field at bit `i`. -/
def b1 (v : Bool) (i : Nat) : BitVec 4 := BitVec.ofNat 4 (v.toNat * 2 ^ i)

/-- A modifier field of several bits from bit `i` up. -/
def bn {m : Nat} (v : BitVec m) (i : Nat) : BitVec 4 := BitVec.ofNat 4 (v.toNat * 2 ^ i)

/-- The fields of a node with two destinations. -/
def view2 (op : BitVec 8) (n : Nd) (k : BitVec 4) : Fields :=
  ⟨op, n.t.code, n.a.code, n.b.code, n.d.code, n.e.code, k⟩

/-- The fields of a three-operand form (R153). -/
def view3 (op : BitVec 8) (n : N3) (k : BitVec 4) : Fields :=
  ⟨op, n.t.code, n.a.code, n.b.code, n.d.code, n.c.code, k⟩

/-- The fields of an instruction; an event of the device has none. -/
def Instr.fields : Instr → Option Fields
  | .add n u s w => some (view2 0x00#8 n (b1 u 3 ||| b1 s 2 ||| bn w.code 0))
  | .sub n u s w => some (view2 0x01#8 n (b1 u 3 ||| b1 s 2 ||| bn w.code 0))
  | .mul n u s w => some (view2 0x02#8 n (b1 u 3 ||| b1 s 2 ||| bn w.code 0))
  | .mulhi n u w => some (view2 0x03#8 n (b1 u 3 ||| bn w.code 0))
  | .div n u s w => some (view2 0x04#8 n (b1 u 3 ||| b1 s 2 ||| bn w.code 0))
  | .rem n u w => some (view2 0x05#8 n (b1 u 3 ||| bn w.code 0))
  | .min n u w => some (view2 0x06#8 n (b1 u 3 ||| bn w.code 0))
  | .max n u w => some (view2 0x07#8 n (b1 u 3 ||| bn w.code 0))
  | .abs n s w => some (view2 0x08#8 n (b1 s 2 ||| bn w.code 0))
  | .neg n s w => some (view2 0x09#8 n (b1 s 2 ||| bn w.code 0))
  | .lea n k => some (view2 0x0A#8 n (bn k 0))
  | .mov n w => some (view2 0x0B#8 n (bn w.code 0))
  | .and n w => some (view2 0x10#8 n (bn w.code 0))
  | .or n w => some (view2 0x11#8 n (bn w.code 0))
  | .xor n w => some (view2 0x12#8 n (bn w.code 0))
  | .andn n w => some (view2 0x13#8 n (bn w.code 0))
  | .not n w => some (view2 0x14#8 n (bn w.code 0))
  | .shl n w => some (view2 0x15#8 n (bn w.code 0))
  | .shr n w => some (view2 0x16#8 n (bn w.code 0))
  | .sar n w => some (view2 0x17#8 n (bn w.code 0))
  | .rotl n w => some (view2 0x18#8 n (bn w.code 0))
  | .clz n w => some (view2 0x19#8 n (bn w.code 0))
  | .popc n w => some (view2 0x1A#8 n (bn w.code 0))
  | .bfx n u w => some (view2 0x1B#8 n (b1 u 3 ||| b1 w 0))
  | .bfi n w => some (view3 0x1C#8 n (b1 w 0))
  | .cmp n w k => some (view2 0x1D#8 n (b1 w 3 ||| bn k.code 0))
  | .sel n => some (view3 0x1E#8 n (0#4))
  | .faddF32 n f r => some (view2 0x20#8 n (b1 f 2 ||| bn r.code 0))
  | .fsubF32 n f r => some (view2 0x21#8 n (b1 f 2 ||| bn r.code 0))
  | .fmulF32 n f r => some (view2 0x22#8 n (b1 f 2 ||| bn r.code 0))
  | .fmaF32 n f r => some (view3 0x23#8 n (b1 f 2 ||| bn r.code 0))
  | .fminF32 n nm f => some (view2 0x24#8 n (b1 nm 3 ||| b1 f 2))
  | .fmaxF32 n nm f => some (view2 0x25#8 n (b1 nm 3 ||| b1 f 2))
  | .fnegF32 n f => some (view2 0x26#8 n (b1 f 2))
  | .fabsF32 n f => some (view2 0x27#8 n (b1 f 2))
  | .fcmpF32 n k => some (view2 0x28#8 n (bn k.code 0))
  | .frcpF32 n f r => some (view2 0x29#8 n (b1 f 2 ||| bn r.code 0))
  | .fsqrtF32 n f r => some (view2 0x2A#8 n (b1 f 2 ||| bn r.code 0))
  | .fexp2F32 n f r => some (view2 0x2B#8 n (b1 f 2 ||| bn r.code 0))
  | .flog2F32 n f r => some (view2 0x2C#8 n (b1 f 2 ||| bn r.code 0))
  | .faddBf16x4 n f r => some (view2 0x30#8 n (b1 f 2 ||| bn r.code 0))
  | .fsubBf16x4 n f r => some (view2 0x31#8 n (b1 f 2 ||| bn r.code 0))
  | .fmulBf16x4 n f r => some (view2 0x32#8 n (b1 f 2 ||| bn r.code 0))
  | .fmaBf16x4 n f r => some (view3 0x33#8 n (b1 f 2 ||| bn r.code 0))
  | .fminBf16x4 n nm f => some (view2 0x34#8 n (b1 nm 3 ||| b1 f 2))
  | .fmaxBf16x4 n nm f => some (view2 0x35#8 n (b1 nm 3 ||| b1 f 2))
  | .fnegBf16x4 n f => some (view2 0x36#8 n (b1 f 2))
  | .fabsBf16x4 n f => some (view2 0x37#8 n (b1 f 2))
  | .fcmpBf16x4 n k => some (view2 0x38#8 n (bn k.code 0))
  | .frcpBf16x4 n f r => some (view2 0x39#8 n (b1 f 2 ||| bn r.code 0))
  | .fsqrtBf16x4 n f r => some (view2 0x3A#8 n (b1 f 2 ||| bn r.code 0))
  | .fexp2Bf16x4 n f r => some (view2 0x3B#8 n (b1 f 2 ||| bn r.code 0))
  | .flog2Bf16x4 n f r => some (view2 0x3C#8 n (b1 f 2 ||| bn r.code 0))
  | .dotBf16 n f => some (view3 0x3D#8 n (b1 f 2))
  | .faddE4x8 n f r => some (view2 0x40#8 n (b1 f 2 ||| bn r.code 0))
  | .fsubE4x8 n f r => some (view2 0x41#8 n (b1 f 2 ||| bn r.code 0))
  | .fmulE4x8 n f r => some (view2 0x42#8 n (b1 f 2 ||| bn r.code 0))
  | .fminE4x8 n nm f => some (view2 0x43#8 n (b1 nm 3 ||| b1 f 2))
  | .fmaxE4x8 n nm f => some (view2 0x44#8 n (b1 nm 3 ||| b1 f 2))
  | .fcmpE4x8 n k => some (view2 0x45#8 n (bn k.code 0))
  | .dotE4x8 n f => some (view3 0x46#8 n (b1 f 2))
  | .faddE5x8 n f r => some (view2 0x48#8 n (b1 f 2 ||| bn r.code 0))
  | .fsubE5x8 n f r => some (view2 0x49#8 n (b1 f 2 ||| bn r.code 0))
  | .fmulE5x8 n f r => some (view2 0x4A#8 n (b1 f 2 ||| bn r.code 0))
  | .fminE5x8 n nm f => some (view2 0x4B#8 n (b1 nm 3 ||| b1 f 2))
  | .fmaxE5x8 n nm f => some (view2 0x4C#8 n (b1 nm 3 ||| b1 f 2))
  | .fcmpE5x8 n k => some (view2 0x4D#8 n (bn k.code 0))
  | .dotE5x8 n f => some (view3 0x4E#8 n (b1 f 2))
  | .cvtI64 n u f r => some (view2 0x50#8 n (b1 u 3 ||| b1 f 2 ||| bn r.code 0))
  | .cvtI32 n u f r => some (view2 0x51#8 n (b1 u 3 ||| b1 f 2 ||| bn r.code 0))
  | .cvtI16x4 n u f r => some (view2 0x52#8 n (b1 u 3 ||| b1 f 2 ||| bn r.code 0))
  | .cvtI8x8 n u f r => some (view2 0x53#8 n (b1 u 3 ||| b1 f 2 ||| bn r.code 0))
  | .cvtF32 n u f r => some (view2 0x54#8 n (b1 u 3 ||| b1 f 2 ||| bn r.code 0))
  | .cvtBf16x4 n u f r => some (view2 0x55#8 n (b1 u 3 ||| b1 f 2 ||| bn r.code 0))
  | .cvtE4x8 n u f r => some (view2 0x56#8 n (b1 u 3 ||| b1 f 2 ||| bn r.code 0))
  | .cvtE5x8 n u f r => some (view2 0x57#8 n (b1 u 3 ||| b1 f 2 ||| bn r.code 0))
  | .cvtQn4x16 n u f r => some (view2 0x58#8 n (b1 u 3 ||| b1 f 2 ||| bn r.code 0))
  | .scl n f r => some (view2 0x59#8 n (b1 f 2 ||| bn r.code 0))
  | .uscl n f r => some (view2 0x5A#8 n (b1 f 2 ||| bn r.code 0))
  | .pack n k => some (view2 0x5B#8 n (bn k 0))
  | .unpk n k => some (view2 0x5C#8 n (bn k 0))
  | .switch n => some (view2 0x60#8 n (0#4))
  | .merge n => some (view2 0x61#8 n (0#4))
  | .dup n => some (view2 0x62#8 n (0#4))
  | .gate n => some (view2 0x63#8 n (0#4))
  | .sink n => some (view2 0x64#8 n (0#4))
  | .fcomp n => some (view2 0x65#8 n (0#4))
  | .steer n => some (view2 0x66#8 n (0#4))
  | .ojoin n => some (view2 0x67#8 n (0#4))
  | .talloc n => some (view2 0x70#8 n (0#4))
  | .tfree n => some (view2 0x71#8 n (0#4))
  | .falloc n => some (view2 0x72#8 n (0#4))
  | .ffree n => some (view2 0x73#8 n (0#4))
  | .call n => some (view2 0x74#8 n (0#4))
  | .ret n => some (view2 0x75#8 n (0#4))
  | .fbcast n => some (view2 0x76#8 n (0#4))
  | .tagv n => some (view2 0x77#8 n (0#4))
  | .ldB n x s => some (view2 0x80#8 n (b1 x 3 ||| bn s.code 0))
  | .ldH n x s => some (view2 0x81#8 n (b1 x 3 ||| bn s.code 0))
  | .ldW n x s => some (view2 0x82#8 n (b1 x 3 ||| bn s.code 0))
  | .ldD n p s => some (view2 0x83#8 n (b1 p 3 ||| bn s.code 0))
  | .stB n s => some (view2 0x84#8 n (bn s.code 0))
  | .stH n s => some (view2 0x85#8 n (bn s.code 0))
  | .stW n s => some (view2 0x86#8 n (bn s.code 0))
  | .stD n s => some (view2 0x87#8 n (bn s.code 0))
  | .ldAcq n w s => some (view2 0x88#8 n (b1 w 3 ||| bn s.code 0))
  | .stRel n w s => some (view2 0x89#8 n (b1 w 3 ||| bn s.code 0))
  | .ldl n s => some (view2 0x8A#8 n (bn s.code 0))
  | .stl n s => some (view2 0x8B#8 n (bn s.code 0))
  | .stlm n s => some (view2 0x8C#8 n (bn s.code 0))
  | .ldd n s => some (view2 0x8D#8 n (bn s.code 0))
  | .std n s => some (view2 0x8E#8 n (bn s.code 0))
  | .pf n => some (view2 0x8F#8 n (0#4))
  | .aadd n w s => some (view2 0x90#8 n (b1 w 3 ||| bn s.code 0))
  | .aand n w s => some (view2 0x91#8 n (b1 w 3 ||| bn s.code 0))
  | .aor n w s => some (view2 0x92#8 n (b1 w 3 ||| bn s.code 0))
  | .axor n w s => some (view2 0x93#8 n (b1 w 3 ||| bn s.code 0))
  | .amin n w s => some (view2 0x94#8 n (b1 w 3 ||| bn s.code 0))
  | .amax n w s => some (view2 0x95#8 n (b1 w 3 ||| bn s.code 0))
  | .aswp n w s => some (view2 0x96#8 n (b1 w 3 ||| bn s.code 0))
  | .acas n w s => some (view2 0x97#8 n (b1 w 3 ||| bn s.code 0))
  | .afadd n w s => some (view2 0x98#8 n (b1 w 3 ||| bn s.code 0))
  | .fencePub n s => some (view2 0x99#8 n (bn s.code 0))
  | .fenceAcq n s => some (view2 0x9A#8 n (bn s.code 0))
  | .strm n s => some (view2 0x9B#8 n (bn s.code 0))
  | .vadd n x f r => some (view2 0xA0#8 n (b1 x 3 ||| b1 f 2 ||| bn r.code 0))
  | .vsub n x f r => some (view2 0xA1#8 n (b1 x 3 ||| b1 f 2 ||| bn r.code 0))
  | .vmul n x f r => some (view2 0xA2#8 n (b1 x 3 ||| b1 f 2 ||| bn r.code 0))
  | .vfma n f r => some (view2 0xA3#8 n (b1 f 2 ||| bn r.code 0))
  | .vmin n nm f r => some (view2 0xA4#8 n (b1 nm 3 ||| b1 f 2 ||| bn r.code 0))
  | .vmax n nm f r => some (view2 0xA5#8 n (b1 nm 3 ||| b1 f 2 ||| bn r.code 0))
  | .vabs n x f r => some (view2 0xA6#8 n (b1 x 3 ||| b1 f 2 ||| bn r.code 0))
  | .vneg n x f r => some (view2 0xA7#8 n (b1 x 3 ||| b1 f 2 ||| bn r.code 0))
  | .vexp2 n f r => some (view2 0xA8#8 n (b1 f 2 ||| bn r.code 0))
  | .vlog2 n f r => some (view2 0xA9#8 n (b1 f 2 ||| bn r.code 0))
  | .vrcp n f r => some (view2 0xAA#8 n (b1 f 2 ||| bn r.code 0))
  | .vrsqrt n f r => some (view2 0xAB#8 n (b1 f 2 ||| bn r.code 0))
  | .vcmp n k => some (view2 0xAC#8 n (bn k.code 0))
  | .vsel n m => some (view2 0xAD#8 n (bn m 0))
  | .vand n m => some (view2 0xAE#8 n (bn m 0))
  | .vor n m => some (view2 0xAF#8 n (bn m 0))
  | .vxor n m => some (view2 0xB0#8 n (bn m 0))
  | .vshl n m => some (view2 0xB1#8 n (bn m 0))
  | .vshr n u m => some (view2 0xB2#8 n (b1 u 3 ||| bn m 0))
  | .vcvt n f r => some (view2 0xB3#8 n (b1 f 2 ||| bn r.code 0))
  | .vscl n f r => some (view2 0xB4#8 n (b1 f 2 ||| bn r.code 0))
  | .vbcast n m => some (view2 0xB5#8 n (bn m 0))
  | .vext n m => some (view2 0xB6#8 n (bn m 0))
  | .vperm n m => some (view2 0xB7#8 n (bn m 0))
  | .rsum n m => some (view2 0xB8#8 n (bn m 0))
  | .rmin n nm x m => some (view2 0xB9#8 n (b1 nm 3 ||| b1 x 2 ||| bn m 0))
  | .rmax n nm x m => some (view2 0xBA#8 n (b1 nm 3 ||| b1 x 2 ||| bn m 0))
  | .racc n f r => some (view2 0xBB#8 n (b1 f 2 ||| bn r.code 0))
  | .lmClaim n => some (view2 0xC0#8 n (0#4))
  | .lmRelease n => some (view2 0xC1#8 n (0#4))
  | .lmFill n => some (view2 0xC2#8 n (0#4))
  | .lmBuild n x => some (view2 0xC3#8 n (b1 x 0))
  | .lmArm n l c => some (view2 0xC4#8 n (b1 l 1 ||| b1 c 0))
  | .lmLook n k p => some (view2 0xC5#8 n (bn k 1 ||| b1 p 0))
  | .lmDirect n f => some (view2 0xC6#8 n (bn f 0))
  | .lmDrain n x s => some (view2 0xC7#8 n (b1 x 3 ||| bn s.code 0))
  | .lmSpill n s => some (view2 0xC8#8 n (bn s.code 0))
  | .lmReload n s => some (view2 0xC9#8 n (bn s.code 0))
  | .lmStat n => some (view2 0xCA#8 n (0#4))
  | .cp n s => some (view2 0xE0#8 n (bn s.code 0))
  | .nmAdd n s => some (view2 0xE1#8 n (bn s.code 0))
  | .nmAxpy n s => some (view2 0xE2#8 n (bn s.code 0))
  | .nmScl n s => some (view2 0xE3#8 n (bn s.code 0))
  | .nmCvt n s => some (view2 0xE4#8 n (bn s.code 0))
  | .xrGet n k l => some (view2 0xE5#8 n (b1 k 3 ||| b1 l 0))
  | .xrPut n l => some (view2 0xE6#8 n (b1 l 0))
  | .xrAmo n w o => some (view2 0xE7#8 n (b1 w 3 ||| bn o 0))
  | .cvIn n => some (view2 0xE8#8 n (0#4))
  | .cvOut n => some (view2 0xE9#8 n (0#4))
  | .cvOpen n x nm => some (view2 0xEA#8 n (b1 x 1 ||| b1 nm 0))
  | .cvClose n x => some (view2 0xEB#8 n (b1 x 0))
  | .spawn n => some (view2 0xEC#8 n (0#4))
  | .suspend n => some (view2 0xED#8 n (0#4))
  | .jinit n s => some (view2 0xEE#8 n (bn s.code 0))
  | .jarrive n s => some (view2 0xEF#8 n (bn s.code 0))
  | .barArrive n s => some (view2 0xF0#8 n (bn s.code 0))
  | .barWait n s => some (view2 0xF1#8 n (bn s.code 0))
  | .qPush n s => some (view2 0xF2#8 n (bn s.code 0))
  | .qPop n p s => some (view2 0xF3#8 n (b1 p 3 ||| bn s.code 0))
  | .launch n s => some (view2 0xF4#8 n (bn s.code 0))
  | .cut n => some (view2 0xF5#8 n (0#4))
  | .trap n k => some (view2 0xF8#8 n (bn k 0))
  | .brk n => some (view2 0xF9#8 n (0#4))
  | .rdctr n k => some (view2 0xFA#8 n (bn k 0))
  | .csrRd n => some (view2 0xFB#8 n (0#4))
  | .csrWr n => some (view2 0xFB#8 n (8#4))
  | .publish n => some (view2 0xFC#8 n (0#4))
  | .hgTake n => some (view2 0xFD#8 n (0#4))
  | .hgPost n => some (view2 0xFD#8 n (1#4))
  | .hgQuote n => some (view2 0xFD#8 n (2#4))
  | .scrubZero n => some (view2 0xFE#8 n (0#4))
  | .scrubWait n => some (view2 0xFE#8 n (1#4))
  | .gateSrcClose n => some (view2 0xFF#8 n (0#4))
  | .gateSrcOpen n => some (view2 0xFF#8 n (1#4))
  | .gateSrcFreeze n => some (view2 0xFF#8 n (2#4))
  | .gateSrcEvict n => some (view2 0xFF#8 n (3#4))
  | .tokenArrival _ => none
  | .breakpointHalt _ => none
  | .reservedFkindFlit _ _ => none
  | .sluiceDrop _ => none
  | .configPacket _ => none
  | .configSeal _ => none
  | .configWordUncorrectable _ => none
  | .frameCopyRoomFreed _ => none
  | .lastCopyReleased _ _ _ => none
  | .recordDispatch _ => none
  | .parkWaitEnd _ => none
  | .spillRoomFreed _ => none
  | .spillWatchdog _ => none
  | .sinkTokenArrival _ => none
  | .memoryAccessPerformed _ _ => none
  | .unStoreDrainTimeout _ _ => none
  | .readBufferExpiry _ _ => none
  | .pageWalkComplete _ _ => none
  | .heldAccessWake _ _ => none
  | .migrationWaitEnd _ _ => none
  | .sideLogReplay _ => none
  | .sideLogWaitEnd _ => none
  | .streamLine _ _ => none
  | .tileLineArrival _ => none
  | .tileDrainEnd _ _ => none
  | .fenceDrainComplete _ _ => none
  | .intervalCommitComplete _ _ => none
  | .engineOperationComplete _ _ => none
  | .cvInComplete _ _ => none
  | .xrGetReturn _ _ _ => none
  | .remoteRequestArrival _ => none
  | .barrierEvent _ _ => none
  | .claimClearComplete _ _ => none
  | .lmBuildComplete _ => none
  | .passTileUse _ => none
  | .lmDrainLine _ => none
  | .grantIdleReturn _ => none
  | .slotBoundary _ => none
  | .forcedPreemption _ => none
  | .phaseBoundarySave _ => none
  | .quiescenceReport _ => none
  | .holderChange _ => none
  | .queueNotify _ _ => none
  | .faultRingRoom _ => none
  | .registerWrite _ _ _ => none
  | .hgCmdtailWrite _ _ => none
  | .hgCmdstatRead _ => none
  | .hgRecoveryWrite _ _ => none
  | .recoveryFetchDone _ => none
  | .knDevnumWrite _ => none
  | .knRouteWrite _ _ => none
  | .hostWindowRead _ _ _ => none
  | .hostWindowWrite _ _ _ => none
  | .partSet _ => none
  | .calSet _ => none
  | .vdCreate _ => none
  | .vdDestroy _ => none
  | .ctxCreate _ => none
  | .codeLoad _ => none
  | .sched _ => none
  | .launchCmd _ => none
  | .pause _ => none
  | .resume _ => none
  | .evict _ => none
  | .restore _ => none
  | .teardown _ => none
  | .scrubUnitDone _ => none
  | .winOpen _ => none
  | .winClose _ => none
  | .attest _ => none
  | .debugSet _ => none
  | .debugClear _ => none
  | .debugStep _ => none
  | .debugResume _ => none
  | .debugHalt _ => none
  | .debugRead _ => none
  | .debugRelease _ => none
  | .power _ => none
  | .unassignedCommand _ => none
  | .clusterPowerGate _ => none
  | .clusterWakeStart _ => none
  | .clusterWakeEnd _ => none
  | .bankPowerGate _ _ => none
  | .powerGood => none
  | .reset => none
  | .knanoloFlitAuthFailure _ => none
  | .syncMessage _ => none
  | .timeSyncLoss => none
  | .driveFailure _ => none
  | .culvertDeletionComplete _ => none

/-- Read the selects of a node with two destinations (R151, R154, R42). -/
def two (f : Fields) (mk : Nd → Except LoadStatus Instr) : Except LoadStatus Instr :=
  match Dst.ofCode? f.d, Dst.ofCode? f.x, TagAct.ofCode? f.t with
  | some d, some e, some t => mk ⟨t, Src.ofCode f.a, Src.ofCode f.b, d, e⟩
  | some _, some _, Option.none => .error .reservedTagAction
  | _, _, _ => .error .reservedSelect

/-- Read the selects of a three-operand form (R153). -/
def three (f : Fields) (mk : N3 → Except LoadStatus Instr) : Except LoadStatus Instr :=
  match Dst.ofCode? f.d, TagAct.ofCode? f.t with
  | some d, some t => mk ⟨t, Src.ofCode f.a, Src.ofCode f.b, Src.ofCode f.x, d⟩
  | some _, Option.none => .error .reservedTagAction
  | _, _ => .error .reservedSelect

/-- Read a scope from modifier bits 2:0. -/
def withScope (k : BitVec 4) (mk : Scope → Except LoadStatus Instr) : Except LoadStatus Instr :=
  match Scope.ofCode? (k.extractLsb' 0 3) with
  | some s => mk s
  | Option.none => .error .reservedModifier

/-- Opcodes 0x00 to 0x0F (R167, R168). -/
def row0 (lo : Nat) (f : Fields) : Except LoadStatus Instr :=
  match lo with
  | 0 => two f fun n => .ok (.add n (f.k.getLsbD 3) (f.k.getLsbD 2) (Width.ofCode (f.k.extractLsb' 0 2)))
  | 1 => two f fun n => .ok (.sub n (f.k.getLsbD 3) (f.k.getLsbD 2) (Width.ofCode (f.k.extractLsb' 0 2)))
  | 2 => two f fun n => .ok (.mul n (f.k.getLsbD 3) (f.k.getLsbD 2) (Width.ofCode (f.k.extractLsb' 0 2)))
  | 3 => two f fun n => .ok (.mulhi n (f.k.getLsbD 3) (Width.ofCode (f.k.extractLsb' 0 2)))
  | 4 => two f fun n => .ok (.div n (f.k.getLsbD 3) (f.k.getLsbD 2) (Width.ofCode (f.k.extractLsb' 0 2)))
  | 5 => two f fun n => .ok (.rem n (f.k.getLsbD 3) (Width.ofCode (f.k.extractLsb' 0 2)))
  | 6 => two f fun n => .ok (.min n (f.k.getLsbD 3) (Width.ofCode (f.k.extractLsb' 0 2)))
  | 7 => two f fun n => .ok (.max n (f.k.getLsbD 3) (Width.ofCode (f.k.extractLsb' 0 2)))
  | 8 => two f fun n => .ok (.abs n (f.k.getLsbD 2) (Width.ofCode (f.k.extractLsb' 0 2)))
  | 9 => two f fun n => .ok (.neg n (f.k.getLsbD 2) (Width.ofCode (f.k.extractLsb' 0 2)))
  | 10 => two f fun n => .ok (.lea n (f.k.extractLsb' 0 2))
  | 11 => two f fun n => .ok (.mov n (Width.ofCode (f.k.extractLsb' 0 2)))
  | _ => .error .reservedOpcode

/-- Opcodes 0x10 to 0x1F (R167, R168). -/
def row1 (lo : Nat) (f : Fields) : Except LoadStatus Instr :=
  match lo with
  | 0 => two f fun n => .ok (.and n (Width.ofCode (f.k.extractLsb' 0 2)))
  | 1 => two f fun n => .ok (.or n (Width.ofCode (f.k.extractLsb' 0 2)))
  | 2 => two f fun n => .ok (.xor n (Width.ofCode (f.k.extractLsb' 0 2)))
  | 3 => two f fun n => .ok (.andn n (Width.ofCode (f.k.extractLsb' 0 2)))
  | 4 => two f fun n => .ok (.not n (Width.ofCode (f.k.extractLsb' 0 2)))
  | 5 => two f fun n => .ok (.shl n (Width.ofCode (f.k.extractLsb' 0 2)))
  | 6 => two f fun n => .ok (.shr n (Width.ofCode (f.k.extractLsb' 0 2)))
  | 7 => two f fun n => .ok (.sar n (Width.ofCode (f.k.extractLsb' 0 2)))
  | 8 => two f fun n => .ok (.rotl n (Width.ofCode (f.k.extractLsb' 0 2)))
  | 9 => two f fun n => .ok (.clz n (Width.ofCode (f.k.extractLsb' 0 2)))
  | 10 => two f fun n => .ok (.popc n (Width.ofCode (f.k.extractLsb' 0 2)))
  | 11 => two f fun n => .ok (.bfx n (f.k.getLsbD 3) (f.k.getLsbD 0))
  | 12 => three f fun n => .ok (.bfi n (f.k.getLsbD 0))
  | 13 => two f fun n => .ok (.cmp n (f.k.getLsbD 3) (Cond.ofCode (f.k.extractLsb' 0 3)))
  | 14 => three f fun n => .ok (.sel n)
  | _ => .error .reservedOpcode

/-- Opcodes 0x20 to 0x2F (R167, R168). -/
def row2 (lo : Nat) (f : Fields) : Except LoadStatus Instr :=
  match lo with
  | 0 => two f fun n => .ok (.faddF32 n (f.k.getLsbD 2) (Rnd.ofCode (f.k.extractLsb' 0 2)))
  | 1 => two f fun n => .ok (.fsubF32 n (f.k.getLsbD 2) (Rnd.ofCode (f.k.extractLsb' 0 2)))
  | 2 => two f fun n => .ok (.fmulF32 n (f.k.getLsbD 2) (Rnd.ofCode (f.k.extractLsb' 0 2)))
  | 3 => three f fun n => .ok (.fmaF32 n (f.k.getLsbD 2) (Rnd.ofCode (f.k.extractLsb' 0 2)))
  | 4 => two f fun n => .ok (.fminF32 n (f.k.getLsbD 3) (f.k.getLsbD 2))
  | 5 => two f fun n => .ok (.fmaxF32 n (f.k.getLsbD 3) (f.k.getLsbD 2))
  | 6 => two f fun n => .ok (.fnegF32 n (f.k.getLsbD 2))
  | 7 => two f fun n => .ok (.fabsF32 n (f.k.getLsbD 2))
  | 8 => two f fun n => .ok (.fcmpF32 n (Cond.ofCode (f.k.extractLsb' 0 3)))
  | 9 => two f fun n => .ok (.frcpF32 n (f.k.getLsbD 2) (Rnd.ofCode (f.k.extractLsb' 0 2)))
  | 10 => two f fun n => .ok (.fsqrtF32 n (f.k.getLsbD 2) (Rnd.ofCode (f.k.extractLsb' 0 2)))
  | 11 => two f fun n => .ok (.fexp2F32 n (f.k.getLsbD 2) (Rnd.ofCode (f.k.extractLsb' 0 2)))
  | 12 => two f fun n => .ok (.flog2F32 n (f.k.getLsbD 2) (Rnd.ofCode (f.k.extractLsb' 0 2)))
  | _ => .error .reservedOpcode

/-- Opcodes 0x30 to 0x3F (R167, R168). -/
def row3 (lo : Nat) (f : Fields) : Except LoadStatus Instr :=
  match lo with
  | 0 => two f fun n => .ok (.faddBf16x4 n (f.k.getLsbD 2) (Rnd.ofCode (f.k.extractLsb' 0 2)))
  | 1 => two f fun n => .ok (.fsubBf16x4 n (f.k.getLsbD 2) (Rnd.ofCode (f.k.extractLsb' 0 2)))
  | 2 => two f fun n => .ok (.fmulBf16x4 n (f.k.getLsbD 2) (Rnd.ofCode (f.k.extractLsb' 0 2)))
  | 3 => three f fun n => .ok (.fmaBf16x4 n (f.k.getLsbD 2) (Rnd.ofCode (f.k.extractLsb' 0 2)))
  | 4 => two f fun n => .ok (.fminBf16x4 n (f.k.getLsbD 3) (f.k.getLsbD 2))
  | 5 => two f fun n => .ok (.fmaxBf16x4 n (f.k.getLsbD 3) (f.k.getLsbD 2))
  | 6 => two f fun n => .ok (.fnegBf16x4 n (f.k.getLsbD 2))
  | 7 => two f fun n => .ok (.fabsBf16x4 n (f.k.getLsbD 2))
  | 8 => two f fun n => .ok (.fcmpBf16x4 n (Cond.ofCode (f.k.extractLsb' 0 3)))
  | 9 => two f fun n => .ok (.frcpBf16x4 n (f.k.getLsbD 2) (Rnd.ofCode (f.k.extractLsb' 0 2)))
  | 10 => two f fun n => .ok (.fsqrtBf16x4 n (f.k.getLsbD 2) (Rnd.ofCode (f.k.extractLsb' 0 2)))
  | 11 => two f fun n => .ok (.fexp2Bf16x4 n (f.k.getLsbD 2) (Rnd.ofCode (f.k.extractLsb' 0 2)))
  | 12 => two f fun n => .ok (.flog2Bf16x4 n (f.k.getLsbD 2) (Rnd.ofCode (f.k.extractLsb' 0 2)))
  | 13 => three f fun n => .ok (.dotBf16 n (f.k.getLsbD 2))
  | _ => .error .reservedOpcode

/-- Opcodes 0x40 to 0x4F (R167, R168). -/
def row4 (lo : Nat) (f : Fields) : Except LoadStatus Instr :=
  match lo with
  | 0 => two f fun n => .ok (.faddE4x8 n (f.k.getLsbD 2) (Rnd.ofCode (f.k.extractLsb' 0 2)))
  | 1 => two f fun n => .ok (.fsubE4x8 n (f.k.getLsbD 2) (Rnd.ofCode (f.k.extractLsb' 0 2)))
  | 2 => two f fun n => .ok (.fmulE4x8 n (f.k.getLsbD 2) (Rnd.ofCode (f.k.extractLsb' 0 2)))
  | 3 => two f fun n => .ok (.fminE4x8 n (f.k.getLsbD 3) (f.k.getLsbD 2))
  | 4 => two f fun n => .ok (.fmaxE4x8 n (f.k.getLsbD 3) (f.k.getLsbD 2))
  | 5 => two f fun n => .ok (.fcmpE4x8 n (Cond.ofCode (f.k.extractLsb' 0 3)))
  | 6 => three f fun n => .ok (.dotE4x8 n (f.k.getLsbD 2))
  | 8 => two f fun n => .ok (.faddE5x8 n (f.k.getLsbD 2) (Rnd.ofCode (f.k.extractLsb' 0 2)))
  | 9 => two f fun n => .ok (.fsubE5x8 n (f.k.getLsbD 2) (Rnd.ofCode (f.k.extractLsb' 0 2)))
  | 10 => two f fun n => .ok (.fmulE5x8 n (f.k.getLsbD 2) (Rnd.ofCode (f.k.extractLsb' 0 2)))
  | 11 => two f fun n => .ok (.fminE5x8 n (f.k.getLsbD 3) (f.k.getLsbD 2))
  | 12 => two f fun n => .ok (.fmaxE5x8 n (f.k.getLsbD 3) (f.k.getLsbD 2))
  | 13 => two f fun n => .ok (.fcmpE5x8 n (Cond.ofCode (f.k.extractLsb' 0 3)))
  | 14 => three f fun n => .ok (.dotE5x8 n (f.k.getLsbD 2))
  | _ => .error .reservedOpcode

/-- Opcodes 0x50 to 0x5F (R167, R168). -/
def row5 (lo : Nat) (f : Fields) : Except LoadStatus Instr :=
  match lo with
  | 0 => two f fun n => .ok (.cvtI64 n (f.k.getLsbD 3) (f.k.getLsbD 2) (Rnd.ofCode (f.k.extractLsb' 0 2)))
  | 1 => two f fun n => .ok (.cvtI32 n (f.k.getLsbD 3) (f.k.getLsbD 2) (Rnd.ofCode (f.k.extractLsb' 0 2)))
  | 2 => two f fun n => .ok (.cvtI16x4 n (f.k.getLsbD 3) (f.k.getLsbD 2) (Rnd.ofCode (f.k.extractLsb' 0 2)))
  | 3 => two f fun n => .ok (.cvtI8x8 n (f.k.getLsbD 3) (f.k.getLsbD 2) (Rnd.ofCode (f.k.extractLsb' 0 2)))
  | 4 => two f fun n => .ok (.cvtF32 n (f.k.getLsbD 3) (f.k.getLsbD 2) (Rnd.ofCode (f.k.extractLsb' 0 2)))
  | 5 => two f fun n => .ok (.cvtBf16x4 n (f.k.getLsbD 3) (f.k.getLsbD 2) (Rnd.ofCode (f.k.extractLsb' 0 2)))
  | 6 => two f fun n => .ok (.cvtE4x8 n (f.k.getLsbD 3) (f.k.getLsbD 2) (Rnd.ofCode (f.k.extractLsb' 0 2)))
  | 7 => two f fun n => .ok (.cvtE5x8 n (f.k.getLsbD 3) (f.k.getLsbD 2) (Rnd.ofCode (f.k.extractLsb' 0 2)))
  | 8 => two f fun n => .ok (.cvtQn4x16 n (f.k.getLsbD 3) (f.k.getLsbD 2) (Rnd.ofCode (f.k.extractLsb' 0 2)))
  | 9 => two f fun n => .ok (.scl n (f.k.getLsbD 2) (Rnd.ofCode (f.k.extractLsb' 0 2)))
  | 10 => two f fun n => .ok (.uscl n (f.k.getLsbD 2) (Rnd.ofCode (f.k.extractLsb' 0 2)))
  | 11 => two f fun n => .ok (.pack n (f.k.extractLsb' 0 4))
  | 12 => two f fun n => .ok (.unpk n (f.k.extractLsb' 0 4))
  | _ => .error .reservedOpcode

/-- Opcodes 0x60 to 0x6F (R167, R168). -/
def row6 (lo : Nat) (f : Fields) : Except LoadStatus Instr :=
  match lo with
  | 0 => two f fun n => .ok (.switch n)
  | 1 => two f fun n => .ok (.merge n)
  | 2 => two f fun n => .ok (.dup n)
  | 3 => two f fun n => .ok (.gate n)
  | 4 => two f fun n => .ok (.sink n)
  | 5 => two f fun n => .ok (.fcomp n)
  | 6 => two f fun n => .ok (.steer n)
  | 7 => two f fun n => .ok (.ojoin n)
  | _ => .error .reservedOpcode

/-- Opcodes 0x70 to 0x7F (R167, R168). -/
def row7 (lo : Nat) (f : Fields) : Except LoadStatus Instr :=
  match lo with
  | 0 => two f fun n => .ok (.talloc n)
  | 1 => two f fun n => .ok (.tfree n)
  | 2 => two f fun n => .ok (.falloc n)
  | 3 => two f fun n => .ok (.ffree n)
  | 4 => two f fun n => .ok (.call n)
  | 5 => two f fun n => .ok (.ret n)
  | 6 => two f fun n => .ok (.fbcast n)
  | 7 => two f fun n => .ok (.tagv n)
  | _ => .error .reservedOpcode

/-- Opcodes 0x80 to 0x8F (R167, R168). -/
def row8 (lo : Nat) (f : Fields) : Except LoadStatus Instr :=
  match lo with
  | 0 => two f fun n => withScope f.k fun sc => .ok (.ldB n (f.k.getLsbD 3) sc)
  | 1 => two f fun n => withScope f.k fun sc => .ok (.ldH n (f.k.getLsbD 3) sc)
  | 2 => two f fun n => withScope f.k fun sc => .ok (.ldW n (f.k.getLsbD 3) sc)
  | 3 => two f fun n => withScope f.k fun sc => .ok (.ldD n (f.k.getLsbD 3) sc)
  | 4 => two f fun n => withScope f.k fun sc => .ok (.stB n sc)
  | 5 => two f fun n => withScope f.k fun sc => .ok (.stH n sc)
  | 6 => two f fun n => withScope f.k fun sc => .ok (.stW n sc)
  | 7 => two f fun n => withScope f.k fun sc => .ok (.stD n sc)
  | 8 => two f fun n => withScope f.k fun sc => .ok (.ldAcq n (f.k.getLsbD 3) sc)
  | 9 => two f fun n => withScope f.k fun sc => .ok (.stRel n (f.k.getLsbD 3) sc)
  | 10 => two f fun n => withScope f.k fun sc => .ok (.ldl n sc)
  | 11 => two f fun n => withScope f.k fun sc => .ok (.stl n sc)
  | 12 => two f fun n => withScope f.k fun sc => .ok (.stlm n sc)
  | 13 => two f fun n => withScope f.k fun sc => .ok (.ldd n sc)
  | 14 => two f fun n => withScope f.k fun sc => .ok (.std n sc)
  | 15 => two f fun n => .ok (.pf n)
  | _ => .error .reservedOpcode

/-- Opcodes 0x90 to 0x9F (R167, R168). -/
def row9 (lo : Nat) (f : Fields) : Except LoadStatus Instr :=
  match lo with
  | 0 => two f fun n => withScope f.k fun sc => .ok (.aadd n (f.k.getLsbD 3) sc)
  | 1 => two f fun n => withScope f.k fun sc => .ok (.aand n (f.k.getLsbD 3) sc)
  | 2 => two f fun n => withScope f.k fun sc => .ok (.aor n (f.k.getLsbD 3) sc)
  | 3 => two f fun n => withScope f.k fun sc => .ok (.axor n (f.k.getLsbD 3) sc)
  | 4 => two f fun n => withScope f.k fun sc => .ok (.amin n (f.k.getLsbD 3) sc)
  | 5 => two f fun n => withScope f.k fun sc => .ok (.amax n (f.k.getLsbD 3) sc)
  | 6 => two f fun n => withScope f.k fun sc => .ok (.aswp n (f.k.getLsbD 3) sc)
  | 7 => two f fun n => withScope f.k fun sc => .ok (.acas n (f.k.getLsbD 3) sc)
  | 8 => two f fun n => withScope f.k fun sc => .ok (.afadd n (f.k.getLsbD 3) sc)
  | 9 => two f fun n => withScope f.k fun sc => .ok (.fencePub n sc)
  | 10 => two f fun n => withScope f.k fun sc => .ok (.fenceAcq n sc)
  | 11 => two f fun n => withScope f.k fun sc => .ok (.strm n sc)
  | _ => .error .reservedOpcode

/-- Opcodes 0xA0 to 0xAF (R167, R168). -/
def rowA (lo : Nat) (f : Fields) : Except LoadStatus Instr :=
  match lo with
  | 0 => two f fun n => .ok (.vadd n (f.k.getLsbD 3) (f.k.getLsbD 2) (Rnd.ofCode (f.k.extractLsb' 0 2)))
  | 1 => two f fun n => .ok (.vsub n (f.k.getLsbD 3) (f.k.getLsbD 2) (Rnd.ofCode (f.k.extractLsb' 0 2)))
  | 2 => two f fun n => .ok (.vmul n (f.k.getLsbD 3) (f.k.getLsbD 2) (Rnd.ofCode (f.k.extractLsb' 0 2)))
  | 3 => two f fun n => .ok (.vfma n (f.k.getLsbD 2) (Rnd.ofCode (f.k.extractLsb' 0 2)))
  | 4 => two f fun n => .ok (.vmin n (f.k.getLsbD 3) (f.k.getLsbD 2) (Rnd.ofCode (f.k.extractLsb' 0 2)))
  | 5 => two f fun n => .ok (.vmax n (f.k.getLsbD 3) (f.k.getLsbD 2) (Rnd.ofCode (f.k.extractLsb' 0 2)))
  | 6 => two f fun n => .ok (.vabs n (f.k.getLsbD 3) (f.k.getLsbD 2) (Rnd.ofCode (f.k.extractLsb' 0 2)))
  | 7 => two f fun n => .ok (.vneg n (f.k.getLsbD 3) (f.k.getLsbD 2) (Rnd.ofCode (f.k.extractLsb' 0 2)))
  | 8 => two f fun n => .ok (.vexp2 n (f.k.getLsbD 2) (Rnd.ofCode (f.k.extractLsb' 0 2)))
  | 9 => two f fun n => .ok (.vlog2 n (f.k.getLsbD 2) (Rnd.ofCode (f.k.extractLsb' 0 2)))
  | 10 => two f fun n => .ok (.vrcp n (f.k.getLsbD 2) (Rnd.ofCode (f.k.extractLsb' 0 2)))
  | 11 => two f fun n => .ok (.vrsqrt n (f.k.getLsbD 2) (Rnd.ofCode (f.k.extractLsb' 0 2)))
  | 12 => two f fun n => .ok (.vcmp n (Cond.ofCode (f.k.extractLsb' 0 3)))
  | 13 => two f fun n => .ok (.vsel n (f.k.extractLsb' 0 3))
  | 14 => two f fun n => .ok (.vand n (f.k.extractLsb' 0 3))
  | 15 => two f fun n => .ok (.vor n (f.k.extractLsb' 0 3))
  | _ => .error .reservedOpcode

/-- Opcodes 0xB0 to 0xBF (R167, R168). -/
def rowB (lo : Nat) (f : Fields) : Except LoadStatus Instr :=
  match lo with
  | 0 => two f fun n => .ok (.vxor n (f.k.extractLsb' 0 3))
  | 1 => two f fun n => .ok (.vshl n (f.k.extractLsb' 0 3))
  | 2 => two f fun n => .ok (.vshr n (f.k.getLsbD 3) (f.k.extractLsb' 0 3))
  | 3 => two f fun n => .ok (.vcvt n (f.k.getLsbD 2) (Rnd.ofCode (f.k.extractLsb' 0 2)))
  | 4 => two f fun n => .ok (.vscl n (f.k.getLsbD 2) (Rnd.ofCode (f.k.extractLsb' 0 2)))
  | 5 => two f fun n => .ok (.vbcast n (f.k.extractLsb' 0 3))
  | 6 => two f fun n => .ok (.vext n (f.k.extractLsb' 0 3))
  | 7 => two f fun n => .ok (.vperm n (f.k.extractLsb' 0 3))
  | 8 => two f fun n => .ok (.rsum n (f.k.extractLsb' 0 2))
  | 9 => two f fun n => .ok (.rmin n (f.k.getLsbD 3) (f.k.getLsbD 2) (f.k.extractLsb' 0 2))
  | 10 => two f fun n => .ok (.rmax n (f.k.getLsbD 3) (f.k.getLsbD 2) (f.k.extractLsb' 0 2))
  | 11 => two f fun n => .ok (.racc n (f.k.getLsbD 2) (Rnd.ofCode (f.k.extractLsb' 0 2)))
  | _ => .error .reservedOpcode

/-- Opcodes 0xC0 to 0xCF (R167, R168). -/
def rowC (lo : Nat) (f : Fields) : Except LoadStatus Instr :=
  match lo with
  | 0 => two f fun n => .ok (.lmClaim n)
  | 1 => two f fun n => .ok (.lmRelease n)
  | 2 => two f fun n => .ok (.lmFill n)
  | 3 => two f fun n => .ok (.lmBuild n (f.k.getLsbD 0))
  | 4 => two f fun n => .ok (.lmArm n (f.k.getLsbD 1) (f.k.getLsbD 0))
  | 5 => two f fun n => .ok (.lmLook n (f.k.extractLsb' 1 3) (f.k.getLsbD 0))
  | 6 => two f fun n => .ok (.lmDirect n (f.k.extractLsb' 0 2))
  | 7 => two f fun n => withScope f.k fun sc => .ok (.lmDrain n (f.k.getLsbD 3) sc)
  | 8 => two f fun n => withScope f.k fun sc => .ok (.lmSpill n sc)
  | 9 => two f fun n => withScope f.k fun sc => .ok (.lmReload n sc)
  | 10 => two f fun n => .ok (.lmStat n)
  | _ => .error .reservedOpcode

/-- Opcodes 0xE0 to 0xEF (R167, R168). -/
def rowE (lo : Nat) (f : Fields) : Except LoadStatus Instr :=
  match lo with
  | 0 => two f fun n => withScope f.k fun sc => .ok (.cp n sc)
  | 1 => two f fun n => withScope f.k fun sc => .ok (.nmAdd n sc)
  | 2 => two f fun n => withScope f.k fun sc => .ok (.nmAxpy n sc)
  | 3 => two f fun n => withScope f.k fun sc => .ok (.nmScl n sc)
  | 4 => two f fun n => withScope f.k fun sc => .ok (.nmCvt n sc)
  | 5 => two f fun n => .ok (.xrGet n (f.k.getLsbD 3) (f.k.getLsbD 0))
  | 6 => two f fun n => .ok (.xrPut n (f.k.getLsbD 0))
  | 7 => two f fun n => .ok (.xrAmo n (f.k.getLsbD 3) (f.k.extractLsb' 0 3))
  | 8 => two f fun n => .ok (.cvIn n)
  | 9 => two f fun n => .ok (.cvOut n)
  | 10 => two f fun n => .ok (.cvOpen n (f.k.getLsbD 1) (f.k.getLsbD 0))
  | 11 => two f fun n => .ok (.cvClose n (f.k.getLsbD 0))
  | 12 => two f fun n => .ok (.spawn n)
  | 13 => two f fun n => .ok (.suspend n)
  | 14 => two f fun n => withScope f.k fun sc => .ok (.jinit n sc)
  | 15 => two f fun n => withScope f.k fun sc => .ok (.jarrive n sc)
  | _ => .error .reservedOpcode

/-- Opcodes 0xF0 to 0xFF (R167, R168). -/
def rowF (lo : Nat) (f : Fields) : Except LoadStatus Instr :=
  match lo with
  | 0 => two f fun n => withScope f.k fun sc => .ok (.barArrive n sc)
  | 1 => two f fun n => withScope f.k fun sc => .ok (.barWait n sc)
  | 2 => two f fun n => withScope f.k fun sc => .ok (.qPush n sc)
  | 3 => two f fun n => withScope f.k fun sc => .ok (.qPop n (f.k.getLsbD 3) sc)
  | 4 => two f fun n => withScope f.k fun sc => .ok (.launch n sc)
  | 5 => two f fun n => .ok (.cut n)
  | 8 => two f fun n => .ok (.trap n (f.k.extractLsb' 0 4))
  | 9 => two f fun n => .ok (.brk n)
  | 10 => two f fun n => .ok (.rdctr n (f.k.extractLsb' 0 4))
  | 11 => if f.k.getLsbD 3 then two f fun n => .ok (.csrWr n)
    else two f fun n => .ok (.csrRd n)
  | 12 => two f fun n => .ok (.publish n)
  | 13 => match f.k.toNat with
    | 0 => two f fun n => .ok (.hgTake n)
    | 1 => two f fun n => .ok (.hgPost n)
    | 2 => two f fun n => .ok (.hgQuote n)
    | _ => .error .reservedModifier
  | 14 => match f.k.toNat with
    | 0 => two f fun n => .ok (.scrubZero n)
    | 1 => two f fun n => .ok (.scrubWait n)
    | _ => .error .reservedModifier
  | 15 => match f.k.toNat with
    | 0 => two f fun n => .ok (.gateSrcClose n)
    | 1 => two f fun n => .ok (.gateSrcOpen n)
    | 2 => two f fun n => .ok (.gateSrcFreeze n)
    | 3 => two f fun n => .ok (.gateSrcEvict n)
    | _ => .error .reservedModifier
  | _ => .error .reservedOpcode

/-- The row of an opcode byte: its class tables, 06-15 to 06-20 (R167). -/
def rowOf (f : Fields) : Except LoadStatus Instr :=
  let lo := f.op.toNat % 16
  match f.op.toNat / 16 with
  | 0 => row0 lo f
  | 1 => row1 lo f
  | 2 => row2 lo f
  | 3 => row3 lo f
  | 4 => row4 lo f
  | 5 => row5 lo f
  | 6 => row6 lo f
  | 7 => row7 lo f
  | 8 => row8 lo f
  | 9 => row9 lo f
  | 10 => rowA lo f
  | 11 => rowB lo f
  | 12 => rowC lo f
  | 14 => rowE lo f
  | 15 => rowF lo f
  | _ => .error .reservedOpcode

/-- The instruction of a node word, or the status that refuses it: first its opcode and selects, then a modifier bit
that the row leaves no use (R181), then the checks of the instruction's description. -/
def decode (w : BitVec 32) : Except LoadStatus Instr :=
  match rowOf (Fields.ofWord w) with
  | .error e => .error e
  | .ok i =>
    match i.fields with
    | Option.none => .error .reservedOpcode
    | some f =>
      if f.k ≠ w.extractLsb' 0 4 then .error .reservedModifier
      else match i.check with
        | some e => .error e
        | Option.none => .ok i

/-- The word of an instruction; an event of the device has none. -/
def encode (i : Instr) : Option (BitVec 32) := i.fields.map Fields.toWord

/-- The decoder's reading of an opcode-table word: node words are 32 bits, and nothing else is one (R150). -/
def decodeTableWord (nbits w : Nat) : Option Instr :=
  if nbits = 32 then
    match decode (BitVec.ofNat 32 w) with
    | .ok i => some i
    | .error _ => Option.none
  else Option.none

end Sys2Proof
end

