-- ==== Sys2Proof/Machine/Sha3.lean ====
section
/-! DEFINITION. SHA3-384 (R374, R379, R380, R400). PRESUMED: the spec names the digest; its rounds are those of FIPS 202
(log 17). -/

namespace Sys2Proof.Machine

open Sys2Proof

/-! ### Byte strings -/

/-- The `n` bytes of a number, lowest first (R5). -/
def toBytes (v : Nat) : Nat → List Byte
  | 0 => []
  | n + 1 => BitVec.ofNat 8 v :: toBytes (v / 256) n

/-- The number of a byte string, lowest byte first (R5). -/
def ofBytes : List Byte → Nat
  | [] => 0
  | b :: l => b.toNat + 256 * ofBytes l

/-! ### Keccak -/

/-- Round constants of Keccak-f[1600]. -/
def keccakConsts : List Nat :=
  [0x0000000000000001, 0x0000000000008082, 0x800000000000808A, 0x8000000080008000, 0x000000000000808B, 0x0000000080000001,
   0x8000000080008081, 0x8000000000008009, 0x000000000000008A, 0x0000000000000088, 0x0000000080008009, 0x000000008000000A]
  ++ [0x000000008000808B, 0x800000000000008B, 0x8000000000008089, 0x8000000000008003, 0x8000000000008002,
   0x8000000000000080, 0x000000000000800A, 0x800000008000000A, 0x8000000080008081, 0x8000000000008080, 0x0000000080000001,
   0x8000000080008008]

/-- Rotation of lane `x + 5 * y`. -/
def keccakRot : List Nat :=
  [0, 1, 62, 28, 27, 36, 44, 6, 55, 20, 3, 10, 43, 25, 39, 41, 45, 15, 21, 8, 18, 2, 61, 56, 14]

/-- A 64-bit lane rotated left. -/
def rotl64 (x k : Nat) : Nat := x * 2 ^ k % 2 ^ 64 + x / 2 ^ (64 - k) % 2 ^ k

/-- One round over the 25 lanes `x + 5 * y`. -/
def keccakRound (a : List Nat) (rc : Nat) : List Nat :=
  let c := (List.range 5).map fun x => (List.range 5).foldl (fun v y => v ^^^ a.getD (x + 5 * y) 0) 0
  let d := (List.range 5).map fun x => c.getD ((x + 4) % 5) 0 ^^^ rotl64 (c.getD ((x + 1) % 5) 0) 1
  let t := (List.range 25).map fun i => rotl64 (a.getD i 0 ^^^ d.getD (i % 5) 0) (keccakRot.getD i 0)
  let b := (List.range 25).map fun j =>
    let y := j % 5
    t.getD ((List.range 5).findSome? (fun x => if (2 * x + 3 * y) % 5 = j / 5 then some (x + 5 * y) else none) |>.getD 0) 0
  (List.range 25).map fun i =>
    let at' := fun (k : Nat) => b.getD ((i % 5 + k) % 5 + 5 * (i / 5)) 0
    at' 0 ^^^ ((2 ^ 64 - 1 - at' 1) &&& at' 2) ^^^ (if i = 0 then rc else 0)

/-- The permutation. -/
def keccakF (a : List Nat) : List Nat := keccakConsts.foldl keccakRound a

/-- Bytes that SHA3-384 absorbs at a time. -/
def sha3Rate : Nat := 104

/-- A message with its padding: whole blocks. -/
def sha3Pad (l : List Byte) : List Byte :=
  let n := sha3Rate - l.length % sha3Rate
  if n = 1 then l ++ [0x86] else l ++ [0x06] ++ List.replicate (n - 2) 0 ++ [0x80]

/-- Absorb the blocks of a padded message; `fuel` bounds them. -/
def sha3Absorb : Nat → List Nat → List Byte → List Nat
  | 0, a, _ => a
  | fuel + 1, a, l =>
    if l.isEmpty then a
    else
      let blk := l.take sha3Rate
      let x := a.zipIdx.map fun (v : Nat × Nat) => v.1 ^^^ ofBytes ((blk.drop (8 * v.2)).take 8)
      sha3Absorb fuel (keccakF x) (l.drop sha3Rate)

/-- The SHA3-384 digest of a byte string as a number, its first byte the lowest. -/
def sha3 (l : List Byte) : Nat :=
  let m := sha3Pad l
  let a := sha3Absorb (m.length / sha3Rate) (List.replicate 25 0) m
  (List.range 6).foldr (fun i acc => a.getD i 0 + 2 ^ 64 * acc) 0

end Sys2Proof.Machine
end

