-- ==== Sys2Proof/Machine/CodeObject.lean ====
section
/-! DEFINITION. Configuration packets (R163 to R165), code objects (R400 to R404) and the checks the loader makes (R166). -/

namespace Sys2Proof.Machine

open Sys2Proof

/-! ### CRC-32C -/

/-- `n` shifts of the CRC-32C register (R165, R294). -/
def crcShift (c : Nat) : Nat → Nat
  | 0 => c
  | n + 1 => crcShift (if c % 2 = 1 then (c / 2) ^^^ 0x82F63B78 else c / 2) n

/-- CRC-32C of a byte string (R165, R294). -/
def crc32c (l : List Byte) : Nat := (l.foldl (fun c b => crcShift (c ^^^ b.toNat) 8) 0xFFFFFFFF) ^^^ 0xFFFFFFFF

/-! ### Packets, Tables 06-12 and 06-13 -/

namespace Pk
/-- packet kind -/
def pkind (w : Nat) : Nat := bits w 63 56
/-- first entry -/
def first (w : Nat) : Nat := bits w 55 50
/-- entries carried -/
def count (w : Nat) : Nat := bits w 49 46
/-- target unit -/
def unit (w : Nat) : Nat := bits w 45 38
/-- target kind; 5 for the tile table -/
def ukind (w : Nat) : Nat := bits w 37 35
/-- region number -/
def region (w : Nat) : Nat := bits w 34 19
/-- Bytes of one entry of a packet kind. -/
def size (k : Nat) : Nat := if k = 1 ∨ k = 3 then 4 else if k = 2 ∨ k = 4 then 8 else 16
/-- Entry `i` of a packet. -/
def entry (w i : Nat) : Nat := w / 2 ^ (64 + 8 * size (pkind w) * i) % 2 ^ (8 * size (pkind w))
/-- item count of a seal -/
def items (w : Nat) : Nat := bits w 95 64
/-- CRC of a seal -/
def crc (w : Nat) : Nat := bits w 127 96
/-- region signature of a seal -/
def sig (w : Nat) : Nat := bits w 191 128
end Pk

/-- Whether a unit number exists for a target kind (Table 06-8; kind 5 here is the tile table). -/
def unitInRange (k n : Nat) : Bool :=
  match k with
  | 0 => n < 256 | 1 => n < 4 | 2 => n < 8 | 3 | 4 => n == 0 | _ => n == 0

/-- Whether a packet keeps R163 and R164. -/
def packetOk (w : Nat) : Bool :=
  let n := Pk.count w
  let top := Pk.first w + n
  bits w 18 0 == 0 && n != 0 && decide (Pk.ukind w ≤ 5) && unitInRange (Pk.ukind w) (Pk.unit w)
    && (match Pk.pkind w with
      | 1 => decide (n ≤ 14) && decide (top ≤ 16) && Pk.ukind w != 5
      | 2 => decide (n ≤ 7) && decide (top ≤ 16) && Pk.ukind w != 5
      | 3 => decide (n ≤ 8) && decide (top ≤ 8) && Pk.ukind w != 5
      | 4 => n == 1 && Pk.first w == 0 && Pk.ukind w != 5
      | 5 => decide (n ≤ 3) && decide (top ≤ 64) && Pk.ukind w == 5
      | 6 => n == 1 && Pk.first w == 0 && w / 2 ^ 192 == 0
      | _ => false)

/-- The unit that receives a packet; the tile table's part is kept under engine-port number 1 of its cluster. -/
def packetUnit (cl w : Nat) : UId :=
  match ukindOf (Pk.ukind w) with
  | some k => ⟨cl, k, Pk.unit w⟩
  | none => ⟨cl, .eng, 1⟩

/-- Write one entry of a packet into a unit. -/
def putEntry (rid w : Nat) (h : HwUnit) (i : Nat) : HwUnit :=
  let k := Pk.first w + i
  let e := Pk.entry w i
  let h := { h with rcv := h.rcv ++ [(Pk.pkind w, k, toBytes e (Pk.size (Pk.pkind w)))] }
  match Pk.pkind w with
  | 1 => { h with words := AL.set h.words k (BitVec.ofNat 32 e, rid) }
  | 2 => { h with lits := AL.set h.lits k (BitVec.ofNat 64 e) }
  | 3 => { h with arcs := AL.set h.arcs k (BitVec.ofNat 32 e) }
  | 4 => { h with flags := BitVec.ofNat 64 e }
  | _ => h

/-- Write the entries of a packet into a unit (R164). -/
def putPacket (rid w : Nat) (h : HwUnit) : HwUnit :=
  if Pk.pkind w = 6 then h else (List.range (Pk.count w)).foldl (putEntry rid w) h

/-- The bytes a seal's CRC covers: ascending kind, then ascending index (R165). -/
def sealBytesOf (rcv : List (Nat × Nat × List Byte)) : List Byte :=
  (List.range 6).flatMap fun k => (List.range 64).flatMap fun i =>
    (rcv.filter fun e => e.1 = k && e.2.1 = i).flatMap (·.2.2)

/-- The checks of a seal (R165). -/
def sealOk (w sig : Nat) (h : HwUnit) : Bool :=
  !h.rcvBad && Pk.items w == h.rcv.length && Pk.crc w == crc32c (sealBytesOf h.rcv) && Pk.sig w == sig

/-- A tile-table entry as declared, Table 04-7: it starts empty (R111). -/
def tileOf (rid e : Nat) : Tile :=
  ⟨.empty, !bitAt e 125, bits e 119 112, bits e 111 100, 0, bits e 87 80, 0, bits e 63 45, bits e 31 19, 0, rid⟩

/-- Whether a tile entry keeps Table 04-7 and R112, in a scratchpad class of `pad` bytes; `om` of a tile is true for
operand memory. Its reserved bits are ignored (R10). DESIGN CHOICE: an entry whose fields leave the ranges of Table 04-7
outside R112's list is refused with status 0x0B as well (log 56). -/
def tileOk (e pad : Nat) : Bool :=
  let t := tileOf 0 e
  bits e 127 126 == 0 && decide (1 ≤ t.lines) && decide (t.lines ≤ 2048) && t.readers != 0
    && [0, 1, 2, 3, 4, 5, 7, 8, 9, 10, 16].contains t.format
    && (if t.om then t.base % 64 == 0 && decide (t.base + t.lines ≤ 2048)
        else decide (64 * (t.base + t.lines) ≤ pad))
    && (t.scaleoff % 4 == 0)

/-! ### Code objects, Tables 15-4 to 15-6 -/

namespace Obj
/-- Line `i` of an object. -/
def line (c : Code) (i : Nat) : Nat := ofBytes ((c.body.drop (64 * i)).take 64)
/-- regions -/
def nreg (c : Code) : Nat := bits (line c 0) 31 24
/-- code object number -/
def code (c : Code) : Nat := bits (line c 0) 63 32
/-- memory-model revision -/
def mmrev (c : Code) : Nat := bits (line c 0) 23 16
/-- entry arc -/
def entry (d : Nat) : BitVec 32 := BitVec.ofNat 32 d
/-- recursion bound -/
def depth (d : Nat) : Nat := bits d 44 32
/-- region revision -/
def rev (d : Nat) : Nat := bits d 55 48
/-- privileged -/
def priv (d : Nat) : Bool := bitAt d 58
/-- logged -/
def logged (d : Nat) : Bool := bitAt d 59
/-- free-form -/
def free (d : Nat) : Bool := bitAt d 57
/-- region number -/
def region (d : Nat) : Nat := bits d 79 64
/-- packet area -/
def poff (d : Nat) : Nat := bits d 127 96
/-- its lines -/
def pcount (d : Nat) : Nat := bits d 159 128
/-- data area -/
def doff (d : Nat) : Nat := bits d 191 160
/-- its lines -/
def dcount (d : Nat) : Nat := bits d 223 192
/-- signature -/
def sig (d : Nat) : Nat := bits d 319 256
/-- The number, from 1, of the directory line of a region number. -/
def findDir (c : Code) (num : Nat) : Option Nat :=
  ((List.range (nreg c)).find? fun r => region (line c (r + 1)) = num).map (· + 1)
end Obj

/-- A block of an area (Table 15-6). -/
structure Block where
  kind : Nat
  x : Nat
  y : Nat
  place : Nat
  first : Nat
  count : Nat
deriving DecidableEq, Repr

/-- The blocks of an area of `left` lines from line `pos`, or none if a block line breaks Table 15-6. -/
def blocksFrom (c : Code) : Nat → Nat → Nat → Option (List Block)
  | 0, _, left => if left = 0 then some [] else none
  | fuel + 1, pos, left =>
    if left = 0 then some []
    else
      let b := Obj.line c pos
      let k := bits b 7 0
      let place := bits b 127 64
      let n := bits b 63 32
      let ok := b / 2 ^ 128 == 0 && bits b 31 22 == 0 && bits b 15 14 == 0 && decide (n + 1 ≤ left)
        && (match k with
          | 1 => place % 64 == 0
          | 2 => place % 64 == 0 && bits b 21 16 == 0 && bits b 13 8 == 0
          | 3 => place == 0
          | _ => false)
      if ok then (blocksFrom c fuel (pos + n + 1) (left - (n + 1))).map
        (⟨k, bits b 13 8, bits b 21 16, place, pos + 1, n⟩ :: ·)
      else none

/-- The blocks of a region's packet area. -/
def packetBlocks (c : Code) (d : Nat) : Option (List Block) := blocksFrom c (Obj.pcount d) (Obj.poff d) (Obj.pcount d)

/-- The blocks of a region's data area. -/
def dataBlocks (c : Code) (d : Nat) : Option (List Block) := blocksFrom c (Obj.dcount d) (Obj.doff d) (Obj.dcount d)

/-- A region's packets in order, each with the cluster it goes to. -/
def packetsOf (c : Code) (d : Nat) : List (Nat × Nat) :=
  ((packetBlocks c d).getD []).flatMap fun b =>
    (List.range b.count).map fun i => (b.y * 64 + b.x, Obj.line c (b.first + i))

/-- The units of a region as its packets describe them. -/
def unitsOf (c : Code) (d : Nat) : AL UId HwUnit :=
  (packetsOf c d).foldl (fun m p =>
    let u := packetUnit p.1 p.2
    AL.set m u (putPacket 0 p.2 (AL.get HwUnit.empty m u))) []

/-- The node words of a region: unit and slot. -/
def nodesOf (c : Code) (d : Nat) : List (UId × Nat) :=
  (unitsOf c d).flatMap fun p => p.2.words.map fun w => (p.1, w.1)

/-- The host set of a region (R57), ascending. -/
def hostOf (c : Code) (d : Nat) : List Nat :=
  let l := (nodesOf c d).map (·.1.cl)
  (List.range 4096).filter fun cl => l.contains cl

/-- The tile entries of a region: cluster, number and declaration. -/
def tilesOf (c : Code) (d : Nat) : List (Nat × Nat × Nat) :=
  (packetsOf c d).flatMap fun p =>
    if Pk.pkind p.2 = 5 then (List.range (Pk.count p.2)).map fun i => (p.1, Pk.first p.2 + i, Pk.entry p.2 i) else []

/-- The layout of declared tag spaces (R43): each after the one before, footprint K under each index of the parent. -/
def layoutSpaces (l : List (Nat × Nat)) : List Space :=
  l.foldl (fun acc p =>
    let base := match acc.getLast? with | some q => q.base + q.foot | none => 1
    let up := if p.2 = 0 then 1 else match acc[p.2 - 1]? with | some q => q.foot | none => 0
    acc ++ [⟨base, p.1, p.1 * up, p.2⟩]) []

/-- How deep a space is nested, counting itself; `fuel` bounds the climb. -/
def spaceDepth (l : List Space) : Nat → Nat → Nat
  | 0, _ => 0
  | fuel + 1, k => if k = 0 then 0 else match l[k - 1]? with | some q => 1 + spaceDepth l fuel q.parent | none => 0

/-- Whether declared spaces keep the limits of R43. -/
def spacesOk (l : List (Nat × Nat)) : Bool :=
  let sp := layoutSpaces l
  (l.zipIdx.all fun p => decide (1 ≤ p.1.1) && decide (p.1.1 ≤ 64) && decide (p.1.2 ≤ p.2)
      && decide (spaceDepth sp 8 (p.2 + 1) ≤ 4))
    && (sp.all fun q => decide (q.base + q.foot ≤ 512))

/-! ### Configuration-load checks, Table 06-14 -/

/-- The status of an instruction class placed on a unit kind (R22, R167, R168). -/
def classFits (op : Nat) (k : UKind) : Bool :=
  if op < 0x80 then k == .el
  else if op < 0xA0 then k == .mp
  else if op < 0xC0 then k == .ln
  else if op < 0xE0 then k == .lmu
  else if op < 0xF8 then k == .eng
  else if op < 0xFB then true
  else k == .eng

/-- Whether a node of an opcode can have an ordering input (R157): those of elements and line units have none, and `trap`,
`brk` and `rdctr` take no extension (R296). -/
def takesExt (op : Nat) : Bool :=
  decide (0x80 ≤ op) && !(decide (0xA0 ≤ op) && decide (op < 0xC0)) && !(decide (0xF8 ≤ op) && decide (op ≤ 0xFA))

/-- Whether a node sends lines on destination 0 (`first`) or 1 (R27, R159). -/
def emitsLine (w : Nat) (first : Bool) : Bool :=
  let op := bits w 31 24
  if op < 0x80 ∨ op = 0xF9 ∨ op = 0xFA then bits w 23 20 == 6
  else if op = 0x8A ∨ op = 0x9B then first
  else if op = 0xB3 then first
  else if op = 0xE5 then first && bitAt w 0
  else (decide (0xA0 ≤ op) && decide (op ≤ 0xB5)) || op == 0xB7

/-- The opcodes with a third source in place of destination 1 (R153). -/
def threeSource (op : Nat) : Bool := [0x1C, 0x1E, 0x23, 0x33, 0x3D, 0x46, 0x4E].contains op

/-- The sides that a node word's selects name: left and right (R36, R153). -/
def namedSides (w : Nat) : Bool × Bool :=
  let l := [bits w 19 16, bits w 15 12] ++ (if threeSource (bits w 31 24) then [bits w 7 4] else [])
  (l.contains 0, l.contains 1)

/-- Whether a node is dyadic (R36); `merge` uses no matching entry (R202). -/
def isDyadic (w : Nat) : Bool := namedSides w == (true, true) && bits w 31 24 != 0x61

/-- The node slot and side that a token to a slot of a unit means: an extension slot stands for the node before it
(R157). -/
def meantSlot (h : HwUnit) (slot : Nat) (right : Bool) : Nat × Side :=
  if bitAt h.flags.toNat (48 + slot) && decide (slot < 16) then (slot - 1, if right then .exp else .ord)
  else (slot, if right then .right else .left)

/-- Reserved overflow entries of a unit (Table 06-9). -/
def reserveOf (h : HwUnit) : Nat := bits h.flags.toNat 47 40

/-- The opcodes that read a parameter literal (R152, R203, R204, R209, R224, R258, R267, R277). -/
def readsParam (k op : Nat) : Bool :=
  match k with
  | 13 => [0x62, 0x65, 0x70, 0x74, 0xA3].contains op || (decide (0xC0 ≤ op) && decide (op ≤ 0xCA))
  | 14 => op == 0x8C || op == 0xC6
  | _ => false

/-- Whether an arc entry names a cluster of the device and keeps Table 06-8; tiles and frame slots are those of the region.
DESIGN CHOICE: an arc that leaves the device is refused even where the waive flag stands (log 34). -/
def arcOk (w : BitVec 32) (cl : Nat) (tiles : List (Nat × Nat × Nat)) (nslots : Nat) : Bool :=
  let bare := Arc.slot w == 0 && !Arc.side w
  Arc.onDevice w cl && match Arc.kind w with
  | 5 => bare && (tiles.any fun t => t.1 == Arc.target w cl && t.2.1 == Arc.unit w)
  | 6 => bare && decide (Arc.unit w < 128) && decide (Arc.unit w < nslots)
  | 7 => bare && Arc.unit w == 0
  | k => unitInRange k (Arc.unit w) && decide (Arc.slot w < 16)

/-- What a unit's words are checked against. -/
structure LoadCtx where
  units : AL UId HwUnit
  tiles : List (Nat × Nat × Nat)
  spaces : List (Nat × Nat)
  nslots : Nat
  priv : Bool
  logged : Bool
deriving DecidableEq, Repr

/-- Destination selects of a word that name arcs: number and whether destination 0. -/
def arcSelects (w : Nat) : List (Nat × Bool) :=
  let d := bits w 11 8
  let e := bits w 7 4
  (if d < 8 then [(d, true)] else []) ++ (if e < 8 && !threeSource (bits w 31 24) then [(e, false)] else [])

/-- The arcs that a node can send on beside those of its destination selects, each with whether it carries a line: the mask
of a `dup` (R203), every valid arc of a `steer` (R205), and the return arc that a `call` hands to its callee, which
carries the scalar of a `ret` (R209). -/
def otherArcs (h : HwUnit) (w : Nat) : List (Nat × Bool) :=
  let op := bits w 31 24
  let lit := (AL.get 0 h.lits 13).toNat
  let valid := (List.range 8).filter fun k => Arc.valid (AL.get 0 h.arcs k)
  if op = 0x62 then (valid.filter (bitAt lit)).map fun k => (k, emitsLine w true)
  else if op = 0x66 then valid.map fun k => (k, emitsLine w true)
  else if op = 0x74 ∧ valid.contains (bits lit 2 0) then [(bits lit 2 0, false)]
  else []

/-- The arcs that a node can send on, each with whether it carries a line. -/
def nodeArcs (h : HwUnit) (w : Nat) : List (Nat × Bool) :=
  ((arcSelects w).map fun p => (p.1, emitsLine w p.2)) ++ otherArcs h w

/-- Whether a node emits what its operand carries, a line or a scalar, as `brk` does outside an element (R298). -/
def emitsEither (u : UId) (w : Nat) : Bool := bits w 31 24 == 0xF9 && u.kind != .el

/-- Whether a node's arcs are such as its tokens may take (R154, R158, R159, R250). Arcs that carry broadcast lines to an
element or a frame slot have a status of their own (R161). -/
def nodeArcsOk (x : LoadCtx) (u : UId) (h : HwUnit) (w : Nat) : Bool :=
  (nodeArcs h w).all (fun p =>
    let a := AL.get 0 h.arcs p.1
    let k := Arc.kind a
    Arc.valid a && arcOk a u.cl x.tiles x.nslots
      && (k != 5 || p.2 || emitsEither u w)
      && ((k != 0 && k != 6) || !p.2 || bits w 23 20 == 6))
    && (bits w 31 24 != 0xF5
      || (decide (bits w 11 8 < 8) && decide (Arc.kind (AL.get 0 h.arcs (bits w 11 8)) ≤ 4)))

/-- Whether the parameter literal of a node keeps the layout that its description gives (R203, R204, R208, R209, R224). -/
def paramOk (x : LoadCtx) (h : HwUnit) (k w : Nat) : Bool :=
  let op := bits w 31 24
  let lit := (AL.get 0 h.lits 13).toNat
  let valid := fun k => Arc.valid (AL.get 0 h.arcs k)
  if op = 0x62 then lit / 2 ^ 8 == 0 && (List.range 8).all fun k => !bitAt lit k || valid k
  else if op = 0x65 ∨ op = 0x70 then
    lit / 2 ^ 9 == 0 && (match lit with
      | 0 => false
      | n + 1 => match x.spaces[n]? with
        | some sp => decide (sp.2 ≤ n)
        | none => false)
  else if op = 0x74 then lit / 2 ^ 32 == 0 && bits lit 15 3 == 0 && valid (bits lit 2 0)
  else if op = 0x8C then bits (AL.get 0 h.lits 14).toNat (8 * (k % 8) + 7) (8 * (k % 8)) != 0
  else true

/-- Whether a right-side arc to an extension slot goes to an `acas` (R157). -/
def extArcOk (x : LoadCtx) (u : UId) (a : BitVec 32) : Bool :=
  match ukindOf (Arc.kind a) with
  | none => true
  | some k =>
    let g := AL.get HwUnit.empty x.units ⟨Arc.target a u.cl, k, Arc.unit a⟩
    if Arc.side a && bitAt g.flags.toNat (48 + Arc.slot a) then
      Arc.slot a != 0 && bits (AL.get (0, 0) g.words (Arc.slot a - 1)).1.toNat 31 24 == 0x97
    else true

/-- The status of one node of a unit, 0 if none refuses it. -/
def nodeStatus (x : LoadCtx) (u : UId) (h : HwUnit) (k : Nat) (word : BitVec 32) : Nat :=
  let w := word.toNat
  let op := bits w 31 24
  let ext := bitAt h.flags.toNat (49 + k) && decide (k < 15)
  match decode word with
  | .error st => st.code
  | .ok i =>
    match i.check with
    | some st => st.code
    | none =>
      if !classFits op u.kind then 0x02
      else if !nodeArcsOk x u h w then 0x06
      else if !paramOk x h k w then 0x07
      else if ((op = 0x97 ∨ op = 0x99 ∨ op = 0x9A ∨ op = 0xF5) && !ext) || (ext && !takesExt op) then 0x08
      else if bits w 23 20 = 6 && !(u.kind == .el && bitAt h.flags.toNat 39
          && (nodeArcs h w).all fun p => let k := Arc.kind (AL.get 0 h.arcs p.1); k != 0 && k != 6) then 0x09
      else if 0xFB ≤ op && !x.priv then 0x0A
      else if op = 0xF5 && !x.logged then 0x0B
      else 0

/-- Whether a node of a unit reads the frame slot that literal `8 + k` selects (source selects 4 to 7), or writes the one
that literal 12 names, for `k` = 4 (destination select 8; R152, R154). -/
def usesSlotLit (h : HwUnit) (k : Nat) : Bool :=
  h.words.any fun w =>
    let v := w.2.1.toNat
    let three := threeSource (bits v 31 24)
    if k < 4 then bits v 19 16 == 4 + k || bits v 15 12 == 4 + k || (three && bits v 7 4 == 4 + k)
    else bits v 11 8 == 8 || (!three && bits v 7 4 == 8)

/-- Whether literal entries keep their roles (R152, R267): a frame-slot literal that is sent, or that a node uses. -/
def literalsOk (x : LoadCtx) (u : UId) (h : HwUnit) : Bool :=
  let lit := fun k => (AL.get 0 h.lits k).toNat
  let some' := fun k => (AL.find? h.lits (8 + k)).isSome || usesSlotLit h k
  ((List.range 8).all fun k => decide (bits h.flags.toNat (4 * k + 3) (4 * k) < 14))
    && ((List.range 4).all fun k => !some' k || (lit (8 + k) / 2 ^ 12 == 0 && decide (bits (lit (8 + k)) 11 8 < 14)
        && !bitAt (lit (8 + k)) 7 && decide (bits (lit (8 + k)) 6 0 < x.nslots)))
    && (!some' 4 || (lit 12 / 2 ^ 7 == 0 && decide (bits (lit 12) 6 0 < x.nslots)))
    && ([13, 14, 15].all fun k => lit k == 0 || h.words.any fun w => readsParam k (bits w.2.1.toNat 31 24))
    && (u.kind != .lmu || (lit 13 / 2 ^ 32 == 0 && decide (bits (lit 13) 2 0 ≤ 4) && bits (lit 13) 15 4 == 0
        && decide (bits (lit 13) 18 16 ≤ 4) && bits (lit 13) 31 20 == 0))

/-- Whether the extension marks of a unit keep R157 and R159. -/
def extOk (x : LoadCtx) (u : UId) (h : HwUnit) : Bool :=
  let ext := fun k => bitAt h.flags.toNat (48 + k)
  !ext 0 && ((List.range 16).all fun k => !ext k || ((AL.find? h.words k).isNone && u.kind != .el))
    && h.arcs.all fun a => !Arc.valid a.2 || extArcOk x u a.2

/-- The first refusal of a unit: status and slot. DESIGN CHOICE: a unit's node words are checked by slot, then its arcs,
literals, extension marks and flags, whose failures name slot 0; Table 06-14 has no status for a nonzero reserved bit of
the flags word, and the model answers 0x08 (log 39). -/
def unitStatus (x : LoadCtx) (u : UId) (h : HwUnit) : Option (Nat × Nat) :=
  match (List.range 16).findSome? fun k =>
      match AL.find? h.words k with
      | some w => let st := nodeStatus x u h k w.1; if st = 0 then none else some (st, k)
      | none => none with
  | some r => some r
  | none =>
    if !(h.arcs.all fun a => !Arc.valid a.2 || arcOk a.2 u.cl x.tiles x.nslots) then some (0x06, 0)
    else if !literalsOk x u h then some (0x07, 0)
    else if !extOk x u h || bits h.flags.toNat 38 32 != 0 then some (0x08, 0)
    else if bitAt h.flags.toNat 39 && u.kind != .el then some (0x09, 0)
    else none

/-- The load context of a region. -/
def loadCtx (c : Code) (r : Nat) : LoadCtx :=
  let d := Obj.line c r
  ⟨unitsOf c d, tilesOf c d, Config.tagSpaces c.body r, Config.frameSlots c.body r, Obj.priv d, Obj.logged d⟩

/-! ### The graph of a region -/

/-- A node of a region: its unit and slot. -/
abbrev GNode := UId × Nat

/-- The word of a node. -/
def wordOf (units : AL UId HwUnit) (n : GNode) : Nat :=
  (AL.get (0, 0) (AL.get HwUnit.empty units n.1).words n.2).1.toNat

/-- The nodes that a node's arcs lead to, an extension slot standing for the node before it (R157). -/
def succs (units : AL UId HwUnit) (n : GNode) : List GNode :=
  let h := AL.get HwUnit.empty units n.1
  (nodeArcs h (wordOf units n)).filterMap fun p =>
    let a := AL.get 0 h.arcs p.1
    (ukindOf (Arc.kind a)).map fun k =>
      let u : UId := ⟨Arc.target a n.1.cl, k, Arc.unit a⟩
      (u, (meantSlot (AL.get HwUnit.empty units u) (Arc.slot a) (Arc.side a)).1)

/-- Whether what is left of a graph has no cycle: nodes that no other leads to are taken away, as often as `fuel` says. -/
def acyclic (units : AL UId HwUnit) : Nat → List GNode → Bool
  | 0, l => l.isEmpty
  | fuel + 1, l =>
    let fed := l.flatMap (succs units)
    acyclic units fuel (l.filter fed.contains)

/-- The nodes from which tokens come to the given ones: `strm` nodes, and nodes that none leads to, which the entry record
feeds; a node in `seen` is not asked again. -/
def originsOf (units : AL UId HwUnit) (nodes : List GNode) : Nat → List GNode → List GNode → List GNode
  | 0, _, _ => []
  | fuel + 1, seen, front =>
    let isOrigin := fun n => bits (wordOf units n) 31 24 == 0x9B || !(nodes.any fun m => (succs units m).contains n)
    let here := front.filter isOrigin
    let more := (nodes.filter fun m => (succs units m).any fun n => front.contains n && !isOrigin n).filter
      fun m => !seen.contains m
    if more.isEmpty then here else here ++ originsOf units nodes fuel (seen ++ more) more

/-- Whether a dyadic node's tokens all come from one `strm` node, or all from the entry record (R358, item 4). -/
def oneSource (units : AL UId HwUnit) (nodes : List GNode) (n : GNode) : Bool :=
  let front := nodes.filter fun m => (succs units m).contains n
  let l := originsOf units nodes (nodes.length + 1) front front
  let streams := l.filter fun m => bits (wordOf units m) 31 24 == 0x9B
  streams.isEmpty || (streams.length == l.length && streams.all fun m => some m == streams.head?)

/-- The opcodes that no stream-form region holds: `talloc`, `falloc`, `call`, `fcomp`, `cut`, the task instructions but
`jarrive`, and the remote and Culvert instructions (R358, items 2 and 3). -/
def freeFormOp (op : Nat) : Bool :=
  [0x70, 0x72, 0x74, 0x65].contains op || (decide (0xE5 ≤ op) && decide (op ≤ 0xF5) && op != 0xEF)

/-- Whether a region meets the conditions of R358 for stream form. -/
def streamGraph (c : Code) (d : Nat) : Bool :=
  let units := unitsOf c d
  let nodes := nodesOf c d
  acyclic units nodes.length nodes && (nodes.all fun n => !freeFormOp (bits (wordOf units n) 31 24))
    && nodes.all fun n => !isDyadic (wordOf units n) || oneSource units nodes n

/-- The regions that the `call` nodes of a region name, the region itself for 0 (R209). -/
def callees (c : Code) (r : Nat) : List Nat :=
  let d := Obj.line c r
  let units := unitsOf c d
  ((nodesOf c d).filter fun n => bits (wordOf units n) 31 24 == 0x74).map fun n =>
    let k := bits (AL.get 0 (AL.get HwUnit.empty units n.1).lits 13).toNat 31 16
    if k = 0 then Obj.region d else k

/-- The callees of a region number in the objects given. -/
def calleesOf (cs : List Code) (num : Nat) : List Nat :=
  match cs.findSome? fun c => (Obj.findDir c num).map fun r => callees c r with
  | some l => l
  | none => []

/-- Whether calls lead from the given regions to a region number, in at most `fuel` steps. -/
def callsReach (cs : List Code) (num : Nat) : Nat → List Nat → Bool
  | 0, _ => false
  | fuel + 1, l => l.contains num || callsReach cs num fuel (l.flatMap (calleesOf cs)).eraseDups

/-- Whether a region in which a `call` can reach its own entry, directly or through other regions, is declared recursive
(R69, item 6). -/
def recursionOk (c : Code) (others : List Code) (r : Nat) : Bool :=
  let cs := c :: others
  Obj.depth (Obj.line c r) != 0
    || !callsReach cs (Obj.region (Obj.line c r)) ((cs.map Obj.nreg).foldl (· + ·) 0) (callees c r)

/-- Whether tiles of operand memory in one cluster overlap (R112). -/
def tilesOverlap (l : List (Nat × Nat × Nat)) : Bool :=
  l.any fun a => l.any fun b =>
    let t := tileOf 0 a.2.2
    let v := tileOf 0 b.2.2
    a.1 == b.1 && a.2.1 != b.2.1 && t.om && v.om && decide (t.base < v.base + v.lines) && decide (v.base < t.base + t.lines)

/-- The first refusal of a region by the checks that its code object alone decides (R166). DESIGN CHOICE: units are checked
in the order of their packets, then the region as a whole (log 39); `others` are the other objects of the context. -/
def regionFailure (c : Code) (others : List Code) (r : Nat) : Option LoadFailure :=
  let x := loadCtx c r
  match x.units.findSome? fun p => (unitStatus x p.1 p.2).map fun st => (⟨st.1, some p.1, st.2⟩ : LoadFailure) with
  | some f => some f
  | none =>
    if !spacesOk (Config.tagSpaces c.body r) || !Config.verified c.body r
        || !recursionOk c others r || tilesOverlap x.tiles
        || !(x.tiles.all fun t => tileOk t.2.2 (2 ^ 19)) then some ⟨0x0B, none, 0⟩
    else none

/-- Whether a directory line keeps Table 15-5 in an object of `n` lines, and its block lines Table 15-6. -/
def dirOk (c : Code) (n d : Nat) : Bool :=
  d / 2 ^ 320 == 0 && bits d 255 224 == 0 && bits d 95 80 == 0 && bits d 63 60 == 0 && !bitAt d 56 && bits d 47 45 == 0
    && bits d 13 0 == 0 && decide (Obj.depth d ≤ 4096) && decide (Obj.poff d + Obj.pcount d ≤ n)
    && decide (Obj.doff d + Obj.dcount d ≤ n)
    && (match packetBlocks c d with | some l => l.all fun b => b.kind == 3 | none => false)
    && (match dataBlocks c d with | some l => l.all fun b => b.kind != 3 | none => false)

/-- Whether an object of `n` lines keeps Tables 15-4 to 15-6. -/
def objectOk (c : Code) (n : Nat) : Bool :=
  let h := Obj.line c 0
  c.body.length == 64 * n && c.descs.length == n && bits h 7 0 == 0x3C && bits h 15 8 == 1 && h / 2 ^ 112 == 0
    && bits h 103 64 == n && Obj.nreg c != 0 && decide (Obj.nreg c + 1 ≤ n) && bits h 111 109 == 0
    && (List.range (Obj.nreg c)).all fun r => dirOk c n (Obj.line c (r + 1))

/-- The code objects of a context. -/
def codesOf (s : State) (cx : Nat) : List (Nat × Code) := List.filter (fun p => p.2.cx = cx) s.hg.codes

/-- The code object of a context with a number. -/
def codeNamed (s : State) (cx num : Nat) : Option (Nat × Code) :=
  List.find? (fun p => p.2.cx = cx && Obj.code p.2 = num) s.hg.codes

/-- Whether the signature of a region's directory line is that of its packet area (R400). -/
def sigOk (c : Code) (r : Nat) : Bool :=
  let d := Obj.line c r
  Obj.sig d == sha3 ((c.body.drop (64 * Obj.poff d)).take (64 * Obj.pcount d)) % 2 ^ 64

/-- The first refusal of R166 over the regions of an object. -/
def objectFailure (s : State) (cx : Nat) (c : Code) : Option LoadFailure :=
  (List.range (Obj.nreg c)).findSome? fun r => regionFailure c ((codesOf s cx).map (·.2)) (r + 1)

/-- The code-object status of an object of `n` lines, before its heap data is written (R403, Table 15-7). -/
def objectStatus (s : State) (cx : Nat) (c : Code) (n : Nat) : Nat :=
  if !objectOk c n then 0x50
  else if Obj.mmrev c ≠ 1 then 0x51
  else if (codeNamed s cx (Obj.code c)).isSome then 0x52
  else if 4096 ≤ (codesOf s cx).length then 0x53
  else
    match objectFailure s cx c with
    | some f => f.status
    | none => if (List.range (Obj.nreg c)).all fun r => sigOk c (r + 1) then 0 else 0x55

end Sys2Proof.Machine
end

