-- ==== Sys2Proof/Machine/MemPort.lean ====
section
/-! DEFINITION. Memory ports: how an access is issued, performed, held and side-logged (R212 to R237), and the meanings of
opcodes 0x80 to 0x9B. -/

namespace Sys2Proof.Machine

open Sys2Proof

/-- Atomic operations, Table 08-4; `cas` has its expected value on the extension's right side. -/
inductive AtomOp where
  | add | and | or | xor | min | max | swap | cas | fadd
deriving DecidableEq, Repr

/-- What an access does (Table 08-2): `x` is modifier bit 3. -/
inductive MemKind where
  | load (n : Nat) (x : Bool)
  | store (n : Nat)
  | loadAcq (w : Bool)
  | storeRel (w : Bool)
  | loadLine | storeLine | storeMasked | loadDesc | storeDesc | prefetch
  | atom (o : AtomOp) (w : Bool)
  | stream
deriving DecidableEq, Repr

/-- An access with its node's fields. -/
structure MemForm where
  op : Nat
  n : Nd
  scope : Scope
  kind : MemKind
deriving DecidableEq, Repr

/-- The access a memory-port instruction makes; fences make none. -/
def memForm : Instr → Option MemForm
  | .ldB n x s => some ⟨0x80, n, s, .load 1 x⟩
  | .ldH n x s => some ⟨0x81, n, s, .load 2 x⟩
  | .ldW n x s => some ⟨0x82, n, s, .load 4 x⟩
  | .ldD n p s => some ⟨0x83, n, s, .load 8 p⟩
  | .stB n s => some ⟨0x84, n, s, .store 1⟩
  | .stH n s => some ⟨0x85, n, s, .store 2⟩
  | .stW n s => some ⟨0x86, n, s, .store 4⟩
  | .stD n s => some ⟨0x87, n, s, .store 8⟩
  | .ldAcq n w s => some ⟨0x88, n, s, .loadAcq w⟩
  | .stRel n w s => some ⟨0x89, n, s, .storeRel w⟩
  | .ldl n s => some ⟨0x8A, n, s, .loadLine⟩
  | .stl n s => some ⟨0x8B, n, s, .storeLine⟩
  | .stlm n s => some ⟨0x8C, n, s, .storeMasked⟩
  | .ldd n s => some ⟨0x8D, n, s, .loadDesc⟩
  | .std n s => some ⟨0x8E, n, s, .storeDesc⟩
  | .pf n => some ⟨0x8F, n, .elem, .prefetch⟩
  | .aadd n w s => some ⟨0x90, n, s, .atom .add w⟩
  | .aand n w s => some ⟨0x91, n, s, .atom .and w⟩
  | .aor n w s => some ⟨0x92, n, s, .atom .or w⟩
  | .axor n w s => some ⟨0x93, n, s, .atom .xor w⟩
  | .amin n w s => some ⟨0x94, n, s, .atom .min w⟩
  | .amax n w s => some ⟨0x95, n, s, .atom .max w⟩
  | .aswp n w s => some ⟨0x96, n, s, .atom .swap w⟩
  | .acas n w s => some ⟨0x97, n, s, .atom .cas w⟩
  | .afadd n w s => some ⟨0x98, n, s, .atom .fadd w⟩
  | .strm n s => some ⟨0x9B, n, s, .stream⟩
  | _ => none

/-- Bytes an access covers, which are its alignment (Table 04-11); a prefetch has none (R226). -/
def MemKind.size : MemKind → Nat
  | .load n _ | .store n => n
  | .loadAcq w | .storeRel w | .atom _ w => if w then 4 else 8
  | .loadLine | .storeLine | .storeMasked | .loadDesc | .storeDesc | .stream => 64
  | .prefetch => 1

/-- Whether an access needs the right to read. -/
def MemKind.reads : MemKind → Bool
  | .store _ | .storeRel _ | .storeLine | .storeMasked | .storeDesc => false
  | _ => true

/-- Whether an access needs the right to write. -/
def MemKind.writes : MemKind → Bool
  | .store _ | .storeRel _ | .storeLine | .storeMasked | .storeDesc | .atom _ _ => true
  | _ => false

/-- Whether an access that page-faults goes to the side log: stores, and atomics whose destination 0 is 15 (R227, R234). -/
def MemForm.sideLogged (m : MemForm) : Bool :=
  match m.kind with
  | .store _ | .storeRel _ | .storeLine | .storeMasked | .storeDesc => true
  | .atom _ _ => m.n.d == .none
  | _ => false

/-- Types of operand B an atomic accepts (Table 08-4, R228). -/
def AtomOp.types (o : AtomOp) (w : Bool) : List TType :=
  match o with
  | .swap | .cas => if w then [.i32, .f32] else allTypes
  | .fadd => if w then [.f32] else [.bf16x4]
  | _ => if w then [.i32] else [.i64, .u64]

/-- A line operand: a line token, or the zero line of select 2 (R177). -/
def asLine (o : Opd) : Res Payload :=
  match o.pay with
  | .line d e t => .ok (.line d e t)
  | .scal _ => if o.zero then .ok (.line 0 0 none) else flt .type

/-- Operand B of an access, checked for type and scaled bit (R220, R223, R225, R227). -/
def memOperand (k : MemKind) (b : Opd) : Res Payload :=
  match k with
  | .store _ | .storeRel _ => do return .scal (← scalarU b allTypes)
  | .storeLine | .storeMasked => asLine b
  | .storeDesc => do return .scal (← scalarU b [.i64])
  | .atom o w => do return .scal (← scalarU b (o.types w))
  | _ => .ok (plain 0 .i64)

/-- An ordering input must be a marker (R127). -/
def orderOk (o : Option Payload) : Res Unit :=
  match o with
  | none => .ok ()
  | some (.scal x) => need (x.ty == .marker) .type
  | some (.line _ _ _) => flt .type

/-- The expected value of `acas`: of B's type, class U (R229). -/
def expectedOk (k : MemKind) (b : Payload) (x : Option Payload) : Res Unit :=
  match k, b, x with
  | .atom .cas _, .scal y, some (.scal z) => do
    need (z.ty == y.ty) .type
    need (!z.sc) .scaleMismatch
  | .atom .cas _, _, _ => flt .type
  | _, _, _ => .ok ()

/-- Entries of an access queue that streams take: one for each line whose read has issued and that is not sent (R233). -/
def aheadUsed (h : HwUnit) : Nat := (h.streams.map fun p => p.2.ahead.length).foldl (· + ·) 0

/-- Whether an access queue of 64 entries has one that is free (R215). -/
def accessRoom (h : HwUnit) : Bool := h.access.length + aheadUsed h < 64

/-- Whether a stream context of a port may read one more line: the contexts hold at most 48 entries (R233). -/
def streamRoom (h : HwUnit) : Bool := accessRoom h && aheadUsed h < 48

/-- Issue an access: checks 1 to 4 of Table 08-1, a prefetch only the first two (R226), then an entry of the access queue
with the operands it read (R214, R215). An acquire load drops the read buffers (R136), and an atomic makes its interval
irrevocable (R252). DESIGN CHOICE (log 59): within step 1 operand B and its scaled bit come first, then the ordering input,
the expected value, and the scaled bit of A; a prefetch, which raises no fault but the address fault, raises those of step 1
too, without which it has no address. -/
def issueAccess (s : State) (c : Cur) (m : MemForm) (i : Instr) : Res State := do
  let (a, s) ← readSrc s c m.n.a
  let (b, s) ← readSrc s c m.n.b
  let x ← asScalar a [.u64, .i64]
  let y ← memOperand m.kind b
  orderOk c.f.o
  expectedOk m.kind y c.f.x
  clearOf x
  if m.kind = .prefetch then need (formOf s c.u.cl x.val.toNat).isSome .address 0 x.val.toNat
  else (checkPointer s c.u c.f.rid x.val.toNat m.kind.size m.kind.size).map fun _ => ()
  needWait (accessRoom (s.unit c.u))
  let s := if m.kind matches .loadAcq _ then dropBuffers s c.u.cl else s
  let s := if m.kind matches .atom _ _ then makeIrrevocable s c.f.rid else s
  let (id, s) := s.fresh
  let e : Access := ⟨id, i, { c.f with l := some (.scal x), r := some y }, .queued, none, none, false, 0⟩
  return s.modUnit c.u fun h => { h with access := h.access ++ [e] }

/-! ### Performing an access -/

/-- The operands an access carries as numbers: B's value, its type, and the expected value. -/
def accessB (a : Access) : Nat × TType :=
  match a.f.r with
  | some (.scal x) => (x.val.toNat, x.ty)
  | _ => (0, .i64)

/-- The line operand an access carries. -/
def accessLine (a : Access) : LineData × Desc :=
  match a.f.r with
  | some (.line d e _) => (d, e)
  | _ => (0, 0)

/-- The address an access carries. -/
def accessAddr (a : Access) : Nat := (a.f.l.getD (plain 0 .i64)).value.toNat

/-- Where an access's fault arises; a held or side-logged one gives its address alone (R349). -/
def accessSite (u : UId) (a : Access) (op : Nat) (heldOne : Bool) : FaultSite :=
  let code := fun (p : Option Payload) => match p with | some (.scal x) => x.ty.code | _ => 0
  ⟨some u, u.cl, a.f.slot, a.f.rid, op, a.f.tag, BitVec.ofNat 64 (accessAddr a), code a.f.l,
    if heldOne then 0 else (a.f.r.getD (plain 0 .i64)).value, if heldOne then 0 else code a.f.r, none, 0⟩

/-- Take an access out of its queue. -/
def dropAccess (s : State) (u : UId) (id : Nat) : State :=
  s.modUnit u fun h => { h with access := h.access.filter (·.id != id) }

/-- Change an access in its queue. -/
def setAccess (s : State) (u : UId) (a : Access) : State :=
  s.modUnit u fun h => { h with access := h.access.map fun b => if b.id = a.id then a else b }

/-- The type and value of a scalar load (Table 08-3). -/
def loadToken (k : MemKind) (fmt v : Nat) : Payload :=
  let word := fun (v : Nat) => plain (BitVec.ofNat 64 v) (if fmt = 0x04 then .f32 else .i32)
  let wide := fun (v : Nat) => plain (BitVec.ofNat 64 v) (match fmt with
    | 0x01 => .i8x8 | 0x02 => .i16x4 | 0x05 => .bf16x4 | 0x07 => .e4x8 | 0x08 => .e5x8 | 0x09 => .qn4x16 | 0x10 => .qn4x16
    | _ => .i64)
  match k with
  | .load 8 p => if p then plain (BitVec.ofNat 64 v) .u64 else wide v
  | .load 4 x => if x then plain (BitVec.ofNat 64 (truncInt 64 (toSigned 32 v))) .i64 else word v
  | .load n x => plain (BitVec.ofNat 64 (if x then truncInt 64 (toSigned (8 * n) v) else v)) .i64
  | .loadAcq w => if w then word v else wide v
  | _ => plain (BitVec.ofNat 64 v) .i64

/-- An ordering token (R127). -/
def marker (scope : Nat) (logged : Bool) : Payload := plain (markerWord scope logged) .marker

/-- The scope a plain load or store certifies, by where it lands (R130, R133, R134). -/
def certified (t : Target) (sc : Scope) (store : Bool) : Nat :=
  if t.pool then (if store then 4 else sc.code.toNat)
  else match t.kind with
    | .so => 4
    | .un => if store then 1 else sc.code.toNat
    | .rc => sc.code.toNat

/-- Send an access's data and ordering tokens (Table 08-2). -/
def sendLoad (s : State) (u : UId) (a : Access) (m : MemForm) (p : Payload) (mk : Payload) : Res State :=
  finishPair s ⟨u, a.f⟩ m.n (a.f.r.getD (plain 0 .i64)) (some p) (some mk)

/-- Send a store's ordering token on both destinations (Table 08-2). -/
def sendStore (s : State) (u : UId) (a : Access) (m : MemForm) (mk : Payload) : Res State :=
  finish s ⟨u, a.f⟩ m.n (a.f.r.getD (plain 0 .i64)) mk

/-- The error that a poisoned line raises (R355, R356). -/
def poisonFault (t : Target) (v : Nat) : Flt :=
  if t.pool then ⟨.poolError, t.off / 64 * 64, v⟩ else ⟨.memError, t.phys / 64 * 64, v⟩

/-- Demand that a line is not poisoned (R355, R356). -/
def needClean (s : State) (t : Target) (v : Nat) : Res Unit :=
  if s.poison.contains t.line then .error (.fault (poisonFault t v)) else .ok ()

/-- Put a line into a port's read buffer of 8, the oldest leaving (R135); what an interval log holds is no part of it
(R146, R148). -/
def bufferLine (s : State) (u : UId) (t : Target) (rid : Nat) : State :=
  let lt := t.lineTarget
  let d := BitVec.ofNat 512 (readUnder s rid lt (heldCells s .cluster u.cl lt.line) 64)
  let e : RbLine := ⟨lt.key, d, heldDesc s .cluster u.cl lt.line, s.clock⟩
  s.modUnit u fun h =>
    let l := h.readBuf.filter (·.key != lt.key)
    { h with readBuf := (if 8 ≤ l.length then l.drop 1 else l) ++ [e] }

/-- A read buffer after its own port's store is accepted: the line takes in the bytes (R135). -/
def RbLine.take (e : RbLine) (cells : List Host.Cell) (desc : Option Desc) : RbLine :=
  let v := (List.range 64).foldr (fun i acc =>
    (overlay cells (e.key + i) (e.data.extractLsb' (8 * i) 8)).toNat + 256 * acc) 0
  { e with data := BitVec.ofNat 512 v, desc := desc.getD e.desc }

/-- The read buffers of a cluster when a port's store or atomic to a line is accepted or performed (R135). -/
def buffersOnStore (s : State) (u : UId) (line : Nat) (cells : List Host.Cell) (desc : Option Desc) : State :=
  { s with units := s.units.map fun p =>
      if p.1.cl = u.cl ∧ p.1.kind = .mp then
        (p.1, { p.2 with readBuf :=
          if p.1 = u then p.2.readBuf.map fun e => if e.key = line then e.take cells desc else e
          else p.2.readBuf.filter (·.key != line) })
      else p }

/-- Drain the stores to a line that the other clusters hold: they were accepted before the access that is performed now,
and are not performed after it (R124, R131; log 44). -/
def drainOthers (s : State) (cl line : Nat) : State := drainLine s line fun c _ => c != cl

/-- Drain the stores to a line that a cluster has accepted, for an agent that is none of its memory ports (R129, R132). -/
def drainOwn (s : State) (cl line : Nat) : State := drainLine s line fun c _ => c == cl

/-- Drain the RC stores to a line that a cluster has accepted, and what it accepted before them, for an acquire load of
the cluster: it reads the line's point of visibility and the UN stores that are held still (R131, R132, R136). -/
def drainAccepted (s : State) (cl line : Nat) : State :=
  let q := (s.cluster cl).writeQ
  drainLine s line fun c e => c == cl && q.any fun d => d.line == line && !d.un && decide (e.id ≤ d.id)

/-- Perform a checked store: into the interval log, at once, or by way of the write queue (R129, R130, R134, R146). One
whose token cannot be sent is not accepted (R13). DESIGN CHOICE (log 45): the granules of a masked line store, each atomic by
itself (Table 04-11), become visible together. -/
def storeCells (s : State) (u : UId) (a : Access) (m : MemForm) (t : Target) (cells : List Host.Cell)
    (desc : Option Desc) (rule : Admit) : Res State := do
  let rid := a.f.rid
  let enc := t.enc (keysOf s rid)
  let so := !t.pool && t.kind == .so
  let full := logging s rid && ilogRoom s u.cl == 0
  needWait (!(full && logMigrates s rid))
  let s := if so || full then makeIrrevocable s rid else s
  if logging s rid then do
    let e : LogStore :=
      ⟨rid, cells, t.line, desc, enc, m.scope, rule, accessSite u a m.op false, pagedAt s rid t (accessAddr a)⟩
    let s := s.modCluster u.cl fun c => { c with ilog := c.ilog ++ [e] }
    sendStore (dropAccess s u a.id) u a m (marker 0 true)
  else if t.pool || so then
    let s := buffersOnStore (visibleWrite s t.line cells desc enc) u t.line cells desc
    sendStore (dropAccess s u a.id) u a m (marker (certified t m.scope true) false)
  else do
    let un := t.kind == .un && !(m.kind matches .storeRel _)
    let _ ← sendStore s u a m (marker m.scope.code.toNat false)
    let (id, s) := s.fresh
    let h : HeldStore := ⟨id, rid, cells, t.line, desc, un, enc, u, a.id, s.clock⟩
    let s := s.modCluster u.cl fun c => { c with writeQ := c.writeQ ++ [h] }
    let s := buffersOnStore s u t.line cells desc
    if un then sendStore (dropAccess s u a.id) u a m (marker 1 false)
    else
      let s := setAccess s u { a with st := .accepted, aux := id, woken := false }
      if m.scope.code.toNat ≤ 1 then sendStore s u a m (marker m.scope.code.toNat false) else return s

/-- The state without a store that was accepted and has not landed. -/
def dropHeldStore (s : State) (u : UId) (id : Nat) : State :=
  match (s.cluster u.cl).writeQ.find? (·.id = id) with
  | some h => dropLine (s.modCluster u.cl fun c => { c with writeQ := c.writeQ.filter (·.id != id) }) u.cl h.line
  | none => s

/-- A store that was accepted reaches its pseudo-channel (R129); at a wide scope its token leaves now (R130). -/
def storeArrives (s : State) (u : UId) (a : Access) (m : MemForm) : Res State :=
  let s := match (s.cluster u.cl).writeQ.find? (·.id = a.aux) with
    | some h => drainStore s h
    | none => s
  let s := dropAccess s u a.id
  if m.scope.code.toNat ≤ 1 then .ok s else sendStore s u a m (marker m.scope.code.toNat false)

/-- The value an atomic writes (Table 08-4): `old`, operand and expected value as bit patterns of `w` bits. -/
def atomNew (o : AtomOp) (w : Nat) (ty : TType) (old b x : Nat) : Nat :=
  let less := if ty = .u64 then decide (old < b) else decide (toSigned w old < toSigned w b)
  match o with
  | .add => (old + b) % 2 ^ w
  | .and => old &&& b
  | .or => old ||| b
  | .xor => old ^^^ b
  | .min => if less then old else b
  | .max => if less then b else old
  | .swap => b
  | .cas => if old = x then b else old
  | .fadd =>
    let f := if w = 32 then LaneFmt.f32 else LaneFmt.bf16
    (lanes2 f .ne false (FV.add .ne) old b).toNat

/-- The granule mask of an `stlm`: byte (slot mod 8) of `lit14` (R224). -/
def granuleMask (s : State) (u : UId) (slot : Nat) : Nat :=
  let k := slot % 8
  bits (AL.get 0 (s.unit u).lits 14).toNat (8 * k + 7) (8 * k)

/-- The cells of the granules that a mask selects. -/
def maskedCells (line mask : Nat) (d : LineData) : List Host.Cell :=
  (List.range 8).flatMap fun g =>
    if bitAt mask g then cellsOf (line + 8 * g) 8 (d.extractLsb' (64 * g) 64).toNat else []

/-- A line load as `ldl` makes it: data and descriptor, the format fault of a reserved one (R222). -/
def lineAt (s : State) (v : View) (rid cl : Nat) (t : Target) (addr : Nat) : Res (LineData × Desc) := do
  needClean s t addr
  let d := readDesc s v rid cl t
  need (formatOk d.fmt) .format d.toNat addr
  return (BitVec.ofNat 512 (readTarget s v rid cl t.lineTarget 64), d)

/-- What a plain load may return instead of memory: a buffered line of an RC or UN page, fetched less than 256 clocks ago
(R135). -/
def buffered (s : State) (u : UId) (t : Target) : Option RbLine :=
  if t.pool || t.kind == .so then none
  else (s.unit u).readBuf.find? fun e => e.key = t.line && decide (s.clock < e.since + 256)

/-- The `n` bytes of a target that a buffered line holds, with what the region's own log changes in them (R135, R146). -/
def readBuffered (s : State) (rid cl : Nat) (e : RbLine) (t : Target) (n : Nat) : Nat :=
  let ov := (logStores s rid cl t.line).flatMap (·.bytes)
  (List.range n).foldr (fun i acc =>
    (overlay ov (t.key + i) (e.data.extractLsb' (8 * (t.key - t.line + i)) 8)).toNat + 256 * acc) 0

/-- A plain load: from a buffered line where one is there and the device so chooses, else from memory, buffering the
line (R134, R135). -/
def plainLoad (s : State) (u : UId) (a : Access) (t : Target) (n : Nat) : Nat × Desc × State :=
  match buffered s u t with
  | some e =>
    let (k, s1) := s.free
    if Config.useBuffer k then (readBuffered s1 a.f.rid u.cl e t n, logDesc s1 a.f.rid u.cl t.line e.desc, s1)
    else (readTarget s1 .cluster a.f.rid u.cl t n, readDesc s1 .cluster a.f.rid u.cl t, s1)
  | none =>
    let v := readTarget s .cluster a.f.rid u.cl t n
    let d := readDesc s .cluster a.f.rid u.cl t
    (v, d, if t.pool || t.kind == .so then s else bufferLine s u t a.f.rid)

/-- Perform an access at its target: checks 6 to 9 of Table 08-1, then its effect and its tokens. A prefetch of a pool or
SO line does nothing (R226). DEDUCED (log 46): a pool atomic's token certifies system scope, as a pool store's does
(R133). -/
def accessAt (s : State) (u : UId) (a : Access) (m : MemForm) (t : Target) : Res State := do
  let v := accessAddr a
  let rid := a.f.rid
  checkRights s rid t m.kind.reads m.kind.writes v
  let so := !t.pool && t.kind == .so
  need (!(so || m.kind matches .storeRel _) || a.f.o.isSome) .order 0 v
  needWait (!(so && m.kind != .prefetch && logging s rid && logMigrates s rid))
  let s := if so && m.kind != .prefetch then makeIrrevocable s rid else s
  let s := if m.kind.writes then drainOthers s u.cl t.line else s
  match m.kind with
  | .load n _ =>
    needClean s t v
    let (x, d, s) := plainLoad s u a t n
    need (formatOk d.fmt) .format d.toNat v
    sendLoad (dropAccess s u a.id) u a m (loadToken m.kind d.fmt x) (marker (certified t m.scope false) false)
  | .loadAcq w =>
    needClean s t v
    let s := drainAccepted (dropBuffers s u.cl) u.cl t.line
    let x := readTarget s .cluster rid u.cl t (if w then 4 else 8)
    let d := readDesc s .cluster rid u.cl t
    need (formatOk d.fmt) .format d.toNat v
    sendLoad (dropAccess s u a.id) u a m (loadToken m.kind d.fmt x) (marker (certified t m.scope false) false)
  | .loadLine =>
    needClean s t v
    let (x, d, s) := plainLoad s u a t 64
    need (formatOk d.fmt) .format d.toNat v
    sendLoad (dropAccess s u a.id) u a m (.line (BitVec.ofNat 512 x) d none) (marker (certified t m.scope false) false)
  | .loadDesc =>
    needClean s t v
    let (_, d, s) := plainLoad s u a t 64
    need (formatOk d.fmt) .format d.toNat v
    sendLoad (dropAccess s u a.id) u a m (plain (BitVec.ofNat 64 d.toNat) .i64) (marker (certified t m.scope false) false)
  | .store n =>
    let (b, ty) := accessB a
    needClean s t v
    let d := readDesc s .cluster rid u.cl t
    need (formatOk d.fmt && formatAdmits d.fmt (declared ty)) .format d.toNat v
    storeCells s u a m t (cellsOf t.key n b) none (.scalar (declared ty))
  | .storeRel w =>
    let (b, ty) := accessB a
    needClean s t v
    let d := readDesc s .cluster rid u.cl t
    need (formatOk d.fmt && formatAdmits d.fmt (declared ty)) .format d.toNat v
    storeCells s u a m t (cellsOf t.key (if w then 4 else 8) b) none (.scalar (declared ty))
  | .storeLine =>
    let (x, e) := accessLine a
    need (formatOk e.fmt) .format e.toNat v
    storeCells s u a m t (cellsOf t.key 64 x.toNat) (some e) .any
  | .storeMasked =>
    let (x, e) := accessLine a
    need (formatOk e.fmt) .format e.toNat v
    let mask := granuleMask s u a.f.slot
    if mask = 0xFF then storeCells s u a m t (cellsOf t.key 64 x.toNat) (some e) .any
    else
      needClean s t v
      let d := readDesc s .cluster rid u.cl t
      need (d.fmt == 0x00 || d == e) .format d.toNat v
      storeCells s u a m t (maskedCells t.key mask x) none (.masked e)
  | .storeDesc =>
    let (b, _) := accessB a
    need (b / 2 ^ 16 == 0 && formatOk (b / 256 % 256)) .format (b % 2 ^ 16) v
    storeCells s u a m t [] (some (BitVec.ofNat 16 b)) .any
  | .atom o w =>
    let (b, ty) := accessB a
    let n := if w then 4 else 8
    let s := drainLine (makeIrrevocable s rid) t.line fun _ _ => true
    needClean s t v
    let d := readDesc s .outside rid u.cl t
    need (formatOk d.fmt && formatAdmits d.fmt (declared ty)) .format d.toNat v
    let old := readTarget s .outside rid u.cl t n
    let x := (a.f.x.getD (plain 0 .i64)).clean.value.toNat % 2 ^ (8 * n)
    let new := atomNew o (8 * n) ty old (b % 2 ^ (8 * n)) x
    let cells := cellsOf t.key n new
    let s := buffersOnStore (visibleWrite s t.line cells none (t.enc (keysOf s rid))) u t.line cells none
    sendLoad (dropAccess s u a.id) u a m (plain (BitVec.ofNat 64 old) ty).clean (marker (if t.pool || so then 4 else m.scope.code.toNat) false)
  | .prefetch =>
    let s := if t.pool || so then s else bufferLine s u t rid
    sendStore (dropAccess s u a.id) u a m (marker 0 false)
  | .stream => .ok s

/-! ### Faults of an access, holding and the side log -/

/-- A prefetch raises none of these: it is dropped and its token leaves (R226). -/
def quietPrefetch (s : State) (u : UId) (a : Access) (m : MemForm) : State :=
  let s := dropAccess s u a.id
  match sendStore s u a m (marker 0 false) with
  | .ok t => t
  | .error _ => s

/-- Whether the entry at which a page fault arose is a leaf's: one of the last level, or a valid one that is not resident
(R338, R340). -/
def leafEntry (s : State) (rid level pte : Nat) : Bool := level == 3 || bitAt (physRead s (keysOf s rid) pte 8) 63

/-- Write the handled record of a page fault, unless it arose at a leaf line that already has one and no later write
(R345). -/
def pageRecord (s : State) (w : FaultSite) (level pte line addr : Nat) : State :=
  if s.pageRecs.contains line && leafEntry s w.rid level pte then s
  else takeFault { s with pageRecs := line :: s.pageRecs.filter (· != line) } w ⟨.page, pageDetail level pte, addr⟩

/-- The side-log entry of an access, Table 08-6 (R235). -/
def sideWord (s : State) (u : UId) (a : Access) (m : MemForm) : BitVec 640 :=
  let (b, ty) := accessB a
  let (d, e) := accessLine a
  let lineOp := m.kind == .storeLine || m.kind == .storeMasked
  let gmask := if m.kind = .storeLine then 0xFF else if m.kind = .storeMasked then granuleMask s u a.f.slot else 0
  let desc := if lineOp then e.toNat else if m.kind = .storeDesc then b % 2 ^ 16 else declared ty * 256
  let data := if lineOp then d.toNat
    else b + (if m.kind matches .atom .cas _ then (a.f.x.getD (plain 0 .i64)).value.toNat * 2 ^ 64 else 0)
  BitVec.ofNat 640 (m.op * 2 ^ 632 + a.f.slot % 16 * 2 ^ 628 + m.scope.code.toNat * 2 ^ 625 + 2 ^ 624 + gmask * 2 ^ 616
    + desc * 2 ^ 600 + a.f.tag.toNat * 2 ^ 576 + accessAddr a % 2 ^ 52 * 2 ^ 512 + data % 2 ^ 512)

/-- An access whose page is absent: a prefetch is dropped, a store kind retires into the side log or waits for room
there, everything else is held (R234, R237, R345). -/
def accessPageFault (s : State) (u : UId) (a : Access) (m : MemForm) (level pte line : Nat) : State :=
  let record := fun s => pageRecord s (accessSite u a m.op true) level pte line (accessAddr a)
  if m.kind = .prefetch then quietPrefetch s u a m
  else if m.sideLogged && !(s.region a.f.rid).logged then
    if (s.unit u).sideLog.length < 256 then
      let e : SideEntry := ⟨sideWord s u a m, a.i, a.f, line, false⟩
      record ((dropAccess s u a.id).modUnit u fun h => { h with sideLog := h.sideLog ++ [e] })
    else record (setAccess s u { a with st := .sideWait, wline := some line, woken := false })
  else record (setAccess s u { a with st := .held, wline := some line, woken := false, aux := 1 })

/-- Whether an access to an SO page passes checks 6 to 8 of Table 08-1, with which it issues as an irrevocable operation
(R252), and no store of its interval waits for a page that migrates. -/
def soIssues (s : State) (a : Access) (m : MemForm) (t : Target) : Bool :=
  !t.pool && t.kind == .so && m.kind != .prefetch && a.f.o.isSome && !logMigrates s a.f.rid
    && (checkRights s a.f.rid t m.kind.reads m.kind.writes (accessAddr a)).isOk

/-- Perform an access with what translation found. -/
def accessFound (s : State) (u : UId) (a : Access) (m : MemForm) (f : Found) : State :=
  match f with
  | .walk => setAccess s u { a with st := .walking, wline := none, woken := false }
  | .page level pte line => accessPageFault s u a m level pte line
  | .migr line =>
    if m.kind = .prefetch then quietPrefetch s u a m
    else setAccess s u { a with st := .migrating, wline := some line, woken := false }
  | .no e =>
    if m.kind = .prefetch then quietPrefetch s u a m
    else takeFault (dropAccess s u a.id) (accessSite u a m.op (a.aux == 1)) e
  | .at t =>
    let s := if (m.kind matches .atom _ _) || soIssues s a m t then makeIrrevocable s a.f.rid else s
    match accessAt s u a m t with
    | .ok s => s
    | .error (.fault e) =>
      if m.kind = .prefetch then quietPrefetch s u a m
      else faultOrRollback (dropAccess s u a.id) (accessSite u a m.op (a.aux == 1)) e
    | .error .wait => s

/-- Where an access's pointer leads now. -/
def accessTarget (s : State) (u : UId) (a : Access) (m : MemForm) : Found :=
  let v := accessAddr a
  match formOf s u.cl v with
  | none => .no ⟨.address, 0, v⟩
  | some g => findTarget s u a.f.rid (if m.kind = .prefetch then 0 else m.kind.size) v g

/-- The next step of an access that may be performed (R129, R215): its store arrives, or it is translated and performed. -/
def performMem (s : State) (u : UId) (a : Access) (m : MemForm) : State :=
  if a.st = .accepted then
    match storeArrives s u a m with
    | .ok s => s
    | .error (.fault e) => takeFault (dropHeldStore (dropAccess s u a.id) u a.aux) (accessSite u a m.op false) e
    | .error .wait => s
  else accessFound (touchTlb s u a.f.rid (accessAddr a)) u a m (accessTarget s u a m)

/-! ### Streams -/

namespace StreamDesc
/-- format -/
def format (d : LineData) : Nat := bits d.toNat 271 264
/-- arcs that receive each line -/
def mask (d : LineData) : Nat := bits d.toNat 263 256
/-- byte stride between outer steps -/
def ostride (d : LineData) : Int := toSigned 64 (bits d.toNat 255 192)
/-- byte stride between lines -/
def istride (d : LineData) : Int := toSigned 64 (bits d.toNat 191 128)
/-- outer count -/
def outer (d : LineData) : Nat := bits d.toNat 95 80
/-- inner count -/
def inner (d : LineData) : Nat := bits d.toNat 79 64
/-- pointer to the first line -/
def base (d : LineData) : Nat := bits d.toNat 63 0
end StreamDesc

/-- Whether an arc entry is valid and takes line tokens: none goes to an element or a frame slot (R217). DEDUCED (log 47):
R217 refuses such an arc at configuration load, but a stream's mask is read from memory; one there counts as invalid. -/
def lineArc (w : BitVec 32) : Bool := Arc.valid w && Arc.kind w != 0 && Arc.kind w != 6

/-- Whether a stream descriptor keeps Table 08-5 (R232). -/
def streamOk (s : State) (u : UId) (d : LineData) : Bool :=
  bits d.toNat 511 272 == 0 && bits d.toNat 127 96 == 0 && StreamDesc.outer d != 0 && StreamDesc.inner d != 0
    && StreamDesc.ostride d % 64 == 0 && StreamDesc.istride d % 64 == 0 && StreamDesc.base d % 64 == 0
    && formatOk (StreamDesc.format d)
    && (List.range 8).all fun k => !bitAt (StreamDesc.mask d) k || lineArc (AL.get 0 (s.unit u).arcs k)

/-- The pointer of the line at (j, i) (R232). -/
def streamPtr (d : LineData) (j i : Nat) : Nat :=
  truncInt 64 ((StreamDesc.base d : Int) + j * StreamDesc.ostride d + i * StreamDesc.istride d)

/-- The position `n` lines after (j, i) in the loops of R232; all lines are done at j = outer. -/
def streamAt (d : LineData) (j i n : Nat) : Nat × Nat :=
  let k := j * StreamDesc.inner d + i + n
  (k / StreamDesc.inner d, k % StreamDesc.inner d)

/-- Whether a stream has a line whose read has not issued. -/
def Stream.more (x : Stream) : Bool := (streamAt x.desc x.jpos x.ipos x.ahead.length).1 < StreamDesc.outer x.desc

/-- Whether a stream has sent all its lines. -/
def Stream.sentAll (x : Stream) : Bool := StreamDesc.outer x.desc ≤ x.jpos

/-- Whether the line that a stream sends next has been read. -/
def Stream.headRead (x : Stream) : Bool := match x.ahead with | some _ :: _ => true | _ => false

/-- The places, counted from the line that a stream sends next, of the lines whose reads have issued and are not complete. -/
def Stream.reading (x : Stream) : List Nat :=
  (List.range x.ahead.length).filter fun j => match x.ahead[j]? with | some none => true | _ => false

/-- The address of the line `j` places after the one that a stream sends next: its descriptor's before anything else
(R231). -/
def Stream.ptr (x : Stream) (j : Nat) : Nat :=
  if x.started then
    let p := streamAt x.desc x.jpos x.ipos j
    streamPtr x.desc p.1 p.2
  else (x.f.l.getD (plain 0 .i64)).value.toNat

/-- Whether every token a stream has sent so far has been accepted: none is on a link, in an ingress or held before a tile
(R303). -/
def streamClear (s : State) (u : UId) (x : Stream) : Bool :=
  let own := fun (f : Flit) => f.src == u && f.seq == x.f.seq
  !s.net.any own && !(s.units.any fun p => p.2.ingress.any own)
    && !(s.clusters.any fun p => p.2.wakeBuf.any own || p.2.tileIn.any fun q => own q.2)

/-- Detail of a stream fault: steps j and i (Table 13-5, 0x1F). -/
def streamDetail (j i : Nat) : Nat := j % 2 ^ 16 * 2 ^ 16 + i % 2 ^ 16

/-- Set or free a stream context, recording its position for a rollback (R361). -/
def setStream (s : State) (u : UId) (k : Nat) (x : Option Stream) : State :=
  let s := match AL.find? (s.unit u).streams k with
    | some old => logUndo s old.f.rid u.cl (.stream u k (some old))
    | none => s
  s.modUnit u fun h => { h with streams := match x with | some y => AL.set h.streams k y | none => AL.del h.streams k }

/-- Translate inline, walking the tables on a miss. -/
def findNow (s : State) (u : UId) (rid n v : Nat) : Found × State :=
  match formOf s u.cl v with
  | none => (.no ⟨.address, 0, v⟩, s)
  | some g =>
    match findTarget s u rid n v g with
    | .walk => match g with
      | .virt a => finishWalk s u rid a
      | .pool _ _ => (.walk, s)
    | f => (f, touchTlb s u rid v)

/-- An access as the read of a stream's line makes it, for the site of its fault. -/
def Stream.access (x : Stream) (j : Nat) : Access :=
  ⟨0, x.i, { x.f with l := some (plain (BitVec.ofNat 64 (x.ptr j)) .u64) }, .queued, none, none, false, 0⟩

/-- A line of a stream, with the checks of R214 and R232. -/
def streamRead (s : State) (u : UId) (x : Stream) (j : Nat) (t : Target) (v : Nat) : Res (LineData × Desc × State) := do
  checkRights s x.f.rid t true false v
  let so := !t.pool && t.kind == .so
  need (!so || x.f.o.isSome) .order 0 v
  needWait (!(so && logging s x.f.rid && logMigrates s x.f.rid))
  let s := if so then makeIrrevocable s x.f.rid else s
  needClean s t v
  let (w, d, s) := plainLoad s u (x.access j) t 64
  need (formatOk d.fmt) .format d.toNat v
  need (!x.started || StreamDesc.format x.desc == 0 || d.fmt == StreamDesc.format x.desc) .format d.toNat v
  return (BitVec.ofNat 512 w, d, s)

/-- Send a line of a stream on destination 0 and the arcs of its mask, each once (R232, R178). -/
def streamSend (s : State) (u : UId) (x : Stream) (m : MemForm) (d : LineData) (e : Desc) : Res State := do
  let c : Cur := ⟨u, x.f⟩
  let t ← tagOf s c m.n.t (plain 0 .i64)
  let p : Payload := .line d e none
  let s ← sendTo s c m.n.d p t
  (List.range 8).foldlM (fun s k =>
    let q : Dst := .arc (BitVec.ofNat 3 k)
    if bitAt (StreamDesc.mask x.desc) k && m.n.d != q then sendTo s c q p t else .ok s) s

/-- The context after a line is sent: the next position (R232). -/
def streamNext (x : Stream) : Stream :=
  let p := streamAt x.desc x.jpos x.ipos 1
  { x with jpos := p.1, ipos := p.2, ahead := x.ahead.drop 1 }

/-- Read a line of a stream (R231 to R234): it, or the state in which the stream has faulted and freed its context, is held
at the line, or waits. -/
def streamLoad (s : State) (u : UId) (k : Nat) (x : Stream) (j : Nat) (m : MemForm) :
    Except State (LineData × Desc × State) :=
  let v := x.ptr j
  let site := accessSite u (x.access j) m.op false
  let stop := fun (s : State) (f : Flt) => Except.error (takeFault (setStream s u k none) site f)
  match checkPointer s u x.f.rid v 64 64 with
  | .error (.fault f) => stop s f
  | .error .wait => .error s
  | .ok _ =>
    let (f, s1) := findNow s u x.f.rid 64 v
    match f with
    | .walk => .error s
    | .page level pte line =>
      .error (pageRecord (setStream s1 u k (some { x with wline := some line, held := true })) (accessSite u (x.access j) m.op true)
        level pte line v)
    | .migr line => .error (setStream s1 u k (some { x with wline := some line, held := false }))
    | .no e => stop s e
    | .at t =>
      let s1 := if soIssues s1 (x.access j) m t then makeIrrevocable s1 x.f.rid else s1
      match streamRead s1 u x j t v with
      | .error (.fault e) => .error (faultOrRollback (setStream s1 u k none) site e)
      | .error .wait => .error s
      | .ok r => .ok r

/-- Put the line of a read that is complete in its place. -/
def streamPut (s : State) (u : UId) (k : Nat) (x : Stream) (j : Nat) (d : LineData) (e : Desc) : State :=
  s.modUnit u fun h => { h with streams := AL.set h.streams k { x with ahead := x.ahead.set j (some (d, e)) } }

/-- Issue the read of a stream's next line: it takes an entry of the access queue (R233). -/
def streamIssue (s : State) (u : UId) (k : Nat) (x : Stream) : State :=
  s.modUnit u fun h => { h with streams := AL.set h.streams k { x with ahead := x.ahead ++ [none] } }

/-- Complete the read of the line that a stream sends next: what stops it stops the stream (R233). -/
def streamHead (s : State) (u : UId) (k : Nat) (x : Stream) (m : MemForm) : State :=
  match streamLoad s u k x 0 m with
  | .error t => t
  | .ok (d, e, t) => streamPut t u k x 0 d e

/-- Complete one of a stream's reads, whichever the device chooses (R125, R215, R233). What stops a line comes up when the
stream stands at it. -/
def streamAhead (s : State) (u : UId) (k : Nat) (x : Stream) (m : MemForm) : Option State :=
  let (n, s) := s.free
  match x.reading[Config.choose n % x.reading.length]? with
  | none => none
  | some 0 => some (streamHead s u k x m)
  | some j => match streamLoad s u k x j m with
    | .ok (d, e, t) => some (streamPut t u k x j d e)
    | .error _ => if x.headRead then none else some (streamHead s u k x m)

/-- Conclude a stream's sending: a fault stops it and frees its context. -/
def streamSent (s : State) (u : UId) (k : Nat) (x : Stream) (m : MemForm) (r : Res State) : State :=
  match r with
  | .ok t => t
  | .error (.fault e) => takeFault (setStream s u k none) (accessSite u (x.access 0) m.op false) e
  | .error .wait => s

/-- The first step of a stream: its descriptor, which must keep Table 08-5 (R231, R232). -/
def streamStart (s : State) (u : UId) (k : Nat) (x : Stream) (m : MemForm) : State :=
  match streamLoad s u k x 0 m with
  | .error t => t
  | .ok (d, _, t) =>
    if streamOk t u d then setStream t u k (some { x with desc := d, started := true })
    else takeFault (setStream t u k none) (accessSite u (x.access 0) m.op false) ⟨.stream, streamDetail 0 0, x.ptr 0⟩

/-- Whether a stream's completion token may leave: it has sent every line, and each has been accepted (R232, R303). -/
def streamDone (s : State) (u : UId) (x : Stream) : Bool := x.started && x.sentAll && streamClear s u x

/-- One step of a stream (R231 to R233, R303): the descriptor line first; then, once all that it sent has been accepted,
the next line, if it has been read, or after the last the completion token; else it issues the read of one more line, or one
of its reads completes, as the device chooses. -/
def streamStep (s : State) (u : UId) (k : Nat) (x : Stream) (m : MemForm) : Option State :=
  if !x.started then (if streamRoom (s.unit u) then some (streamStart s u k x m) else none)
  else if streamDone s u x then
    some (streamSent s u k x m (do
      let t ← tagOf s ⟨u, x.f⟩ m.n.t (plain 0 .i64)
      sendTo (setStream s u k none) ⟨u, x.f⟩ m.n.e (marker m.scope.code.toNat false) t))
  else match x.ahead, streamClear s u x with
    | some (d, e) :: _, true => some (streamSent s u k x m (do
        let s ← streamSend s u x m d e
        return setStream s u k (some (streamNext x))))
    | _, _ =>
      let (n, s) := s.free
      if x.more && streamRoom (s.unit u) && (x.reading.isEmpty || Config.choose n % 2 == 0) then some (streamIssue s u k x)
      else streamAhead s u k x m

/-! ### The instructions -/

/-- Run a memory-port node that makes an access. -/
def nodeMem (m : MemForm) (i : Instr) (st : State) : Answer :=
  runNode m.op m.n.a m.n.b st fun s c => issueAccess s c m i

/-- `ldB` (R219, Table 08-2). -/
def execLdB (n : Nd) (x : Bool) (sc : Scope) (st : State) : Answer := nodeMem ⟨0x80, n, sc, .load 1 x⟩ (.ldB n x sc) st

/-- `ldH` (R219, Table 08-2). -/
def execLdH (n : Nd) (x : Bool) (sc : Scope) (st : State) : Answer := nodeMem ⟨0x81, n, sc, .load 2 x⟩ (.ldH n x sc) st

/-- `ldW` (R219, Table 08-2). -/
def execLdW (n : Nd) (x : Bool) (sc : Scope) (st : State) : Answer := nodeMem ⟨0x82, n, sc, .load 4 x⟩ (.ldW n x sc) st

/-- `ldD` (R219, Table 08-2). -/
def execLdD (n : Nd) (p : Bool) (sc : Scope) (st : State) : Answer := nodeMem ⟨0x83, n, sc, .load 8 p⟩ (.ldD n p sc) st

/-- `stB` (R220, Table 08-2). -/
def execStB (n : Nd) (sc : Scope) (st : State) : Answer := nodeMem ⟨0x84, n, sc, .store 1⟩ (.stB n sc) st

/-- `stH` (R220, Table 08-2). -/
def execStH (n : Nd) (sc : Scope) (st : State) : Answer := nodeMem ⟨0x85, n, sc, .store 2⟩ (.stH n sc) st

/-- `stW` (R220, Table 08-2). -/
def execStW (n : Nd) (sc : Scope) (st : State) : Answer := nodeMem ⟨0x86, n, sc, .store 4⟩ (.stW n sc) st

/-- `stD` (R220, Table 08-2). -/
def execStD (n : Nd) (sc : Scope) (st : State) : Answer := nodeMem ⟨0x87, n, sc, .store 8⟩ (.stD n sc) st

/-- `ldAcq` (R221, R136, Table 08-2). -/
def execLdAcq (n : Nd) (w : Bool) (sc : Scope) (st : State) : Answer := nodeMem ⟨0x88, n, sc, .loadAcq w⟩ (.ldAcq n w sc) st

/-- `stRel` (R221, R136, Table 08-2). -/
def execStRel (n : Nd) (w : Bool) (sc : Scope) (st : State) : Answer := nodeMem ⟨0x89, n, sc, .storeRel w⟩ (.stRel n w sc) st

/-- `ldl` (R222, Table 08-2). -/
def execLdl (n : Nd) (sc : Scope) (st : State) : Answer := nodeMem ⟨0x8A, n, sc, .loadLine⟩ (.ldl n sc) st

/-- `stl` (R223, Table 08-2). -/
def execStl (n : Nd) (sc : Scope) (st : State) : Answer := nodeMem ⟨0x8B, n, sc, .storeLine⟩ (.stl n sc) st

/-- `stlm` (R224, Table 08-2). -/
def execStlm (n : Nd) (sc : Scope) (st : State) : Answer := nodeMem ⟨0x8C, n, sc, .storeMasked⟩ (.stlm n sc) st

/-- `ldd` (R225, Table 08-2). -/
def execLdd (n : Nd) (sc : Scope) (st : State) : Answer := nodeMem ⟨0x8D, n, sc, .loadDesc⟩ (.ldd n sc) st

/-- `std` (R225, Table 08-2). -/
def execStd (n : Nd) (sc : Scope) (st : State) : Answer := nodeMem ⟨0x8E, n, sc, .storeDesc⟩ (.std n sc) st

/-- `aadd` (R227, Table 08-2). -/
def execAadd (n : Nd) (w : Bool) (sc : Scope) (st : State) : Answer := nodeMem ⟨0x90, n, sc, .atom .add w⟩ (.aadd n w sc) st

/-- `aand` (R227, Table 08-2). -/
def execAand (n : Nd) (w : Bool) (sc : Scope) (st : State) : Answer := nodeMem ⟨0x91, n, sc, .atom .and w⟩ (.aand n w sc) st

/-- `aor` (R227, Table 08-2). -/
def execAor (n : Nd) (w : Bool) (sc : Scope) (st : State) : Answer := nodeMem ⟨0x92, n, sc, .atom .or w⟩ (.aor n w sc) st

/-- `axor` (R227, Table 08-2). -/
def execAxor (n : Nd) (w : Bool) (sc : Scope) (st : State) : Answer := nodeMem ⟨0x93, n, sc, .atom .xor w⟩ (.axor n w sc) st

/-- `amin` (R227, Table 08-2). -/
def execAmin (n : Nd) (w : Bool) (sc : Scope) (st : State) : Answer := nodeMem ⟨0x94, n, sc, .atom .min w⟩ (.amin n w sc) st

/-- `amax` (R227, Table 08-2). -/
def execAmax (n : Nd) (w : Bool) (sc : Scope) (st : State) : Answer := nodeMem ⟨0x95, n, sc, .atom .max w⟩ (.amax n w sc) st

/-- `aswp` (R227, Table 08-2). -/
def execAswp (n : Nd) (w : Bool) (sc : Scope) (st : State) : Answer := nodeMem ⟨0x96, n, sc, .atom .swap w⟩ (.aswp n w sc) st

/-- `acas` (R227, Table 08-2). -/
def execAcas (n : Nd) (w : Bool) (sc : Scope) (st : State) : Answer := nodeMem ⟨0x97, n, sc, .atom .cas w⟩ (.acas n w sc) st

/-- `afadd` (R227, Table 08-2). -/
def execAfadd (n : Nd) (w : Bool) (sc : Scope) (st : State) : Answer := nodeMem ⟨0x98, n, sc, .atom .fadd w⟩ (.afadd n w sc) st

/-- `pf` (R226). -/
def execPf (n : Nd) (st : State) : Answer := nodeMem ⟨0x8F, n, .elem, .prefetch⟩ (.pf n) st

/-- `fence.pub` (R136, R230): it waits in the access queue for the drains of its scope. -/
def execFencePub (n : Nd) (sc : Scope) (st : State) : Answer :=
  runNode 0x99 n.a n.b st fun s c => do
    orderOk c.f.o
    needWait (accessRoom (s.unit c.u))
    let (id, s) := s.fresh
    return s.modUnit c.u fun h => { h with access := h.access ++ [⟨id, .fencePub n sc, c.f, .parking, none, none, false, 0⟩] }

/-- `fence.acq` (R136, R230): the read buffers of the cluster go, then its token. -/
def execFenceAcq (n : Nd) (sc : Scope) (st : State) : Answer :=
  runNode 0x9A n.a n.b st fun s c => do
    orderOk c.f.o
    finish (dropBuffers s c.u.cl) c n (plain 0 .i64) (marker sc.code.toNat false)

/-- `strm` (R231): the firing takes a free stream context, which reads its descriptor first. -/
def execStrm (n : Nd) (sc : Scope) (st : State) : Answer :=
  runNode 0x9B n.a n.b st fun s c => do
    let (a, s) ← readSrc s c n.a
    let x ← scalarU a [.u64, .i64]
    orderOk c.f.o
    let _ ← checkPointer s c.u c.f.rid x.val.toNat 64 64
    match (List.range 4).find? fun k => (AL.find? (s.unit c.u).streams k).isNone with
    | none => .error .wait
    | some k =>
      let e : Stream := ⟨0, { c.f with l := some (.scal x) }, .strm n sc, 0, 0, false, none, false, []⟩
      return (logUndo s c.f.rid c.u.cl (.stream c.u k none)).modUnit c.u fun h => { h with streams := AL.set h.streams k e }

end Sys2Proof.Machine
end

