-- ==== Sys2Proof/Machine/Tiles.lean ====
section
/-! DEFINITION. Tiles (R111 to R113): the lines that arrive at one, their wait in ingress, and the firings that consume one. -/

namespace Sys2Proof.Machine

open Sys2Proof

/-- The key of line `i` of a tile. -/
def tileKey (cl : Nat) (t : Tile) (i : Nat) : Nat :=
  if t.om then omKey cl (t.base + i) else poolKey cl (64 * (t.base + i))

/-- Set a tile, recording it for a rollback (R361). -/
def setTile (s : State) (cl k : Nat) (t : Tile) : State :=
  match AL.find? (s.cluster cl).tiles k with
  | some old => (logUndo s old.rid cl (.tile cl k old)).modCluster cl fun c => { c with tiles := AL.set c.tiles k t }
  | none => s

/-- A line arrives at a tile that can take it (Table 04-8). -/
def tileTake (s : State) (cl k : Nat) (t : Tile) (d : LineData) (e : Desc) : State :=
  let key := tileKey cl t t.arrived
  let old := (List.range 64).map (fun i => (key + i, Memory.read s.mem (key + i)))
    ++ (List.range 2).map fun i => (descKey key + i, Memory.read s.mem (descKey key + i))
  let s := logUndo s t.rid cl (.pool key old)
  let s := visibleWrite s key (cellsOf key 64 d.toNat) (some e) none
  let n := t.arrived + 1
  setTile s cl k (if n = t.lines then { t with st := .ready, arrived := n, left := t.readers }
    else { t with st := .filling, arrived := n })

/-- Whether a line token passes a tile's format field (R113). -/
def tileAdmits (t : Tile) (e : Desc) : Bool := t.format == 0 || e.fmt == t.format

/-- Deliver the lines that wait for a tile, in order, until it is full (R113). -/
def tileRefill (s : State) (cl k : Nat) : State :=
  let mine := (s.cluster cl).tileIn.filter (·.1 = k)
  mine.foldl (fun s q =>
    match AL.find? (s.cluster cl).tiles k, q.2.pay with
    | some t, .line d e _ =>
      if t.st = .empty ∨ t.st = .filling then
        tileTake (s.modCluster cl fun c => { c with tileIn := c.tileIn.erase q }) cl k t d e
      else s
    | _, _ => s) s

/-- Bring in the lines that wait for the tiles of a cluster, once a configuration load has emptied them (R113, R114). -/
def tilesRefill (s : State) (cl : Nat) : State :=
  (s.cluster cl).tiles.foldl (fun s t => tileRefill s cl t.1) s

/-- A line token reaches a tile: discarded with a format fault, taken, or held in ingress (R113). -/
def tileLine (s : State) (f : Flit) : Option State := do
  let t ← AL.find? (s.cluster f.cl).tiles f.unit
  match f.pay with
  | .scal _ => none
  | .line d e _ =>
    if !tileAdmits t e then
      some (takeFault s ⟨none, f.cl, 0, t.rid, 0, f.tag, d.extractLsb' 0 64, 0, 0, 0, none, 0⟩ ⟨.format, e.toNat, 0⟩)
    else if (t.st = .empty ∨ t.st = .filling) ∧ !(s.cluster f.cl).tileIn.any (·.1 = f.unit) then
      some (tileTake s f.cl f.unit t d e)
    else some (s.modCluster f.cl fun c => { c with tileIn := c.tileIn ++ [(f.unit, f)] })

/-- A consuming firing of a tile issues (R40, R113): the tile must be ready. -/
def tileUse (s : State) (cl k : Nat) (t : Tile) : State :=
  setTile s cl k { t with
    st := if t.left ≤ 1 then .draining else t.st
    left := t.left - 1
    reading := t.reading + 1 }

/-- A consuming firing has read its last line (R113). -/
def tileDone (s : State) (cl k : Nat) : State :=
  match AL.find? (s.cluster cl).tiles k with
  | some t => s.modCluster cl fun c => { c with tiles := AL.set c.tiles k { t with reading := t.reading - 1 } }
  | none => s

end Sys2Proof.Machine
end

