-- ==== Sys2Proof/Machine/Regions.lean ====
section
/-! DEFINITION. Regions: what a launch checks (R329 to R331), how a region is loaded (R57), and how it ends (R58). Bank
claims (R269, R270), which the end of a region releases, stand here too. -/

namespace Sys2Proof.Machine

open Sys2Proof

/-! ### Nodes of a unit -/

/-- The instruction in a slot of a unit. -/
def nodeAt (s : State) (u : UId) (slot : Nat) : Option Instr :=
  match AL.find? (s.unit u).words slot with
  | some w => match decode w.1 with | .ok i => some i | .error _ => none
  | none => none

/-- The destinations and tag action of a slot's word as a node of two destinations, its operand selects as given. -/
def nodeForm (s : State) (u : UId) (slot : Nat) : Nd :=
  let w := Fields.ofWord (AL.get (0, 0) (s.unit u).words slot).1
  ⟨(TagAct.ofCode? w.t).getD .keep, Src.ofCode w.a, Src.ofCode w.b, (Dst.ofCode? w.d).getD .none,
    (Dst.ofCode? w.x).getD .none⟩

/-- Take a result of an operation that ends: its state, its fault taken, or none while it must wait. -/
def conclude (s : State) (w : FaultSite) (r : Res State) : Option State :=
  match r with
  | .ok t => some t
  | .error (.fault f) => some (faultOrRollback s w f)
  | .error .wait => none

/-! ### Bank claims -/

/-- A bank of a cluster: 0 for A, 1 for B. -/
def bankOf (s : State) (cl b : Nat) : Bank := if b = 0 then (s.cluster cl).bankA else (s.cluster cl).bankB

/-- Set a bank. -/
def setBank (s : State) (cl b : Nat) (k : Bank) : State :=
  s.modCluster cl fun c => if b = 0 then { c with bankA := k } else { c with bankB := k }

/-- Clear the bytes of memory keys from `lo`, `n` of them. -/
def clearKeys (s : State) (lo n : Nat) : State :=
  { s with mem := s.mem.filter fun c => decide (c.1 < lo) || decide (lo + n ≤ c.1) }

/-- Zero every entry of a bank (R116, R269). -/
def zeroTables (s : State) (cl b : Nat) : State := clearKeys s (tableKey cl b 0 0) (2 ^ 16)

/-- Send the control token of a claim (Table 09-3). -/
def claimToken (s : State) (u : UId) (f : Firing) : Res State :=
  finish s ⟨u, f⟩ (nodeForm s u f.slot) (plain 0 .i64) (plain 0 .control)

/-- Where a stalled claim's fault arises. -/
def claimSite (u : UId) (f : Firing) : FaultSite := ⟨some u, u.cl, f.slot, f.rid, 0xC0, f.tag, 0, 0, 0, 0, none, 0⟩

/-- Grant a bank to its first waiting claim (R269): at once to its previous owner, whose token leaves when it can, else
after a clearing. The claim stays first in the list while the bank is cleared. -/
def grantBank (s : State) (cl b : Nat) (u : UId) (f : Firing) : State :=
  let k := bankOf s cl b
  if k.last = some f.rid && !k.gated then
    match conclude s (claimSite u f)
        (claimToken (setBank s cl b { k with owner := some f.rid, claims := k.claims.drop 1 }) u f) with
    | some t => t
    | none => s
  else setBank s cl b { k with owner := some f.rid, last := some f.rid, clearing := true, valid := false, auto := false, filled := 0, gated := false }

/-- Release a bank and grant it to the first waiting claim (R270). -/
def releaseBank (s : State) (cl b : Nat) : State :=
  let k := bankOf s cl b
  let s := setBank s cl b { k with owner := none, since := s.clock }
  match k.claims with
  | [] => s
  | (u, f) :: _ => grantBank s cl b u f

/-! ### The end of a region -/

/-- Work of a region that was issued and has not ended (R58, step 1), but for the operations that wait for room for a record,
which step 2 gives up with the records. -/
def outstanding (s : State) (rid : Nat) : Bool :=
  (s.units.any fun p => (p.2.access.any fun a => a.f.rid = rid) || (p.2.ops.any fun a => a.f.rid = rid && a.st != .spill)
      || (p.2.streams.any fun x => x.2.f.rid = rid))
    || (s.clusters.any fun p =>
      let mine := fun (r : LmRun) => r.f.rid == rid
      p.2.look.any mine || p.2.build.any mine || p.2.drains.any mine)

/-- Whether a region's step 1 of completion is over: nothing that it issued is left (R58). -/
def mayFinish (s : State) (rid : Nat) : Bool :=
  (s.region rid).st == .ending && !outstanding s rid && (!logging s rid || !logMigrates s rid)

/-- A unit without the held accesses, held streams and side-log entries of a region (R58, step 1). -/
def HwUnit.dropHeld (rid : Nat) (h : HwUnit) : HwUnit :=
  let held := fun (a : Access) => a.f.rid == rid && a.st == .held
  { h with
    access := h.access.filter fun a => !held a
    ops := h.ops.filter fun a => !held a
    streams := h.streams.filter fun x => !(x.2.f.rid == rid && x.2.held && x.2.wline.isSome)
    sideLog := h.sideLog.filter fun e => e.f.rid != rid }

/-- Discard what is held of a region that has stopped, and the held runs of its lookup matrix units (R58, step 1). -/
def dropHeld (s : State) (rid : Nat) : State :=
  { s with
    units := s.units.map fun (p : UId × HwUnit) => (p.1, p.2.dropHeld rid)
    clusters := s.clusters.map fun (p : Nat × Cluster) =>
      (p.1, { p.2 with drains := p.2.drains.filter fun r => !(r.f.rid == rid && r.held && r.wline.isSome) }) }

/-- A unit without the heavy-unit grant that it holds for a region, and without its streams (R58, step 3). -/
def HwUnit.release (rid now : Nat) (h : HwUnit) : HwUnit :=
  { h with
    grant := if h.grant = some rid then none else h.grant
    returned := if h.grant = some rid then some (rid, now) else h.returned
    streams := h.streams.filter fun x => x.2.f.rid != rid }

/-- Release what a region holds: frames, tiles, claims, grants, streams (R58, step 3). -/
def releaseAll (s : State) (rid : Nat) : State :=
  let s := { s with
    frames := s.frames.filter fun (p : (Nat × Nat × Nat) × Frame) => p.1.1 != rid
    units := s.units.map fun (p : UId × HwUnit) => (p.1, p.2.release rid s.clock) }
  let s := s.clusters.foldl (fun (s : State) (p : Nat × Cluster) =>
    let s := s.modCluster p.1 fun c => { c with tiles := c.tiles.filter fun t => t.2.rid != rid }
    let s := if (bankOf s p.1 0).owner = some rid then releaseBank s p.1 0 else s
    if (bankOf s p.1 1).owner = some rid then releaseBank s p.1 1 else s) s
  s.modRegion rid fun r => { r with grantQueue := [] }

/-- Clear the run bit of the queue slot a launch came from, unless another launch of the queue is active (Table 12-5). -/
def clearRun (s : State) (rid : Nat) : State :=
  let r := s.region rid
  let other := s.regions.any fun x => x.1 != rid && x.2.part == r.part && x.2.qid == r.qid && x.2.st != .completed && x.2.st != .lost
  match r.qid with
  | none => s
  | some q => if other then s else s.modPart r.part fun p =>
    { p with qslot := p.qslot.map fun w => if bits w.toNat 55 42 = q then w &&& ~~~ (BitVec.ofNat 64 (2 ^ 60)) else w }

/-- Steps 2 to 4 of a completion (R58), the stores that ended last in its logged interval committed first. -/
def finishRegion (s : State) (rid : Nat) : State :=
  let s := if logging s rid then commitLogs s rid else s
  let s := releaseAll (discardTokens s rid true) rid
  let s := clearRun s rid
  let tag := (s.region rid).launchTag
  let s := s.modRegion rid fun r => { r with st := .completed, entryRec := none, cutRec := none, launchTag := none }
  match tag with
  | some (fn, h) => postCpl s fn 0x10 0 0xFFFF h
  | none => s

/-- Complete every region that has stopped and whose issued work has ended; what is held by now is discarded (R58). -/
def settle (s : State) : State :=
  s.regions.foldl (fun (s : State) (p : Nat × Region) =>
    let s := if p.2.st = .ending then dropHeld s p.1 else s
    if mayFinish s p.1 then finishRegion s p.1 else s) s

/-- Step 1 of a completion (R58). Steps 2 to 4 follow in a later step of the device, so that the state at the instant the
counted token reaches the sink is a state of the machine. -/
def endRegion (s : State) (rid : Nat) : State :=
  let s := if logging s rid && !logMigrates s rid then commitLogs s rid else s
  (dropHeld s rid).modRegion rid fun r => { r with st := .ending }

/-- Steps 2 to 4 of the completion of a region that has stopped, once nothing that it issued is left (R58). -/
def execFinish (rid : Nat) (s : State) : Host.Outcome State Fault Refusal :=
  runEvent "the end of a region" (if mayFinish s rid then some (finishRegion s rid) else none)

/-- Run an event that may end work of a region. -/
def runWork (name : String) (t : Option State) : Host.Outcome State Fault Refusal := runEvent name (t.map settle)

/-! ### Control blocks and launches -/

/-- Replace bits `hi:lo` of a block by those of another. -/
def takeBits (own from' : Nat) (hi lo : Nat) : Nat :=
  own - bits own hi lo * 2 ^ lo + bits from' hi lo * 2 ^ lo

/-- Put a number into bits `hi:lo` of a block. -/
def putBits (v hi lo x : Nat) : Nat := v - bits v hi lo * 2 ^ lo + x % 2 ^ (hi + 1 - lo) * 2 ^ lo

/-- The bit ranges of the field groups of Table 12-9, but for the feature mask. -/
def groupRanges : List (Nat × Nat × Nat) :=
  [(0, 151, 128), (1, 255, 192), (2, 268, 256), (3, 280, 272), (4, 295, 288), (5, 311, 296), (6, 51, 48), (7, 175, 168),
   (10, 831, 576), (11, 895, 832), (12, 905, 896)]

/-- The effective block of a child under its parent's effective block (R330). -/
def effective (own par : BitVec 2048) : BitVec 2048 :=
  let v := groupRanges.foldl (fun v g =>
    if bitAt (Rcb.inherit' own) g.1 then v else takeBits v par.toNat g.2.1 g.2.2) own.toNat
  BitVec.ofNat 2048 (v - bits v 183 176 * 2 ^ 176 + (Rcb.fmask own ||| Rcb.fmask par) * 2 ^ 176)

/-- Whether a block has a reserved field set, or a value that no block may hold (status 0x11). -/
def blockReserved (b : BitVec 2048) : Bool :=
  let v := b.toNat
  v / 2 ^ 906 != 0 || bits v 831 772 != 0 || bits v 575 544 != 0 || bits v 383 368 != 0 || bits v 319 312 != 0
    || bits v 287 281 != 0 || bits v 271 269 != 0 || bits v 191 184 != 0 || bits v 63 52 != 0 || bits v 15 11 != 0
    || bits (Rcb.ptroot b) 63 40 != 0 || bits (Rcb.ptroot b) 15 0 != 0 || Rcb.hkind b == 3 || bits v 183 181 != 0
    || bitAt (Rcb.inherit' b) 9 || bits (Rcb.inherit' b) 15 13 != 0

/-- Whether a partition word is refused (R107, Table 04-4). -/
def pwordBad (w : Word) : Bool :=
  let v := w.toNat
  decide (128 < bits v 7 0 + bits v 15 8 + bits v 23 16 + bits v 31 24 + bits v 39 32) || decide (bits v 39 32 < 0x14)
    || bits v 63 58 != 0 || (List.range 6).any fun k => bits v (42 + 3 * k) (40 + 3 * k) == 7

/-- Whether an effective rectangle leaves its parent's, or holds the supervisor cluster without the block's own priv bit
(status 0x12). -/
def rectangleBad (own eff par : BitVec 2048) (sup : Nat) : Bool :=
  decide (Rcb.x0 eff < Rcb.x0 par) || decide (Rcb.x1 par < Rcb.x1 eff) || decide (Rcb.y0 eff < Rcb.y0 par)
    || decide (Rcb.y1 par < Rcb.y1 eff) || (Rcb.holds eff sup && !Rcb.priv own)

/-- Whether an effective block asks for more than its parent's (status 0x13). -/
def budgetBad (eff par : BitVec 2048) : Bool :=
  decide (Rcb.frames par < Rcb.frames eff) || decide (Rcb.tags par < Rcb.tags eff)
    || decide (Rcb.reserve par < Rcb.reserve eff) || decide (Rcb.prio par < Rcb.prio eff)

/-- Whether a level-1 block passes the checks of Table 12-10 that speak of level 1 (R330, R331): every group given, the
rectangle that of the partition's strips, grants within the pool. -/
def partitionBlockOk (q : Part) (b : BitVec 2048) : Bool :=
  Rcb.level b == 1 && !blockReserved b && Rcb.parent b == 0 && Rcb.x0 b == 4 * q.west && Rcb.x1 b == 4 * (q.west + q.strips) - 1
    && Rcb.y0 b == 0 && Rcb.y1 b == 63 && (!Rcb.holds b q.supCluster || Rcb.priv b) && !pwordBad (BitVec.ofNat 64 (Rcb.pword b))
    && decide (Rcb.grants b ≤ q.gpool) && bits (Rcb.inherit' b) 8 0 == 0x1FF && bits (Rcb.inherit' b) 12 10 == 7

/-- Whether a block of level 2 or 3 may stand under its parent's effective block (R330, R331, Table 12-10). -/
def chainBlockOk (level : Nat) (own par : BitVec 2048) (sup : Nat) : Bool :=
  let eff := effective own par
  Rcb.level own == level && !blockReserved own && !rectangleBad own eff par sup && !budgetBad eff par
    && !pwordBad (BitVec.ofNat 64 (Rcb.pword eff)) && decide (Rcb.grants eff ≤ Rcb.grants par)

/-- Grants of the active children of a region (status 0x15); one that completes is active until its end (R58). -/
def childGrants (s : State) (par : Nat) : Nat :=
  ((s.regions.filter fun p => p.2.parent = some par && (p.2.st == .active || p.2.st == .frozen || p.2.st == .ending)).map
    fun p => Rcb.grants p.2.rcb).foldl (· + ·) 0

/-- How many subregions a region stands under, itself included. -/
def subDepth (s : State) : Nat → Nat → Nat
  | 0, _ => 0
  | fuel + 1, rid =>
    if Rcb.level (s.region rid).rcb = 5 then
      1 + (match (s.region rid).parent with | some p => subDepth s fuel p | none => 0)
    else 0

/-- The number of the region entry that stands for a context: its level-3 block and translation. -/
def ctxRid (cx : Nat) : Nat := 2 ^ 40 + cx

/-- Whether a host cluster of a launch holds another partition word for an active region of the virtual device (R106); a
region that ends still runs its accesses (R58, step 1). -/
def pwordClash (s : State) (vd : Nat) (w : Word) (host : List Nat) : Bool :=
  host.any fun cl =>
    let c := s.cluster cl
    c.pword != w && c.pwordVd == some vd
      && s.regions.any fun p =>
        p.2.vd == vd && (p.2.st == .active || p.2.st == .frozen || p.2.st == .ending) && p.2.host.contains cl

/-- What a launch loads: the code object's key, the object and the directory line. -/
structure LaunchCode where
  key : Nat
  code : Code
  dir : Nat
deriving DecidableEq, Repr

/-- The code a block names, if it is loaded in the context (status 0x16). -/
def launchCode (s : State) (cx : Nat) (own : BitVec 2048) : Option LaunchCode :=
  match codeNamed s cx (Rcb.code own) with
  | none => none
  | some (key, c) => match Obj.findDir c (Rcb.region own) with
    | some r => some ⟨key, c, r⟩
    | none => none

/-- Whether a record image passes R60 against a child's own nodes (status 0x1B). -/
def imageFits (c : Code) (d : Nat) (img : BitVec 1280) : Bool :=
  let w := RecImg.entry img
  recordFields img && (nodesOf c d).any fun n =>
    entryUnit w n.1.cl == some n.1 && n.2 == Arc.slot w

/-- The words of a unit that are `call` nodes, and those that are not (R209). -/
def callWords (h : HwUnit) (call : Bool) : List Nat :=
  (h.words.map fun w => w.2.1.toNat).filter fun w => (bits w 31 24 == 0x74) == call

/-- Whether an arc entry serves the arguments of a `call` and nothing else (R209). -/
def argumentArc (h : HwUnit) (k : Nat) : Bool :=
  (callWords h true).any (fun w => (arcSelects w).any (·.1 == k))
    && !(callWords h false).any (fun w => (nodeArcs h w).any (·.1 == k))
    && !(callWords h true).any (fun w => (otherArcs h w).any (·.1 == k))

/-- The effective block of the region that a unit's `call` names: its own for 0, else that of a region of the context that
is loaded, if one is (R209). -/
def calleeBlock (s : State) (cx : Nat) (h : HwUnit) (eff : BitVec 2048) : Option (BitVec 2048) :=
  let num := bits (AL.get 0 h.lits 13).toNat 31 16
  if num = 0 then some eff
  else (List.find? (fun (p : Nat × Region) => p.2.num = num && p.2.cx = cx && p.2.isLoaded) s.regions).map (·.2.rcb)

/-- Whether an arc entry of a unit lies inside the rectangle that it is checked against: the callee's for an argument of a
`call`, the region's own otherwise (R159, R209). DESIGN CHOICE: arguments to a region that is not loaded yet are not
checked (log 41). -/
def arcInside (s : State) (cx : Nat) (eff : BitVec 2048) (u : UId) (h : HwUnit) (k : Nat) (a : BitVec 32) : Bool :=
  !Arc.valid a
    || (if argumentArc h k then
        match calleeBlock s cx h eff with
        | some b => Rcb.holds b (Arc.target a u.cl)
        | none => true
      else Rcb.holds eff (Arc.target a u.cl))

/-- The product of K over the chain of spaces that encloses a node in space `k`, 1 at the top index (R69, item 4). -/
def loopTags (l : List (Nat × Nat)) : Nat → Nat → Nat
  | 0, _ => 1
  | fuel + 1, k => if k = 0 then 1 else match l[k - 1]? with | some sp => sp.1 * loopTags l fuel sp.2 | none => 1

/-- Demand(u) of R69: over the dyadic nodes of a unit, the tokens that one side can hold under one tag, times the tags and
frames that can be live. -/
def demandOf (c : Code) (r frames : Nat) (u : UId) (h : HwUnit) : Nat :=
  let sp := Config.tagSpaces c.body r
  ((h.words.filter fun w => isDyadic w.2.1.toNat).map fun w =>
    Config.sideArcs c.body r u w.1 * loopTags sp 8 (Config.enclosing c.body r u w.1) * frames).foldl (· + ·) 0

/-- Whether the matching demand of a region fits (R56; R69, item 4): every unit's in its store and reserve, every reserve
in the region's budget, and the reserves of each cluster in its overflow class. -/
def matchingFits (c : Code) (r : Nat) (eff : BitVec 2048) : Bool :=
  let units := unitsOf c (Obj.line c r)
  let w := BitVec.ofNat 64 (Rcb.pword eff)
  (units.all fun p => decide (demandOf c r (Rcb.frames eff) p.1 p.2 ≤ 64 + reserveOf p.2)
      && decide (reserveOf p.2 ≤ Rcb.reserve eff))
    && (units.map (·.1.cl)).eraseDups.all fun cl =>
      decide (16 * ((List.filter (fun (p : UId × HwUnit) => p.1.cl = cl) units).map fun p => reserveOf p.2).foldl (· + ·) 0
        ≤ classSize w 3)

/-- The tiles declared in a cluster: those of its tile table, whose regions have not released them, and those whose packets
are still on their way (R57, R58, R111). -/
def declaredTiles (s : State) (cl : Nat) : List Tile :=
  (s.cluster cl).tiles.map (·.2) ++ (s.cfgNet.filter fun p => p.cl == cl && Pk.pkind p.line.toNat == 5).flatMap fun p =>
    (List.range (Pk.count p.line.toNat)).map fun i => tileOf p.rid (Pk.entry p.line.toNat i)

/-- Whether a tile of operand memory of a region overlaps one that another region has declared in the same cluster
(R112). -/
def tilesClash (s : State) (c : Code) (d : Nat) : Bool :=
  (tilesOf c d).any fun t =>
    let v := tileOf 0 t.2.2
    v.om && (declaredTiles s t.1).any fun (k : Tile) =>
      k.om && decide (k.base < v.base + v.lines) && decide (v.base < k.base + k.lines)

/-- The configuration-load refusals that need the control block and the state: rectangle, grants, tiles, budgets (R159,
R332, R112, R69), after those of the object itself (R166). -/
def loadFailure (s : State) (cx : Nat) (c : Code) (r : Nat) (eff : BitVec 2048) : Option LoadFailure :=
  let d := Obj.line c r
  let w := BitVec.ofNat 64 (Rcb.pword eff)
  let sp := layoutSpaces (Config.tagSpaces c.body r)
  let outside := List.find? (fun (p : UId × HwUnit) => !(p.2.arcs.all fun a => arcInside s cx eff p.1 p.2 a.1 a.2)) (unitsOf c d)
  let heavy := (nodesOf c d).any fun n => n.1.kind == .ln || n.1.kind == .lmu
  match regionFailure c (((codesOf s cx).map (·.2)).filter fun o => Obj.code o != Obj.code c) r with
  | some f => some f
  | none =>
    if !Rcb.waive eff && outside.isSome then some ⟨0x06, outside.map (·.1), 0⟩
    else if (heavy && Rcb.grants eff == 0) || decide (Rcb.tags eff < (sp.map (·.foot)).foldl (· + ·) 0)
        || decide (classSize w 1 < 2080 * Rcb.frames eff)
        || (Obj.depth d != 0 && Obj.depth d != Rcb.frames eff)
        || !matchingFits c r eff || tilesClash s c d
        || !((tilesOf c d).all fun t => tileOk t.2.2 (classSize w 0)) then some ⟨0x0B, none, 0⟩
    else none

/-- The status of a configuration-load refusal, 0 for none. -/
def loadStatus (s : State) (cx : Nat) (c : Code) (r : Nat) (eff : BitVec 2048) : Nat :=
  match loadFailure s cx c r eff with
  | some f => f.status
  | none => 0

/-- Keep the last configuration-load refusal as the loader reports it (R166; log 39). -/
def reportRefusal (s : State) (f : Option LoadFailure) : State :=
  match f with
  | some f => { s with hg := { s.hg with refusal := some f } }
  | none => s

/-- The first of the refusals 0x10 to 0x15 of a block under a parent (Table 12-10), 0 for none; `host` is the host set that
the region is to have, where it is known (R106). -/
def blockStatus (s : State) (par : Nat) (own : BitVec 2048) (host : Option (List Nat)) : Nat :=
  let p := s.region par
  let pe := p.rcb
  let eff := effective own pe
  let plevel := Rcb.level pe
  let w : Word := BitVec.ofNat 64 (Rcb.pword eff)
  if !(Rcb.level own == plevel + 1 || (plevel == 5 && Rcb.level own == 5 && decide (subDepth s 8 par < 4))) then 0x10
  else if blockReserved own then 0x11
  else if rectangleBad own eff pe (s.part p.part).supCluster then 0x12
  else if budgetBad eff pe then 0x13
  else if pwordBad w || host.any fun l => pwordClash s p.vd w l then 0x14
  else if Rcb.grants pe < Rcb.grants eff + childGrants s par then 0x15
  else 0

/-- The first of the refusals 0x17 to 0x19 of a block under a parent (Table 12-10), 0 for none. DESIGN CHOICE: a spill area
that is not 32-byte aligned, for which the table names no status, is refused with 0x19 (log 62). -/
def rightsStatus (s : State) (par : Nat) (own : BitVec 2048) : Nat :=
  let p := s.region par
  let eff := effective own p.rcb
  if 4 ≤ Rcb.level own && bits (Rcb.inherit' own) 12 10 != 0 then 0x17
  else if (Rcb.priv own || Rcb.waive own) && !(s.region (ctxRid p.cx)).priv then 0x18
  else if Rcb.spilln own = 0 || Rcb.spill own % 32 != 0 || decide (Rcb.spill own < Rcb.hbase eff)
      || decide (min (Rcb.hbase eff + Rcb.hlimit eff) (2 ^ 52) < Rcb.spill own + 160 * Rcb.spilln own) then 0x19
  else 0

/-- The first refusal of a launch of a block under a parent (Table 12-10, then Table 06-14), 0 for none. -/
def launchStatus (s : State) (par : Nat) (own : BitVec 2048) (img : BitVec 1280) : Nat :=
  let p := s.region par
  let eff := effective own p.rcb
  let lc := launchCode s p.cx own
  let st := blockStatus s par own (lc.map fun l => hostOf l.code (Obj.line l.code l.dir))
  if st ≠ 0 then st
  else match lc with
    | none => 0x16
    | some l =>
      let d := Obj.line l.code l.dir
      if Obj.sig d ≠ Rcb.sig own || (Obj.priv d && !Rcb.priv own) then 0x16
      else if rightsStatus s par own ≠ 0 then rightsStatus s par own
      else if !RecImg.newf img || RecImg.region img != Rcb.region own then 0x1A
      else if !imageFits l.code d img then 0x1B
      else loadStatus s p.cx l.code l.dir eff

/-- What a refused launch of a block leaves: where the configuration load refused it, the loader's report (R166). -/
def refusedLaunch (s : State) (par st : Nat) (own : BitVec 2048) : State :=
  let p := s.region par
  if 0x0B < st then s
  else reportRefusal s ((launchCode s p.cx own).bind fun l => loadFailure s p.cx l.code l.dir (effective own p.rcb))

/-- A cluster as a configuration load leaves it: the partition word held, every tile empty, and the lookup matrix unit's
state zero where the load configures that unit (R106, R114, R116, R266). -/
def Cluster.configured (w : Word) (vd : Nat) (lm : Bool) (c : Cluster) : Cluster :=
  let c := { c with
    pword := w
    pwordVd := some vd
    tiles := c.tiles.map fun t => (t.1, { t.2 with st := .empty, arrived := 0, left := 0, reading := 0 }) }
  if lm then
    { c with
      bankA := { Bank.none with since := c.bankA.since }, bankB := { Bank.none with since := c.bankB.since }
      pass := Pass.none }
  else c

/-- Write one line of a region's scratchpad data (R401); one that names a reserved format is not written and raises the
region's format fault (R88; log 54). -/
def writePad (s : State) (rid cl off v : Nat) (e : Desc) : State :=
  let key := poolKey cl off
  if formatOk e.fmt then visibleWrite s key (cellsOf key 64 v) (some e) none
  else takeFault s ⟨none, cl, 0, rid, 0, 0, 0, 0, 0, 0, none, 0⟩ ⟨.format, e.toNat, 0xFC * 2 ^ 56 + off⟩

/-- Write the scratchpad data blocks of a region that lie in a cluster (R401). -/
def writePads (s : State) (rid cl : Nat) (c : Code) (d : Nat) : State :=
  ((dataBlocks c d).getD []).foldl (fun s b =>
    if b.kind = 1 ∧ b.y * 64 + b.x = cl then (List.range b.count).foldl (fun s i =>
      writePad s rid (b.y * 64 + b.x) (b.place + 64 * i) (Obj.line c (b.first + i)) (c.descs.getD (b.first + i) 0)) s
    else s) s

/-- Whether a region is of stream form: its graph meets the conditions of R358, and its directory line records that class
(Table 15-5; log 42). -/
def streamClass (l : LaunchCode) : Bool := !Obj.free (Obj.line l.code l.dir) && streamGraph l.code (Obj.line l.code l.dir)

/-- Begin a unit's part afresh, its counters at zero (R93, R299); one that is sent again freezes its region until it is
complete (R165, R354). The unit refuses no token: what reaches it waits in its ingress (R41). -/
def HwUnit.restart (rid : Nat) (again : Bool) (h : HwUnit) : HwUnit :=
  { h with
    words := [], lits := [], arcs := [], flags := 0, complete := false, rcv := [], rcvBad := false, reload := again, part := rid
    fired := 0, ovDiscard := 0, refused := none }

/-- A unit whose part of a region is about to be loaded: it is not complete, and nothing of an earlier region's
configuration is left (R41, R57). -/
def HwUnit.begin (rid : Nat) (h : HwUnit) : HwUnit := { h.restart rid false with fails := 0, wordLost := false }

/-- The clusters that the load of a region writes: its host set, and those of its scratchpad data (R57, R401). -/
def loadClusters (c : Code) (d : Nat) : List Nat :=
  let host := hostOf c d
  host ++ ((((dataBlocks c d).getD []).filter fun b => b.kind = 1).map fun b => b.y * 64 + b.x).eraseDups.filter
    fun cl => !host.contains cl

/-- Write what the load of a region puts into a cluster before any unit there is complete: the partition word, empty tiles, a
lookup matrix unit at zero, and scratchpad data (R106, R114, R266, R401). -/
def loadCluster (s : State) (rid cl : Nat) (c : Code) (d : Nat) : State :=
  let r := s.region rid
  let s := if r.host.contains cl then
      let lm := r.nodes.any fun n => n.1 == ⟨cl, .lmu, 0⟩
      let s := tilesRefill (s.modCluster cl fun k => k.configured (BitVec.ofNat 64 (Rcb.pword r.rcb)) r.vd lm) cl
      if lm then clearKeys (zeroTables (zeroTables s cl 0) cl 1) (accKey cl 0) (2 ^ 16) else s
    else s
  writePads s rid cl c d

/-- The load of a region in a cluster: at once where the cluster has power, else at the end of its wake (R389). -/
def loadOrWake (s : State) (rid cl : Nat) (c : Code) (d : Nat) : State :=
  if (s.cluster cl).power == .on then loadCluster s rid cl c d
  else s.modCluster cl fun k => { k with onWake := k.onWake ++ [rid] }

/-- What waited for the end of a cluster's wake is loaded there, of the regions that are still to run (R389). -/
def loadWoken (s : State) (cl : Nat) : State :=
  let l := (s.cluster cl).onWake
  let s := s.modCluster cl fun k => { k with onWake := [] }
  l.foldl (fun s rid =>
    let r := s.region rid
    match AL.find? s.hg.codes r.code with
    | some c => match Obj.findDir c r.num with
      | some k => if r.st == .active || r.st == .frozen then loadCluster s rid cl c (Obj.line c k) else s
      | none => s
    | none => s) s

/-- Load a region from its code object: its record, its clusters, its scratchpad data, and its packets on their way, towards
units that are not complete from now on (R57, R245, R401). -/
def startRegion (s : State) (par : Nat) (eff : BitVec 2048) (l : LaunchCode) (img : BitVec 1280) (held : Bool) : Nat × State :=
  let (rid, s) := s.fresh
  let d := Obj.line l.code l.dir
  let p := s.region par
  let host := hostOf l.code d
  let e : Rec := ⟨0, RecImg.set (liveImage img 4) 113 1 held.toNat, rid, held, false, none, 0, none⟩
  let r : Region := { Region.none with
    num := Rcb.region eff, part := p.part, vd := p.vd, cx := p.cx, code := l.key, rcb := eff, parent := some par
    priv := Rcb.priv eff, spaces := layoutSpaces (Config.tagSpaces l.code.body l.dir)
    nslots := Config.frameSlots l.code.body l.dir, recursive := Obj.depth d != 0, streamForm := streamClass l
    logged := Rcb.logged eff, ident := Rcb.ident eff, sig := BitVec.ofNat 64 (Obj.sig d), rev := Obj.rev d, host, nodes := nodesOf l.code d
    st := .active, cutRec := some (liveImage img 4), entryRec := some e
    yield := p.yield.filter fun y => y.dest matches .slot
    gated := streamClass l && p.yield.any fun y => y.dest matches .slot }
  let s := { s with regions := AL.set s.regions rid r }
  let s := (loadClusters l.code d).foldl (fun s cl => loadOrWake s rid cl l.code d) s
  let s := ((packetsOf l.code d).map fun q => packetUnit q.1 q.2).eraseDups.foldl (fun s u => s.modUnit u (HwUnit.begin rid)) s
  (rid, { s with cfgNet := s.cfgNet ++ (packetsOf l.code d).map fun q =>
    ⟨q.1, Pk.ukind q.2, Pk.unit q.2, rid, BitVec.ofNat 512 q.2⟩ })

/-- Enqueue a region's entry record once its entry unit is complete (R245); with every place full it waits. -/
def admitEntry (s : State) (rid : Nat) : State :=
  match (s.region rid).entryRec with
  | none => s
  | some e =>
    let w := RecImg.entry e.img
    let ready := (s.region rid).host.any fun cl => hostsEntry s rid w cl
      && (match entryUnit w cl with | some u => (s.unit u).complete && (s.unit u).part == rid | none => false)
    if ready then match enqueueRecord s e with
      | some t => t.modRegion rid fun r => { r with entryRec := none }
      | none => s
    else s

/-! ### A context's own accesses -/

/-- Where an address of a context leads, without any port's TLB (R378, R401). -/
def ctxTarget (s : State) (rid a : Nat) : Found :=
  match heapTarget s rid a with
  | some f => f
  | none => match walk s rid a with
    | .leaf size e _ => leafTarget s rid a size e
    | .page l p k => .page l p k
    | .migr k => .migr k
    | .no f => .no f

/-- Store one line through a context's translation; none where it would fault, a reserved format and an address beyond the
52 bits of one among the faults (R88, R102). -/
def ctxStoreLine (s : State) (rid a : Nat) (d : LineData) (e : Desc) : Option State :=
  if a % 64 ≠ 0 || 2 ^ 52 ≤ a || !formatOk e.fmt then none
  else match ctxTarget s rid a with
    | .at t => match checkRights s rid t false true a with
      | .ok _ => some (visibleWrite s t.line (cellsOf t.key 64 d.toNat) (some e) (t.enc (keysOf s rid)))
      | .error _ => none
    | _ => none

/-- The heap data lines of an object: where each goes, and its number in the object (R401). -/
def heapLines (c : Code) : List (Nat × Nat) :=
  (List.range (Obj.nreg c)).flatMap fun r =>
    ((dataBlocks c (Obj.line c (r + 1))).getD []).flatMap fun b =>
      if b.kind = 2 then (List.range b.count).map fun i => (b.place + 64 * i, b.first + i) else []

/-- The entry of a migrating page that a heap data line of an object goes to: its store waits without a fault (R149,
R348). -/
def heapWaits (s : State) (rid : Nat) (c : Code) : Option Nat :=
  (heapLines c).findSome? fun p => match ctxTarget s rid p.1 with | .migr k => some k | _ => none

/-- Write the heap data blocks of an object through a context's translation (R401): the state after the lines that were
written, and whether every line was. -/
def writeHeap (s : State) (rid : Nat) (c : Code) : State × Bool :=
  (heapLines c).foldl (fun acc p =>
    if acc.2 then match ctxStoreLine acc.1 rid p.1 (BitVec.ofNat 512 (Obj.line c p.2)) (c.descs.getD p.2 0) with
      | some t => (t, true)
      | none => (acc.1, false)
    else acc) (s, true)

end Sys2Proof.Machine
end

