-- ==== Sys2Proof/Machine/Blocks.lean ====
section
/-! DEFINITION. The engine port's own accesses: blocks of memory on which task operations act as one (R238, R239, R246,
R248), record images, and how an operation of the engine queue ends, faults or is held (R234, R238, R285). -/

namespace Sys2Proof.Machine

open Sys2Proof

/-- Why an engine operation is not done: a fault, a translation that finds no target and faults, a page that is absent or
migrates, a wait, want of room for a record (R60, R61), or more of it to do in a later step. -/
inductive EngStop where
  | more
  | fault (f : Flt)
  | noTarget (f : Flt)
  | page (level pte line addr : Nat)
  | migr (line : Nat)
  | wait
  | spill
deriving DecidableEq, Repr

/-- What a step of an engine operation answers. -/
abbrev EngM (α : Type) := Except EngStop α

/-- A result of an element operation as one of an engine operation. -/
def liftRes {α : Type} (r : Res α) : EngM α :=
  match r with
  | .ok a => .ok a
  | .error (.fault f) => .error (.fault f)
  | .error .wait => .error .wait

/-- Raise a fault. -/
def engFault {α : Type} (c : Cause) (detail : Nat := 0) (addr : Nat := 0) : EngM α := .error (.fault ⟨c, detail, addr⟩)

/-- Demand a condition, or fault. -/
def engNeed (ok : Bool) (c : Cause) (detail : Nat := 0) (addr : Nat := 0) : EngM Unit :=
  if ok then .ok () else engFault c detail addr

/-- Whether the pool that a target lies in has power: accesses to a cluster that is gated or wakes stall (R389). -/
def padAwake (s : State) (t : Target) : Bool := !t.pool || (s.cluster ((t.key - poolKey 0 0) / 2 ^ 19)).power == .on

/-- Find the target of an access of `n` bytes: checks 2 to 8 of Table 08-1, and the line's error (R355, R356). -/
def engAt (s : State) (u : UId) (rid v n align : Nat) (rd wr ord : Bool) : EngM (Target × State) := do
  let _ ← liftRes (checkPointer s u rid v n align)
  let (f, s) := findNow s u rid n v
  match f with
  | .walk => .error .wait
  | .page level pte line => .error (.page level pte line v)
  | .migr line => .error (.migr line)
  | .no e => .error (.noTarget e)
  | .at t =>
    liftRes (checkRights s rid t rd wr v)
    engNeed (t.pool || t.kind != .so || ord) .order 0 v
    let so := !t.pool && t.kind == .so
    liftRes (needWait (padAwake s t))
    liftRes (needWait (!(so && logging s rid && logMigrates s rid)))
    return (t, if so then makeIrrevocable s rid else s)

/-- Read `n` bytes that lie in one line, as a scalar load does (R122). The engine port and its engines are no memory port,
so a store that their cluster has accepted drains before they read its line (R129, R132). -/
def engRead (s : State) (u : UId) (rid v n align : Nat) (ord : Bool) : EngM (Nat × Desc × State) := do
  let (t, s) ← engAt s u rid v n align true false ord
  let s := drainOwn s u.cl t.line
  liftRes (needClean s t v)
  let d := readDesc s .outside rid u.cl t
  engNeed (formatOk d.fmt) .format d.toNat v
  return (readTarget s .outside rid u.cl t n, d, s)

/-- Read a line with its descriptor, as `ldl` does (R222). -/
def engLine (s : State) (u : UId) (rid v : Nat) (ord : Bool) : EngM (LineData × Desc × State) := do
  let (x, d, s) ← engRead s u rid v 64 64 ord
  return (BitVec.ofNat 512 x, d, s)

/-- Take hold of a raw block of `n` bytes at its point of coherence: held stores to its line drain first (R239). -/
def engBlock (s : State) (u : UId) (rid v n : Nat) (ord : Bool) : EngM (Nat × Target × State) := do
  let (t, s) ← engAt s u rid v n n true true ord
  let s := drainLine s t.line fun _ _ => true
  liftRes (needClean s t v)
  let d := readDesc s .outside rid u.cl t
  engNeed (d.fmt == 0x00) .format d.toNat v
  return (readTarget s .outside rid u.cl t n, t, s)

/-- Write bytes of a target so that every agent sees them. -/
def engWrite (s : State) (rid : Nat) (t : Target) (off n v : Nat) : State :=
  visibleWrite s t.line (cellsOf (t.key + off) n v) none (t.enc (keysOf s rid))

/-- Store a line with its descriptor so that every agent sees it. -/
def engStoreLine (s : State) (u : UId) (rid v : Nat) (d : LineData) (e : Desc) (ord : Bool) : EngM State := do
  let (t, s) ← engAt s u rid v 64 64 false true ord
  engNeed (formatOk e.fmt) .format e.toNat v
  return visibleWrite s t.line (cellsOf t.key 64 d.toNat) (some e) (t.enc (keysOf s rid))

/-- The 160 bytes of a record image, 32 at a time, at cluster scope (R242, R243). -/
def engImage (s : State) (u : UId) (rid v : Nat) (ord : Bool) : EngM (BitVec 1280 × State) := do
  let mut acc := 0
  let mut st := s
  for i in [0, 1, 2, 3, 4] do
    let (x, _, s') ← engRead st u rid (v + 32 * i) 32 32 ord
    acc := acc + x * 2 ^ (256 * i)
    st := s'
  return (BitVec.ofNat 1280 acc, st)

/-! ### Operations of the engine queue -/

/-- Whether an operation has parked the record that waits for it, and has thereby freed its entry (R285, R290). -/
def recordParked (a : Access) : Bool :=
  match a.i with
  | .cvIn n => n.b != .zero && a.aux != 0
  | .xrGet _ k _ => k && a.aux != 0
  | _ => false

/-- Whether the engine port can take one more operation (R238, R285). -/
def opRoom (s : State) (u : UId) : Bool := ((s.unit u).ops.filter fun a => !recordParked a).length < 16

/-- Put an operation into the engine queue, its operands read. -/
def pushOp (s : State) (c : Cur) (i : Instr) (l r : Payload) : State :=
  let (id, s) := s.fresh
  let a : Access := ⟨id, i, { c.f with l := some l, r := some r }, .queued, none, none, false, 0⟩
  s.modUnit c.u fun h => { h with ops := h.ops ++ [a] }

/-- Take an operation out of the queue. -/
def dropOp (s : State) (u : UId) (id : Nat) : State := s.modUnit u fun h => { h with ops := h.ops.filter (·.id != id) }

/-- Change an operation in the queue. -/
def setOp (s : State) (u : UId) (a : Access) : State :=
  s.modUnit u fun h => { h with ops := h.ops.map fun b => if b.id = a.id then a else b }

/-- The opcode of an operation's node (Table 06-19, Table 06-20). -/
def opcodeOf (i : Instr) : Nat :=
  match encode i with
  | some w => bits w.toNat 31 24
  | none => 0

/-- The site of a fault of an access that is or was held: its address stands for operand A, and operand B is left out
(R349). -/
def FaultSite.ofHeld (w : FaultSite) (addr : Nat) : FaultSite :=
  { w with aval := if addr = 0 then w.aval else BitVec.ofNat 64 addr, bval := 0, btype := 0 }

/-- Where an operation's fault arises. -/
def opSite (u : UId) (a : Access) : FaultSite :=
  let get := fun (p : Option Payload) => match p with
    | some (.scal x) => (x.val, x.ty.code)
    | some (.line d _ _) => (d.extractLsb' 0 64, 0)
    | none => (0, 0)
  let (x, tx) := get a.f.l
  let (y, ty) := get a.f.r
  ⟨some u, u.cl, a.f.slot, a.f.rid, opcodeOf a.i, a.f.tag, x, tx, y, ty, none, 0⟩

/-- Where a fault of an operation arises that was held at the access at fault: `woken` says so (R349). -/
def opFaultSite (u : UId) (a : Access) (f : Flt) : FaultSite :=
  if a.woken then (opSite u a).ofHeld f.addr else opSite u a

/-- The value of an operation's left operand, and of its right one. -/
def opA (a : Access) : Nat := (a.f.l.getD (plain 0 .i64)).value.toNat
/-- The value of an operation's right operand. -/
def opB (a : Access) : Nat := (a.f.r.getD (plain 0 .i64)).value.toNat

/-- Send one token to both destinations of an operation's node. -/
def opSend (s : State) (u : UId) (a : Access) (n : Nd) (p : Payload) : EngM State :=
  liftRes (finish s ⟨u, a.f⟩ n (a.f.r.getD (plain 0 .i64)) p)

/-- Send one token to each destination of an operation's node. -/
def opSendPair (s : State) (u : UId) (a : Access) (n : Nd) (p q : Option Payload) : EngM State :=
  liftRes (finishPair s ⟨u, a.f⟩ n (a.f.r.getD (plain 0 .i64)) p q)

/-- A step of an operation: the state and the entry as they stand if it stops, and what it answers. -/
structure OpRes where
  at' : State
  a : Access
  r : EngM State

/-- End a step of an operation that stood at state `at'` when it stopped: done and out of the queue, faulted, held at a
page, or waiting (R234, R286). An error that a table walk met faults the access alone (R356). -/
def opEnd (u : UId) (x : OpRes) : Option State :=
  let at' := x.at'
  let a := x.a
  match x.r with
  | .ok t => some (dropOp t u a.id)
  | .error (.fault f) => some (faultOrRollback (dropOp at' u a.id) (opFaultSite u a f) f)
  | .error (.noTarget f) => some (takeFault (dropOp at' u a.id) (opFaultSite u a f) f)
  | .error (.page level pte line v) =>
    some (pageRecord (setOp at' u { a with st := .held, wline := some line, woken := false })
      ((opSite u a).ofHeld v) level pte line v)
  | .error (.migr line) => some (setOp at' u { a with st := .migrating, wline := some line, woken := false })
  | .error .more => some (setOp at' u { a with st := .queued, wline := none, woken := false })
  | .error .wait => none
  | .error .spill =>
    some ((setOp at' u { a with st := .spill }).modRegion a.f.rid fun r =>
      { r with spillSince := some (r.spillSince.getD at'.clock) })

/-! ### Queues (R248, R249) and the supervisor's events (R328) -/

namespace QHead
/-- count of pops -/
def head (v : Nat) : Nat := bits v 31 0
/-- count of pushes -/
def tail (v : Nat) : Nat := bits v 63 32
/-- log2 of the capacity -/
def lgcap (v : Nat) : Nat := bits v 71 64
/-- pointer to entry 0 -/
def base (v : Nat) : Nat := bits v 191 128
/-- entries held -/
def used (v : Nat) : Nat := (tail v + 2 ^ 32 - head v) % 2 ^ 32
end QHead

/-- Whether a queue header keeps R248. -/
def queueOk (s : State) (cl v : Nat) : Bool :=
  decide (QHead.lgcap v ≤ 20) && (formOf s cl (QHead.base v)).isSome && QHead.base v % 8 == 0
    && v / 2 ^ 192 == 0 && bits v 127 72 == 0 && decide (QHead.used v ≤ 2 ^ QHead.lgcap v)

/-- The address of entry `i` of a queue. -/
def entryAddr (v i : Nat) : Nat := QHead.base v + 8 * (i % 2 ^ QHead.lgcap v)

/-- Push a value of a type: `none` when the queue is full (R249). -/
def queuePush (s : State) (u : UId) (rid v : Nat) (x : Word) (ty : TType) (ord : Bool) : EngM (Option State) := do
  let (h, t, s) ← engBlock s u rid v 32 ord
  engNeed (queueOk s u.cl h) .queue
  if QHead.used h = 2 ^ QHead.lgcap h then return none
  let p := entryAddr h (QHead.tail h)
  let (e, s) ← engAt s u rid p 8 8 false true ord
  liftRes (needClean s e p)
  let s := drainLine s e.line fun _ _ => true
  let d := readDesc s .outside rid u.cl e
  engNeed (formatOk d.fmt && formatAdmits d.fmt (declared ty)) .format d.toNat p
  let s := engWrite s rid e 0 8 x.toNat
  return some (engWrite s rid t 4 4 ((QHead.tail h + 1) % 2 ^ 32))

/-- Pop an entry: its bytes and its line's format, or none when the queue is empty (R249). -/
def queuePop (s : State) (u : UId) (rid v : Nat) (ord : Bool) : EngM (Option (Nat × Nat) × State) := do
  let (h, t, s) ← engBlock s u rid v 32 ord
  engNeed (queueOk s u.cl h) .queue
  if QHead.used h = 0 then return (none, s)
  let (x, d, s) ← engRead s u rid (entryAddr h (QHead.head h)) 8 8 ord
  let s := engWrite s rid t 0 4 ((QHead.head h + 1) % 2 ^ 32)
  return (some (x, d.fmt), s)

/-- What pushing an event comes to: the state after, with the event lost where the queue is full, is none or would make a
`q.push` fault (R328); none while its page migrates (R149). DEDUCED: an absent page is a fault of R214 here (log 53). -/
def tryEvent (s : State) (p code data : Nat) : Option State :=
  let q := s.part p
  let lost := s.modPart p fun q => { q with evtLost := if q.evtLost = 0xFFFFFFFF then q.evtLost else q.evtLost + 1 }
  let a := q.evtQueue.toNat
  let form := a / 2 ^ 56
  if a = 0 || !(form == 0xFC || form == 0x00) then some lost
  else match queuePush s ⟨q.supCluster, .eng, 0⟩ (q.supRid.getD 0) a
      (BitVec.ofNat 64 (code * 2 ^ 56 + data % 2 ^ 56)) .i64 true with
    | .ok (some t) => some t
    | .error (.migr _) | .error .wait => none
    | _ => some lost

/-- Post an event to a partition's supervisor: pushed, lost, or held behind those whose page migrates (R328). -/
def postEvent (s : State) (p code data : Nat) : State :=
  let hold := s.modPart p fun q => { q with evtHeld := q.evtHeld ++ [(code, data)] }
  if (s.part p).evtHeld = [] then (tryEvent s p code data).getD hold else hold

/-- The oldest event that waited is pushed or lost (R328); none while it still waits. -/
def postHeld (s : State) (p : Nat) : Option State :=
  match (s.part p).evtHeld with
  | [] => none
  | (code, data) :: l => tryEvent (s.modPart p fun q => { q with evtHeld := l }) p code data

/-- What a release waits for (R142, R246, R249, R66): the stores that its ordering input may depend on have left the write
queues. A store that another cluster holds has drained when a token of that cluster came to this one (log 44). -/
def release (s : State) (u : UId) (rid : Nat) : State := drainWhere s fun c e => c == u.cl || e.rid == rid

/-- Drain every UN store that the clusters of a region's host set within a scope hold (R136). -/
def drainUn (s : State) (rid cl : Nat) (sc : Scope) : State :=
  let cls : List Nat := match sc with
    | .elem | .clu => [cl]
    | .strip => (s.region rid).host.filter fun c => stripOf c == stripOf cl
    | .part | .sys => (s.region rid).host
  drainWhere s fun c e => cls.contains c && e.un

end Sys2Proof.Machine
end

