-- ==== Sys2Proof/Machine/MemEvents.lean ====
section
/-! DEFINITION. The steps of memory ports that no firing causes: accesses performed, walks that end, held accesses that
wake, side-log replay, stream lines, tile lines, drains and fences. -/

namespace Sys2Proof.Machine

open Sys2Proof

/-- An access of a port's queue. -/
def accessNo (s : State) (u : UId) (id : Nat) : Option Access := (s.unit u).access.find? (·.id = id)

/-- An operation of an engine queue. -/
def opNo (s : State) (u : UId) (id : Nat) : Option Access := (s.unit u).ops.find? (·.id = id)

/-- MEMORY_ACCESS_PERFORMED (R129, R215): a queued access is translated and performed, or an accepted store arrives. -/
def execMemoryAccessPerformed (u : UId) (id : Nat) (s : State) : Answer :=
  runWork "MEMORY_ACCESS_PERFORMED" do
    let a ← accessNo s u id
    let m ← memForm a.i
    if a.st = .queued ∨ a.st = .accepted then some (performMem s u a m) else none

/-- PAGE_WALK_COMPLETE (R340, R342): the walk of a waiting access ends and the access goes on with what it found. -/
def execPageWalkComplete (u : UId) (id : Nat) (s : State) : Answer :=
  runWork "PAGE_WALK_COMPLETE" do
    let a ← accessNo s u id
    let m ← memForm a.i
    if a.st = .walking then
      match formOf s u.cl (accessAddr a) with
      | some (.virt v) =>
        let (f, s) := finishWalk s u a.f.rid v
        some (accessFound s u a m f)
      | _ => none
    else none

/-- Wake a waiting access: translated again and performed; a waiting engine operation is ready to run again, and one that was
held keeps that in mind (R345, R349). -/
def wakeAccess (s : State) (u : UId) (id : Nat) (st : AccSt) : Option State :=
  match accessNo s u id with
  | some a => do
    let m ← memForm a.i
    if a.st = st ∧ a.woken then some (performMem s u { a with st := .queued, wline := none, woken := false } m) else none
  | none => do
    let a ← opNo s u id
    if a.st = st ∧ a.woken then some (setOp s u { a with st := .queued, wline := none, woken := st == .held }) else none

/-- HELD_ACCESS_WAKE (R345). -/
def execHeldAccessWake (u : UId) (id : Nat) (s : State) : Answer :=
  runWork "HELD_ACCESS_WAKE" (wakeAccess s u id .held)

/-- MIGRATION_WAIT_END (R149, R348). -/
def execMigrationWaitEnd (u : UId) (id : Nat) (s : State) : Answer :=
  runWork "MIGRATION_WAIT_END" (wakeAccess s u id .migrating)

/-- UN_STORE_DRAIN_TIMEOUT (R134): a held UN store reaches its pseudo-channel, after those to its line before it. -/
def execUnStoreDrainTimeout (cl k : Nat) (s : State) : Answer :=
  runEvent "UN_STORE_DRAIN_TIMEOUT" do
    let e ← (s.cluster cl).writeQ.find? (·.id = k)
    if e.un then some (drainStore s e) else none

/-- READ_BUFFER_EXPIRY (R135). -/
def execReadBufferExpiry (u : UId) (line : Nat) (s : State) : Answer :=
  runEvent "READ_BUFFER_EXPIRY"
    (if (s.unit u).readBuf.any (·.key = line) then
      some (s.modUnit u fun h => { h with readBuf := h.readBuf.filter (·.key != line) })
    else none)

/-- The first woken entry of a side log, with what stands before and after it (R345). -/
def firstWoken (l : List SideEntry) : Option (List SideEntry × SideEntry × List SideEntry) :=
  match l.span fun e => !e.woken with
  | (pre, e :: post) => some (pre, e, post)
  | _ => none

/-- Replay a side-log entry as an access that issues now (R236): it stays where its page is absent again. -/
def replayEntry (s : State) (u : UId) (pre : List SideEntry) (e : SideEntry) (post : List SideEntry) (m : MemForm) : State :=
  let put := fun (s : State) (l : List SideEntry) => s.modUnit u fun h => { h with sideLog := pre ++ l ++ post }
  let (id, s0) := s.fresh
  let a : Access := ⟨id, e.i, e.f, .queued, none, none, false, 1⟩
  let (f, s1) := findNow s0 u a.f.rid m.kind.size (accessAddr a)
  match f with
  | .walk => s
  | .page level pte line =>
    pageRecord (put s1 [{ e with wline := line, woken := false }]) (accessSite u a m.op true) level pte line (accessAddr a)
  | .migr line => put s1 [{ e with wline := line, woken := false }]
  | .no e => takeFault (put s1 []) (accessSite u a m.op true) e
  | .at t =>
    let s2 := (put s1 []).modUnit u fun h => { h with access := h.access ++ [a] }
    match accessAt s2 u a m t with
    | .ok s3 => s3
    | .error (.fault f) => faultOrRollback (put s1 []) (accessSite u a m.op true) f
    | .error .wait => s

/-- SIDE_LOG_REPLAY (R236, R345): the first woken entry of a port's side log. -/
def execSideLogReplay (u : UId) (s : State) : Answer :=
  runWork "SIDE_LOG_REPLAY" do
    let (pre, e, post) ← firstWoken (s.unit u).sideLog
    let m ← memForm e.i
    some (replayEntry s u pre e post m)

/-- SIDE_LOG_WAIT_END (R237): an entry is free, and the first store that waits for one is tried again. -/
def execSideLogWaitEnd (u : UId) (s : State) : Answer :=
  runWork "SIDE_LOG_WAIT_END" do
    let a ← (s.unit u).access.find? (·.st = .sideWait)
    let m ← memForm a.i
    if (s.unit u).sideLog.length < 256 then
      some (performMem s u { a with st := .queued, wline := none, woken := false } m)
    else none

/-- Whether a stream may go on: not at an absent page, not halted between lines unless a step has issued it, and not gated
at the end of an outer step (R234, R251, R360, R386). -/
def streamMayRun (s : State) (x : Stream) : Bool :=
  let r := s.region x.f.rid
  x.wline.isNone && (!r.halted || r.stepped.contains x.f.seq) && !(r.gated && x.ipos == 0)

/-- STREAM_LINE (R231 to R233, R303): a stream reads its descriptor, sends its next line or its completion, or reads a line. -/
def execStreamLine (u : UId) (k : Nat) (s : State) : Answer :=
  runWork "STREAM_LINE" do
    let x ← AL.find? (s.unit u).streams k
    let m ← memForm x.i
    if streamMayRun s x then streamStep s u k x m else none

/-- TILE_DRAIN_END (Table 04-8): the last line of a use is read, and lines that waited come in. -/
def execTileDrainEnd (cl k : Nat) (s : State) : Answer :=
  runEvent "TILE_DRAIN_END" do
    let t ← AL.find? (s.cluster cl).tiles k
    if t.st = .draining ∧ t.reading = 0 then
      some (tileRefill (setTile s cl k { t with st := .empty, arrived := 0 }) cl k)
    else none

/-- FENCE_DRAIN_COMPLETE (R136, R230): the held UN stores that a fence covers are drained, and its token leaves. -/
def execFenceDrainComplete (u : UId) (id : Nat) (s : State) : Answer :=
  runWork "FENCE_DRAIN_COMPLETE" do
    let a ← accessNo s u id
    match a.i with
    | .fencePub n sc =>
      let s := dropAccess (drainUn s a.f.rid u.cl sc) u id
      conclude s (accessSite u a 0x99 false) (finish s ⟨u, a.f⟩ n (plain 0 .i64) (marker sc.code.toNat false))
    | _ => none

end Sys2Proof.Machine
end

