-- ==== Sys2Proof/Machine/Network.lean ====
section
/-! DEFINITION. Tokens on their way: arrival and matching (R36 to R41, R157), sluices (R317), the termination sink (R58),
configuration packets (R163 to R165), and the waits that a frame copy's room ends (R51, R53, R54). -/

namespace Sys2Proof.Machine

open Sys2Proof

/-! ### Matching -/

/-- What a slot waits for: the sides of a firing, and whether one of them is enough (`merge`, R202). -/
structure Needs where
  sides : List Side
  any : Bool
deriving DecidableEq, Repr

/-- The sides that a node's firing consumes (R36, R157): those it names, its extension, or the left side as trigger. -/
def needsOf (w : Nat) (ext : Bool) : Needs :=
  let op := bits w 31 24
  let (l, r) := namedSides w
  if op = 0x61 then ⟨[.left, .right], true⟩
  else
    let own := (if l then [Side.left] else []) ++ (if r then [Side.right] else [])
    let ext := ext && takesExt op
    let x := if ext then [Side.ord] ++ (if op = 0x97 then [Side.exp] else []) else []
    if own = [] ∧ !ext then ⟨[.left], false⟩ else ⟨own ++ x, false⟩

/-- Whether a firing met more than one token: a monadic or triggered firing uses no matching-store entry (R36). -/
def Firing.matched (f : Firing) : Bool :=
  decide (1 < ([f.l, f.r, f.o, f.x].filterMap id).length)

/-- Entries of the matching store in use: waiting tokens that have not overflowed, and matches that stay in the store
while the ready queue is full (R36, R38, R40). DESIGN CHOICE: such a match holds one entry, that of the partner which was
there first (log 24). -/
def storeUsed (h : HwUnit) : Nat := (h.store.filter fun e => !e.spilled).length + (h.formed.filter (·.matched)).length

/-- Whether a payload is a line. -/
def Payload.isLine : Payload → Bool
  | .line _ _ _ => true
  | .scal _ => false

/-- Line buffers of a memory port that are occupied: by line tokens in its matching store, which wait for their partner or
for the ready queue (R40, R218). -/
def lineBuffers (h : HwUnit) : Nat :=
  (h.store.filter (·.pay.isLine)).length
    + (h.formed.filter fun f => f.matched && ([f.l, f.r].filterMap id).any (·.isLine)).length

/-- Entries of the overflow class that a unit uses (R38). -/
def spillUse (h : HwUnit) : Nat := (h.store.filter (·.spilled)).length

/-- Whether a unit may write one more overflow entry: in its reserved share, else in the unreserved part (R39). -/
def overflowRoom (s : State) (u : UId) : Bool :=
  let h := s.unit u
  let here := List.filter (fun (p : UId × HwUnit) => p.1.cl = u.cl) s.units
  let total := classSize (s.cluster u.cl).pword 3 / 16
  let reserved := (here.map fun p => reserveOf p.2).foldl (· + ·) 0
  let beyond := (here.map fun p => spillUse p.2 - reserveOf p.2).foldl (· + ·) 0
  decide (spillUse h < reserveOf h) || decide (reserved + beyond < total)

/-- The earliest token that waits on a side of a slot under a tag. -/
def waiting (h : HwUnit) (slot : Nat) (tag : Tag) (sd : Side) : Option MatchEntry :=
  h.store.find? fun e => e.slot = slot && e.tag = tag && e.side == sd

/-- A firing from the tokens of its sides. -/
def firingOf (slot rid : Nat) (tag : Tag) (l : List (Side × Payload)) : Firing :=
  let get := fun (sd : Side) => (l.find? (·.1 = sd)).map (·.2)
  ⟨slot, rid, tag, get .left, get .right, get .ord, get .exp, 0, 0, 0⟩

/-- Whether of two firings that formed in one clock the first enters the queue before the second: in ascending slot order
(R40), those of a `merge` the left token's before the right one's (R202). -/
def Firing.precedes (f g : Firing) : Bool :=
  decide (f.slot < g.slot) || (f.slot == g.slot && f.l.isSome && f.r.isNone && g.l.isNone)

/-- Put a match into a queue in the order formed, those of one clock in the order that R40 and R202 give; the queue is given
and answered latest first. -/
def insertMatch (f : Firing) : List Firing → List Firing
  | [] => [f]
  | g :: l => if g.formedAt = f.formedAt ∧ f.precedes g then g :: insertMatch f l else f :: g :: l

/-- A match enters the ready queue of 8, or waits for it in the order formed (R40). -/
def addReady (h : HwUnit) (f : Firing) : HwUnit :=
  let q := (insertMatch f (h.ready ++ h.formed).reverse).reverse
  if h.ready.length < 8 ∧ h.formed = [] then { h with ready := q }
  else { h with ready := q.take h.ready.length, formed := q.drop h.ready.length }

/-- A withheld firing enters the ready queue, or waits for it, behind what is there (R386). -/
def rejoin (h : HwUnit) (f : Firing) : HwUnit :=
  if h.ready.length < 8 ∧ h.formed = [] then { h with ready := h.ready ++ [f] } else { h with formed := h.formed ++ [f] }

/-- The withheld firings of a region enter the ready queue in the order they were withheld (R386). -/
def rejoinAll (rid : Nat) (h : HwUnit) : HwUnit :=
  (h.withheld.filter fun w => w.2.rid == rid).foldl (fun h w => rejoin h w.2)
    { h with withheld := h.withheld.filter fun w => w.2.rid != rid }

/-- Matches that wait enter the ready queue as it empties (R40). -/
def pullReady (h : HwUnit) : HwUnit :=
  let n := 8 - h.ready.length
  { h with ready := h.ready ++ h.formed.take n, formed := h.formed.drop n }

/-! ### Edge comparators, Table 14-11 -/

namespace Cmp
/-- enabled -/
def en (w : Nat) : Bool := bitAt w 0
/-- Whether a comparator matches a token that arrives for a region number (R385). -/
def hits (w num : Nat) (f : Flit) : Bool :=
  let tmask := bits w 103 80
  let vmask := bits w 191 128
  let v := f.pay.value.toNat
  en w && bits w 79 64 == num && bits w 22 20 == f.kind && bits w 19 12 == f.unit && bits w 11 7 == f.slot
    && bitAt w 6 == f.side && (f.tag.toNat &&& tmask) == (bits w 127 104 &&& tmask)
    && (v &&& vmask) == (bits w 255 192 &&& vmask)
end Cmp

/-- Whether an enabled comparator of the target cluster matches a token (R385). -/
def watched (s : State) (rid : Nat) (f : Flit) : Bool :=
  (s.cluster f.cl).comps.any fun w => Cmp.hits w.toNat (s.region rid).num f

/-- Whether a step permits the next firing of a unit that forms: there are more steps of the unit than firings of the
region in its queue, to which they belong (R386). -/
def permitted (s : State) (u : UId) (rid : Nat) : Bool :=
  let h := s.unit u
  decide (((h.ready ++ h.formed).filter fun f => f.rid == rid).length < ((s.region rid).permits.filter fun p => p == u).length)

/-- The firing that a token completes: withheld where a comparator matched, else ready (R37, R385). While a save is wanted
nothing is withheld, since a halt never delays a slot change (R387). -/
def formFiring (s : State) (u : UId) (f : Flit) (x : Firing) : State :=
  let x := { x with formedAt := s.clock }
  if watched s x.rid f && (s.region x.rid).yield.isNone && !permitted s u x.rid then
    let (k, s) := s.fresh
    s.modUnit u fun h => { h with withheld := h.withheld ++ [(k, x)] }
  else s.modUnit u fun h => addReady h x

/-- Whether a unit is a memory port with all 16 line buffers occupied, which accepts no further line token (R218). -/
def buffersFull (u : UId) (h : HwUnit) : Bool := u.kind == .mp && decide (16 ≤ lineBuffers h)

/-- Match a token of a complete unit (R36 to R41); none while the unit has no room for it. -/
def matchToken (s : State) (u : UId) (f : Flit) : Option State :=
  let h := s.unit u
  let (slot, sd) := meantSlot h f.slot f.side
  let dead := fun (rid : Nat) =>
    some (takeFault s ⟨some u, u.cl, f.slot, rid, 0, f.tag, f.pay.value, 0, 0, 0, none, 0⟩ ⟨.deadSlot, 0, 0⟩)
  match AL.find? h.words slot with
  | none => dead h.part
  | some (w, rid) =>
    let st := (s.region rid).st
    if st = .completed ∨ st = .ending ∨ st = .lost then some s
    else
      let need := needsOf w.toNat (bitAt h.flags.toNat (49 + slot) && decide (slot < 15))
      if !need.sides.contains sd then dead rid
      else if need.any then some (formFiring s u f (firingOf slot rid f.tag [(sd, f.pay)]))
      else
        let others := need.sides.filter (· != sd)
        let found := others.filterMap (waiting h slot f.tag)
        if found.length = others.length ∧ (waiting h slot f.tag sd).isNone then
          let s := s.modUnit u fun h => { h with store := found.foldl (fun l e => l.erase e) h.store }
          some (formFiring s u f (firingOf slot rid f.tag ((sd, f.pay) :: found.map fun e => (e.side, e.pay))))
        else if storeUsed h < 64 then
          some (s.modUnit u fun h => { h with store := h.store ++ [⟨slot, sd, f.tag, rid, f.pay, false⟩] })
        else if overflowRoom s u then
          some (s.modUnit u fun h => { h with store := h.store ++ [⟨slot, sd, f.tag, rid, f.pay, true⟩] })
        else none

/-- What becomes of a token at its target: it is taken; it stays on its link, and its unit accepts no other until it has
room for it (R39); or it cannot be offered now. -/
inductive Delivery where
  | taken (s : State)
  | stays (s : State)
  | waits

/-- A token at a unit (R37, R39, R41): matched; held in the ingress of a unit not yet complete; or refused for want of
room, from when on the unit accepts only the token it refused, once there is room. A line token waits for a line buffer
(R218). -/
def offer (s : State) (u : UId) (f : Flit) : Delivery :=
  let h := s.unit u
  if !h.complete then .taken (s.modUnit u fun h => { h with ingress := h.ingress ++ [f] })
  else if f.pay.isLine && buffersFull u h then .waits
  else match h.refused with
    | some a =>
      if a = (f.src, f.arc) then
        match matchToken (s.modUnit u fun h => { h with refused := none }) u f with
        | some t => .taken t
        | none => .waits
      else .waits
    | none => match matchToken s u f with
      | some t => .taken t
      | none => .stays (s.modUnit u fun h => { h with refused := some (f.src, f.arc) })

/-- A token at its target (R37, R41, R52, R54): offered to a unit or a tile, or written into a frame slot; none while it
cannot be taken. -/
def deliver (s : State) (f : Flit) : Option State :=
  match ukindOf f.kind with
  | some k =>
    match offer s ⟨f.cl, k, f.unit⟩ f with
    | .taken t => some t
    | .stays _ | .waits => none
  | none =>
    if f.kind = 5 then tileLine s f
    else if f.kind = 6 then
      match writeSlot s f.rid f.tag f.cl f.unit f.pay.value f.seq with
      | .ok t => some t
      | .error .wait => none
      | .error (.fault e) =>
        some (faultOrRollback s ⟨none, f.cl, 0, f.rid, 0, f.tag, f.pay.value, 0, 0, 0, none, f.unit⟩ e)
    else none

/-- Match tokens that waited in the ingress of a unit that is now complete, in order (R41). From the first for which the
unit has no room on, they wait on their links as any token does (R39). -/
def drainList (s : State) (u : UId) : List Flit → State
  | [] => s
  | f :: l =>
    match offer s u f with
    | .taken t => drainList t u l
    | .stays t => { t with net := f :: l ++ t.net }
    | .waits => { s with net := f :: l ++ s.net }

/-- Match what waited in a unit's ingress once the unit is complete (R41). -/
def drainIngress (s : State) (u : UId) : State :=
  drainList (s.modUnit u fun h => { h with ingress := [] }) u (s.unit u).ingress

/-! ### Flits -/

/-- Whether the sluice at boundary `b`, between strips `b` - 1 and `b`, is closed (R317). -/
def sluiceShut (s : State) (b : Nat) : Bool :=
  !(partOfStrip s (b - 1) == partOfStrip s b && (s.part (partOfStrip s b)).valid)

/-- The boundaries on the way from one strip to another, in the order in which they are met: routes run along x first
(R25). -/
def boundaries (a b : Nat) : List Nat :=
  if a < b then (List.range (b - a)).map (a + 1 + ·) else (List.range (a - b)).map (a - ·)

/-- The first closed boundary on the way from one cluster to another (R25, R317). -/
def closedBoundary (s : State) (src cl : Nat) : Option Nat :=
  (boundaries (stripOf src) (stripOf cl)).find? (sluiceShut s)

/-- Whether a flit crosses a closed sluice (R317). -/
def crosses (s : State) (f : Flit) : Bool := (closedBoundary s f.src.cl f.cl).isSome

/-- Whether a firing of the sending unit has read the last line of a tile that is about to be empty: its result leaves
after the line is read (R113, Table 04-8). -/
def tileRead (s : State) (u : UId) : Bool :=
  (u.kind == .ln || u.kind == .lmu)
    && (s.cluster u.cl).tiles.any fun (t : Nat × Tile) => t.2.st == .draining && t.2.reading == 0

/-- The next flit of its arc: a network delivers an arc's tokens in the order in which they leave, which for those of one
clock is the order of their firings' issue (R26, R179). What depends on a firing's output sees
the frame slot that the firing wrote on an arc of kind 6, so that write lands before its other tokens (R52). -/
def netFirst (s : State) (i : Nat) : Option Flit := do
  let f ← s.net[i]?
  let same := fun (g : Flit) => g.src = f.src && g.arc = f.arc
  if s.clock < f.depart || ((s.net.take i).any fun g => same g && decide (g.depart ≤ f.depart))
      || ((s.net.drop (i + 1)).any fun g => same g && decide (g.depart < f.depart))
      || (f.kind != 6 && s.net.any fun g => g.kind = 6 && g.src = f.src && g.seq = f.seq)
      || tileRead s f.src then none
  else some f

/-- Take a flit off the networks. -/
def takeNet (s : State) (i : Nat) : State := { s with net := s.net.eraseIdx i }

/-- The stores that the sending cluster of a token from another cluster still holds: what is issued because the token came
depends on them, so they land first (R131, R142; log 44). -/
def landSent (s : State) (f : Flit) : State := if f.src.cl = f.cl then s else drainWhere s fun c _ => c == f.src.cl

/-- A flit that reaches a waking cluster waits in its wake buffer of 32 (R389). -/
def toWakeBuf (s : State) (f : Flit) : Option State :=
  if (s.cluster f.cl).wakeBuf.length < 32 then
    some (s.modCluster f.cl fun c => { c with wakeBuf := c.wakeBuf ++ [f] })
  else none

/-- TOKEN_ARRIVAL (R37, R39): a token reaches its target; at a cluster that wakes it waits in the wake buffer (R389). -/
def execTokenArrival (i : Nat) (s : State) : Answer :=
  runEvent "TOKEN_ARRIVAL" do
    let f ← netFirst s i
    if crosses s f ∨ f.kind = 5 ∨ f.kind = sinkKind then none
    else
      let s0 := takeNet (landSent s f) i
      match (s.cluster f.cl).power with
      | .gated => none
      | .waking => toWakeBuf s0 f
      | _ =>
        let s0 := s0.modCluster f.cl fun c => { c with lastFlit := s.clock }
        match ukindOf f.kind with
        | some k => match offer s0 ⟨f.cl, k, f.unit⟩ f with
          | .taken t => some t
          | .stays t => some { t with net := s.net }
          | .waits => none
        | none => deliver s0 f

/-- TILE_LINE_ARRIVAL (R113): a line token reaches a tile-table entry. -/
def execTileLineArrival (i : Nat) (s : State) : Answer :=
  runEvent "TILE_LINE_ARRIVAL" do
    let f ← netFirst s i
    if crosses s f ∨ f.kind ≠ 5 then none
    else
      let s := takeNet (landSent s f) i
      match (s.cluster f.cl).power with
      | .gated => none
      | .waking => toWakeBuf s f
      | _ => tileLine (s.modCluster f.cl fun c => { c with lastFlit := s.clock }) f

/-- Tokens that a region's termination sink has counted for the activation of a tag, which is its frame (R48, R58). -/
def sunkOf (r : Region) (t : Tag) : Nat := AL.get 0 r.sunk (t.die, t.frame)

/-- SINK_TOKEN_ARRIVAL (R58): counted for its activation; the count that the control block gives completes the region. -/
def execSinkTokenArrival (i : Nat) (s : State) : Answer :=
  runEvent "SINK_TOKEN_ARRIVAL" do
    let f ← netFirst s i
    if f.kind ≠ sinkKind then none
    else
      let s := takeNet s i
      let r := s.region f.rid
      if r.st = .completed ∨ r.st = .ending ∨ r.st = .lost then some s
      else
        let n := sunkOf r f.tag + 1
        let s := s.modRegion f.rid fun r => { r with sunk := AL.set r.sunk (f.tag.die, f.tag.frame) n }
        some (if n = Rcb.term r.rcb then endRegion s f.rid else s)

/-- Bits 127:95 of a flit (Tables 06-10 and 06-11). -/
def flitHeader (f : Flit) : Nat :=
  let fkind := match f.pay with | .scal _ => 1 | .line _ _ none => 4 | .line _ _ (some _) => 5
  fkind * 2 ^ 29 + colOf f.cl % 64 * 2 ^ 23 + rowOf' f.cl % 64 * 2 ^ 17 + f.kind % 8 * 2 ^ 14 + f.unit % 256 * 2 ^ 6
    + f.slot % 32 * 2 + f.side.toNat

/-- Bits 127:95 of the flit of a configuration packet (R161, R163). -/
def packetHeader (p : Packet) : Nat :=
  6 * 2 ^ 29 + colOf p.cl % 64 * 2 ^ 23 + rowOf' p.cl % 64 * 2 ^ 17 + p.kind % 8 * 2 ^ 14 + p.unit % 256 * 2 ^ 6

/-- The cluster that a region's packets are sent from: the supervisor cluster of its partition, which is its loader
(DEDUCED, Table 12-8; log 38). -/
def loaderOf (s : State) (p : Packet) : Nat := (s.part (s.region p.rid).part).supCluster

/-- A closed sluice at boundary `b` consumes and counts a flit from a cluster to another, and records and reports the
first (R317). -/
def sluiceDrop (s : State) (src cl b header : Nat) : State :=
  let p := partOf s src
  let west := decide (colOf cl < colOf src)
  let q := s.part p
  let s := s.modPart p fun q =>
    { q with sluiceCnt := if q.sluiceCnt.toNat = 0xFFFFFFFF then q.sluiceCnt else q.sluiceCnt + 1 }
  if bitAt q.sluiceDrop.toNat 63 then s
  else
    let v := 2 ^ 63 + west.toNat * 2 ^ 62 + b % 16 * 2 ^ 52 + header
    postEvent (s.modPart p fun q => { q with sluiceDrop := BitVec.ofNat 64 v }) p 0x03 b

/-- SLUICE_DROP (R317): a closed sluice drops a token or line on its way or, from the number of flits on their way up, a
configuration packet. -/
def execSluiceDrop (i : Nat) (s : State) : Answer :=
  runEvent "SLUICE_DROP"
    (if i < s.net.length then do
      let f ← netFirst s i
      let b ← closedBoundary s f.src.cl f.cl
      if f.kind = sinkKind then none
      else
        let t := takeNet s i
        let t := { t with units := t.units.map fun p => (p.1, p.2.refuses t.net) }
        some (sluiceDrop t f.src.cl f.cl b (flitHeader f))
    else do
      let k := i - s.net.length
      let p ← s.cfgNet[k]?
      let b ← closedBoundary s (loaderOf s p) p.cl
      some (sluiceDrop { s with cfgNet := s.cfgNet.eraseIdx k } (loaderOf s p) p.cl b (packetHeader p)))

/-- The fkinds of the flits of a plane: of the control plane (Table 06-10), or of the data plane (R161). -/
def planeKinds (data : Bool) : List Nat := if data then [0x4, 0x5, 0x6] else [0x1]

/-- RESERVED_FKIND_FLIT (R162): discarded, and a link-error notice to the partition's supervisor (Table 13-5, 0x3C).
The event names the plane with the cluster: a `cl` below 4,096 is a flit of the data plane, and 4,096 more is one of the
control plane. DESIGN CHOICE: a clean way to name the two planes of one cluster in one number (log 64). -/
def execReservedFkindFlit (cl : Nat) (hdr : BitVec 128) (s : State) : Answer :=
  runEvent "RESERVED_FKIND_FLIT"
    (if (planeKinds (cl < 4096)).contains (bits hdr.toNat 127 124) then none
    else some (takeFault s ⟨none, cl % 4096, 0, 0, 0, 0, 0, 0, 0, 0, none, 0⟩ ⟨.linkError, bits hdr.toNat 127 95, 0⟩))

/-! ### Configuration -/

/-- Send the packets of a unit's part again (R165, R354). -/
def resendPart (s : State) (rid : Nat) (u : UId) : State :=
  let r := s.region rid
  match AL.find? s.hg.codes r.code with
  | none => s
  | some c =>
    match Obj.findDir c r.num with
    | none => s
    | some k =>
      let mine := (packetsOf c (Obj.line c k)).filter fun q => packetUnit q.1 q.2 == u
      { s with cfgNet := s.cfgNet ++ mine.map fun q => ⟨q.1, Pk.ukind q.2, Pk.unit q.2, rid, BitVec.ofNat 512 q.2⟩ }

/-- Whether a unit of a region is being sent again, which freezes the region (R165, R354). -/
def reloading (s : State) (rid : Nat) : Bool :=
  s.units.any fun p => p.2.part == rid && p.2.reload && !p.2.complete

/-- The unit of a packet on its way. -/
def Packet.uid (p : Packet) : UId := packetUnit p.cl p.line.toNat

/-- A part has failed (R165): what of it is still on its way is dropped and it is sent again; after three failures the
region is delivered a configuration-load fault. DESIGN CHOICE: the spec does not say what becomes of the rest of a send
that has failed (log 38). -/
def failPart (s : State) (rid : Nat) (u : UId) : State :=
  let n := (s.unit u).fails + 1
  let s := { s with cfgNet := s.cfgNet.filter fun p => !(p.rid == rid && p.uid == u) }
  let s := s.modUnit u fun h => { h.restart rid true with fails := n }
  if n < 3 then resendPart s rid u
  else takeFault s ⟨some u, u.cl, 0, rid, 0, 0, 0, 0, 0, 0, none, 0⟩ ⟨.configLoad, 0, 0⟩

/-- The next packet of its unit, where no closed sluice stands in its way. -/
def cfgFirst (s : State) (i : Nat) : Option Packet := do
  let p ← s.cfgNet[i]?
  if ((s.cfgNet.take i).any fun q => q.cl = p.cl && q.kind = p.kind && q.unit = p.unit) || (s.cluster p.cl).power != .on
      || (closedBoundary s (loaderOf s p) p.cl).isSome
  then none else some p

/-- CONFIG_PACKET (R164): the entries of a packet are written, or its unit's part is bad. -/
def execConfigPacket (i : Nat) (s : State) : Answer :=
  runEvent "CONFIG_PACKET" do
    let p ← cfgFirst s i
    let w := p.line.toNat
    if Pk.pkind w = 6 then none
    else
      let s := { s.modCluster p.cl fun c => { c with lastFlit := s.clock } with cfgNet := s.cfgNet.eraseIdx i }
      let u := p.uid
      let h := s.unit u
      let s := if h.part = p.rid then s else s.modUnit u (HwUnit.begin p.rid)
      if (s.unit u).complete || !packetOk w then some (failPart s p.rid u)
      else
        let s := s.modUnit u (putPacket p.rid w)
        if Pk.pkind w = 5 then
          some ((List.range (Pk.count w)).foldl (fun s k =>
            s.modCluster p.cl fun c => { c with tiles := AL.set c.tiles (Pk.first w + k) (tileOf p.rid (Pk.entry w k)) }) s)
        else some s

/-- CONFIG_SEAL (R165): a part that passes its checks is complete and begins to match; the tokens that waited for it are
matched, and a region's entry record is enqueued (R245). A part sent again lets its region resume, with a notice
(R354). -/
def execConfigSeal (i : Nat) (s : State) : Answer :=
  runEvent "CONFIG_SEAL" do
    let p ← cfgFirst s i
    let w := p.line.toNat
    if Pk.pkind w ≠ 6 then none
    else
      let s := { s.modCluster p.cl fun c => { c with lastFlit := s.clock } with cfgNet := s.cfgNet.eraseIdx i }
      let u := p.uid
      let h := s.unit u
      if packetOk w && !h.complete && h.part == p.rid && sealOk w (s.region p.rid).sig.toNat h then
        let s := s.modUnit u fun k => { k with complete := true, reload := false, fails := 0, wordLost := false }
        let s := if h.wordLost then
            takeFault s ⟨some u, u.cl, 0, p.rid, 0, 0, 0, 0, 0, 0, none, 0⟩
              ⟨.configReloaded, kindCode u.kind + u.num * 2 ^ 8, 0⟩
          else s
        some (admitEntry (drainIngress s u) p.rid)
      else some (failPart s p.rid u)

/-- CONFIG_WORD_UNCORRECTABLE (R354): the region freezes and the unit's part is sent again. The word is one of a unit's node
words, literals, arcs or flags, so the tile table has none. -/
def execConfigWordUncorrectable (u : UId) (s : State) : Answer :=
  runEvent "CONFIG_WORD_UNCORRECTABLE"
    (let h := s.unit u
    if !h.complete || !unitInRange (kindCode u.kind) u.num then none
    else
      let r := s.region h.part
      if (s.part r.part).supRid = some h.part then some (doubleFault s r.part)
      else
        let s := s.modUnit u fun h => { h.restart h.part true with fails := 0, wordLost := true }
        some (resendPart s h.part u))

/-! ### Waits for frame copies -/

/-- FRAME_COPY_ROOM_FREED (R51, R53): a stalled allocation that keeps what it was handed completes once its cluster has
room. -/
def execFrameCopyRoomFreed (cl : Nat) (s : State) : Answer :=
  runEvent "FRAME_COPY_ROOM_FREED" do
    match (s.cluster cl).slotWait with
    | [] => none
    | w :: l =>
      if copyRoom s cl then resumeStall (s.modCluster cl fun c => { c with slotWait := l }) w (w.f.stage - 1) else none

/-- LAST_COPY_RELEASED (R54): a returning frame is free, and passes at once to a stalled allocation (R53). -/
def execLastCopyReleased (rid die fr : Nat) (s : State) : Answer :=
  runEvent "LAST_COPY_RELEASED"
    (if (s.frame rid die fr).st = .returning then some (releaseFrame s rid die fr) else none)

/-- BREAKPOINT_HALT (R385, R386): a region with a withheld firing is halted, but for one that is asked to yield (R387). -/
def execBreakpointHalt (rid : Nat) (s : State) : Answer :=
  runEvent "BREAKPOINT_HALT"
    (if !(s.region rid).halted && (s.region rid).yield.isNone && s.units.any (fun p => p.2.withheld.any (·.2.rid == rid)) then
      some (s.modRegion rid fun r => { r with halted := true })
    else none)

end Sys2Proof.Machine
end

