-- ==== Sys2Proof/Machine/Tasks.lean ====
section
/-! DEFINITION. Task instructions, opcodes 0xEC to 0xF5 (R238 to R250): how each is issued, what its operation does, and
the dispatch of continuation records (R61 to R63). -/

namespace Sys2Proof.Machine

open Sys2Proof

/-! ### Issue -/

/-- Types of a pointer operand (R212). -/
def ptrTypes : List TType := [.u64, .i64]

/-- Issue an engine operation on two scalar operands: types and scaled bits, the ordering input, and an entry of the
queue; an irrevocable one commits the interval logs first (R148, R238, R252). -/
def issueOp (op : Nat) (n : Nd) (i : Instr) (ta tb : List TType) (irrevocable : Bool) (st : State) : Answer :=
  runNode op n.a n.b st fun s c => do
    let (a, s) ← readSrc s c n.a
    let (b, s) ← readSrc s c n.b
    let x ← scalarU a ta
    let y ← scalarU b tb
    orderOk c.f.o
    needWait (opRoom s c.u)
    let s := if irrevocable then makeIrrevocable s c.f.rid else s
    return pushOp s c i (.scal x) (.scal y)

/-- `spawn` (R243). -/
def execSpawn (n : Nd) (st : State) : Answer := issueOp 0xEC n (.spawn n) ptrTypes allTypes true st

/-- `suspend` (R242). -/
def execSuspend (n : Nd) (st : State) : Answer := issueOp 0xED n (.suspend n) ptrTypes ptrTypes true st

/-- `jinit` (R240). -/
def execJinit (n : Nd) (sc : Scope) (st : State) : Answer := issueOp 0xEE n (.jinit n sc) ptrTypes ptrTypes true st

/-- `jarrive` (R241). -/
def execJarrive (n : Nd) (sc : Scope) (st : State) : Answer := issueOp 0xEF n (.jarrive n sc) ptrTypes allTypes true st

/-- `bar.arrive` (R246). -/
def execBarArrive (n : Nd) (sc : Scope) (st : State) : Answer :=
  issueOp 0xF0 n (.barArrive n sc) ptrTypes allTypes true st

/-- `bar.wait` (R247). -/
def execBarWait (n : Nd) (sc : Scope) (st : State) : Answer := issueOp 0xF1 n (.barWait n sc) ptrTypes [.i64] true st

/-- `q.push` (R249). -/
def execQPush (n : Nd) (sc : Scope) (st : State) : Answer := issueOp 0xF2 n (.qPush n sc) ptrTypes allTypes true st

/-- `q.pop` (R249). -/
def execQPop (n : Nd) (p : Bool) (sc : Scope) (st : State) : Answer :=
  issueOp 0xF3 n (.qPop n p sc) ptrTypes allTypes true st

/-- `launch` (R245). -/
def execLaunch (n : Nd) (sc : Scope) (st : State) : Answer := issueOp 0xF4 n (.launch n sc) ptrTypes ptrTypes true st

/-- `cut` (R250): the commit itself ends as INTERVAL_COMMIT_COMPLETE. -/
def execCut (n : Nd) (st : State) : Answer := issueOp 0xF5 n (.cut n) allTypes allTypes false st

/-! ### Records that are enqueued and parked -/


/-- The record of a region parked under a name, with its cluster (R241). -/
def findParked (s : State) (cx name : Nat) : Option (Nat × Rec) :=
  s.clusters.findSome? fun p =>
    ((p.2.parked.find? fun r => r.name = name && r.waitOp.isNone && (s.region r.rid).cx = cx)).map fun r => (p.1, r)

/-- Enqueue a parked record, its image completed; none for want of room (R61). What holds it, of the frame class or the spill area, holds it until
its tokens are emitted (R62). -/
def enqueueParked (s : State) (cl : Nat) (r : Rec) (g : BitVec 1280 → BitVec 1280) : Option State :=
  enqueueRecord (s.modCluster cl fun c => { c with parked := c.parked.erase r })
    { r with img := g r.img, waitOp := none, home := if r.spilled then none else some cl }

/-- The operation of `spawn` (R243). -/
def performSpawn (s : State) (u : UId) (a : Access) (n : Nd) : OpRes :=
  ⟨s, a, do
    let (img, s) ← engImage s u a.f.rid (opA a) a.f.o.isSome
    let rid ← liftRes (checkRecord s a.f.rid img)
    if !RecImg.newf img then liftRes (needLive s rid (RecImg.tag img))
    match enqueueRecord s ⟨0, liveImage img 0, rid, false, false, none, 0, none⟩ with
    | none => .error .spill
    | some s => opSend s u a n (marker 1 false)⟩

/-- The operation of `suspend` (R242). -/
def performSuspend (s : State) (u : UId) (a : Access) (n : Nd) : OpRes :=
  ⟨s, a, do
    engNeed (opA a / 2 ^ 56 == 0) .address 0 (opA a)
    let (img, s) ← engImage s u a.f.rid (opA a) a.f.o.isSome
    let rid ← liftRes (checkRecord s a.f.rid img)
    let (blk, t, s) ← engBlock s u a.f.rid (opB a) 16 a.f.o.isSome
    engNeed (blk / 2 ^ 64 == 0) .joinBusy
    let r : Rec := ⟨opA a, liveImage img 1, rid, false, false, none, 0, none⟩
    if blk % 2 ^ 64 = 0 then
      match enqueueRecord s { r with img := liveImage img 0 } with
      | none => .error .spill
      | some s => opSend s u a n (marker 1 false)
    else match parkRecord s u.cl r with
      | none => .error .spill
      | some s => opSend (engWrite s a.f.rid t 8 8 (opA a)) u a n (marker 1 false)⟩

/-- The operation of `jinit` (R240). -/
def performJinit (s : State) (u : UId) (a : Access) (n : Nd) (sc : Scope) : OpRes :=
  ⟨s, a, do
    let (blk, t, s) ← engBlock s u a.f.rid (opA a) 16 a.f.o.isSome
    engNeed (blk / 2 ^ 64 == 0) .joinBusy
    opSend (engWrite s a.f.rid t 0 16 (opB a)) u a n (marker sc.code.toNat false)⟩

/-- The line of a parked record that has an uncorrectable error, if one has: in the frame class of its cluster, or in its
place of the spill area (R60, R355, R356; log 61). -/
def recordError (s : State) (cl : Nat) (r : Rec) : Option Flt :=
  if r.spilled then
    (List.range 5).findSome? fun i =>
      match heapTarget s r.rid (Rcb.spill (s.region r.rid).rcb + 160 * r.spot + 32 * i) with
      | some (.at t) => if s.poison.contains t.line then some ⟨.memError, t.phys / 64 * 64, 0⟩ else none
      | _ => none
  else
    (List.range 4).findSome? fun i =>
      let p := frameClassAt s cl (Config.recordPlace cl r.name + min (64 * i) 159) / 64 * 64
      if s.poison.contains (poolKey cl p) then some ⟨.poolError, p, 0xFC * 2 ^ 56 + p⟩ else none

/-- Enqueue a parked record whose wait has ended, its image completed: one that cannot be read faults, and want of room holds
the completion (R61, R355). -/
def wakeParked (s : State) (cl : Nat) (r : Rec) (g : BitVec 1280 → BitVec 1280) : EngM State :=
  match recordError s cl r with
  | some f => .error (.fault f)
  | none => match enqueueParked s cl r g with
    | some t => .ok t
    | none => .error .spill

/-- Enqueue the parent that a counter's arrival woke, clear its parent word, and send the token (R241). DESIGN CHOICE: a
parent word that names no parked record is cleared too, and nothing is enqueued (log 49). -/
def arriveEnd (s : State) (u : UId) (a : Access) (n : Nd) (sc : Scope) (t : Target) (parent : Nat) : EngM State :=
  match findParked s (s.region a.f.rid).cx parent with
  | none => opSend (engWrite s a.f.rid t 8 8 0) u a n (marker sc.code.toNat false)
  | some (cl, r) => do
    let s ← wakeParked s cl r id
    opSend (engWrite s a.f.rid t 8 8 0) u a n (marker sc.code.toNat false)

/-- Whether an operation is the arrival of an activation whose frame is not free yet (R66). -/
def frameOwed (s : State) (a : Access) : Bool := a.f.stage == 1 && (frameAt s a.f.rid a.f.tag).st == .returning

/-- The operation of `jarrive` (R65, R142, R241), a release: it follows the stores that its input may depend on. `aux` is 1
once its decrement is performed and the parent waits for room; what its tokens would fault on stops it before that (R13). -/
def performJarrive (s : State) (u : UId) (a : Access) (n : Nd) (sc : Scope) : OpRes :=
  if frameOwed s a then ⟨s, a, .error .wait⟩
  else match engBlock (release s u a.f.rid) u a.f.rid (opA a) 16 a.f.o.isSome with
  | .error e => ⟨s, a, .error e⟩
  | .ok (blk, t, s1) =>
    let count := blk % 2 ^ 64
    let parent := blk / 2 ^ 64
    if a.aux = 1 then ⟨s1, a, arriveEnd s1 u a n sc t parent⟩
    else if count = 0 then ⟨s, a, engFault .joinUnderflow⟩
    else
      let s2 := engWrite s1 a.f.rid t 0 8 (count - 1)
      match opSend s2 u a n (marker sc.code.toNat false) with
      | .error e => ⟨s, a, .error e⟩
      | .ok t2 =>
        if count = 1 ∧ parent ≠ 0 then ⟨s2, { a with aux := 1 }, arriveEnd s2 u a n sc t parent⟩ else ⟨s, a, .ok t2⟩

/-- Make the watchers of a barrier in a region's host set read it again (R246, R247). -/
def wakeWatchers (s : State) (rid key : Nat) : State :=
  (s.region rid).host.foldl (fun s cl =>
    s.modUnit ⟨cl, .eng, 0⟩ fun h =>
      { h with watchers := h.watchers.map fun w => if w.aux = key then { w with woken := true } else w }) s

/-- The operation of `bar.arrive` (R246), a release as `jarrive` is. -/
def performBarArrive (s : State) (u : UId) (a : Access) (n : Nd) (sc : Scope) : OpRes :=
  ⟨s, a, do
    let (blk, t, s) ← engBlock (release s u a.f.rid) u a.f.rid (opA a) 16 a.f.o.isSome
    let expected := bits blk 31 0
    let arrived := bits blk 63 32
    let gen := bits blk 127 64
    engNeed (expected != 0 && decide (arrived < expected)) .barrier
    let s :=
      if arrived + 1 = expected then
        wakeWatchers (engWrite s a.f.rid t 4 12 ((gen + 1) % 2 ^ 64 * 2 ^ 32)) a.f.rid t.key
      else engWrite s a.f.rid t 4 4 (arrived + 1)
    opSendPair s u a n (some (plain (BitVec.ofNat 64 gen) .i64)) (some (marker sc.code.toNat false))⟩

/-- The operation of `bar.wait` (R247): the tokens once the generation has passed, else a watcher. -/
def performBarWait (s : State) (u : UId) (a : Access) (n : Nd) (sc : Scope) : OpRes :=
  ⟨s, a, do
    let (t, _) ← engAt s u a.f.rid (opA a) 16 16 true false a.f.o.isSome
    let (blk, _, s) ← engRead s u a.f.rid (opA a) 16 16 a.f.o.isSome
    if blk / 2 ^ 64 ≠ opB a then
      opSendPair (dropBuffers s u.cl) u a n (some (plain 1 .control)) (some (marker sc.code.toNat false))
    else if (s.unit u).watchers.length < 16 then
      return s.modUnit u fun h => { h with watchers := h.watchers ++ [{ a with aux := t.key, woken := false }] }
    else .error .wait⟩

/-- The operation of `q.push` (R249), a release to the pop that takes its entry. -/
def performQPush (s : State) (u : UId) (a : Access) (n : Nd) (sc : Scope) : OpRes :=
  ⟨s, a, do
    let y := a.f.r.getD (plain 0 .i64)
    let ty := match y with | .scal x => x.ty | .line _ _ _ => .i64
    match ← queuePush (release s u a.f.rid) u a.f.rid (opA a) y.value ty a.f.o.isSome with
    | none => opSendPair s u a n none (some y)
    | some s => opSendPair s u a n (some (marker sc.code.toNat false)) none⟩

/-- The operation of `q.pop` (R249): one that takes an entry is an acquire, so the cluster's read buffers go. -/
def performQPop (s : State) (u : UId) (a : Access) (n : Nd) (p : Bool) : OpRes :=
  ⟨s, a, do
    match ← queuePop s u a.f.rid (opA a) a.f.o.isSome with
    | (none, s) => opSendPair s u a n none (some (plain 0 .control))
    | (some (x, fmt), s) => opSendPair (dropBuffers s u.cl) u a n (some (loadToken (.load 8 p) fmt x)) none⟩

/-! ### Launch -/

/-- A field of a virtual device's policy header, Table 14-5. -/
def policyField (v : VDev) (hi lo : Nat) : Nat := bits (ofBytes (v.policy.take 256)) hi lo

/-- The virtual device of a number. -/
def vdOf (s : State) (num : Nat) : Option VDev := (List.find? (fun p => p.2.num = num) s.hg.vds).map (·.2)

/-- Whether children of a virtual device are created held (Table 14-14). -/
def holdsChildren (s : State) (num : Nat) : Bool :=
  match vdOf s num with | some v => policyField v 62 61 == 2 | none => false

/-- The 256 bytes of a region control block. -/
def engBlock256 (s : State) (u : UId) (rid v : Nat) (ord : Bool) : EngM (BitVec 2048 × State) := do
  let mut acc := 0
  let mut st := s
  for i in [0, 1, 2, 3] do
    let (x, _, s') ← engRead st u rid (v + 64 * i) 64 64 ord
    acc := acc + x * 2 ^ (512 * i)
    st := s'
  return (BitVec.ofNat 2048 acc, st)

/-- Read buffers of a child's clusters are empty when it begins (R141). -/
def dropHostBuffers (s : State) (rid : Nat) : State := (s.region rid).host.foldl dropBuffers s

/-- The operation of `launch` (R141, R245): fence, checks, configuration; its token once the child has begun. -/
def performLaunch (s : State) (u : UId) (a : Access) (n : Nd) (sc : Scope) : OpRes :=
  if a.st = .flight then
    ⟨s, a, if (s.region a.aux).begun then opSend s u a n (marker sc.code.toNat false) else .error .wait⟩
  else
    let s0 := drainUn (release s u a.f.rid) a.f.rid u.cl sc
    let read : EngM (BitVec 2048 × BitVec 1280 × State) := do
      engNeed (opA a / 2 ^ 56 == 0) .address 0 (opA a)
      engNeed (opA a % 256 == 0) .alignment 0 (opA a)
      let (own, s1) ← engBlock256 s0 u a.f.rid (opA a) a.f.o.isSome
      let (img, s1) ← engImage s1 u a.f.rid (opB a) a.f.o.isSome
      return (own, img, s1)
    match read with
    | .error e => ⟨s0, a, .error e⟩
    | .ok (own, img, s1) =>
      let st := launchStatus s1 a.f.rid own img
      if st ≠ 0 then ⟨refusedLaunch s0 a.f.rid st own, a, engFault .launch st⟩
      else ⟨s0, a,
        let eff := effective own (s1.region a.f.rid).rcb
        match launchCode s1 (s1.region a.f.rid).cx own with
        | none => engFault .launch 0x16
        | some l =>
          let (child, s2) := startRegion s1 a.f.rid eff l img (holdsChildren s1 (s1.region a.f.rid).vd)
          let b : Access := { a with st := .flight, aux := child }
          let keep := s2.modUnit u fun h => { h with ops := h.ops ++ [{ b with id := s2.nextId }] }
          return { keep with nextId := s2.nextId + 1 }⟩

/-! ### Dispatch (R61 to R63) -/

/-- Whether records of a region are dispatched at all now: it runs, and neither it nor its partition is frozen (R352,
R371). -/
def dispatches (s : State) (rid : Nat) : Bool := (s.region rid).st == .active && !(s.part (s.region rid).part).frozen

/-- Whether a record fits at a cluster (R62); one whose frame is no longer live is discarded at once (R243). That of a region
which is frozen does not fit until the region runs again. -/
def fits (s : State) (cl : Nat) (r : Rec) : Bool :=
  let die := dieOf cl
  dispatches s r.rid &&
  if RecImg.newf r.img then decide (framesUsed s r.rid die < frameBudget (s.region r.rid)) && copyRoom s cl
  else
    let f := frameAt s r.rid (RecImg.tag r.img)
    f.st != .live || f.copies.contains cl || copyRoom s cl

/-- Whether a queued record counts at all: not held, and its region not gated (R63, R360). -/
def mayDispatch (s : State) (r : Rec) : Bool := !r.held && !(s.region r.rid).gated

/-- The entry tokens of a record under a tag (R62, R244). -/
def entryTokens (cl : Nat) (r : Rec) (t : Tag) (seq : Nat) : List Flit :=
  let w := RecImg.entry r.img
  let n := RecImg.live r.img
  let at' := fun (i : Nat) (p : Payload) =>
    (⟨⟨cl, .eng, 2⟩, 0, r.rid, cl, Arc.kind w, Arc.unit w, Arc.slot w + i, false, p, t, seq, 0⟩ : Flit)
  let vals := (List.range n).map fun i => at' i (plain (RecImg.value r.img i) ((TType.ofCode? (RecImg.ctype r.img i)).getD .i64))
  let join := if !RecImg.newf r.img && RecImg.join r.img != 0 then
    [at' n (plain (BitVec.ofNat 64 (RecImg.join r.img)) .u64)] else []
  if n = 0 ∧ join = [] then [at' 0 (plain 0 .control)]
  else if n = 0 then at' 0 (plain 0 .control) :: join
  else vals ++ join

/-- The activation of a region begins with its first record: the read buffers of its ports are empty then (R141, R245). -/
def beginRegion (s : State) (rid : Nat) : State :=
  if (s.region rid).begun then s else (dropHostBuffers s rid).modRegion rid fun r => { r with begun := true }

/-- Dispatch a record at a cluster (R62): its frame, its copy, an acquire (R142), and its tokens. DESIGN CHOICE: the tokens
of a record with newf, whose ix field is ignored, carry index 0 (log 50). -/
def dispatchRecord (s : State) (cl : Nat) (r : Rec) : State :=
  let die := dieOf cl
  let s := dropBuffers (beginRegion s r.rid) cl
  if RecImg.newf r.img then
    let fr := lowestFree s r.rid die
    let s := newFrame s r.rid die fr cl (BitVec.ofNat 64 (RecImg.join r.img)) 0 0 r.rid
    { s with net := s.net ++ entryTokens cl r (Tag.mk die fr 0) s.issued }
  else
    let t := RecImg.tag r.img
    match needLive s r.rid t >>= fun _ => ensureCopy s r.rid t cl with
    | .ok s => { s with net := s.net ++ entryTokens cl r t s.issued }
    | .error (.fault f) => faultOrRollback s ⟨none, cl, 0, r.rid, 0, t, 0, 0, 0, 0, none, 0⟩ f
    | .error .wait => s

/-- A freed entry of a dispatcher queue takes the oldest spilled record of a region that can enter there (R61). -/
def refillQueue (s : State) (cl : Nat) : State :=
  let oldest := fun (p : Nat × Region) => match p.2.spill with
    | r :: _ => hostsEntry s r.rid (RecImg.entry r.img) cl
    | [] => false
  match List.find? oldest s.regions with
  | none => s
  | some p => match p.2.spill with
    | r :: l => (s.modRegion p.1 fun g => { g with spill := l }).modCluster cl fun c =>
      { c with disp := c.disp ++ [r.inQueue] }
    | [] => s

/-- RECORD_DISPATCH (R63): the head if it fits, else the earliest behind it that fits, counted; a full count drains. -/
def execRecordDispatch (cl : Nat) (s : State) : Answer :=
  runEvent "RECORD_DISPATCH"
    (let c := s.cluster cl
    let rest := fun (r : Rec) => refillQueue (s.modCluster cl fun c => { c with disp := c.disp.erase r }) cl
    match c.disp.filter (mayDispatch s) with
    | [] => none
    | h :: behind =>
      let skip := if c.skipOf = some h then c.skip else 0
      if fits s cl h then
        some (dispatchRecord ((rest h).modCluster cl fun c => { c with skip := 0, drain := false, skipOf := none }) cl h)
      else if c.drain && c.skipOf == some h then none
      else match behind.find? (fits s cl) with
        | none => none
        | some r =>
          some (dispatchRecord ((rest r).modCluster cl fun c =>
            { c with skip := skip + 1, drain := decide (64 ≤ skip + 1), skipOf := some h }) cl r))

/-- SPILL_WATCHDOG (R357): a region that has waited for spill area for 600,000 clocks without issuing. -/
def execSpillWatchdog (rid : Nat) (s : State) : Answer :=
  runEvent "SPILL_WATCHDOG"
    (let r := s.region rid
    let waits := s.units.any fun p => p.2.ops.any fun a => a.f.rid == rid && a.st == .spill
    match r.spillSince with
    | some t =>
      if waits && r.spillArmed && decide (t + 600000 ≤ s.clock) then
        some (takeFault (s.modRegion rid fun r => { r with spillArmed := false })
          ⟨none, r.host.headD 0, 0, rid, 0, 0, 0, 0, 0, 0, none, 0⟩ ⟨.spillExhausted, 0, 0⟩)
      else none
    | none => none)

/-! ### Cuts -/

/-- Whether any token of a region is live, any of its firings stalls, or any work of it is outstanding (R359). -/
def anyToken (s : State) (rid : Nat) : Bool :=
  s.net.any (·.rid == rid) || outstanding s rid
    || (s.units.any fun p => p.2.ops.any (·.f.rid == rid) || p.2.ingress.any (·.rid == rid) || p.2.store.any (·.rid == rid) || p.2.ready.any (·.rid == rid)
        || p.2.formed.any (·.rid == rid) || p.2.withheld.any (·.2.rid == rid) || p.2.sideLog.any (·.f.rid == rid)
        || p.2.watchers.any (·.f.rid == rid))
    || (s.clusters.any fun p => p.2.tileIn.any (·.2.rid == rid) || p.2.wakeBuf.any (·.rid == rid)
        || p.2.slotWait.any (·.f.rid == rid) || p.2.bankA.claims.any (·.2.rid == rid) || p.2.bankB.claims.any (·.2.rid == rid))
    || (s.frames.any fun p => p.1.1 == rid && p.2.talloc != [])
    || s.regions.any fun p => p.2.falloc.any fun w => w.2.f.rid == rid

/-- The cut record (R250, Table 02-8): the live value, its type, the firing's tag, destination 0's arc without offsets, and
the handle of the region's code object. -/
def cutImage (s : State) (u : UId) (a : Access) (n : Nd) (cause : Nat) : BitVec 1280 :=
  let arc := match n.d with | .arc k => (AL.get 0 (s.unit u).arcs k.toNat).toNat / 2 ^ 14 * 2 ^ 14 | _ => 0
  let x := a.f.l.getD (plain 0 .i64)
  let ty := match x with | .scal x => x.ty.code | .line _ _ _ => 0
  let t := a.f.tag
  BitVec.ofNat 1280 (x.value.toNat * 2 ^ 256 + ty * 2 ^ 192 + cause * 2 ^ 120 + 2 ^ 114 + 2 ^ 112 + t.die * 2 ^ 109
    + t.ix * 2 ^ 100 + t.frame * 2 ^ 88 + 2 ^ 80 + (s.region a.f.rid).num * 2 ^ 64 + arc * 2 ^ 32
    + Rcb.code (s.region a.f.rid).rcb)

/-- INTERVAL_COMMIT_COMPLETE (R147, R250, R359): the logs are committed, the cut record is kept and a new interval begins;
A goes on, unless a save is wanted and A was the region's only live token. The cut record is then the region's continuation,
which is saved and dispatched after the restore: no record of the region is dispatched before. -/
def execIntervalCommitComplete (u : UId) (id : Nat) (s : State) : Answer :=
  runWork "INTERVAL_COMMIT_COMPLETE" do
    let a ← opNo s u id
    match a.i with
    | .cut n =>
      if logging s a.f.rid && logMigrates s a.f.rid then none else
      let s := dropOp (commitLogs s a.f.rid) u id
      let alone := (s.region a.f.rid).yield.isSome && !anyToken s a.f.rid
      let img := cutImage s u a n (if alone then 6 else 5)
      let s := s.modRegion a.f.rid fun r => { r with cutRec := some img, irrevocable := false, errLine := none }
      let p := a.f.l.getD (plain 0 .i64)
      if alone then some ((requeue s a.f.rid img).modRegion a.f.rid fun r => { r with gated := true })
      else
        conclude s (opSite u a) (do
          let s ← sendTo s ⟨u, a.f⟩ n.d p a.f.tag
          if n.e = n.d then return s else sendTo s ⟨u, a.f⟩ n.e (marker 3 false) a.f.tag)
    | _ => none

end Sys2Proof.Machine
end

