-- ==== Sys2Proof/Machine/Lines.lean ====
section
/-! DEFINITION. Line units: operands that are lines, tiles or broadcast scalars (R253, R254), and the meanings of opcodes
0xA0 to 0xBB (R255 to R265). -/

namespace Sys2Proof.Machine

open Sys2Proof

/-! ### Lines and their lanes -/

/-- A line: its data and its descriptor. -/
abbrev Line := LineData × Desc

/-- Lane width and count of a line format (R75, R255): raw lines have lanes of 8 bits. -/
def lineShape (fmt : Nat) : Nat × Nat :=
  match fmt with
  | 0x03 | 0x04 => (32, 16) | 0x02 | 0x05 => (16, 32) | 0x09 | 0x0A | 0x10 => (4, 128) | _ => (8, 64)

/-- The lanes of a line's data, lane 0 first. -/
def lineLanes (fmt : Nat) (d : LineData) : List Nat := lanesOf (lineShape fmt).1 (lineShape fmt).2 d.toNat

/-- A line from its lanes. -/
def lineJoin (w : Nat) (l : List Nat) : LineData := BitVec.ofNat 512 (joinLanes w l)

/-- The floating format of a line of set F, Table 09-1. -/
def setF (fmt : Nat) : Option Fmt := if fmt = 0x04 then some .f32 else if fmt = 0x05 then some .bf16 else none

/-- Whether a format is of set I, Table 09-1. -/
def setI (fmt : Nat) : Bool := [0x01, 0x02, 0x03].contains fmt

/-- Whether a format is of set X, Table 09-1. -/
def setX (fmt : Nat) : Bool := formatOk fmt && fmt != 0x09 && fmt != 0x10

/-- Whether the scale byte of a format is a signed exponent, Table 03-7. -/
def signedExp (fmt : Nat) : Bool := [0x01, 0x07, 0x08, 0x0A].contains fmt

/-- The signed exponent of a descriptor; 0 where its format has none (R89). -/
def expOf (e : Desc) : Int := if signedExp e.fmt then toSigned 8 e.scale else 0

/-- The descriptor of a result line: that of A, with scale byte 0 where it has no meaning (R256, R88). -/
def resultDesc (e : Desc) : Desc := if [0x02, 0x03, 0x04, 0x05].contains e.fmt then Desc.mk e.fmt 0 else e

/-- Raise a format fault for a line. -/
def lineFault {α : Type} (e : Desc) : Res α := flt .format e.toNat

/-! ### Operands -/

/-- Whether a tile-table entry is declared by a configuration packet that has yet to arrive: a firing that names it waits, as
for an empty tile (R57, R104, Table 04-8). -/
def tileComing (s : State) (cl k : Nat) : Bool :=
  s.cfgNet.any fun p =>
    let w := p.line.toNat
    p.cl == cl && Pk.pkind w == 5 && decide (Pk.first w ≤ k) && decide (k < Pk.first w + Pk.count w)

/-- The tile a handle names: a declared tile of location 0 of the cluster (R104, R253), once its declaration has arrived. -/
def tileOfHandle (s : State) (cl : Nat) (v : Word) : Res Nat := do
  need (v.toNat / 2 ^ 56 == 0x01 && bits v.toNat 55 6 == 0) .handle
  let k := bits v.toNat 5 0
  match AL.find? (s.cluster cl).tiles k with
  | some t => do
    need t.om .handle
    return k
  | none => if tileComing s cl k then .error .wait else flt .handle

/-- The lines of a tile, in ascending order (R114). -/
def tileLines (s : State) (cl k : Nat) : List Line :=
  match AL.find? (s.cluster cl).tiles k with
  | none => []
  | some t => (List.range t.lines).map fun i =>
    (BitVec.ofNat 512 (Memory.readN s.mem (tileKey cl t i) 64),
      BitVec.ofNat 16 (Memory.readN s.mem (descKey (tileKey cl t i)) 2))

/-- Demand that no line of a tile has an uncorrectable error (R355); one of location 0 is named by its tile, with its offset
in operand memory as the detail (log 55). -/
def tileClean (s : State) (cl k : Nat) : Res Unit :=
  match AL.find? (s.cluster cl).tiles k with
  | none => .ok ()
  | some t => match (List.range t.lines).find? fun i => s.poison.contains (tileKey cl t i) with
    | some i => flt .poolError (64 * (t.base + i)) (if t.om then 2 ^ 56 + k else 0xFC * 2 ^ 56 + 64 * (t.base + i))
    | none => .ok ()

/-- Operand A of a line-unit node: its lines, and the tile they come from (R253). -/
structure LineA where
  lines : List Line
  tile : Option Nat
deriving DecidableEq, Repr

/-- Read operand A: a line token, or a tile whose lines carry the format of its first (R253). -/
def lineA (s : State) (cl : Nat) (o : Opd) : Res LineA :=
  match o.pay with
  | .line d e _ => .ok ⟨[(d, e)], none⟩
  | .scal x =>
    if o.zero || x.ty != .handle then flt .type
    else do
      clearOf x
      let k ← tileOfHandle s cl x.val
      tileClean s cl k
      let l := tileLines s cl k
      match l.find? fun y => y.2.fmt != (l.headD (0, 0)).2.fmt with
      | some y => lineFault y.2
      | none => return ⟨l, some k⟩

/-- Lanes of a broadcast scalar, Table 03-1: width and count; an i64 is taken as raw lanes of A's width (R254). -/
def scalarShape (ty : TType) (w : Nat) : Nat × Nat :=
  match ty with
  | .i32 | .f32 => (32, 1) | .bf16x4 | .i16x4 => (16, 4) | .e4x8 | .e5x8 | .i8x8 => (8, 8) | .qn4x16 => (4, 16)
  | _ => (w, 64 / w)

/-- The line that broadcasts a scalar over lanes of a width and count (R254). -/
def broadcastLine (x : Scalar) (w n : Nat) : LineData :=
  let (v, k) := scalarShape x.ty w
  lineJoin v ((List.range n).map fun i => (lanesOf v k x.val.toNat).getD (i % k) 0)

/-- Whether a line of B may pair with a line of A (R254). -/
def pairs (a b : Desc) : Bool := a.fmt == b.fmt && (!signedExp a.fmt || a.scale == b.scale)

/-- The B line of each line of A (R254): `exempt` opcodes take any format. -/
def lineB (s : State) (cl : Nat) (a : LineA) (exempt : Bool) (o : Opd) : Res (List Line) := do
  let one := fun (l : Line) => a.lines.map fun _ => l
  let bs ← match o.pay with
    | .line d e _ => .ok (one (d, e))
    | .scal x =>
      if o.zero then .ok (a.lines.map fun l => ((0 : LineData), l.2))
      else if x.ty == .handle then (do
        clearOf x
        need a.tile.isSome .type
        let k ← tileOfHandle s cl x.val
        tileClean s cl k
        let l := tileLines s cl k
        need (l.length == a.lines.length) .handle
        return l)
      else (do
        clearOf x
        let fmt := (a.lines.headD (0, 0)).2.fmt
        need (x.ty == .i64 || declared x.ty == fmt) .type
        return a.lines.map fun l => (broadcastLine x (lineShape fmt).1 (lineShape fmt).2, l.2))
  match (List.zip a.lines bs).find? fun p => !exempt && !pairs p.1.2 p.2.2 with
  | some p => lineFault p.2.2
  | none => return bs

/-! ### Running a line-unit node -/

/-- The tiles that a firing consumes when it issues: those its operands A and B name, B's only beside A's (R253, R254). -/
def firingTiles (s : State) (c : Cur) (n : Nd) : List Nat :=
  let named := fun (a : Src) => match readSrc s c a with
    | .ok (⟨.scal x, false⟩, _) => if x.ty == .handle then
        (match tileOfHandle s c.u.cl x.val with | .ok k => some k | .error _ => none) else none
    | _ => none
  match named n.a with
  | none => []
  | some k => match named n.b with
    | some j => if j = k then [k] else [k, j]
    | none => [k]

/-- Whether a tile is ready (R40). -/
def tileReady (s : State) (cl k : Nat) : Bool :=
  match AL.find? (s.cluster cl).tiles k with | some t => t.st == .ready | none => false

/-- One consuming firing of a tile, issued and with its last line read (R113). -/
def consumeTile (cl : Nat) (s : State) (k : Nat) : State :=
  match AL.find? (s.cluster cl).tiles k with
  | some t => tileDone (tileUse s cl k t) cl k
  | none => s

/-- Run the meaning of a line-unit node: it waits for the tiles it names (R40); a tile-form firing that faults has
issued, so its use counts as consumed (R253). -/
def runLines (op : Nat) (n : Nd) (st : State) (body : State → Cur → Opd → Opd → Res State) : Answer :=
  match st.cur with
  | none => .refused (.notEnabled "a node without a firing")
  | some c =>
    let s0 := { st with cur := none }
    let tiles := if op = 0xB5 then [] else firingTiles s0 c n
    if !tiles.all (tileReady s0 c.u.cl) then .next st
    else
      let s1 := tiles.foldl (consumeTile c.u.cl) s0
      match (do
        let (a, s) ← readSrc s1 c n.a
        let (b, s) ← readSrc s c n.b
        body s c a b) with
      | .ok t => .next (countRetired t c op)
      | .error (.fault f) => .next (faultOrRollback (countRetired s1 c op) (siteOf s0 c op n.a n.b) f)
      | .error .wait => .next st

/-- Emit one result line per line, in order, on both destinations (R256). -/
def emitLines (s : State) (c : Cur) (n : Nd) (b : Opd) (l : List Line) : Res State :=
  l.foldlM (fun s x => finish s c n b.pay (.line x.1 x.2 none)) s

/-- The results of a lane-by-lane operation, line by line: `g` answers the lanes for a format, or none outside its set. -/
def mapLines (g : Nat → List Nat → List Nat → Option (List Nat)) (desc : Desc → Desc) :
    List Line → List Line → Res (List Line)
  | (d, e) :: l, (d', _) :: l' => do
    match g e.fmt (lineLanes e.fmt d) (lineLanes e.fmt d') with
    | none => lineFault e
    | some r =>
      let rest ← mapLines g desc l l'
      return (lineJoin (lineShape e.fmt).1 r, desc e) :: rest
  | _, _ => .ok []

/-- A two-operand lane-by-lane instruction. -/
def lines2 (op : Nat) (n : Nd) (exempt : Bool) (desc : Desc → Desc) (st : State)
    (g : Cur → State → Nat → List Nat → List Nat → Option (List Nat)) : Answer :=
  runLines op n st fun s c a b => do
    let x ← lineA s c.u.cl a
    let y ← lineB s c.u.cl x exempt b
    let r ← mapLines (g c s) desc x.lines y
    emitLines s c n b r

/-- A one-operand lane-by-lane instruction. -/
def lines1 (op : Nat) (n : Nd) (st : State) (g : Nat → List Nat → Option (List Nat)) : Answer :=
  runLines op n st fun s c a b => do
    let x ← lineA s c.u.cl a
    let r ← mapLines (fun k l _ => g k l) resultDesc x.lines x.lines
    emitLines s c n b r

/-- Lanes of set F and set I combined: exact values rounded once, integers fitted (R258). -/
def fiLanes (fz : Bool) (mode : Rnd) (sat : Bool) (gf : FV → FV → FV) (gi : Int → Int → Int) (fmt : Nat)
    (a b : List Nat) : Option (List Nat) :=
  match setF fmt with
  | some f => some (List.zipWith (fun x y =>
      (f.round mode fz .arith (gf (f.flushIn fz (f.value x)) (f.flushIn fz (f.value y)))).1) a b)
  | none =>
    if setI fmt then
      let w := (lineShape fmt).1
      some (List.zipWith (fun x y => laneFit w false sat (gi (toSigned w x) (toSigned w y))) a b)
    else none

/-- `vadd` (R258). -/
def execVadd (n : Nd) (x f : Bool) (r : Rnd) (st : State) : Answer :=
  lines2 0xA0 n false resultDesc st fun _ _ => fiLanes f r x (FV.add r) (· + ·)

/-- `vsub` (R258). -/
def execVsub (n : Nd) (x f : Bool) (r : Rnd) (st : State) : Answer :=
  lines2 0xA1 n false resultDesc st fun _ _ => fiLanes f r x (fun a b => FV.add r a (FV.neg b)) (· - ·)

/-- `vmul` (R258). -/
def execVmul (n : Nd) (x f : Bool) (r : Rnd) (st : State) : Answer :=
  lines2 0xA2 n false resultDesc st fun _ _ => fiLanes f r x FV.mul (· * ·)

/-- The lanes of `vfma`: alpha times a, plus b, rounded once (Table 09-1). -/
def fmaLanes (fz : Bool) (mode : Rnd) (alpha : FV) (fmt : Nat) (a b : List Nat) : Option (List Nat) :=
  if (setF fmt).isSome then
    fiLanes fz mode false (fun x y => FV.add mode (FV.mul (Fmt.f32.flushIn fz alpha) x) y) (· + ·) fmt a b
  else none

/-- `vfma` (R258): alpha stands in `lit13`. -/
def execVfma (n : Nd) (f : Bool) (r : Rnd) (st : State) : Answer :=
  lines2 0xA3 n false resultDesc st fun c s =>
    fmaLanes f r (Fmt.f32.value ((AL.get 0 (s.unit c.u).lits 13).toNat % 2 ^ 32))

/-- `vmin` (R258, R192). -/
def execVmin (n : Nd) (nm f : Bool) (_r : Rnd) (st : State) : Answer :=
  lines2 0xA4 n false resultDesc st fun _ _ => fiLanes f .ne false (minMax false nm) fun a b => if b < a then b else a

/-- `vmax` (R258, R192). -/
def execVmax (n : Nd) (nm f : Bool) (_r : Rnd) (st : State) : Answer :=
  lines2 0xA5 n false resultDesc st fun _ _ => fiLanes f .ne false (minMax true nm) fun a b => if a < b then b else a

/-- `vabs` (R258). -/
def execVabs (n : Nd) (x f : Bool) (_r : Rnd) (st : State) : Answer :=
  lines1 0xA6 n st fun k a => fiLanes f .ne x (fun v _ => FV.abs v) (fun v _ => (v.natAbs : Int)) k a a

/-- `vneg` (R258). -/
def execVneg (n : Nd) (x f : Bool) (_r : Rnd) (st : State) : Answer :=
  lines1 0xA7 n st fun k a => fiLanes f .ne x (fun v _ => FV.neg v) (fun v _ => -v) k a a

/-- The lanes of an approximation: P12 on FP32 lines, one rounding on BF16 lines (R194, R258). -/
def approxLanes (fz : Bool) (mode : Rnd) (g : FV → Near) (fmt : Nat) (a : List Nat) : Option (List Nat) :=
  (setF fmt).map fun f => a.map fun x => approx f mode fz g (f.value x)

/-- `vexp2` (R258). -/
def execVexp2 (n : Nd) (f : Bool) (r : Rnd) (st : State) : Answer :=
  lines1 0xA8 n st (approxLanes f r Sys2Proof.Machine.fexp2)

/-- `vlog2` (R258). -/
def execVlog2 (n : Nd) (f : Bool) (r : Rnd) (st : State) : Answer :=
  lines1 0xA9 n st (approxLanes f r Sys2Proof.Machine.flog2)

/-- `vrcp` (R258). -/
def execVrcp (n : Nd) (f : Bool) (r : Rnd) (st : State) : Answer :=
  lines1 0xAA n st (approxLanes f r Sys2Proof.Machine.frcp)

/-- `vrsqrt` (R258). -/
def execVrsqrt (n : Nd) (f : Bool) (r : Rnd) (st : State) : Answer :=
  lines1 0xAB n st (approxLanes f r Sys2Proof.Machine.frsqrt)

/-- The lanes of `vcmp`: all ones where the condition holds (R259). -/
def cmpLanes (k : Cond) (fmt : Nat) (a b : List Nat) : Option (List Nat) :=
  let w := (lineShape fmt).1
  let ones := fun (t : Bool) => if t then 2 ^ w - 1 else 0
  match setF fmt with
  | some f => some (List.zipWith (fun x y => ones (floatCond k (f.value x) (f.value y))) a b)
  | none => if setI fmt then some (List.zipWith (fun x y => ones (intCond k w x y)) a b) else none

/-- `vcmp` (R259): a raw line. -/
def execVcmp (n : Nd) (k : Cond) (st : State) : Answer :=
  lines2 0xAC n false (fun _ => 0x0000) st fun _ _ => cmpLanes k

/-- Lanes of set X combined as raw bits (R258). -/
def rawLanes (g : Nat → Nat → Nat) (fmt : Nat) (a b : List Nat) : Option (List Nat) :=
  if setX fmt then some (List.zipWith g a b) else none

/-- `vsel` (R258). -/
def execVsel (n : Nd) (_m : BitVec 3) (st : State) : Answer :=
  lines2 0xAD n true resultDesc st fun _ _ => rawLanes fun a b => if b = 0 then 0 else a

/-- `vand` (R258). -/
def execVand (n : Nd) (_m : BitVec 3) (st : State) : Answer :=
  lines2 0xAE n true resultDesc st fun _ _ => rawLanes (· &&& ·)

/-- `vor` (R258). -/
def execVor (n : Nd) (_m : BitVec 3) (st : State) : Answer :=
  lines2 0xAF n true resultDesc st fun _ _ => rawLanes (· ||| ·)

/-- `vxor` (R258). -/
def execVxor (n : Nd) (_m : BitVec 3) (st : State) : Answer :=
  lines2 0xB0 n true resultDesc st fun _ _ => rawLanes (· ^^^ ·)

/-- Lanes of set I combined at their width (R258). -/
def shiftLanes (g : Nat → Nat → Nat → Nat) (fmt : Nat) (a b : List Nat) : Option (List Nat) :=
  let w := (lineShape fmt).1
  if setI fmt then some (List.zipWith (g w) a b) else none

/-- `vshl` (R258). -/
def execVshl (n : Nd) (_m : BitVec 3) (st : State) : Answer :=
  lines2 0xB1 n false resultDesc st fun _ _ => shiftLanes fun w a b => a * 2 ^ (b % w) % 2 ^ w

/-- `vshr` (R258). -/
def execVshr (n : Nd) (u : Bool) (_m : BitVec 3) (st : State) : Answer :=
  lines2 0xB2 n false resultDesc st fun _ _ =>
    shiftLanes fun w a b => truncInt w (laneInt w u a / ((2 ^ (b % w) : Nat) : Int))

/-! ### Conversions (R260, R261) -/

/-- The output format of a conversion word's target code (R260). -/
def cvtTarget : Nat → Option OutFmt
  | 0x01 => some (.int .i8x8 8 64) | 0x02 => some (.int .i16x4 16 32) | 0x03 => some (.int .i32 32 16)
  | 0x04 => some (.float ⟨.f32, .f32, 32, 16⟩) | 0x05 => some (.float ⟨.bf16x4, .bf16, 16, 32⟩)
  | 0x07 => some (.float ⟨.e4x8, .e4, 8, 64⟩) | 0x08 => some (.float ⟨.e5x8, .e5, 8, 64⟩)
  | 0x09 => some .qn4 | 0x0A => some (.int .i8x8 4 128) | _ => none

/-- The exact values of a line's lanes, its scale included (R86, R89); none for a raw line, whose lanes are no numbers. -/
def lineValues (fz : Bool) (super : Nat) (d : LineData) (e : Desc) : Option (List FV) :=
  let l := lineLanes e.fmt d
  let float := fun (f : Fmt) => some (l.map fun x => FV.scale (expOf e) (f.flushIn fz (f.value x)))
  match e.fmt with
  | 0x04 => float .f32 | 0x05 => float .bf16 | 0x07 => float .e4 | 0x08 => float .e5
  | 0x09 | 0x10 => some (l.map (qnValue (lineScale super e.scale)))
  | 0x01 | 0x02 | 0x03 | 0x0A =>
    some (l.map fun x => FV.scale (expOf e) (FV.ofInt (toSigned (lineShape e.fmt).1 x)))
  | _ => none

/-- The descriptor of a converted line (R260). -/
def cvtDesc (target scale : Nat) : Desc :=
  if [0x02, 0x03, 0x04, 0x05].contains target then Desc.mk target 0 else Desc.mk target scale

/-- Lanes of an output format in a line. -/
def targetLanes (target : Nat) : Nat := (lineShape target).2

/-- Convert lanes of a line: output lanes from `p`, input lanes from `o`; the line, and the overflow bit of each lane
converted (R260). -/
def cvtLine (t : OutFmt) (target scale super p o : Nat) (fz : Bool) (mode : Rnd) (x : List FV) : Line × List Bool :=
  let down := if signedExp target then -(toSigned 8 scale) else 0
  let ls := lineScale super scale
  let m := min (x.length - o) (targetLanes target - p)
  let r := ((x.drop o).take m).map fun v => cvtLane t false fz mode ls (.fv (FV.scale down v))
  let lanes := List.replicate p 0 ++ r.map (·.1) ++ List.replicate (targetLanes target - p - m) 0
  ((lineJoin (lineShape target).1 lanes, cvtDesc target scale), r.map (·.2))

/-- Convert one line under a conversion word, with the checks of R260. -/
def cvtWord (w : Nat) (fz : Bool) (mode : Rnd) (l : Line) : Res (Line × List Bool) :=
  let target := bits w 7 0
  let p := bits w 22 16
  let o := bits w 30 24
  let super := bits w 63 32
  let quant := target == 0x09 || l.2.fmt == 0x09 || l.2.fmt == 0x10
  match cvtTarget target, lineValues fz super l.1 l.2 with
  | some t, some x =>
    if bitAt w 23 || bitAt w 31 || (quant && !superOk super) || decide (targetLanes target ≤ p) || decide (x.length ≤ o)
    then lineFault l.2
    else .ok (cvtLine t target (bits w 15 8) super p o fz mode x)
  | _, _ => lineFault l.2

/-- The overflow tokens of a converted line: one, or two for more than 64 lanes (R260). -/
def cvtOverflow (l : List Bool) : List Payload :=
  if l.any id then
    plain (BitVec.ofNat 64 (laneMask (l.take 64))) .control ::
      (if 64 < l.length then [plain (BitVec.ofNat 64 (laneMask (l.drop 64))) .control] else [])
  else []

/-- Send a converted line on destination 0 and its overflow tokens on destination 1, or count them (R93, R260). -/
def cvtEmit (s : State) (c : Cur) (n : Nd) (b : Opd) (r : Line × List Bool) : Res State := do
  let t ← tagOf s c n.t b.pay
  let s ← sendTo s c n.d (.line r.1.1 r.1.2 none) t
  (cvtOverflow r.2).foldlM (fun s p =>
    if n.e = .none then .ok (countDiscard s c.u) else if n.e = n.d then .ok s else sendTo s c n.e p t) s

/-- `vcvt` (R260). -/
def execVcvt (n : Nd) (f : Bool) (r : Rnd) (st : State) : Answer :=
  runLines 0xB3 n st fun s c a b => do
    let x ← lineA s c.u.cl a
    let w ← scalarU b [.i64]
    let l ← x.lines.mapM (cvtWord w.val.toNat f r)
    l.foldlM (fun s y => cvtEmit s c n b y) s

/-- A line times 2^k (R261); beyond 4096 either way the result no longer depends on k. -/
def sclLine (fz : Bool) (mode : Rnd) (k : Int) (l : Line) : Res Line :=
  let e := l.2
  match setF e.fmt with
  | some f =>
    let g := fun x => (f.round mode fz .arith (FV.scale (max (-4096) (min 4096 k)) (f.flushIn fz (f.value x)))).1
    .ok (lineJoin (lineShape e.fmt).1 ((lineLanes e.fmt l.1).map g), resultDesc e)
  | none =>
    let t := toSigned 8 e.scale + k
    if signedExp e.fmt && decide (-128 ≤ t) && decide (t ≤ 127) then .ok (l.1, Desc.mk e.fmt (truncInt 8 t)) else lineFault e

/-- `vscl` (R261). -/
def execVscl (n : Nd) (f : Bool) (r : Rnd) (st : State) : Answer :=
  runLines 0xB4 n st fun s c a b => do
    let x ← lineA s c.u.cl a
    let k ← scalarU b [.i64]
    let l ← x.lines.mapM (sclLine f r (toSigned 64 k.val.toNat))
    emitLines s c n b l

/-! ### Lane moves (R262) -/

/-- `vbcast` (R262): a line from a scalar. -/
def execVbcast (n : Nd) (_m : BitVec 3) (st : State) : Answer :=
  runLines 0xB5 n st fun s c a b => do
    let x ← scalarU a allTypes
    let fmt := declared x.ty
    emitLines s c n b [(broadcastLine x (lineShape fmt).1 (lineShape fmt).2, Desc.mk fmt 0)]

/-- Lane `k` of a line as a scalar (R262). -/
def extLane (k : Nat) (l : Line) : Res Payload := do
  let fmt := l.2.fmt
  let (w, n) := lineShape fmt
  if !setX fmt then lineFault l.2
  need (decide (k < n)) .lane (k % 16)
  let x := (lineLanes fmt l.1).getD k 0
  match setF fmt with
  | some f => return plain (BitVec.ofNat 64 (Fmt.f32.round .ne false .arith (f.value x)).1) .f32
  | none => return plain (BitVec.ofNat 64 (if setI fmt || fmt == 0x0A then truncInt 64 (toSigned w x) else x)) .i64

/-- `vext` (R262). -/
def execVext (n : Nd) (_m : BitVec 3) (st : State) : Answer :=
  runLines 0xB6 n st fun s c a b => do
    let x ← lineA s c.u.cl a
    let k ← scalarU b [.i32, .i64]
    let l ← x.lines.mapM (extLane (steerValue k))
    l.foldlM (fun s p => finish s c n b.pay p) s

/-- Lanes permuted by the bytes of another line (R262): an INT4 line moves whole bytes. -/
def permLine (a b : Line) : Res Line :=
  let e := a.2
  let (w, n) := if e.fmt = 0x0A then (8, 64) else lineShape e.fmt
  let la := lanesOf w n a.1.toNat
  let lb := lanesOf 8 n b.1.toNat
  if setX e.fmt then .ok (lineJoin w (lb.map fun i => la.getD i 0), resultDesc e) else lineFault e

/-- `vperm` (R262). -/
def execVperm (n : Nd) (_m : BitVec 3) (st : State) : Answer :=
  runLines 0xB7 n st fun s c a b => do
    let x ← lineA s c.u.cl a
    let y ← lineB s c.u.cl x true b
    let l ← (List.zip x.lines y).mapM fun p => permLine p.1 p.2
    emitLines s c n b l

/-! ### Reductions and accumulation (R263, R264) -/

/-- The lanes of the lines of a reduction: exact values of set F, integers of set I (R263). -/
inductive RedLanes where
  | floats (l : List (List FV))
  | ints (l : List Int)
deriving DecidableEq, Repr

/-- Lanes of a reduction's lines, which carry one format (R253, R263). -/
def redLanes (l : List Line) : Res RedLanes :=
  let e := (l.headD (0, 0)).2
  match setF e.fmt with
  | some f => .ok (.floats (l.map fun x => (lineLanes e.fmt x.1).map f.value))
  | none =>
    if setI e.fmt then .ok (.ints (l.flatMap fun x => (lineLanes e.fmt x.1).map (toSigned (lineShape e.fmt).1)))
    else lineFault e

/-- An f32 token of an exact value. -/
def f32Token (v : FV) : Payload := plain (BitVec.ofNat 64 (Fmt.f32.round .ne false .arith v).1) .f32

/-- Fold a non-empty list from its first member. -/
def foldFirst {α : Type} (g : α → α → α) (dflt : α) : List α → α
  | [] => dflt
  | a :: l => l.foldl g a

/-- The result of `rsum` (R97, R263). -/
def sumLanes (r : RedLanes) : Payload :=
  match r with
  | .floats l => f32Token (foldFirst addF32 (.fin false 0 0) (l.map treeSum))
  | .ints l => plain (BitVec.ofNat 64 (truncInt 64 (l.foldl (· + ·) 0))) .i64

/-- The result of `rmin` and `rmax` (R263). -/
def minMaxLanes (more nan abs : Bool) (r : RedLanes) : Payload :=
  match r with
  | .floats l => f32Token (foldFirst (minMax more nan) .nan ((l.flatMap id).map fun v => if abs then FV.abs v else v))
  | .ints l =>
    let l := l.map fun x => if abs then (x.natAbs : Int) else x
    let pick := fun (a b : Int) => if more then (if a < b then b else a) else (if b < a then b else a)
    plain (BitVec.ofNat 64 (truncInt 64 (foldFirst pick 0 l))) .i64

/-- A reduction: one scalar from a line or a tile. -/
def reduceLines (op : Nat) (n : Nd) (st : State) (g : RedLanes → Payload) : Answer :=
  runLines op n st fun s c a b => do
    let x ← lineA s c.u.cl a
    let r ← redLanes x.lines
    finish s c n b.pay (g r)

/-- `rsum` (R263). -/
def execRsum (n : Nd) (_m : BitVec 2) (st : State) : Answer := reduceLines 0xB8 n st sumLanes

/-- `rmin` (R263). -/
def execRmin (n : Nd) (nm x : Bool) (_m : BitVec 2) (st : State) : Answer := reduceLines 0xB9 n st (minMaxLanes false nm x)

/-- `rmax` (R263). -/
def execRmax (n : Nd) (nm x : Bool) (_m : BitVec 2) (st : State) : Answer := reduceLines 0xBA n st (minMaxLanes true nm x)

/-- The 16 FP32 addends of each accumulator line that a line brings (R264). -/
def accParts (fz : Bool) (l : Line) : Res (List (List FV)) :=
  match setF l.2.fmt with
  | none => lineFault l.2
  | some f =>
    let v := (lineLanes l.2.fmt l.1).map fun x => f.flushIn fz (f.value x)
    .ok (if l.2.fmt = 0x04 then [v] else [v.take 16, v.drop 16])

/-- Add 16 values into an accumulator line, each rounded once to nearest (R264). -/
def accAdd (s : State) (fz : Bool) (key : Nat) (v : List FV) : State :=
  let old := lanesOf 32 16 (Memory.readN s.mem key 64)
  let new := List.zipWith (fun x a =>
    (Fmt.f32.round .ne fz .arith (FV.add .ne (Fmt.f32.flushIn fz (Fmt.f32.value x)) a)).1) old v
  visibleWrite s key (cellsOf key 64 (joinLanes 32 new)) (some 0x0400) none

/-- `racc` (R264): every line added, then an ordering token of scope cluster; irrevocable in a logged interval (R265). -/
def execRacc (n : Nd) (f : Bool) (_r : Rnd) (st : State) : Answer :=
  runLines 0xBB n st fun s c a b => do
    let x ← lineA s c.u.cl a
    let off ← scalarOr b .i64 .address
    let parts ← x.lines.mapM (accParts f)
    let l := parts.flatMap id
    let o := off.val.toNat
    let w := (s.cluster c.u.cl).pword
    need (o % 64 == 0 && decide (o + 64 * l.length ≤ classSize w 2)) .address 0 o
    let base := poolKey c.u.cl (classBase w 2 + o)
    match (List.range l.length).find? fun i => s.poison.contains (base + 64 * i) with
    | some i => flt .poolError (classBase w 2 + o + 64 * i) o
    | none => do
      let s := makeIrrevocable s c.f.rid
      let s := l.zipIdx.foldl (fun s p => accAdd s f (base + 64 * p.2) p.1) s
      finish s c n b.pay (marker 1 false)

end Sys2Proof.Machine
end

