-- ==== Sys2Proof/Machine/LookupUnit.lean ====
section
/-! DEFINITION. The lookup matrix unit (R266 to R282): bank claims, table building and filling (R98, R143 to R145), passes
(R99 to R101), drains, spill and reload, and its events. Opcodes 0xC0 to 0xCA. -/

namespace Sys2Proof.Machine

open Sys2Proof

/-! ### Banks and geometry -/

/-- The lookup matrix unit of a cluster. -/
def lmUnit (cl : Nat) : UId := ⟨cl, .lmu, 0⟩

/-- Rows B of a bank; a bank never built has Bcode 0 (R266, R267). -/
def Bank.b (k : Bank) : Nat := if k.rows = 0 then 1 else k.rows

/-- Groups G of a bank. -/
def Bank.g (k : Bank) : Nat := 128 / k.b

/-- Bcode of a bank. -/
def Bank.bcode (k : Bank) : Nat := Nat.log2 k.b

/-- The half of the geometry word that describes a bank (R267). -/
def geometry (s : State) (cl b : Nat) : Nat :=
  bits (AL.get 0 (s.unit (lmUnit cl)).lits 13).toNat (16 * b + 15) (16 * b)

/-- A bank with a mode and Bcode (R267): declared length 256 in pair mode, 16 in bit-plane mode (R116). -/
def Bank.shaped (k : Bank) (planes : Bool) (bcode : Nat) : Bank :=
  { k with planes, len := if planes then 16 else 256, rows := 2 ^ bcode, groups := 128 / 2 ^ bcode }

/-- A bank with the shape its geometry word gives. -/
def Bank.byWord (k : Bank) (w : Nat) : Bank := k.shaped (bitAt w 3) (bits w 2 0)

/-- The bank a handle names (R104, R268). -/
def bankHandle (o : Opd) : Res Nat := do
  let x ← scalarU o [.handle]
  need (x.val.toNat / 2 ^ 56 == 0x02 && bits x.val.toNat 55 1 == 0) .handle
  return bits x.val.toNat 0 0

/-- Demand that the firing's region owns a bank (R270). -/
def needOwner (s : State) (c : Cur) (b : Nat) : Res Unit :=
  need ((bankOf s c.u.cl b).owner == some c.f.rid) .claim b

/-- Whether the running look uses a bank (R270, R272). -/
def lookUses (s : State) (cl b : Nat) : Bool :=
  match (s.cluster cl).look with
  | some r => (match r.i with | .lmLook _ _ _ => true | _ => false) && r.aux.getD 0 2 == b
  | none => false

/-- The bank that the running build writes, if any. -/
def buildBank (s : State) (cl : Nat) : Option Nat := (s.cluster cl).build.map fun r => r.aux.getD 3 0

/-- Run a lookup-matrix node: its ordering input first (R268, R127). -/
def lmNode (op : Nat) (n : Nd) (st : State) (body : State → Cur → Opd → Opd → Res State) : Answer :=
  runNode op n.a n.b st fun s c => do
    let (a, s) ← readSrc s c n.a
    let (b, s) ← readSrc s c n.b
    orderOk c.f.o
    body s c a b

/-- The firing of a run, with its operands as they were read. -/
def Firing.withOpds (f : Firing) (a b : Opd) : Firing := { f with l := some a.pay, r := some b.pay }

/-- Where a run's fault arises. -/
def runSite (u : UId) (r : LmRun) : FaultSite := opSite u ⟨0, r.i, r.f, .queued, none, none, false, 0⟩

/-- Where a fault of a run arises that was held at its line (R349). -/
def runFaultSite (u : UId) (r : LmRun) (f : Flt) : FaultSite := if r.held then (runSite u r).ofHeld f.addr else runSite u r

/-- The token that ends a run, on both destinations of its node. -/
def runToken (s : State) (u : UId) (r : LmRun) (n : Nd) (p : Payload) : Res State :=
  finish s ⟨u, r.f⟩ n (r.f.r.getD (plain 0 .i64)) p

/-! ### Claims (R269, R270) -/

/-- `lm.claim` (R269): a claim that cannot complete at once stalls without holding the ready queue. DESIGN CHOICE: a second
claim by the region for which the bank is being cleared completes before that has ended (log 27). -/
def execLmClaim (n : Nd) (st : State) : Answer :=
  lmNode 0xC0 n st fun s c a _ => do
    let b ← bankHandle a
    let k := bankOf s c.u.cl b
    let join := setBank s c.u.cl b { k with claims := k.claims ++ [(c.u, c.f)] }
    if k.owner = some c.f.rid then finish s c n (plain 0 .i64) (plain 0 .control)
    else if k.owner.isSome || k.claims != [] then return join
    else if k.last = some c.f.rid && !k.gated then
      finish (setBank s c.u.cl b { k with owner := some c.f.rid }) c n (plain 0 .i64) (plain 0 .control)
    else return grantBank join c.u.cl b c.u c.f

/-- `lm.release` (R270). -/
def execLmRelease (n : Nd) (st : State) : Answer :=
  lmNode 0xC1 n st fun s c a _ => do
    let b ← bankHandle a
    needOwner s c b
    needWait (!lookUses s c.u.cl b)
    finish (releaseBank s c.u.cl b) c n (plain 0 .i64) (plain 0 .control)

/-- CLAIM_CLEAR_COMPLETE (R269): a cleared bank's entries are zero and its claim completes; or a bank that is free passes
to the claim that waits first. -/
def execClaimClearComplete (cl bank : Nat) (s : State) : Answer :=
  runWork "CLAIM_CLEAR_COMPLETE"
    (let k := bankOf s cl bank
    if k.clearing then
      let s := zeroTables (setBank s cl bank { k with clearing := false, srcLines := 0, claims := k.claims.drop 1 }) cl bank
      match k.claims with
      | (u, f) :: _ =>
        if k.owner = some f.rid then conclude s (claimSite u f) (claimToken s u f)
        else some (setBank s cl bank { bankOf s cl bank with claims := k.claims })
      | [] => some s
    else match k.owner, k.claims with
      | none, (u, f) :: _ =>
        let t := grantBank s cl bank u f
        if t = s then none else some t
      | _, _ => none)

/-! ### Building tables (R271, R98) -/

/-- The lines of a scratchpad run, in ascending order. -/
def padLines (s : State) (cl off n : Nat) : List Line :=
  (List.range n).map fun i =>
    let key := poolKey cl (off + 64 * i)
    (BitVec.ofNat 512 (Memory.readN s.mem key 64), BitVec.ofNat 16 (Memory.readN s.mem (descKey key) 2))

/-- Demand that pool lines have no uncorrectable error (R356). -/
def needPool (s : State) (cl off n : Nat) (addr : Nat) : Res Unit :=
  match (List.range n).find? fun i => s.poison.contains (poolKey cl (off + 64 * i)) with
  | some i => flt .poolError (off + 64 * i) addr
  | none => .ok ()

/-- The lines of a run of activations, by mode and format: 256 or 512 values (R271). -/
def runLength (planes : Bool) (fmt : Nat) : Nat := (if planes then 512 else 256) / (lineShape fmt).2

/-- The run that a build reads at a scratchpad offset: its format and lines, each checked (R271). -/
def buildRun (s : State) (cl off : Nat) (planes : Bool) : Res (Nat × List Line) := do
  let addr := 0xFC * 2 ^ 56 + off
  need (decide (off + 64 ≤ padSize s cl)) .address 0 addr
  let e := ((padLines s cl off 1).headD (0, 0)).2
  need (e.fmt == 0x04 || e.fmt == 0x05) .format e.toNat addr
  let n := runLength planes e.fmt
  need (decide (off + 64 * n ≤ padSize s cl)) .address 0 addr
  needPool s cl off n addr
  let l := padLines s cl off n
  match l.find? fun x => x.2.fmt != e.fmt with
  | some x => flt .format x.2.toNat addr
  | none => return (e.fmt, l)

/-- The activations of a run, as exact values. -/
def activations (fmt : Nat) (l : List Line) : List FV :=
  let f := if fmt = 0x04 then Fmt.f32 else Fmt.bf16
  l.flatMap fun x => (lineLanes fmt x.1).map f.value

/-- The exact sum that defines a table entry (R98, R271): activation `at0` is that of member 0 of the entry's group. A sum
of zeros of one sign keeps that sign (R82). -/
def entrySum (planes : Bool) (acts : List FV) (at0 e : Nat) : FV :=
  let act := fun (k : Nat) => acts.getD (at0 + k) (.fin false 0 0)
  if planes then
    match ((List.range 4).filter (bitAt e)).map act with
    | [] => .fin false 0 0
    | v :: l => l.foldl (FV.add .ne) v
  else FV.add .ne (FV.mul (act 1) (qnLevel (e / 16))) (FV.mul (act 0) (qnLevel (e % 16)))

/-- The entries that a build writes in one table, as one number of BF16 codes (R98). -/
def tableRow (planes : Bool) (acts : List FV) (at0 : Nat) : Nat :=
  joinLanes 16 ((List.range (if planes then 16 else 256)).map fun e =>
    (Fmt.bf16.round .ne false .arith (entrySum planes acts at0 e)).1)

/-- Write every table of a bank from its activations (R271). -/
def writeTables (s : State) (cl b : Nat) (k : Bank) (acts : List FV) : State :=
  let an := if k.planes then 512 else 256
  let n := if k.planes then 32 else 512
  (List.range k.b).foldl (fun s r => (List.range k.g).foldl (fun s g =>
    let v := tableRow k.planes acts (r * (an / k.b) + an / 128 * g)
    { s with mem := Memory.writeN s.mem (tableKey cl b (g * k.b + r) 0) n v }) s) s

/-- A run of the build kind: what it reads and what it leaves. -/
def buildOf (i : Instr) (f : Firing) (tries cl off lines b : Nat) (auto : Bool) : LmRun :=
  ⟨i, f, tries, [cl, off, lines, b, auto.toNat], false, none, false⟩

/-- Start a build of a bank: its valid and filled bits read 0 until it completes (R271). -/
def startBuild (s : State) (cl b : Nat) (k : Bank) (r : LmRun) : State :=
  (setBank s cl b { k with valid := false, filled := 0, srcLines := 0 }).modCluster cl fun c => { c with build := some r }

/-- `lm.build` (R271). -/
def execLmBuild (n : Nd) (x : Bool) (st : State) : Answer :=
  lmNode 0xC3 n st fun s c a b => do
    let p ← scalarU a ptrTypes
    let k ← bankHandle b
    let v := p.val.toNat
    let cl := c.u.cl
    need (v / 2 ^ 56 == 0xFC && bits v 55 19 == 0) .address 0 v
    need (v % 64 == 0) .alignment 0 v
    needOwner s c k
    needWait (!lookUses s cl k && (s.cluster cl).build.isNone)
    let w := geometry s cl k
    let (_, l) ← buildRun s cl (bits v 18 0) (bitAt w 3)
    let s := makeIrrevocable s c.f.rid
    return startBuild s cl k ((bankOf s cl k).byWord w)
      (buildOf (.lmBuild n x) (c.f.withOpds a b) 0 cl (bits v 18 0) l.length k x)

/-- End the reads of a build: the tables written and the bank's state set; a write into the run meanwhile leaves it
invalid, be what it wrote of a format that a build takes or not (R145). -/
def finishBuild (s : State) (cl : Nat) (r : LmRun) : Res State :=
  let off := r.aux.getD 1 0
  let b := r.aux.getD 3 0
  let k := bankOf s cl b
  let built := fun (s : State) (n : Nat) (fmt : Option Nat) => setBank s cl b { bankOf s cl b with
    valid := !r.dirty, auto := r.aux.getD 4 0 == 1, filled := 0, srcCl := cl, srcOff := off, srcLines := n, src := fmt }
  match buildRun s cl off k.planes with
  | .ok (fmt, l) => .ok (built (writeTables s cl b k (activations fmt l)) l.length (some fmt))
  | .error e =>
    if r.dirty && (match e with | .fault f => f.cause == .format | .wait => false) then .ok (built s (r.aux.getD 2 0) k.src)
    else .error e

/-! ### Filling (R273) -/

/-- `lm.fill` (R273). -/
def execLmFill (n : Nd) (st : State) : Answer :=
  lmNode 0xC2 n st fun s c a b => do
    let p ← asLine a
    let pos ← scalarU b [.i64]
    let v := pos.val.toNat
    let (d, e) := match p with | .line d e _ => (d, e) | .scal _ => (0, 0)
    let k := bits v 11 11
    let cl := c.u.cl
    need (v / 2 ^ 12 == 0) .indexRange
    needOwner s c k
    needWait (!lookUses s cl k && buildBank s cl != some k)
    if e.fmt ≠ 0x05 then lineFault e
    let w := geometry s cl k
    let x := bits v 10 0
    need (decide (x < if bitAt w 3 then 64 else 1024)) .indexRange
    let s := makeIrrevocable s c.f.rid
    let mem :=
      if bitAt w 3 then
        Memory.writeN (Memory.writeN s.mem (tableKey cl k (2 * x) 0) 32 d.toNat) (tableKey cl k (2 * x + 1) 0) 32 (d.toNat / 2 ^ 256)
      else Memory.writeN s.mem (tableKey cl k (x / 8) (32 * (x % 8))) 64 d.toNat
    let s := setBank { s with mem } cl k { (bankOf s cl k).byWord w with
      valid := true, auto := false, filled := 1, srcLines := 0, src := none }
    finish s c n b.pay (marker 1 false)

/-! ### Passes (R274 to R277) -/

/-- `lm.arm` (R274): `pick` is 0 to keep the buffer, 1 to clear it, and 2 plus the offset to load it. -/
def execLmArm (n : Nd) (l cc : Bool) (st : State) : Answer :=
  lmNode 0xC4 n st fun s c a b => do
    let x ← scalarU a [.i64]
    let y ← scalarU b [.i64]
    let p := (s.cluster c.u.cl).pass
    needWait (!p.armed && !p.running)
    let off := y.val.toNat
    need (decide (1 ≤ x.val.toNat) && decide (x.val.toNat ≤ 65535) && (if l then off % 64 == 0 else off == 0)) .pass
    let s := s.modCluster c.u.cl fun k => { k with
      pass := ⟨true, false, x.val.toNat, 0, 0, 0, if l then 2 + off else cc.toNat, c.f.rid⟩ }
    finish s c n b.pay (plain x.val .control)

/-- The tile a handle names, in either location, once its declaration has arrived (R104, R268). -/
def anyTile (s : State) (cl : Nat) (o : Opd) : Res (Nat × Tile) := do
  let x ← scalarU o [.handle]
  let v := x.val.toNat
  need (v / 2 ^ 56 == 0x01 && bits v 55 6 == 0) .handle
  match AL.find? (s.cluster cl).tiles (bits v 5 0) with
  | some t => return (bits v 5 0, t)
  | none => if tileComing s cl (bits v 5 0) then .error .wait else flt .handle

/-- The accumulators that a pass of B rows and C columns uses, cleared, loaded or kept (R275, step 3). -/
def loadAcc (s : State) (cl pick n : Nat) : State :=
  if pick = 0 then s
  else if pick = 1 then clearKeys s (accKey cl 0) (4 * n)
  else
    let from' := poolKey cl (classBase (s.cluster cl).pword 2 + (pick - 2))
    { s with mem := Memory.writeN s.mem (accKey cl 0) (4 * n) (Memory.readN s.mem from' (4 * n)) }

/-- Whether the range that a pass loads leaves the accumulator class (R275, step 3). -/
def loadOutside (s : State) (cl pick n : Nat) : Bool :=
  decide (2 ≤ pick) && decide (classSize (s.cluster cl).pword 2 < pick - 2 + 4 * n)

/-- Start a pass of `rows` by `cols` (R275, steps 1 to 3): a size, or a range, against the rules ends the pass with a
pass fault, and so does an error of the loaded lines. -/
def startPass (s : State) (c : Cur) (op : Nat) (n : Nd) (bad : Option Flt) (rows cols : Nat) (r : LmRun)
    (more : State → State) : State :=
  let cl := c.u.cl
  let p := (s.cluster cl).pass
  let stop := fun (f : Flt) => faultOrRollback (s.modCluster cl fun k => { k with pass := { p with armed := false, running := false, u := 0 } })
    (siteOf s c op n.a n.b) f
  match bad with
  | some f => stop f
  | none =>
    if 16384 < rows * cols || loadOutside s cl p.pick (rows * cols) then stop ⟨.pass, 0, 0⟩
    else match (if 2 ≤ p.pick then
        needPool s cl (classBase (s.cluster cl).pword 2 + (p.pick - 2)) ((4 * (rows * cols) + 63) / 64) (p.pick - 2)
      else .ok ()) with
    | .error (.fault f) => stop f
    | _ =>
      let s := loadAcc (makeIrrevocable s c.f.rid) cl p.pick (rows * cols)
      more (s.modCluster cl fun k => { k with
        look := some r, pass := { p with armed := false, running := true, u := 0, rows, cols } })

/-- Lines per step Q of a look, Table 09-4. -/
def lookQ (k : Bank) (p4 : Bool) (planes : Nat) : Nat := if p4 then k.g / 8 * planes else k.g / 4

/-- Whether a bank is being reloaded: a look waits for it too, so that it never sees its bank rewritten within a pass
(R272). -/
def reloadsBank (s : State) (cl b : Nat) : Bool :=
  (s.cluster cl).drains.any fun r => (r.i matches .lmReload _ _) && r.aux.getD 0 0 == b

/-- `lm.look` (R275): the firing issues and the pass runs on. -/
def execLmLook (n : Nd) (k : BitVec 3) (p : Bool) (st : State) : Answer :=
  lmNode 0xC5 n st fun s c a b => do
    let h ← bankHandle a
    let (tn, t) ← anyTile s c.u.cl b
    let cl := c.u.cl
    needWait ((s.cluster cl).look.isNone && buildBank s cl != some h && !reloadsBank s cl h && t.st == .ready)
    needOwner s c h
    let ps := (s.cluster cl).pass
    need ps.armed .pass
    let bank := bankOf s cl h
    let q := lookQ bank p (k.toNat + 1)
    let bad := if t.lines % q = 0 then none else some (⟨.pass, 0, 0⟩ : Flt)
    return startPass s c 0xC5 n bad bank.b (ps.n * (16 * (t.lines / q)))
      ⟨.lmLook n k p, c.f.withOpds a b, 0, [h, tn], false, none, false⟩ id

/-- An accumulator as an exact value, and its key. -/
def accValue (s : State) (cl i : Nat) : FV := Fmt.f32.value (Memory.readN s.mem (accKey cl i) 4)

/-- Add a term into an accumulator with one rounding (R99, step 5). -/
def accumulate (s : State) (cl i : Nat) (v : FV) : State :=
  { s with mem := Memory.writeN s.mem (accKey cl i) 4 (Fmt.f32.round .ne false .arith (FV.add .ne (accValue s cl i) v)).1 }

/-- A value rounded once to FP32 (R99). -/
def toF32 (v : FV) : FV := Fmt.f32.value (Fmt.f32.round .ne false .arith v).1

/-- An entry of a table, as an exact value (R115). -/
def tableEntry (s : State) (cl b t e : Nat) : FV := Fmt.bf16.value (Memory.readN s.mem (tableKey cl b t e) 2)

/-- A scale set (R99): the line of a step that holds its codes, the first code and the first group, and how many. -/
structure ScaleSet where
  part : Nat
  code : Nat
  group : Nat
  count : Nat
deriving DecidableEq, Repr

/-- The scale sets of a column of a step, Table 09-4. -/
def scaleSets (g : Nat) (p4 : Bool) (col : Nat) : List ScaleSet :=
  if p4 then [⟨col / (128 / g), col % (128 / g) * g, 0, g⟩]
  else if g = 128 then [⟨2 * col, 0, 0, 64⟩, ⟨2 * col + 1, 0, 64, 64⟩]
  else [⟨col / (64 / g), col % (64 / g) * g, 0, g⟩]

/-- A scale set's scaled partial sum for a row (R99, steps 2 and 3). -/
def setTerm (s : State) (cl b row : Nat) (k : Bank) (codes : List Nat) (x : ScaleSet) (scale : FV) : FV :=
  toF32 (FV.mul (treeSum ((List.range x.count).map fun j =>
    tableEntry s cl b ((x.group + j) * k.b + row) (codes.getD (x.code + j) 0))) scale)

/-- The super-scale that covers line `i` of a tile (R84). -/
def superOf (s : State) (cl : Nat) (t : Tile) (i : Nat) : Nat :=
  Memory.readN s.mem (poolKey cl (t.scaleoff + 4 * (i / 256))) 4

/-- The weight of plane `p` of `b` planes (R100). -/
def planeWeight (b p : Nat) : Int := if p + 1 < b then (2 ^ p : Nat) else -((2 ^ (b - 1) : Nat) : Int)

/-- The terms that a column of a step adds, in order: one in pair width (R99), one a plane in bit-plane width (R100). -/
def lookTerms (s : State) (cl b row : Nat) (k : Bank) (p4 : Bool) (planes steps step col : Nat) (t : Tile)
    (lines : List Line) : List FV :=
  let sets := scaleSets k.g p4 col
  if p4 then
    (List.range planes).map fun p => treeSum (sets.map fun x =>
      let l := lines.getD (x.part * steps * planes + step * planes + p) (0, 0)
      setTerm s cl b row k (lanesOf 4 128 l.1.toNat) x (FV.scale (expOf l.2) (FV.ofInt (planeWeight planes p))))
  else [treeSum (sets.map fun x =>
    let i := x.part * steps + step
    let l := lines.getD i (0, 0)
    setTerm s cl b row k (lanesOf 8 64 l.1.toNat) x (lineScale (superOf s cl t i) l.2.scale))]

/-- Accumulate a checked tile use of a look (R276). -/
def lookUse (s : State) (cl b : Nat) (k : Bank) (p4 : Bool) (planes : Nat) (t : Tile) (lines : List Line) : State :=
  let ps := (s.cluster cl).pass
  let steps := t.lines / lookQ k p4 planes
  (List.range steps).foldl (fun s0 step => (List.range 16).foldl (fun s1 col => (List.range k.b).foldl (fun s2 row =>
    (lookTerms s cl b row k p4 planes steps step col t lines).foldl (fun s3 v =>
      accumulate s3 cl (row * ps.cols + 16 * (ps.u * steps + step) + col) v) s2) s1) s0) s

/-- The checks of a use of a look that come before the bank's validity (R276). -/
def lookLines (s : State) (cl k : Nat) (p4 : Bool) (t : Tile) (lines : List Line) : Res Unit := do
  tileClean s cl k
  if !p4 then needPool s cl (t.scaleoff / 64 * 64) ((t.scaleoff % 64 + 4 * ((t.lines + 255) / 256) + 63) / 64) 0
  match lines.find? fun l => !(if p4 then l.2.fmt == 0x0A else l.2.fmt == 0x09 || l.2.fmt == 0x10) with
  | some l => lineFault l.2
  | none =>
    match lines.zipIdx.find? fun l => !p4 && !superOk (superOf s cl t l.2) with
    | some l => lineFault l.1.2
    | none => .ok ()

/-- The first code byte that a bit-plane bank has no entry for (R276). -/
def badCode (k : Bank) (p4 : Bool) (lines : List Line) : Option Nat :=
  if p4 || !k.planes then none else (lines.flatMap fun l => lanesOf 8 64 l.1.toNat).find? fun x => 16 ≤ x

/-- End a pass: nothing runs, `u` keeps the uses consumed, and the activation tile of a `lm.direct` is read (R276,
R277). -/
def stopPass (s : State) (cl : Nat) (r : LmRun) : State :=
  let s := (s.modCluster cl fun k => { k with look := none, pass := { k.pass with running := false } }).modUnit (lmUnit cl)
    fun h => { h with grantIdle := s.clock }
  match r.i with
  | .lmDirect _ _ => tileDone s cl (r.aux.getD 0 0)
  | _ => s

/-- Take a fault that ends a pass. -/
def passFault (s : State) (cl : Nat) (r : LmRun) (f : Flt) : State :=
  faultOrRollback (stopPass s cl r) (runSite (lmUnit cl) r) f

/-- Go on after a use: its tile consumed, and the pass ended with its marker after the last one (R275, step 5). -/
def useDone (s : State) (cl : Nat) (r : LmRun) (n : Nd) (k : Nat) : Option State :=
  let s := consumeTile cl s k
  let s := s.modCluster cl fun c => { c with pass := { c.pass with u := c.pass.u + 1 }, look := some { r with pos := r.pos + 1 } }
  if (s.cluster cl).pass.u = (s.cluster cl).pass.n then
    conclude (stopPass s cl r) (runSite (lmUnit cl) r) (runToken (stopPass s cl r) (lmUnit cl) r n (marker 1 false))
  else some s

/-- One use of a look's code tile (R276): an invalid bank built with `.auto` is rebuilt first (R144). -/
def lookStep (s : State) (cl : Nat) (r : LmRun) (n : Nd) (planes : Nat) (p4 : Bool) : Option State := do
  let b := r.aux.getD 0 0
  let tn := r.aux.getD 1 0
  let t ← AL.find? (s.cluster cl).tiles tn
  if t.st ≠ .ready then none
  else
    let k := bankOf s cl b
    let lines := tileLines s cl tn
    match lookLines s cl tn p4 t lines with
    | .error (.fault f) => some (passFault s cl r f)
    | .error .wait => none
    | .ok _ =>
      if !k.valid then
        if !k.auto || k.srcLines = 0 then some (passFault s cl r ⟨.tableStale, b, 0⟩)
        else if (s.cluster cl).build.isSome then none
        else some ((s.modUnit (lmUnit cl) fun h => { h with rebuilds := h.rebuilds + 1 }).modCluster cl fun c =>
          { c with build := some (buildOf r.i r.f 1 cl k.srcOff k.srcLines b true) })
      else match badCode k p4 lines with
        | some x => some (passFault s cl r ⟨.indexRange, x, 0⟩)
        | none => useDone (lookUse s cl b k p4 planes t lines) cl r n tn

/-! ### Direct passes (R277, R101) -/

/-- The line format that an `lm.direct` names (R277). -/
def directFmt (f : BitVec 2) : Nat := match f.toNat with | 0 => 0x05 | 1 => 0x07 | 2 => 0x08 | _ => 0x01

/-- The elements of a line of a direct pass as exact values without the line's scale. -/
def directLanes (fmt : Nat) (l : Line) : List FV :=
  (lineLanes fmt l.1).map fun x => match fmt with
    | 0x05 => Fmt.bf16.value x | 0x07 => Fmt.e4.value x | 0x08 => Fmt.e5.value x | _ => FV.ofInt (toSigned 8 x)

/-- The sum of a chunk of exact products: the tree, or exact for INT8 (R101). -/
def chunkSum (fmt : Nat) (l : List FV) : FV :=
  if fmt = 0x01 then l.foldl (FV.add .ne) (.fin false 0 0) else treeSum l

/-- Terms of a chunk (R101). -/
def chunkOf (fmt : Nat) : Nat := if fmt = 0x05 then 8 else 16

/-- The terms of one accumulator from one line of each operand, in ascending k (R101). -/
def lineTerms (fmt : Nat) (a w : Line) : List FV :=
  let x := directLanes fmt a
  let y := directLanes fmt w
  let n := chunkOf fmt
  (List.range (x.length / n)).map fun i =>
    toF32 (FV.scale (expOf a.2 + expOf w.2)
      (chunkSum fmt (List.zipWith FV.mul ((x.drop (n * i)).take n) ((y.drop (n * i)).take n))))

/-- `lm.direct` (R277). -/
def execLmDirect (n : Nd) (f : BitVec 2) (st : State) : Answer :=
  lmNode 0xC6 n st fun s c a b => do
    let cl := c.u.cl
    let (an, ta) ← anyTile s cl a
    let (wn, tw) ← anyTile s cl b
    needWait ((s.cluster cl).look.isNone && ta.st == .ready && tw.st == .ready)
    let ps := (s.cluster cl).pass
    need ps.armed .pass
    let fmt := directFmt f
    let e := (lineShape fmt).2
    let word := (AL.get 0 (s.unit c.u).lits 14).toNat
    let k := bits word 15 0
    let rows := 2 ^ bits word 18 16
    let per := k / e
    let cols := tw.lines / per
    let bad : Option Flt :=
      if word / 2 ^ 19 ≠ 0 || k = 0 || k % e != 0 || decide (16 < rows) || ta.lines != rows * per || tw.lines % per != 0
          || cols = 0 || cols % 16 != 0 then some ⟨.pass, 0, 0⟩
      else match tileClean s cl an with
        | .error (.fault f) => some f
        | _ => ((tileLines s cl an).find? fun l => l.2.fmt != fmt).map fun l => ⟨.format, l.2.toNat, 0⟩
    return startPass s c 0xC6 n bad rows (ps.n * cols) ⟨.lmDirect n f, c.f.withOpds a b, 0, [an, wn, per, cols], false, none, false⟩
      fun s => match AL.find? (s.cluster cl).tiles an with
        | some t => tileUse s cl an t
        | none => s

/-- One use of a direct pass's weight tile (R277): checked, then accumulated in ascending k. -/
def directStep (s : State) (cl : Nat) (r : LmRun) (n : Nd) (f : BitVec 2) : Option State := do
  let an := r.aux.getD 0 0
  let wn := r.aux.getD 1 0
  let per := r.aux.getD 2 1
  let cols := r.aux.getD 3 0
  let t ← AL.find? (s.cluster cl).tiles wn
  if t.st ≠ .ready then none
  else
    let fmt := directFmt f
    let ps := (s.cluster cl).pass
    let la := tileLines s cl an
    let lw := tileLines s cl wn
    let bad : Option Flt := match tileClean s cl an >>= fun _ => tileClean s cl wn with
      | .error (.fault f) => some f
      | _ => (lw.find? fun l => l.2.fmt != fmt).map fun l => ⟨.format, l.2.toNat, 0⟩
    match bad with
    | some f => some (passFault s cl r f)
    | none =>
      let s1 := (List.range cols).foldl (fun s col => (List.range ps.rows).foldl (fun s row =>
        ((List.range per).flatMap fun i => lineTerms fmt (la.getD (row * per + i) (0, 0)) (lw.getD (col * per + i) (0, 0))).foldl
          (fun s v => accumulate s cl (row * ps.cols + ps.u * cols + col) v) s) s) s
      useDone s1 cl r n wn

/-- PASS_TILE_USE (R275, R276, R277): the running pass consumes its next tile use; a save or a halt stops it between
uses, but not one that a step of the halted region has issued (R282, R386). -/
def execPassTileUse (cl : Nat) (s : State) : Answer :=
  runWork "PASS_TILE_USE" do
    let r ← (s.cluster cl).look
    let rebuilding := match (s.cluster cl).build with
      | some x => (match x.i with | .lmLook _ _ _ => true | _ => false)
      | none => false
    if (s.region r.f.rid).gated || ((s.region r.f.rid).halted && !(s.region r.f.rid).stepped.contains r.f.seq) || rebuilding then none
    else match r.i with
      | .lmLook n k p => lookStep s cl r n (k.toNat + 1) p
      | .lmDirect n f => directStep s cl r n f
      | _ => none

/-- LM_BUILD_COMPLETE (R271, R144, R145): a build ends with its marker; a rebuild goes on with its tile, or is tried again
up to four times. -/
def execLmBuildComplete (cl : Nat) (s : State) : Answer :=
  runWork "LM_BUILD_COMPLETE" do
    let x ← (s.cluster cl).build
    let s := s.modCluster cl fun c => { c with build := none }
    let u := lmUnit cl
    match x.i with
    | .lmBuild n _ | .lmReload n _ => conclude s (runSite u x) (do
        let s ← finishBuild s cl x
        runToken s u x n (marker 1 false))
    | .lmLook n k p =>
      let r ← (s.cluster cl).look
      match finishBuild s cl x with
      | .error (.fault f) => some (passFault s cl r f)
      | .error .wait => none
      | .ok s =>
        if !x.dirty then lookStep s cl r n (k.toNat + 1) p
        else if 4 ≤ x.pos then some (passFault s cl r ⟨.tableStale, x.aux.getD 3 0, 0⟩)
        else some ((s.modUnit u fun h => { h with rebuilds := h.rebuilds + 1 }).modCluster cl fun c =>
          { c with build := some { x with pos := x.pos + 1, dirty := false } })
    | _ => none

/-! ### Drains, spill and reload (R278 to R280) -/

/-- Put a run of lines into the unit's list. -/
def pushRun (s : State) (c : Cur) (r : LmRun) : State := s.modCluster c.u.cl fun k => { k with drains := k.drains ++ [r] }

/-- `lm.drain` (R278): the route is chosen when the firing issues; 1 pointer, 2 accumulator class, 3 arc. -/
def execLmDrain (n : Nd) (x : Bool) (sc : Scope) (st : State) : Answer :=
  lmNode 0xC7 n st fun s c a b => do
    let ka ← scalarU a [.i32, .i64, .control]
    let mb ← scalarOr b .i64 .pass
    let k := steerValue ka
    let m := mb.val.toNat
    let cl := c.u.cl
    let h := s.unit c.u
    let ps := (s.cluster cl).pass
    need (decide (m < 16)) .pass
    needWait (!(ps.running && decide (1024 * m < ps.rows * ps.cols)))
    let lit := (AL.get 0 h.lits k).toNat
    let s' := makeIrrevocable s c.f.rid
    let go := fun (route base : Nat) => pushRun s' c ⟨.lmDrain n x sc, c.f.withOpds a b, 0, [route, base, m], false, none, false⟩
    if k < 8 ∧ litType h k = .u64 ∧ lit ≠ 0 then return go 1 (lit + 4096 * m)
    else if k < 8 ∧ litType h k = .i64 then do
      need (decide (lit + 4096 * m + 4096 ≤ classSize (s.cluster cl).pword 2)) .address 0 lit
      need (lit % 64 == 0) .alignment 0 lit
      return go 2 (classBase (s.cluster cl).pword 2 + lit + 4096 * m)
    else if k < 8 ∧ Arc.valid (AL.get 0 h.arcs k) then return go 3 k
    else flt .route k

/-- Store a line as `stl` stores it, from the lookup matrix unit: into the interval log, or so that every agent sees it
(R278, R279, R146). -/
def lmStore (s : State) (u : UId) (rid v : Nat) (d : LineData) (e : Desc) (sc : Scope) (ord : Bool) (site : FaultSite) :
    EngM State := do
  let (t, s) ← engAt s u rid v 64 64 false true ord
  let full := logging s rid && ilogRoom s u.cl == 0
  liftRes (needWait (!(full && logMigrates s rid)))
  let s := if full then makeIrrevocable s rid else s
  let enc := t.enc (keysOf s rid)
  if logging s rid then
    return s.modCluster u.cl fun c => { c with ilog := c.ilog ++ [⟨rid, cellsOf t.key 64 d.toNat, t.line, some e, enc, sc, .any, site, pagedAt s rid t v⟩] }
  else
    return visibleWrite s t.line (cellsOf t.key 64 d.toNat) (some e) enc

/-- The header of a bank image, Table 09-5. -/
def bankHeader (k : Bank) : Nat :=
  let filled := k.filled
  let src := k.srcLines != 0
  k.bcode + k.planes.toNat * 2 ^ 3 + k.valid.toNat * 2 ^ 4 + k.auto.toNat * 2 ^ 5 + filled * 2 ^ 6 + filled * 2 ^ 7
    + 0xB4 * 2 ^ 8 + (if src then k.src.getD 0 * 2 ^ 32 + k.srcOff * 2 ^ 45 + k.srcLines * 2 ^ 64 else 0)

/-- `lm.spill` (R279): the image is written line by line. -/
def execLmSpill (n : Nd) (sc : Scope) (st : State) : Answer :=
  lmNode 0xC8 n st fun s c a b => do
    let p ← scalarU a ptrTypes
    let k ← bankHandle b
    let _ ← checkPointer s c.u c.f.rid p.val.toNat 64 64
    needOwner s c k
    needWait (buildBank s c.u.cl != some k)
    return pushRun s c
      ⟨.lmSpill n sc, c.f.withOpds a b, 0, [k, (bankOf s c.u.cl k).filled, bankHeader (bankOf s c.u.cl k)], false, none, false⟩

/-- `lm.reload` (R280): the image is read line by line. -/
def execLmReload (n : Nd) (sc : Scope) (st : State) : Answer :=
  lmNode 0xC9 n st fun s c a b => do
    let p ← scalarU a ptrTypes
    let k ← bankHandle b
    let _ ← checkPointer s c.u c.f.rid p.val.toNat 64 64
    needOwner s c k
    needWait (buildBank s c.u.cl != some k && !lookUses s c.u.cl k)
    return pushRun (makeIrrevocable s c.f.rid) c ⟨.lmReload n sc, c.f.withOpds a b, 0, [k], false, none, false⟩

/-- The pointer a run works at. -/
def runPtr (r : LmRun) : Nat := (r.f.l.getD (plain 0 .i64)).value.toNat

/-- Put back run `i` of a cluster's list. -/
def setRun (s : State) (cl i : Nat) (r : LmRun) : State := s.modCluster cl fun c => { c with drains := c.drains.set i r }

/-- Take out run `i` of a cluster's list. -/
def dropRun (s : State) (cl i : Nat) : State := s.modCluster cl fun c => { c with drains := c.drains.eraseIdx i }

/-- One line of a drain (R278). -/
def drainStep (s : State) (cl i : Nat) (r : LmRun) (n : Nd) (clr : Bool) (sc : Scope) : EngM State := do
  let u := lmUnit cl
  let route := r.aux.getD 0 0
  let base := r.aux.getD 1 0
  let m := r.aux.getD 2 0
  let src := accKey cl (1024 * m + 16 * r.pos)
  let d : LineData := BitVec.ofNat 512 (Memory.readN s.mem src 64)
  let s ← if route = 1 then lmStore s u r.f.rid (base + 64 * r.pos) d 0x0400 sc r.f.o.isSome (runSite u r)
    else if route = 2 then
      let key := poolKey cl (base + 64 * r.pos)
      .ok (visibleWrite s key (cellsOf key 64 d.toNat) (some 0x0400) none)
    else liftRes (sendArc s ⟨u, r.f⟩ base (.line d 0x0400 none) r.f.tag)
  let s := if clr then clearKeys s src 64 else s
  if r.pos = 63 then liftRes (runToken (dropRun s cl i) u r n (marker sc.code.toNat false))
  else return setRun s cl i { r with pos := r.pos + 1, held := false }

/-- One line of a spill (R279): the header, then the entries in the order of R115. -/
def spillStep (s : State) (cl i : Nat) (r : LmRun) (n : Nd) (sc : Scope) : EngM State := do
  let u := lmUnit cl
  let b := r.aux.getD 0 0
  let (d, e) : LineData × Desc :=
    if r.pos = 0 then (BitVec.ofNat 512 (r.aux.getD 2 0), 0)
    else (BitVec.ofNat 512 (Memory.readN s.mem (tableKey cl b 0 0 + 64 * (r.pos - 1)) 64), 0x0500)
  let s ← lmStore s u r.f.rid (runPtr r + 64 * r.pos) d e sc r.f.o.isSome (runSite u r)
  let last := if r.aux.getD 1 0 = 1 then 1024 else 0
  if r.pos = last then
    let mk := if logging s r.f.rid then marker 0 true else marker sc.code.toNat false
    liftRes (runToken (dropRun s cl i) u r n mk)
  else return setRun s cl i { r with pos := r.pos + 1, held := false }

/-- Whether a bank image header keeps R280: magic, reserved fields, contents equal to filled, and a shape and source that
a build could have. -/
def headerOk (h : Nat) : Bool :=
  let built := bitAt h 4 && !bitAt h 6
  bits h 15 8 == 0xB4 && h / 2 ^ 72 == 0 && bits h 44 40 == 0 && bits h 31 16 == 0 && bitAt h 7 == bitAt h 6
    && decide (bits h 2 0 ≤ 4)
    && (!built || ((bits h 39 32 == 0x04 || bits h 39 32 == 0x05) && bits h 63 45 % 64 == 0
      && bits h 71 64 == runLength (bitAt h 3) (bits h 39 32)))

/-- One line of a reload (R280): its header decides what follows. -/
def reloadStep (s : State) (cl i : Nat) (r : LmRun) (n : Nd) : EngM State := do
  let u := lmUnit cl
  let b := r.aux.getD 0 0
  let (d, _, s) ← engLine s u r.f.rid (runPtr r + 64 * r.pos) r.f.o.isSome
  let k := bankOf s cl b
  if r.pos = 0 then
    let h := d.toNat
    engNeed (headerOk h) .bankImage
    let shaped := { k.shaped (bitAt h 3) (bits h 2 0) with valid := false, auto := bitAt h 5, filled := 0, srcLines := 0, src := none }
    if bitAt h 7 then return setRun (setBank s cl b shaped) cl i { r with pos := 1, aux := [b, h], held := false }
    else if bitAt h 4 then do
      if (s.cluster cl).build.isSome then .error .wait
      let off := bits h 63 45
      let s := dropRun (setBank s cl b shaped) cl i
      match buildRun s cl off (bitAt h 3) with
      | .ok (fmt, l) =>
        if fmt = bits h 39 32 then return startBuild s cl b shaped (buildOf r.i r.f 0 cl off l.length b (bitAt h 5))
        else
          let e := ((padLines s cl off 1).headD (0, 0)).2
          return takeFault s (runSite u r) ⟨.format, e.toNat, 0xFC * 2 ^ 56 + off⟩
      | .error (.fault f) => return faultOrRollback s (runSite u r) f
      | .error .wait => .error .wait
    else liftRes (runToken (dropRun (zeroTables (setBank s cl b { shaped with auto := bitAt h 5 }) cl b) cl i) u r n (marker 1 false))
  else
    let s := { s with mem := Memory.writeN s.mem (tableKey cl b 0 0 + 64 * (r.pos - 1)) 64 d.toNat }
    if r.pos = 1024 then
      let h := r.aux.getD 1 0
      liftRes (runToken (dropRun (setBank s cl b { k with valid := bitAt h 4, filled := 1 }) cl i) u r n (marker 1 false))
    else return setRun s cl i { r with pos := r.pos + 1, held := false }

/-- One line of run `i` of a cluster's list; none while it must wait. A fault ends the run; a page fault holds it at its
line until that is woken (R234, R345), and a page that migrates makes it wait (R149). -/
def runStep (s : State) (cl i : Nat) : Option State := do
  let r ← (s.cluster cl).drains[i]?
  if r.wline.isSome then none
  let u := lmUnit cl
  let x : EngM State := match r.i with
    | .lmDrain n c sc => drainStep s cl i r n c sc
    | .lmSpill n sc => spillStep s cl i r n sc
    | .lmReload n _ => reloadStep s cl i r n
    | _ => .error .wait
  match x with
  | .ok t => some t
  | .error (.fault f) => some (faultOrRollback (dropRun s cl i) (runFaultSite u r f) f)
  | .error (.noTarget f) => some (takeFault (dropRun s cl i) (runFaultSite u r f) f)
  | .error (.page level pte line v) =>
    some (pageRecord (setRun s cl i { r with wline := some line, held := true }) ((runSite u r).ofHeld v) level pte line v)
  | .error (.migr line) => some (setRun s cl i { r with wline := some line, held := false })
  | .error .more | .error .wait | .error .spill => none

/-- LM_DRAIN_LINE (R278 to R280): the first drain, spill or reload that can moves its next line. -/
def execLmDrainLine (cl : Nat) (s : State) : Answer :=
  runWork "LM_DRAIN_LINE" ((List.range (s.cluster cl).drains.length).findSome? (runStep s cl))

/-! ### Status (R281) -/

/-- Bits 15:0 of a bank's status, Table 09-6. -/
def bankStatus (k : Bank) (rid : Nat) : Nat :=
  k.valid.toNat + k.auto.toNat * 2 + k.planes.toNat * 4 + k.bcode * 8 + k.filled * 64 + k.owner.isSome.toNat * 128
    + (k.owner == some rid).toNat * 256

/-- `lm.stat` (R281). -/
def execLmStat (n : Nd) (st : State) : Answer :=
  lmNode 0xCA n st fun s c a b => do
    need (match a.pay with | .scal x => !x.sc | .line _ _ _ => true) .scaleMismatch
    let k := s.cluster c.u.cl
    let p := k.pass
    let v := bankStatus k.bankA c.f.rid + bankStatus k.bankB c.f.rid * 2 ^ 16 + p.armed.toNat * 2 ^ 32
      + p.running.toNat * 2 ^ 33 + (p.n - p.u) % 2 ^ 16 * 2 ^ 48
    finish s c n b.pay (plain (BitVec.ofNat 64 v) .i64)

end Sys2Proof.Machine
end

