-- ==== Sys2Proof/Machine/Engines.lean ====
section
/-! DEFINITION. The engine port's copies, near-memory commands, remote operations and Culvert transfers, opcodes 0xE0 to
0xEB (R283 to R295), and the window through which a peer reaches this device (R289, R398). -/

namespace Sys2Proof.Machine

open Sys2Proof

/-! ### Command lines (R284) -/

namespace Cmdl
/-- `cv.*`: first object page -/
def objpage (v : Nat) : Nat := bits v 351 320
/-- `cv.*`: Culvert object handle -/
def handle (v : Nat) : Nat := bits v 319 256
/-- `nm.*`: rounding mode -/
def rnd (v : Nat) : Rnd := (Rnd.ofCode (BitVec.ofNat 2 (bits v 201 200)))
/-- `nm.*`: format -/
def fmt (v : Nat) : Nat := bits v 199 192
/-- FP32 factor -/
def alpha (v : Nat) : Nat := bits v 191 160
/-- lines or pages -/
def count (v : Nat) : Nat := bits v 159 128
/-- source pointer -/
def src (v : Nat) : Nat := bits v 127 64
/-- destination pointer -/
def dst (v : Nat) : Nat := bits v 63 0
end Cmdl

/-- Whether the reserved bits of a command line are zero (Table 09-9). -/
def cmdReserved (v : Nat) : Bool := v / 2 ^ 352 == 0 && bits v 255 202 == 0

/-- Check a copy's command line. -/
def cpCheck (v : Nat) : Res Unit :=
  need (cmdReserved v && decide (1 ≤ Cmdl.count v) && decide (Cmdl.count v ≤ 1048576)) .command

/-- Check a near-memory command line: format, count, and both pointers in form 0x00 (R284, R287). -/
def nmCheck (usesX : Bool) (v : Nat) : Res Unit := do
  need (cmdReserved v && decide (1 ≤ Cmdl.count v) && decide (Cmdl.count v ≤ 1048576)
    && (Cmdl.fmt v == 0x04 || Cmdl.fmt v == 0x05) && (usesX || Cmdl.src v == 0)) .command
  need (Cmdl.dst v / 2 ^ 52 == 0) .address 0 (Cmdl.dst v)
  need (!usesX || Cmdl.src v / 2 ^ 52 == 0) .address 0 (Cmdl.src v)

/-- Put an operation into the engine queue in a state of its own, its operands read. -/
def pushOpAs (s : State) (c : Cur) (i : Instr) (st : AccSt) (wline : Option Nat) (l r : Payload) : State :=
  let (id, s) := s.fresh
  let a : Access := ⟨id, i, { c.f with l := some l, r := some r }, st, none, wline, false, 0⟩
  s.modUnit c.u fun h => { h with ops := h.ops ++ [a] }

/-- Read a command line at cluster scope (R284). -/
def readCommand (s : State) (u : UId) (rid v : Nat) (ord : Bool) (chk : State → Nat → Res Unit) :
    EngM (LineData × Desc × State) := do
  let (d, e, s) ← engLine s u rid v ord
  liftRes (chk s d.toNat)
  return (d, e, s)

/-- Issue an operation with a command line at A, which is read now; where its page is absent the operation is held and
reads it when it is woken (R284, R234). -/
def issueCommand (op : Nat) (n : Nd) (i : Instr) (tb : List TType) (chk : State → Cur → Nat → Res Unit) (st : State) : Answer :=
  runNode op n.a n.b st fun s c => do
    let (a, s) ← readSrc s c n.a
    let (b, s) ← readSrc s c n.b
    let x ← scalarU a ptrTypes
    let y ← scalarU b tb
    orderOk c.f.o
    let v := x.val.toNat
    let _ ← checkPointer s c.u c.f.rid v 64 64
    needWait (opRoom s c.u)
    let s := makeIrrevocable s c.f.rid
    match readCommand s c.u c.f.rid v c.f.o.isSome (fun s w => chk s c w) with
    | .ok (d, e, s) => return pushOp s c i (.line d e none) (.scal y)
    | .error (.fault f) | .error (.noTarget f) => .error (.fault f)
    | .error (.page level pte line addr) =>
      return pageRecord (pushOpAs s c i .held (some line) (.scal x) (.scal y)) ((siteOf s c op n.a n.b).ofHeld addr) level pte line addr
    | .error (.migr line) => return pushOpAs s c i .migrating (some line) (.scal x) (.scal y)
    | .error _ => .error .wait

/-- Go on with an operation once its command line is read: it is read now if its page was absent at issue. -/
def withCommand (s : State) (u : UId) (a : Access) (chk : State → Nat → Res Unit)
    (go : State → Access → Nat → OpRes) : OpRes :=
  match a.f.l with
  | some (.line d _ _) => go s a d.toNat
  | _ =>
    match readCommand s u a.f.rid (opA a) a.f.o.isSome chk with
    | .ok (d, e, s') => go s' { a with f := { a.f with l := some (.line d e none) } } d.toNat
    | .error e => ⟨s, a, .error e⟩

/-! ### Copies (R286, R139) -/

/-- `cp` (R286). -/
def execCp (n : Nd) (sc : Scope) (st : State) : Answer :=
  issueCommand 0xE0 n (.cp n sc) allTypes (fun _ _ => cpCheck) st

/-- Copy line `i`: the state, and whether either line lies on an SO page. -/
def copyLine (s : State) (u : UId) (a : Access) (v i : Nat) : EngM (State × Bool) := do
  let ord := a.f.o.isSome
  let rid := a.f.rid
  let (ts, s) ← engAt s u rid (Cmdl.src v + 64 * i) 64 64 true false ord
  let (d, e, s) ← engLine s u rid (Cmdl.src v + 64 * i) ord
  let (td, s) ← engAt s u rid (Cmdl.dst v + 64 * i) 64 64 false true ord
  let s ← engStoreLine s u rid (Cmdl.dst v + 64 * i) d e ord
  let so := fun (t : Target) => !t.pool && t.kind == .so
  return (s, so ts || so td)

/-- Whether neither line of a copy's line `i` lies on an SO page, as far as translation finds now. -/
def copyFree (s : State) (u : UId) (a : Access) (v i : Nat) : Bool :=
  let free := fun (r : EngM (Target × State)) => match r with
    | .ok (t, _) => t.pool || t.kind != .so
    | .error _ => false
  let ord := a.f.o.isSome
  free (engAt s u a.f.rid (Cmdl.src v + 64 * i) 64 64 true false ord)
    && free (engAt s u a.f.rid (Cmdl.dst v + 64 * i) 64 64 false true ord)

/-- The line that a copy performs next of those left: any, but no line on an SO page before a lower one that may lie on one
(R139, R286; log 15). -/
def copyPick (s : State) (u : UId) (a : Access) (v : Nat) (left : List Nat) (k : Nat) : Nat :=
  let i := left.getD (k % left.length) 0
  if copyFree s u a v i then i else (left.find? fun j => !copyFree s u a v j).getD i

/-- The lines of a copy that are left; bit i + 1 of `aux` says that line i is done, and bit 0 that a line lay on an SO page. -/
def copyLeft (a : Access) (v : Nat) : List Nat := (List.range (Cmdl.count v)).filter fun i => !bitAt a.aux (i + 1)

/-- One step of a copy: a line, and after the last its completion token (R139, R286). -/
def copyStep (s : State) (u : UId) (a : Access) (n : Nd) (sc v : Nat) : OpRes :=
  let left := copyLeft a v
  let (k, s) := s.free
  let i := copyPick s u a v left (Config.copyOrder k)
  match copyLine s u a v i with
  | .error e => ⟨s, a, .error e⟩
  | .ok (t, so) =>
    let a := { a with aux := a.aux / 2 * 2 + (so || a.aux % 2 == 1).toNat + 2 ^ (i + 1) }
    ⟨t, a, if left.length ≤ 1 then opSend t u a n (marker (if a.aux % 2 = 1 then 4 else sc) false) else .error .more⟩

/-- The operation of `cp`. -/
def performCp (s : State) (u : UId) (a : Access) (n : Nd) (sc : Scope) : OpRes :=
  withCommand s u a (fun _ => cpCheck) fun s a v => copyStep s u a n sc.code.toNat v

/-! ### Near-memory commands (R287, R288, R140) -/

/-- `nm.add` (R287). -/
def execNmAdd (n : Nd) (sc : Scope) (st : State) : Answer :=
  issueCommand 0xE1 n (.nmAdd n sc) allTypes (fun _ _ => nmCheck true) st

/-- `nm.axpy` (R287). -/
def execNmAxpy (n : Nd) (sc : Scope) (st : State) : Answer :=
  issueCommand 0xE2 n (.nmAxpy n sc) allTypes (fun _ _ => nmCheck true) st

/-- `nm.scl` (R287). -/
def execNmScl (n : Nd) (sc : Scope) (st : State) : Answer :=
  issueCommand 0xE3 n (.nmScl n sc) allTypes (fun _ _ => nmCheck false) st

/-- `nm.cvt` (R287). -/
def execNmCvt (n : Nd) (sc : Scope) (st : State) : Answer :=
  issueCommand 0xE4 n (.nmCvt n sc) allTypes (fun _ _ => nmCheck true) st

/-- The operations of the base dies. -/
inductive NmOp where
  | add | axpy | scl | cvt
deriving DecidableEq, Repr

/-- Demand that a line carries a format. -/
def needFmt (e : Desc) (fmt addr : Nat) : EngM Unit := engNeed (e.fmt == fmt) .format e.toNat addr

/-- The lanes that an arithmetic near-memory command writes (R287). -/
def nmLanes (o : NmOp) (f : Fmt) (mode : Rnd) (alpha : FV) (x y : List Nat) : List Nat :=
  let g := fun (a b : FV) => match o with
    | .add => FV.add mode b a
    | .axpy => FV.add mode (FV.mul alpha a) b
    | .scl | .cvt => FV.mul alpha b
  List.zipWith (fun a b => (f.round mode false .arith (g (f.value a) (f.value b))).1) x y

/-- Update one y line in its base die, data and descriptor as one action (R140). -/
def nmStore (s : State) (u : UId) (rid v : Nat) (d : LineData) (e : Desc) (ord : Bool) : EngM State :=
  engStoreLine s u rid v d e ord

/-- Line `i` of an arithmetic near-memory command. -/
def nmArith (s : State) (u : UId) (a : Access) (o : NmOp) (v i : Nat) : EngM State := do
  let ord := a.f.o.isSome
  let rid := a.f.rid
  let py := Cmdl.dst v + 64 * i
  let fmt := Cmdl.fmt v
  let f := if fmt = 0x04 then Fmt.f32 else Fmt.bf16
  let (x, s) ← if o = .scl then .ok (([] : List Nat), s) else (do
    let px := Cmdl.src v + 64 * i
    let (d, e, s) ← engLine s u rid px ord
    needFmt e fmt px
    return (lineLanes fmt d, s))
  let (t, _) ← engAt s u rid py 64 64 true true ord
  let s := drainLine s t.line fun _ _ => true
  let (d, e, s) ← engLine s u rid py ord
  needFmt e fmt py
  let y := lineLanes fmt d
  let r := nmLanes o f (Cmdl.rnd v) (Fmt.f32.value (Cmdl.alpha v)) (if o = .scl then y else x) y
  nmStore s u rid py (lineJoin (lineShape fmt).1 r) (Desc.mk fmt 0) ord

/-- Line `i` of `nm.cvt`: one y line, or two from a BF16 source; saturated lanes are counted. -/
def nmConvert (s : State) (u : UId) (a : Access) (v i : Nat) : EngM State := do
  let ord := a.f.o.isSome
  let rid := a.f.rid
  let px := Cmdl.src v + 64 * i
  let fmt := Cmdl.fmt v
  let (d, e, s) ← engLine s u rid px ord
  engNeed ((e.fmt == 0x04 || e.fmt == 0x05) && e.fmt != fmt) .format e.toNat px
  match cvtTarget fmt, lineValues false 0 d e with
  | some t, some x => do
    let part := fun (o : Nat) => cvtLine t fmt 0 0 0 o false (Cmdl.rnd v) x
    let parts := if fmt = 0x04 then [part 0, part 16] else [part 0]
    let sat := (parts.map fun p => (p.2.filter id).length).foldl (· + ·) 0
    let w := 64 * parts.length
    let s ← parts.zipIdx.foldlM (fun s p => nmStore s u rid (Cmdl.dst v + w * i + 64 * p.2) p.1.1.1 p.1.1.2 ord) s
    return s.modUnit u fun h => { h with ovDiscard := min (h.ovDiscard + sat) 0xFFFFFFFF }
  | _, _ => engFault .format e.toNat px

/-- One step of a near-memory command: its next line in ascending order, and after the last its completion token (R288);
`aux` counts the lines done. -/
def nmStep (s : State) (u : UId) (a : Access) (n : Nd) (o : NmOp) (sc v : Nat) : OpRes :=
  match if o = .cvt then nmConvert s u a v a.aux else nmArith s u a o v a.aux with
  | .error e => ⟨s, a, .error e⟩
  | .ok t =>
    let a := { a with aux := a.aux + 1 }
    ⟨t, a, if Cmdl.count v ≤ a.aux then opSend t u a n (marker (max sc 3) false) else .error .more⟩

/-- The operation of a near-memory command. -/
def performNm (s : State) (u : UId) (a : Access) (n : Nd) (o : NmOp) (sc : Scope) : OpRes :=
  withCommand s u a (fun _ => nmCheck (o != .scl)) fun s a v => nmStep s u a n o sc.code.toNat v

/-! ### Windows and links (R289, R397, R398) -/

/-- This device's number (R397). -/
def ownDevice (s : State) : Nat := bits s.out.devnum.toNat 18 0

/-- The port on which flits for a device leave: the lowest that matches (R397). -/
def routePort (s : State) (d : Nat) : Option Nat :=
  (List.range 16).find? fun p =>
    let w := (s.out.routes.getD p 0).toNat
    (d &&& bits w 50 32) == (bits w 18 0 &&& bits w 50 32)

/-- Whether the link to a device is up (R289, R397). -/
def linkUp (s : State) (d : Nat) : Bool :=
  match routePort s d with | some p => s.out.linksUp.getD p false | none => false

/-- Bytes of a remote operation. -/
def remoteSize : RemoteOp → Nat
  | .get l | .put l => if l then 64 else 8
  | .amo _ w => if w then 4 else 8

/-- The atomic that an `xr.amo` names (R290). -/
def amoOp (k : Nat) : AtomOp :=
  match k with | 0 => .add | 1 => .and | 2 => .or | 3 => .xor | 4 => .min | 5 => .max | _ => .swap

/-- What a remote operation writes at bytes that read as `old`, if it writes: the value of its size. -/
def remoteWrite (op : RemoteOp) (old d : Nat) : Option Nat :=
  match op with
  | .get _ => none
  | .put _ => some d
  | .amo k w => some (atomNew (amoOp k) (if w then 32 else 64) .i64 old (d % 2 ^ (if w then 32 else 64)) 0)

/-- Whether a remote operation may touch a line that carries a descriptor (R289: the checks of Table 08-1 at the target);
the format of `e` is the one its data declares. -/
def remoteFormat (op : RemoteOp) (d e : Desc) : Bool :=
  match op with
  | .get _ => formatOk d.fmt
  | .put true => formatOk e.fmt
  | .put false | .amo _ _ => formatOk d.fmt && formatAdmits d.fmt e.fmt

/-- Whether a remote operation waits: its page migrates (R149, R289, R348). -/
def windowWaits (s : State) (w off : Nat) : Bool :=
  match AL.find? s.hg.windows w with
  | some x => x.kind != 2 && (ctxTarget s (ctxRid x.cx) (x.base + off) matches .migr _)
  | none => false

/-- Perform a remote operation through window `w` of this device: what it read, and the state after; none where R289
raises the remote fault. `ord` says whether its node had an ordering input, which an SO page asks for (R134). An operation
of this device reads what the stores it depends on wrote, and an atomic follows every store to its line that is held (R131,
R132, R134). A line store ends an error of its line (R355, R356). -/
def serveWindow (s : State) (w off : Nat) (own : Bool) (peer : Nat) (op : RemoteOp) (d : LineData) (e : Desc) (ord : Bool) :
    Option (LineData × Desc × State) := do
  let x ← AL.find? s.hg.windows w
  let n := remoteSize op
  let writes := !(op matches .get _)
  let reads := !(op matches .put _)
  let admitted := (own && x.kind == 2) || (x.kind == 1 && (peer &&& x.pmask) == (x.peer &&& x.pmask))
  if !admitted || decide (x.size < off + n) || (reads && !x.rd) || (writes && !x.wr) then none
  else if x.kind = 2 then
    let key := hostKey (x.base + off)
    let old := Memory.readN s.mem key n
    let s := match remoteWrite op old d.toNat with
      | some v => { s with mem := Memory.writeN s.mem key n v }
      | none => s
    some (BitVec.ofNat 512 old, 0, s)
  else
    let rid := ctxRid x.cx
    match ctxTarget s rid (x.base + off) with
    | .at t =>
      let s := if own || writes then drainLine s t.line fun _ _ => true else s
      let desc := readDesc s .outside rid 0 t
      if (!t.pool && t.kind == .so && !ord) || (reads && !t.r) || (writes && !t.w) || t.ident != 0
          || (s.poison.contains t.line && op != .put true) || !remoteFormat op desc e then none
      else
        let old := readTarget s .outside rid 0 t n
        let s := match remoteWrite op old d.toNat with
          | some v => visibleWrite s t.line (cellsOf t.key n v) (if op = .put true then some e else none) (t.enc (keysOf s rid))
          | none => s
        some (BitVec.ofNat 512 old, desc, s)
    | _ => none

/-- REMOTE_REQUEST_ARRIVAL (R289, R398): a peer's operation is performed here, or nothing is and the peer is answered
with a remote fault; it waits while its page migrates (R149). -/
def execRemoteRequestArrival (r : RemoteReq) (s : State) : Answer :=
  runEvent "REMOTE_REQUEST_ARRIVAL"
    (if windowWaits s r.win r.off then none
    else some (match serveWindow s r.win r.off false r.peer r.op r.data r.desc r.ord with
      | some (_, _, t) => t
      | none => s))

/-! ### Remote operations (R290) -/

namespace Rp
/-- device of a remote pointer (Table 09-8) -/
def dev (v : Nat) : Nat := bits v 55 37
/-- window -/
def win (v : Nat) : Nat := bits v 36 32
/-- offset in the window -/
def off (v : Nat) : Nat := bits v 31 0
end Rp

/-- A remote pointer: a handle of kind 0x03, or an i64 of the same bits (R283). -/
def remotePtr (o : Opd) (size : Nat) : Res Scalar := do
  let x ← scalarU o [.handle, .i64]
  need (x.val.toNat / 2 ^ 56 == 0x03) .handle
  need (Rp.off x.val.toNat % size == 0) .alignment 0 x.val.toNat
  return x

/-- Issue a remote operation. -/
def issueRemote (op : Nat) (n : Nd) (i : Instr) (size : Nat) (chkB : Opd → Res Payload) (st : State) : Answer :=
  runNode op n.a n.b st fun s c => do
    let (a, s) ← readSrc s c n.a
    let (b, s) ← readSrc s c n.b
    let x ← remotePtr a size
    let y ← chkB b
    orderOk c.f.o
    needWait (opRoom s c.u)
    return pushOp (makeIrrevocable s c.f.rid) c i (.scal x) y

/-- `xr.get` (R290): with `.park`, operand B is the pointer to a record image. -/
def execXrGet (n : Nd) (k l : Bool) (st : State) : Answer :=
  issueRemote 0xE5 n (.xrGet n k l) (if l then 64 else 8)
    (fun b => do return .scal (← scalarU b (if k then ptrTypes else allTypes))) st

/-- `xr.put` (R290). -/
def execXrPut (n : Nd) (l : Bool) (st : State) : Answer :=
  issueRemote 0xE6 n (.xrPut n l) (if l then 64 else 8)
    (fun b => if l then asLine b else do return .scal (← scalarU b allTypes)) st

/-- `xr.amo` (R290): the operand types are those of the atomics (Table 08-4). -/
def execXrAmo (n : Nd) (w : Bool) (o : BitVec 3) (st : State) : Answer :=
  issueRemote 0xE7 n (.xrAmo n w o) (if w then 4 else 8)
    (fun b => do return .scal (← scalarU b ((amoOp o.toNat).types w))) st

/-- What a remote instruction asks of its target. -/
def remoteOp (i : Instr) : RemoteOp :=
  match i with
  | .xrGet _ _ l => .get l
  | .xrPut _ l => .put l
  | .xrAmo _ w o => .amo o.toNat w
  | _ => .get false

/-- The data and the declared format that a remote operation carries. -/
def remoteData (a : Access) : LineData × Desc :=
  match a.f.r with
  | some (.line d e _) => (d, e)
  | some (.scal x) => (BitVec.ofNat 512 x.val.toNat, Desc.mk (declared x.ty) 0)
  | none => (0, 0)

/-- The parked record that an operation waits on, with its cluster (R290, R292). -/
def waitingRecord (s : State) (u : UId) (id : Nat) : Option (Nat × Rec) :=
  s.clusters.findSome? fun p => (p.2.parked.find? fun r => r.waitOp == some (u, id)).map fun r => (p.1, r)

/-- Enqueue the record that an operation waits on, its image completed (R61). -/
def wakeRecord (s : State) (u : UId) (id : Nat) (g : BitVec 1280 → BitVec 1280) : EngM State :=
  match waitingRecord s u id with
  | none => .ok s
  | some (cl, r) => wakeParked s cl r g

/-- The record image with the data that came as its last live value (R290). -/
def addLive (v : Word) (img : BitVec 1280) : BitVec 1280 :=
  let n := RecImg.live img
  RecImg.set (RecImg.set (RecImg.set img (64 * n + 256) 64 v.toNat) (4 * n + 192) 4 0) 80 5 (n + 1)

/-- The tokens of a remote operation that is answered, or its remote fault (R289, R290). -/
def remoteEnd (s : State) (u : UId) (a : Access) (ans : RemoteAnswer) : EngM State :=
  let mk := marker 4 false
  let v := ans.data.extractLsb' 0 64
  if !ans.ok then engFault .remote (Rp.dev (opA a))
  else match a.i with
    | .xrGet n k l =>
      if k then do
        let s ← wakeRecord s u a.id (addLive v)
        opSendPair s u a n none (some mk)
      else opSendPair s u a n (some (if l then .line ans.data ans.desc none else plain v .i64)) (some mk)
    | .xrPut n _ => opSend s u a n mk
    | .xrAmo n w _ =>
      let ty := match a.f.r with | some (.scal x) => x.ty | _ => .i64
      opSendPair s u a n (some (plain (if w then BitVec.ofNat 64 (v.toNat % 2 ^ 32) else v) ty).clean) (some mk)
    | _ => .error .wait

/-- Park the record of an operation as it issues: its image checked under R60 with room for `more` live values
(R290, R292). -/
def parkFor (s : State) (u : UId) (a : Access) (ptr cause more : Nat) : EngM State := do
  let (img, s) ← engImage s u a.f.rid ptr a.f.o.isSome
  let rid ← liftRes (checkRecord s a.f.rid img)
  engNeed (decide (RecImg.live img + more ≤ 16) && recordFields (RecImg.set img 80 5 (RecImg.live img + more))) .contFormat
  match parkRecord s u.cl ⟨0, liveImage img cause, rid, false, false, some (u, a.id), 0, none⟩ with
  | some t => return t
  | none => .error .spill

/-- A step of a remote operation: its record parked if it has one, then served here if the device is this one, else sent
out; a device that no link reaches raises the remote fault (R289). -/
def remoteStep (s : State) (u : UId) (a : Access) : Option State :=
  let v := opA a
  let park := a.i matches .xrGet _ true _
  let parked : EngM State := if park && a.aux == 0 then parkFor s u a (opB a) 3 1 else .ok s
  match parked with
  | .error e => opEnd u ⟨s, a, .error e⟩
  | .ok s =>
    let a := { a with aux := 1 }
    if Rp.dev v = ownDevice s then
      if windowWaits s (Rp.win v) (Rp.off v) then none else
      let (d, e) := remoteData a
      match serveWindow s (Rp.win v) (Rp.off v) true (ownDevice s) (remoteOp a.i) d e a.f.o.isSome with
      | none => opEnd u ⟨s, a, engFault .remote (Rp.dev v)⟩
      | some (x, y, t) =>
        some (setOp t u { a with st := if park then .parking else .flight, f := { a.f with x := some (.line x y none) }, woken := true })
    else if linkUp s (Rp.dev v) then some (setOp s u { a with st := if park then .parking else .flight, woken := false })
    else opEnd u ⟨s, a, engFault .remote (Rp.dev v)⟩

/-- The end of a remote operation that was served here; its answer is kept with it. -/
def remoteLocalEnd (s : State) (u : UId) (a : Access) : Option State :=
  match a.f.x with
  | some (.line x y _) => if a.woken then opEnd u ⟨s, a, remoteEnd s u a ⟨true, x, y⟩⟩ else none
  | _ => none

/-- XR_GET_RETURN (R290): what a peer answers to a remote operation in flight. -/
def execXrGetReturn (u : UId) (id : Nat) (ans : RemoteAnswer) (s : State) : Answer :=
  runWork "XR_GET_RETURN" do
    let a ← opNo s u id
    let remote := match a.i with | .xrGet _ _ _ | .xrPut _ _ | .xrAmo _ _ _ => true | _ => false
    if remote && (a.st == .flight || a.st == .parking) && !a.woken then
      let b := { a with woken := true, f := { a.f with x := some (.line ans.data ans.desc none) } }
      opEnd u ⟨s, b, remoteEnd s u b ans⟩
    else none

/-! ### Culvert (R291 to R294) -/

/-- The object that an open handle of a region's context names (R283, R291). -/
def cvHandle (s : State) (rid v : Nat) : Res (Nat × Nat) := do
  need (v / 2 ^ 56 == 0x04 && bits v 55 32 == 0) .handle
  match AL.find? s.out.handles ((s.region rid).cx, bits v 31 0) with
  | some oid => .ok (bits v 31 0, oid)
  | none => flt .handle

/-- Check a Culvert command line (R284, R292). -/
def cvCheck (rid : Nat) (s : State) (v : Nat) : Res Unit := do
  need (cmdReserved v && decide (1 ≤ Cmdl.count v) && decide (Cmdl.count v ≤ 65536) && Cmdl.src v == 0
    && Cmdl.dst v / 2 ^ 52 == 0 && Cmdl.dst v % 4096 == 0) .command
  let _ ← cvHandle s rid (Cmdl.handle v)

/-- `cv.in` (R292): operand B is select 2 or the pointer to a record image. -/
def execCvIn (n : Nd) (st : State) : Answer :=
  issueCommand 0xE8 n (.cvIn n) (if n.b = .zero then allTypes else ptrTypes) (fun s c => cvCheck c.f.rid s) st

/-- `cv.out` (R292). -/
def execCvOut (n : Nd) (st : State) : Answer :=
  issueCommand 0xE9 n (.cvOut n) allTypes (fun s c => cvCheck c.f.rid s) st

/-- `cv.open` (R291). -/
def execCvOpen (n : Nd) (x nm : Bool) (st : State) : Answer :=
  issueOp 0xEA n (.cvOpen n x nm) [.i64] (if nm then [.i64] else allTypes) true st

/-- `cv.close` (R291): a handle that is not open raises a handle fault. -/
def execCvClose (n : Nd) (x : Bool) (st : State) : Answer :=
  runNode 0xEB n.a n.b st fun s c => do
    let (a, s) ← readSrc s c n.a
    let h ← scalarU a [.handle]
    orderOk c.f.o
    let _ ← cvHandle s c.f.rid h.val.toNat
    needWait (opRoom s c.u)
    return pushOp (makeIrrevocable s c.f.rid) c (.cvClose n x) (.scal h) (plain 0 .i64)

/-- Pages of a virtual device's objects that exist (R291). -/
def cvUsed (s : State) (vd : Nat) : Nat :=
  ((List.filter (fun (p : Nat × CvObject) => p.2.vd = vd) s.out.objects).map fun p => p.2.pages).foldl (· + ·) 0

/-- The flash quota of a virtual device (Table 14-5). -/
def cvQuota (s : State) (vd : Nat) : Nat := match vdOf s vd with | some v => policyField v 159 128 | none => 0

/-- A number for a handle that is issued in a context: a free one, the first of those from `k` up that the context does not
use, so that what other partitions hold bars none (R283, R318; log 52). -/
def freeHandle (s : State) (cx k : Nat) : Nat :=
  ((List.range (s.out.handles.length + 1)).map fun i => (k + i) % 2 ^ 32).find? (fun h => (AL.find? s.out.handles (cx, h)).isNone)
    |>.getD 0

/-- The operation of `cv.open` (R291). DESIGN CHOICE: an object whose deletion has begun exists no longer for it, and a
transfer through another handle of it raises a Culvert fault (log 28). -/
def performCvOpen (s : State) (u : UId) (a : Access) (n : Nd) (ctxm new : Bool) : OpRes :=
  ⟨s, a, do
    let r := s.region a.f.rid
    let found := List.find? (fun (p : Nat × CvObject) => p.2.cx = r.cx && p.2.name = opA a && !p.2.deleting) s.out.objects
    engNeed (decide ((List.filter (fun (p : (Nat × Nat) × Nat) => p.1.1 = r.cx) s.out.handles).length < 65536)) .culvert
    let (k, s) := s.free
    let hn := freeHandle s r.cx (Config.handleNo k)
    let (oid, s) ← if new then (do
        engNeed (found.isNone && decide (opB a + cvUsed s r.vd ≤ cvQuota s r.vd)) .culvert
        let (oid, s) := s.fresh
        let o : CvObject := ⟨opA a, r.cx, r.vd, opB a, ctxm, [], [], false⟩
        return (oid, { s with out := { s.out with objects := AL.set s.out.objects oid o } }))
      else match found with
        | some p => .ok (p.1, s)
        | none => engFault .culvert
    let s := { s with out := { s.out with handles := AL.set s.out.handles (r.cx, hn) oid } }
    opSendPair s u a n (some (plain (BitVec.ofNat 64 (0x04 * 2 ^ 56 + hn % 2 ^ 32)) .handle)) (some (marker 4 false))⟩

/-- Whether a transfer that names a handle of a context is in some engine queue (R291). -/
def handleBusy (s : State) (cx hn : Nat) : Bool :=
  s.units.any fun p => p.2.ops.any fun a =>
    (match a.i with | .cvIn _ | .cvOut _ => (s.region a.f.rid).cx == cx | _ => false)
      && (match a.f.l with | some (.line d _ _) => bits (Cmdl.handle d.toNat) 31 0 == hn | _ => false)

/-- A step of `cv.close` (R291): the handle is released once nothing names it; with `.del` the object is deleted, and the
token leaves when that is done. -/
def cvCloseStep (s : State) (u : UId) (a : Access) (n : Nd) (del : Bool) : Option State :=
  let hn := bits (opA a) 31 0
  let cx := (s.region a.f.rid).cx
  if a.st = .flight then
    if (AL.find? s.out.objects a.aux).isNone then opEnd u ⟨s, a, opSend s u a n (marker 4 false)⟩ else none
  else if handleBusy s cx hn then none
  else match AL.find? s.out.handles (cx, hn) with
    | none => opEnd u ⟨s, a, engFault .handle⟩
    | some oid =>
      let s := { s with out := { s.out with handles := AL.del s.out.handles (cx, hn) } }
      if del then
        let s := { s with out := { s.out with objects := s.out.objects.map fun (p : Nat × CvObject) =>
          if p.1 = oid then (p.1, { p.2 with deleting := true }) else p } }
        some (setOp s u { a with st := .flight, aux := oid })
      else opEnd u ⟨s, a, opSend s u a n (marker 4 false)⟩

/-- CULVERT_DELETION_COMPLETE (R291): the object and its pages are gone, and they return to the quota. -/
def execCulvertDeletionComplete (oid : Nat) (s : State) : Answer :=
  runEvent "CULVERT_DELETION_COMPLETE" do
    let o ← AL.find? s.out.objects oid
    if o.deleting then
      some (clearKeys { s with out := { s.out with objects := AL.del s.out.objects oid } } (flashKey oid 0 0) (2 ^ 50))
    else none

/-- The lines of a page of an object on flash. -/
def flashPage (s : State) (oid p : Nat) : List Line :=
  (List.range 64).map fun i =>
    let k := flashKey oid p (64 * i)
    (BitVec.ofNat 512 (Memory.readN s.mem k 64), BitVec.ofNat 16 (Memory.readN s.mem (descKey k) 2))

/-- Write a page of an object on flash. -/
def writeFlash (s : State) (oid p : Nat) (o : CvObject) (l : List Line) : State :=
  let s := l.zipIdx.foldl (fun s x =>
    let k := flashKey oid p (64 * x.2)
    { s with mem := Memory.writeN (Memory.writeN s.mem k 64 x.1.1.toNat) (descKey k) 2 x.1.2.toNat }) s
  let o := { o with written := if o.written.contains p then o.written else o.written ++ [p], bad := o.bad.filter (· != p) }
  { s with out := { s.out with objects := AL.set s.out.objects oid o } }

/-- Whether a page is a good header page of a compressed-context object (R294, Table 09-11). -/
def sessionOk (l : List Line) : Bool :=
  let h := (l.headD (0, 0)).1.toNat
  (l.headD (0, 0)).2 == 0x1000 && bits h 7 0 == 0x01 && h / 2 ^ 256 == 0 && bits h 63 16 == 0
    && bits h 95 64 == crc32c ((l.drop 1).flatMap fun x => toBytes x.1.toNat 64)

/-- The 64 lines of a page of memory, read as `ldl` reads them. -/
def readPage (s : State) (u : UId) (rid v : Nat) (ord : Bool) : Nat → EngM (List Line × State)
  | 0 => .ok ([], s)
  | n + 1 => do
    let (d, e, s) ← engLine s u rid (v + 64 * (63 - n)) ord
    let (l, s) ← readPage s u rid v ord n
    return ((d, e) :: l, s)

/-- Write the 64 lines of a page of memory (R292). -/
def storePage (s : State) (u : UId) (rid v : Nat) (ord : Bool) (l : List Line) : EngM State :=
  l.zipIdx.foldlM (fun s x => engStoreLine s u rid (v + 64 * x.2) x.1.1 x.1.2 ord) s

/-- The object a transfer names, its page range checked; the header page of a compressed-context object is checked by
`header` when the range has it (R292, R294). -/
def cvObject (s : State) (rid v : Nat) (header : CvObject → Nat → Bool) : EngM (Nat × CvObject) := do
  let (_, oid) ← liftRes (cvHandle s rid (Cmdl.handle v))
  match AL.find? s.out.objects oid with
  | none => engFault .culvert (Cmdl.objpage v)
  | some o => do
    engNeed (!o.deleting && decide (Cmdl.objpage v + Cmdl.count v ≤ o.pages)) .culvert (Cmdl.objpage v)
    engNeed (!o.ctxMark || Cmdl.objpage v != 0 || header o oid) .culvert 0
    return (oid, o)

/-- Transfers in flight in a partition (R293). -/
def cvInFlight (s : State) (p : Nat) : Nat :=
  ((List.filter (fun (x : UId × HwUnit) => partOf s x.1.cl = p) s.units).map fun x =>
    (x.2.ops.filter fun a => (match a.i with | .cvIn _ | .cvOut _ => true | _ => false) && a.aux != 0).length).foldl (· + ·) 0

/-- Whether Culvert takes one more command of a partition (R293). -/
def cvRoom (s : State) (u : UId) : Bool := cvInFlight s (partOf s u.cl) < 4096

/-- The first step of `cv.in` (R292, R293): its command is read, its record parked, and it is with Culvert; `aux` holds 1
plus the pages done. -/
def cvInStart (s : State) (u : UId) (a : Access) (n : Nd) : Option State :=
  if a.aux ≠ 0 || !cvRoom s u then none
  else
    let x := withCommand s u a (fun s => cvCheck a.f.rid s) fun s a _ =>
      ⟨s, a, if n.b = .zero then .ok s else parkFor s u a (opB a) 2 0⟩
    match x.r with
    | .ok t => some (setOp t u { x.a with aux := 1, st := if n.b = .zero then .flight else .parking })
    | .error e => opEnd u { x with r := .error e }

/-- The pages of a `cv.in` that remain: authenticated, then written line by line. -/
def cvInLoop (u : UId) (n : Nd) (v oid : Nat) (o : CvObject) : Nat → State → Access → OpRes
  | 0, s, a => ⟨s, a, do
      let s ← wakeRecord s u a.id id
      opSend s u a n (marker 4 false)⟩
  | k + 1, s, a =>
    let j := a.aux - 1
    let page := Cmdl.objpage v + j
    if !o.written.contains page || o.bad.contains page then ⟨s, a, engFault .culvert page⟩
    else match storePage s u a.f.rid (Cmdl.dst v + 4096 * j) a.f.o.isSome (flashPage s oid page) with
      | .ok t => cvInLoop u n v oid o k t { a with aux := a.aux + 1 }
      | .error e => ⟨s, a, .error e⟩

/-- CV_IN_COMPLETE (R292, R294): the pages have come and are written, the token leaves, and a parked record is enqueued. -/
def execCvInComplete (u : UId) (id : Nat) (s : State) : Answer :=
  runWork "CV_IN_COMPLETE" do
    let a ← opNo s u id
    match a.i, a.f.l with
    | .cvIn n, some (.line d _ _) =>
      if a.aux ≠ 0 ∧ (a.st = .flight ∨ a.st = .parking ∨ a.st = .queued) then
        let v := d.toNat
        match cvObject s a.f.rid v fun o oid => sessionOk (flashPage s oid 0) && o.written.contains 0 with
        | .ok (oid, o) => opEnd u (cvInLoop u n v oid o (Cmdl.count v - (a.aux - 1)) s a)
        | .error e => opEnd u ⟨s, a, .error e⟩
      else none
    | _, _ => none

/-- The pages of a `cv.out` that remain: read from memory, then durable on flash; `aux` is 2 plus those done. -/
def cvOutLoop (u : UId) (n : Nd) (v oid : Nat) : Nat → State → Access → OpRes
  | 0, s, a => ⟨s, a, opSend s u a n (marker 4 false)⟩
  | k + 1, s, a =>
    let j := a.aux - 2
    match readPage s u a.f.rid (Cmdl.dst v + 4096 * j) a.f.o.isSome 64, AL.find? s.out.objects oid with
    | .ok (l, t), some o => cvOutLoop u n v oid k (writeFlash t oid (Cmdl.objpage v + j) o l) { a with aux := a.aux + 1 }
    | .ok _, none => ⟨s, a, engFault .culvert (Cmdl.objpage v + j)⟩
    | .error e, _ => ⟨s, a, .error e⟩

/-- The operation of `cv.out` (R292 to R294). Its `aux` is 0 until Culvert takes the command, 1 while its header page is not
read, then 2 plus the pages done: the header is checked once, before any page is written. -/
def performCvOut (s : State) (u : UId) (a : Access) (n : Nd) : OpRes :=
  if a.aux = 0 && !cvRoom s u then ⟨s, a, .error .wait⟩
  else withCommand s u a (fun s => cvCheck a.f.rid s) fun s a v =>
    if 2 ≤ a.aux then cvGo s a v true
    else
      let a := { a with aux := 1 }
      let ctxm := match cvObject s a.f.rid v fun _ _ => true with
        | .ok (_, o) => o.ctxMark && Cmdl.objpage v == 0
        | .error _ => false
      match if ctxm then readPage s u a.f.rid (Cmdl.dst v) a.f.o.isSome 64 else .ok ([], s) with
      | .error e => ⟨s, a, .error e⟩
      | .ok (l, _) => cvGo s { a with aux := 2 } v (!ctxm || sessionOk l)
where
  /-- Go on once the header page is known to be good or bad. -/
  cvGo (s : State) (a : Access) (v : Nat) (good : Bool) : OpRes :=
    match cvObject s a.f.rid v fun _ _ => good with
    | .ok (oid, _) => cvOutLoop u n v oid (Cmdl.count v - (a.aux - 2)) s a
    | .error e => ⟨s, a, .error e⟩

end Sys2Proof.Machine
end

