-- ==== Sys2Proof/Machine/System.lean ====
section
/-! DEFINITION. The system instructions of any unit (R296 to R299), the privileged registers of a partition (R315, R316,
R322, R325 to R328), the room of the fault ring (R351), `publish` (R403) and the scrub instructions (R381, R382). -/

namespace Sys2Proof.Machine

open Sys2Proof

/-! ### trap, brk, rdctr -/

/-- `trap` (R297): consumes A, emits nothing and raises the trap fault. -/
def execTrap (n : Nd) (k : BitVec 4) (st : State) : Answer :=
  runNode 0xF8 n.a n.b st fun s c => do
    let _ ← readSrc s c n.a
    flt .trap k.toNat

/-- Whether the policy of a region's virtual device permits debug (R298, Table 14-5). -/
def debugOn (s : State) (rid : Nat) : Bool :=
  match vdOf s (s.region rid).vd with
  | some v => policyField v 62 61 == 1 || policyField v 62 61 == 2
  | none => false

/-- `brk` (R298): where debug is permitted its tokens are withheld until the debugger lets them go, and `stage` is then
1; otherwise, and while its region yields (R387), A is emitted at once. -/
def execBrk (n : Nd) (st : State) : Answer :=
  runNode 0xF9 n.a n.b st fun s c => do
    let (a, s) ← readSrc s c n.a
    if debugOn s c.f.rid && c.f.stage = 0 && (s.region c.f.rid).yield.isNone then
      let (k, s) := s.fresh
      return s.modUnit c.u fun h => { h with withheld := h.withheld ++ [(k, { c.f with stage := 1 })] }
    else finish s c n (plain 0 .i64) a.pay

/-- An event that waited for a page that migrated goes to its queue (R328). -/
def execPostHeld (p : Nat) (s : State) : Answer := runEvent "an event that waits" (postHeld s p)

/-- The partition with a supervisor region in whose fault ring a line lies (R351). -/
def ringOf (s : State) (line : Nat) : Option Nat :=
  (List.find? (fun (x : Nat × Part) =>
    x.2.supRid.isSome && decide (poolKey x.2.supCluster 0 ≤ line) && decide (line < poolKey x.2.supCluster 0 + 0x4000)) s.parts).map (·.1)

/-- POOL_UNCORRECTABLE_ERROR and HBM_UNCORRECTABLE_ERROR (R355, R356): an error poisons its line, which keeps its data and
descriptor; the access that meets it next raises the fault. One that strikes a fault ring is a double fault (R352). -/
def execUncorrectable (line : Nat) (s : State) : Answer :=
  let stored := isHbm line || (decide (poolKey 0 0 ≤ line) && decide (line < poolKey 4096 0))
    || (decide (omKey 0 0 ≤ line) && decide (line < omKey 4096 0))
  runEvent "an uncorrectable error"
    (if stored && line % 64 == 0 && !s.poison.contains line then
      let t := { s with poison := s.poison ++ [line] }
      some (match ringOf s line with | some p => doubleFault t p | none => t)
    else none)

/-- The partition time in nanoseconds (Table 09-13, R399): 600 MHz clocks, and an offset that synchronisation steers. -/
def partTime (s : State) (p : Nat) : Nat := ((s.part p).ptime + s.clock * 5 / 3) % 2 ^ 64

/-- A counter of Table 09-13 as a unit reads it (R299). -/
def counter (s : State) (u : UId) (k : Nat) : Nat :=
  let h := s.unit u
  match k with
  | 0 => s.clock
  | 1 => h.fired
  | 2 => h.ovDiscard
  | 3 => spillUse h
  | 4 => h.grantWait
  | 5 => h.rebuilds
  | _ => partTime s (partOf s u.cl)

/-- `rdctr` (R299). -/
def execRdctr (n : Nd) (k : BitVec 4) (st : State) : Answer :=
  runNode 0xFA n.a n.b st fun s c =>
    finish s c n (plain 0 .i64) (plain (BitVec.ofNat 64 (counter s c.u k.toNat)) .u64)

/-! ### Privileged registers, Table 12-2 -/

/-- Heavy-unit grants that units of a partition hold (R332). -/
def grantUse (s : State) (p : Nat) : Nat :=
  (List.filter (fun (x : UId × HwUnit) => partOf s x.1.cl = p && x.2.grant.isSome) s.units).length

/-- The 64 KiB units that ranges of addresses touch; the ranges ascend and a unit counts once (R409). -/
def unitCount : List (Nat × Nat) → Nat
  | [] => 0
  | [r] => (r.2 + 65535) / 65536 - r.1 / 65536
  | r :: q :: l =>
    (r.2 + 65535) / 65536 - r.1 / 65536 + unitCount (q :: l)
      - (if q.1 / 65536 < (r.2 + 65535) / 65536 then 1 else 0)

/-- Whether the boot scrub runs (R384). -/
def bootScrub (s : State) : Bool := s.parts.any fun p => p.2.scrubs.any fun x => x.cx.isNone

/-- `SCRUB_PROGRESS` (Table 14-10): the scrub at the head; with none, the boot scrub while it runs elsewhere (R384), else zero
(R409). -/
def scrubWord (s : State) (p : Nat) : Nat :=
  match (s.part p).scrubs with
  | [] => if bootScrub s then 3 * 2 ^ 62 else 0
  | x :: _ =>
    (if x.cx.isSome then 1 else 3) * 2 ^ 62 + x.vd % 2 ^ 10 * 2 ^ 52 + x.slot % 2 ^ 10 * 2 ^ 42
      + x.clusters.length % 2 ^ 13 * 2 ^ 29 + unitCount x.ranges % 2 ^ 29

/-- The holder of a partition's fabric (Table 12-4). -/
def holder (q : Part) : Option Nat := if bitAt q.slotCtl.toNat 10 then none else some (bits q.slotCtl.toNat 9 0)

/-- The slot now running (Table 12-4). -/
def curSlot (q : Part) : Nat := bits q.slotCtl.toNat 21 16

/-- `SLOT_CTL` from its fields (Table 12-4). -/
def slotCtlWord (en : Bool) (cur : Nat) (h : Option Nat) : Word :=
  BitVec.ofNat 64 (en.toNat * 2 ^ 63 + cur % 64 * 2 ^ 16 + (match h with | some v => v % 2 ^ 10 | none => 2 ^ 10))

/-- The value of a privileged register, none where Table 12-2 names none (R316). -/
def readPriv (s : State) (p num : Nat) : Option Nat :=
  let q := s.part p
  if num = 0x000 then some q.cfg.toNat
  else if num = 0x001 then some s.partMap.toNat
  else if num = 0x010 then some q.sluiceDrop.toNat
  else if num = 0x011 then some q.sluiceCnt.toNat
  else if num = 0x020 then some (bits s.edgeCal.toNat 63 0)
  else if num = 0x021 then some (bits s.edgeCal.toNat 127 64)
  else if 0x030 ≤ num ∧ num ≤ 0x034 then some (q.hashMask.getD (num - 0x030) 0).toNat
  else if num = 0x040 then some q.slotCtl.toNat
  else if num = 0x050 then some q.evtQueue.toNat
  else if num = 0x051 then some q.evtLost
  else if num = 0x060 then some q.qpendBase.toNat
  else if num = 0x070 then some (grantUse s p)
  else if 0x100 ≤ num ∧ num ≤ 0x13F then
    some ((q.slotStaged.getD (num - 0x100) none).getD (q.slotEnt.getD (num - 0x100) 0)).toNat
  else if 0x200 ≤ num ∧ num ≤ 0x23F then some (q.qslot.getD (num - 0x200) 0).toNat
  else if num = 0x300 then some q.retired.toNat
  else if num = 0x310 then some (scrubWord s p)
  else none

/-- Whether a context of a partition is resident (R118, R413): from `CTX_CREATE` until its teardown reaches free. -/
def residentIn (s : State) (p : Nat) : Bool :=
  s.hg.ctxs.any fun (c : Nat × Ctx) => c.2.st != .free && (match vdOf s c.2.vd with | some v => v.part == p | none => false)

namespace Qs
/-- a queue is mapped -/
def valid (w : Word) : Bool := bitAt w.toNat 63
/-- may be unmapped to make room -/
def pre (w : Word) : Bool := bitAt w.toNat 62
/-- a notify has arrived -/
def pend (w : Word) : Bool := bitAt w.toNat 61
/-- a launch is active -/
def run (w : Word) : Bool := bitAt w.toNat 60
/-- queue identity 16*vd + q (R325) -/
def qid (w : Word) : Nat := bits w.toNat 55 42
end Qs

/-- Where bit `qid` of the pending bitmap lies: its byte, if `QPEND_BASE` names the supervisor cluster's scratchpad
class (R326). -/
def pendByte (s : State) (p qid : Nat) : Option Nat :=
  let q := s.part p
  let off := bits q.qpendBase.toNat 55 0 + qid / 8
  if q.qpendBase.toNat / 2 ^ 56 = 0xFC ∧ off < padSize s q.supCluster then some (poolKey q.supCluster off) else none

/-- A bit of the pending bitmap. -/
def pendBit (s : State) (p qid : Nat) : Bool :=
  match pendByte s p qid with
  | some k => bitAt (Memory.read s.mem k).toNat (qid % 8)
  | none => false

/-- Set or clear a bit of the pending bitmap (R326). -/
def setPendBit (s : State) (p qid : Nat) (v : Bool) : State :=
  match pendByte s p qid with
  | some k =>
    let old := (Memory.read s.mem k).toNat
    let new := old - (bitAt old (qid % 8)).toNat * 2 ^ (qid % 8) + v.toNat * 2 ^ (qid % 8)
    visibleWrite s (lineOf k) [(k, BitVec.ofNat 8 new)] none none
  | none => s

/-- Whether a launch of a queue is active (Table 12-5). -/
def queueRuns (s : State) (p qid : Nat) : Bool :=
  s.regions.any fun (r : Nat × Region) =>
    r.2.part == p && r.2.qid == some qid && (r.2.st == .active || r.2.st == .frozen || r.2.st == .saved)

/-- Write queue slot `i` (R325, R326): a queue that is unmapped leaves its pend in the bitmap, one that is mapped takes it
from there. -/
def writeQslot (s : State) (p i : Nat) (v : Word) : State :=
  let old := (s.part p).qslot.getD i 0
  let keep := Qs.valid old && Qs.valid v && Qs.qid old == Qs.qid v
  let s := if Qs.valid old && !keep && Qs.pend old then setPendBit s p (Qs.qid old) true else s
  let moved := Qs.valid v && !keep && pendBit s p (Qs.qid v)
  let s := if moved then setPendBit s p (Qs.qid v) false else s
  let run := if keep then Qs.run old else Qs.valid v && queueRuns s p (Qs.qid v)
  let pend := Qs.pend v || moved
  let w := bits v.toNat 63 62 * 2 ^ 62 + pend.toNat * 2 ^ 61 + run.toNat * 2 ^ 60 + bits v.toNat 59 42 * 2 ^ 42
  s.modPart p fun q => { q with qslot := q.qslot.set i (BitVec.ofNat 64 w) }

/-- Whether writing a slot would map a queue twice (R325). -/
def mapsTwice (s : State) (p i : Nat) (v : Word) : Bool :=
  Qs.valid v && (List.range 64).any fun j =>
    let w := (s.part p).qslot.getD j 0
    j != i && Qs.valid w && Qs.qid w == Qs.qid v

/-- Write a privileged register under its layout (R9, R316): the state and whether its rule refused the write; none for a
number that takes no write. -/
def writePriv (s : State) (p num : Nat) (v : Word) : Option (State × Bool) :=
  let put := fun (g : Part → Part) => some (s.modPart p g, false)
  if num = 0x010 then
    if bitAt v.toNat 63 then some (s, false) else put fun q => { q with sluiceDrop := 0 }
  else if num = 0x011 then put fun q => { q with sluiceCnt := 0 }
  else if 0x030 ≤ num ∧ num ≤ 0x034 then
    if residentIn s p then some (s, true)
    else put fun q => { q with hashMask := q.hashMask.set (num - 0x030) (BitVec.ofNat 64 (bits v.toNat 51 12 * 2 ^ 12)) }
  else if num = 0x040 then put fun q => { q with slotCtl := slotCtlWord (bitAt v.toNat 63) (curSlot q) (holder q) }
  else if num = 0x050 then put fun q => { q with evtQueue := v }
  else if num = 0x051 then put fun q => { q with evtLost := 0 }
  else if num = 0x060 then
    if (s.part p).qslot.any Qs.valid || v.toNat / 2 ^ 56 != 0xFC then some (s, true)
    else put fun q => { q with qpendBase := v }
  else if 0x100 ≤ num ∧ num ≤ 0x13F then
    let e : Word := BitVec.ofNat 64 ((bitAt v.toNat 15).toNat * 2 ^ 15 + bits v.toNat 9 0)
    put fun q => { q with slotStaged := q.slotStaged.set (num - 0x100) (some e) }
  else if 0x200 ≤ num ∧ num ≤ 0x23F then
    if mapsTwice s p (num - 0x200) v then none else some (writeQslot s p (num - 0x200) v, false)
  else if num = 0x300 then put fun q => { q with retired := 0 }
  else none

/-- The register number that operand A gives (R315). -/
def csrNumber (a : Opd) : Res Nat := do
  let x ← scalarU a [.i64, .u64]
  need (x.val.toNat / 2 ^ 12 == 0) .csr (bits x.val.toNat 11 0)
  return x.val.toNat

/-- `csr.rd` (R315). -/
def execCsrRd (n : Nd) (st : State) : Answer :=
  runNode 0xFB n.a n.b st fun s c => do
    let (a, s) ← readSrc s c n.a
    let num ← csrNumber a
    orderOk c.f.o
    match readPriv s (partOf s c.u.cl) num with
    | some v => finish s c n (plain 0 .i64) (plain (BitVec.ofNat 64 v) .u64)
    | none => flt .csr num

/-- `csr.wr` (R315): status 0 where the write took effect, 1 where the register's rule refused it. -/
def execCsrWr (n : Nd) (st : State) : Answer :=
  runNode 0xFB n.a n.b st fun s c => do
    let (a, s) ← readSrc s c n.a
    let (b, s) ← readSrc s c n.b
    let num ← csrNumber a
    let v ← scalarU b [.i64, .u64]
    orderOk c.f.o
    match writePriv (makeIrrevocable s c.f.rid) (partOf s c.u.cl) num v.val with
    | some (s, refused) => finish s c n b.pay (plain (BitVec.ofNat 64 refused.toNat) .i64)
    | none => flt .csr num

/-- Store a value in a register of a function that has no behaviour of its own (Table 14-1): the rings, the completion
head, and the length of a recovery image. -/
def writeFn (s : State) (fn off : Nat) (v : Word) : Option State :=
  let put := fun (g : FnRegs → FnRegs) =>
    some { s with hg := { s.hg with fns := AL.set s.hg.fns fn (g (AL.get FnRegs.none s.hg.fns fn)) } }
  let ring := BitVec.ofNat 64 (bits v.toNat 63 12 * 2 ^ 12 + bits v.toNat 3 0)
  if off = 0x000 then put fun r => { r with cmdring := ring }
  else if off = 0x010 then put fun r => { r with cplring := ring }
  else if off = 0x018 then put fun r => { r with cplhead := v }
  else if off = 0x208 ∧ fn = 0 then some { s with hg := { s.hg with recoveryLen := v.setWidth 32 } }
  else none

/-- REGISTER_WRITE (R315, R9): a register without behaviour of its own takes the value under its layout. Numbers below
0x1000 are those of Table 12-2 in partition `p`; 0x1000 and up are the offsets of Table 14-1 of function `p`. -/
def execRegisterWrite (p num : Nat) (v : Nat) (s : State) : Answer :=
  runEvent "REGISTER_WRITE"
    (if 0x1000 ≤ num then writeFn s p (num - 0x1000) (BitVec.ofNat 64 v)
    else if num = 0x040 ∨ num = 0x050 then (writePriv s p num (BitVec.ofNat 64 v)).map (·.1)
    else none)

/-! ### Notifies and the fault ring -/

/-- A notify that reaches a partition (R326): pend of its slot, or its bit and an event. -/
def notify (s : State) (p qid : Nat) : State :=
  let q := s.part p
  match (List.range 64).find? fun i => Qs.valid (q.qslot.getD i 0) && Qs.qid (q.qslot.getD i 0) == qid with
  | some i => s.modPart p fun q => { q with qslot := q.qslot.set i (q.qslot.getD i 0 ||| BitVec.ofNat 64 (2 ^ 61)) }
  | none =>
    let room := q.qslot.any fun w => !Qs.valid w || Qs.pre w
    postEvent (setPendBit s p qid true) p (if room then 0x01 else 0x02) qid

/-- QUEUE_NOTIFY (R326): a notify that the Headgate has sent is delivered. -/
def execQueueNotify (p qid : Nat) (s : State) : Answer :=
  runEvent "QUEUE_NOTIFY"
    (if s.hg.notifies.contains (p, qid) then
      some (notify { s with hg := { s.hg with notifies := s.hg.notifies.erase (p, qid) } } p qid)
    else none)

/-- FAULT_RING_ROOM (R351): the ring has room, and the record that waits longest is written. -/
def execFaultRingRoom (p : Nat) (s : State) : Answer :=
  runEvent "FAULT_RING_ROOM"
    (match (s.part p).faultWait with
    | [] => none
    | w :: l =>
      if ringUsed s (s.part p) = 255 then none
      else some (ringWrite (s.modPart p fun q => { q with faultWait := l }) (s.part p) w.2.2))

/-! ### publish and scrub -/

/-- Issue an engine operation whose operands have a range: a value outside it raises a command fault (R382, R403). -/
def issueRanged (op : Nat) (n : Nd) (i : Instr) (ta tb : List TType) (ok : Nat → Nat → Bool) (st : State) : Answer :=
  runNode op n.a n.b st fun s c => do
    let (a, s) ← readSrc s c n.a
    let (b, s) ← readSrc s c n.b
    let x ← scalarU a ta
    let y ← scalarU b tb
    orderOk c.f.o
    need (ok x.val.toNat y.val.toNat) .command
    needWait (opRoom s c.u)
    return pushOp (makeIrrevocable s c.f.rid) c i (.scal x) (.scal y)

/-- `publish` (R403). -/
def execPublish (n : Nd) (st : State) : Answer :=
  issueRanged 0xFC n (.publish n) ptrTypes [.i64] (fun _ y => decide (1 ≤ y) && decide (y ≤ 2 ^ 20)) st

/-- The `k` lines from an address up, read as `ld.acq` reads them (R403, R136). -/
def acquireLines (s : State) (u : UId) (rid v : Nat) (ord : Bool) : Nat → EngM (List Line × State)
  | 0 => .ok ([], s)
  | k + 1 => do
    let (d, e, s) ← engLine s u rid v ord
    let (l, s) ← acquireLines s u rid (v + 64) ord k
    return ((d, e) :: l, s)

/-- The code object that some lines hold. -/
def codeBytes (cx : Nat) (l : List Line) : Code := ⟨cx, l.flatMap fun x => toBytes x.1.toNat 64, l.map (·.2)⟩

/-- The entry of a migrating page for which the heap data of a code object that passes its checks waits (R348, R401). -/
def sealWaits (s : State) (cx : Nat) (l : List Line) (n : Nat) : Option Nat :=
  if objectStatus s cx (codeBytes cx l) n ≠ 0 then none else heapWaits s (ctxRid cx) (codeBytes cx l)

/-- Seal a code object of a context if its checks pass (R403, R404): its status, and the state after. -/
def sealCode (s : State) (cx : Nat) (l : List Line) (n : Nat) : Nat × State :=
  let c := codeBytes cx l
  let st := objectStatus s cx c n
  if st ≠ 0 then (st, if st ≤ 0x0B then reportRefusal s (objectFailure s cx c) else s)
  else
    let (t, ok) := writeHeap s (ctxRid cx) c
    if !ok then (0x54, t)
    else
      let (id, t) := t.fresh
      (0, { t with hg := { t.hg with codes := AL.set t.hg.codes id c } })

/-- The operation of `publish` (R403). -/
def performPublish (s : State) (u : UId) (a : Access) (n : Nd) : OpRes :=
  ⟨s, a, do
    engNeed (opA a / 2 ^ 56 == 0) .address 0 (opA a)
    let (l, s) ← acquireLines (dropBuffers s u.cl) u a.f.rid (opA a) a.f.o.isSome (opB a)
    let code := bits (l.headD (0, 0)).1.toNat 63 32
    let cx := (s.region a.f.rid).cx
    match sealWaits s cx l (opB a) with
    | some k => .error (.migr k)
    | none =>
      let (st, s) := sealCode s cx l (opB a)
      opSend s u a n (plain (BitVec.ofNat 64 (st * 2 ^ 32 + code)) .i64)⟩

/-- `scrub.zero` (R382). -/
def execScrubZero (n : Nd) (st : State) : Answer :=
  issueRanged 0xFE n (.scrubZero n) ptrTypes [.i64] (fun _ y => decide (1 ≤ y) && decide (y ≤ 65536)) st

/-- `scrub.wait` (R382). -/
def execScrubWait (n : Nd) (st : State) : Answer :=
  issueRanged 0xFE n (.scrubWait n) allTypes allTypes (fun _ _ => true) st

/-- Zero the lines that remain, in order; `aux` counts those done (R382, R286). -/
def zeroLoop (u : UId) (n : Nd) : Nat → State → Access → OpRes
  | 0, s, a => ⟨s, a, opSend s u a n (marker 3 false)⟩
  | k + 1, s, a =>
    match engStoreLine s u a.f.rid (opA a + 64 * a.aux) 0 0 a.f.o.isSome with
    | .ok t => zeroLoop u n k t { a with aux := a.aux + 1 }
    | .error e => ⟨s, a, .error e⟩

/-- The operation of `scrub.zero`. -/
def performScrubZero (s : State) (u : UId) (a : Access) (n : Nd) : OpRes := zeroLoop u n (opB a - a.aux) s a

/-- The operation of `scrub.wait`: it waits while a scrub of the partition runs. -/
def performScrubWait (s : State) (u : UId) (a : Access) (n : Nd) : OpRes :=
  let w := scrubWord s (partOf s u.cl)
  ⟨s, a, if w / 2 ^ 62 = 0 then opSend s u a n (plain (BitVec.ofNat 64 w) .u64) else .error .wait⟩

end Sys2Proof.Machine
end

