-- ==== Sys2Proof/Machine/Saves.lean ====
section
/-! DEFINITION. Yields, saves and restores of regions (R323, R359, R360, R364 to R366, R387), the slot table and the change
of holder (R322, R323, R390), and `gate.src` (R363). -/

namespace Sys2Proof

/-- The region that the lines of a context image hold, for a region's number on this device, where no save of this device
made them: Table 13-10 lays out no section (R365, R366; log 11). -/
opaque Config.foreignImage : Nat → List LineData → Option Machine.Image

end Sys2Proof

namespace Sys2Proof.Machine

open Sys2Proof

/-! ### Zeroing SRAM (R389, R390) -/

/-- The cluster in whose SRAM a memory key lies, if any. -/
def sramCluster (k : Nat) : Option Nat :=
  let data := fun (k : Nat) =>
    if k < 2 ^ 40 then none
    else if k < 2 ^ 42 then some ((k - 2 ^ 40) / 2 ^ 19)
    else if k < 2 ^ 43 then some ((k - 2 ^ 42) / 2 ^ 17)
    else if k < 2 ^ 44 then some ((k - 2 ^ 43) / 2 ^ 17)
    else if k < 2 ^ 45 then some ((k - 2 ^ 44) / 2 ^ 16)
    else none
  if 2 ^ 120 ≤ k then data ((k - 2 ^ 120) / 2 * 64) else data k

/-- A cluster with its SRAM zero from an instant on; its comparators and its power state stay (R388, R389). -/
def Cluster.zeroed (now : Nat) (c : Cluster) : Cluster :=
  { Cluster.empty with
    comps := c.comps, power := c.power, lastFlit := c.lastFlit, wakeBuf := c.wakeBuf, onWake := c.onWake
    bankA := { Bank.none with since := now }, bankB := { Bank.none with since := now } }

/-- Zero the SRAM of the clusters that a test picks: pool, operand memory, table file, element and matching stores, tile
tables (R389). Stores that they have accepted reach memory first (R134). -/
def zeroSram (s : State) (pick : Nat → Bool) : State :=
  let s := drainWhere s fun c _ => pick c
  let hit := fun (k : Nat) => match sramCluster k with | some cl => pick cl | none => false
  { s with
    mem := s.mem.filter fun c => !hit c.1
    poison := s.poison.filter fun k => !hit k
    units := s.units.filter fun p => !pick p.1.cl
    clusters := s.clusters.map fun p => if pick p.1 then (p.1, p.2.zeroed s.clock) else p
    frames := s.frames.map fun p => (p.1, { p.2 with copies := p.2.copies.filter fun c => !pick c }) }

/-- Empty the TLBs of a partition's ports, and their read buffers with them (R149, R342); the stores that its clusters hold
reach memory first (R134). -/
def emptyTlbs (s : State) (p : Nat) : State :=
  let s := drainWhere s fun c _ => partOf s c == p
  { s with units := s.units.map fun x =>
      if partOf s x.1.cl == p then (x.1, { x.2 with tlb := [], readBuf := [] }) else x }

/-! ### Yields -/

/-- The regions of a virtual device in a partition, by number. -/
def regionsOf (s : State) (p vd : Nat) : List Nat :=
  (List.filter (fun (r : Nat × Region) => decide (r.1 < 2 ^ 40) && r.2.vd == vd && r.2.part == p) s.regions).map (·.1)

/-- Whether a region is loaded and has neither ended nor been saved or lost. -/
def running (s : State) (rid : Nat) : Bool :=
  match (s.region rid).st with
  | .loading | .active | .ending | .frozen => true
  | .completed | .saved | .lost => false

/-- Ask a region to yield (R359, R360, R387): a halt or freeze is lifted for the save, withheld firings enter their ready
queues in the order they were withheld, and a stream-form region is gated. -/
def askYield (s : State) (rid : Nat) (dest : SaveTo) (since : Nat) : State :=
  let r := s.region rid
  if r.yield.isSome || !(r.st == .active || r.st == .frozen) then s
  else
    let s := s.modRegion rid fun r =>
      { r with
        yield := some ⟨dest, since, r.halted, r.st == .frozen⟩, halted := false, st := .active, gated := r.streamForm
        permits := [] }
    { s with units := s.units.map fun (p : UId × HwUnit) => (p.1, rejoinAll rid p.2) }

/-- A region that begins while its partition's holder yields is asked to yield too (R323). -/
def yieldToo (s : State) (rid : Nat) : State :=
  match (s.part (s.region rid).part).yielding with
  | some y => askYield s rid .slot y.since
  | none => s

/-- Whether an operation that is not done bars no quiescence report: held at a page, or a remote or Culvert command in
flight, whose completion is delivered after the restore (R251, R295). -/
def opSettled (a : Access) : Bool :=
  match a.i with
  | .xrGet _ _ _ | .xrPut _ _ | .xrAmo _ _ _ | .cvIn _ | .cvOut _ | .cvOpen _ _ _ | .cvClose _ _ =>
    a.st == .held || a.st == .flight || a.st == .parking
  | _ => a.st == .held

/-- Whether a gated region is quiescent (R360): nothing of it moves or waits for issue, its accesses and operations are
performed or held, and its streams stand at the end of an outer step. A watcher waits in a unit, not for issue (R251). -/
def quiescent (s : State) (rid : Nat) : Bool :=
  !(s.net.any fun f => f.rid == rid)
    && !(s.units.any fun p =>
      (p.2.ingress.any fun f => f.rid == rid) || (p.2.ready.any fun f => f.rid == rid)
        || (p.2.formed.any fun f => f.rid == rid) || (p.2.withheld.any fun w => w.2.rid == rid)
        || (p.2.access.any fun a => a.f.rid == rid && a.st != .held) || (p.2.ops.any fun a => a.f.rid == rid && !opSettled a)
        || (p.2.streams.any fun x => x.2.f.rid == rid && x.2.ipos != 0))
    && !(s.clusters.any fun p =>
      (p.2.tileIn.any fun x => x.2.rid == rid) || (p.2.wakeBuf.any fun f => f.rid == rid)
        || (p.2.build.any fun r => r.f.rid == rid) || (p.2.drains.any fun r => r.f.rid == rid))

/-- A cluster without the interval log of a region. -/
def Cluster.dropLog (rid : Nat) (c : Cluster) : Cluster :=
  { c with ilog := c.ilog.filter fun e => e.rid != rid, undo := c.undo.filter fun e => e.1 != rid }

/-- Give back what a region that leaves the fabric holds but its frames: grants, streams, tiles and claims, passes. -/
def leaveFabric (s : State) (rid : Nat) : State :=
  let mine := List.filter (fun (p : (Nat × Nat × Nat) × Frame) => p.1.1 == rid) s.frames
  let t := releaseAll { s with clusters := s.clusters.map fun (p : Nat × Cluster) => (p.1, (p.2.dropRuns rid).dropLog rid) } rid
  { t with frames := mine ++ t.frames }

/-- Drop what is on its way of a region's configuration, once it is saved or lost. -/
def dropPackets (s : State) (rid : Nat) : State := { s with cfgNet := s.cfgNet.filter fun c => c.rid != rid }

/-- Pre-emption loss (R359): the region's tokens go, its memory, records and frames stay; it is not resumed. DESIGN CHOICE:
what it has asked of a peer or of Culvert is given up, since nothing of it is resumed (log 63). The reason
goes into a record where `record`, and to the function of a queued launch. -/
def loseRegion (s : State) (rid reason : Nat) (record : Bool) : State :=
  let r := s.region rid
  let s := dropPackets (leaveFabric (discardTokens s rid false) rid) rid
  let s := clearRun s rid
  let s := s.modRegion rid fun r => { r with st := .lost, yield := none, halted := false, gated := false, launchTag := none, permits := [] }
  let s := match r.launchTag with
    | some (fn, h) => postCpl s fn 0x12 reason 0xFFFF h
    | none => s
  if record then takeFault s ⟨none, r.host.headD 0, 0, rid, 0, 0, 0, 0, 0, 0, none, 0⟩ ⟨.preemptionLoss, reason, 0⟩ else s

/-! ### Images (R364) -/

/-- Whether a region has a lookup-matrix node in a cluster. -/
def hasLm (r : Region) (cl : Nat) : Bool := r.nodes.any fun n => n.1 == lmUnit cl

/-- What an image keeps of a unit. -/
def HwUnit.saved (rid : Nat) (h : HwUnit) : HwUnit :=
  { HwUnit.empty with
    part := rid, fired := h.fired, ovDiscard := h.ovDiscard, grantWait := h.grantWait, rebuilds := h.rebuilds
    store := h.store.filter fun e => e.rid == rid
    access := h.access.filter fun a => a.f.rid == rid
    ops := h.ops.filter fun a => a.f.rid == rid, watchers := h.watchers.filter fun a => a.f.rid == rid
    streams := (List.filter (fun (x : Nat × Stream) => x.2.f.rid == rid) h.streams).map fun x => (x.1, { x.2 with ahead := [] })
    sideLog := h.sideLog.filter fun e => e.f.rid == rid }

/-- What an image keeps of a cluster. -/
def Cluster.saved (rid : Nat) (lm : Bool) (c : Cluster) : Cluster :=
  let tiles := List.filter (fun (t : Nat × Tile) => t.2.rid == rid) c.tiles
  let base := { Cluster.empty with
    tiles, disp := c.disp.filter fun r => r.rid == rid, parked := c.parked.filter fun r => r.rid == rid
    skip := c.skip, drain := c.drain, skipOf := c.skipOf }
  if lm then { base with bankA := c.bankA, bankB := c.bankB, pass := c.pass, look := c.look.filter fun r => r.f.rid == rid }
  else base

/-- The bytes of a memory range that are not zero. -/
def cellsIn (s : State) (lo n : Nat) : List Host.Cell := s.mem.filter fun c => decide (lo ≤ c.1) && decide (c.1 < lo + n)

/-- The clusters of which an image of a region keeps something: its host set, and where it has tiles or records (R60, R114,
R295). -/
def imageClusters (s : State) (rid : Nat) : List Nat :=
  let host := (s.region rid).host
  host ++ (List.filter (fun (p : Nat × Cluster) => !host.contains p.1
    && ((p.2.tiles.any fun t => t.2.rid == rid) || (p.2.parked.any fun r => r.rid == rid) || (p.2.disp.any fun r => r.rid == rid)))
    s.clusters).map (·.1)

/-- The cells of a region's tiles, of its filled banks (R279) and of its accumulators. -/
def savedCells (s : State) (rid : Nat) : List Host.Cell :=
  let r := s.region rid
  let bank := fun (cl b : Nat) => if (bankOf s cl b).filled = 1 then cellsIn s (tableKey cl b 0 0) (2 ^ 16) else []
  (imageClusters s rid).flatMap fun cl =>
    (List.filter (fun (t : Nat × Tile) => t.2.rid == rid && (t.2.st == .filling || t.2.st == .ready)) (s.cluster cl).tiles).flatMap
      (fun t => cellsIn s (tileKey cl t.2 0) (64 * t.2.lines) ++ cellsIn s (descKey (tileKey cl t.2 0)) (2 * t.2.lines))
    ++ (if hasLm r cl then bank cl 0 ++ bank cl 1 ++ cellsIn s (accKey cl 0) (2 ^ 16) else [])

/-- The image of a region as it stands. -/
def imageOf (s : State) (rid : Nat) (slot : Bool) : Image :=
  let r := s.region rid
  let q := s.part r.part
  let (halt, frozen) := match r.yield with | some y => (y.halt, y.frozen) | none => (r.halted, r.st == RegionSt.frozen)
  let units := (List.filter (fun (p : UId × HwUnit) => p.2.part == rid) s.units).map fun (p : UId × HwUnit) => (p.1, p.2.saved rid)
  let clusters := (imageClusters s rid).map fun cl => (cl, (s.cluster cl).saved rid (hasLm r cl))
  let strm := match AL.find? s.hg.codes r.code with
    | some c => (match Obj.findDir c r.num with
      | some k => (unitsOf c (Obj.line c k)).any fun p => p.2.words.any fun w => bits w.2.1.toNat 31 24 == 0x9B
      | none => false)
    | none => false
  { rid, cx := r.cx, vd := r.vd, strips := q.strips, west := q.west, units, clusters
    region := { r with yield := none, gated := false, halted := halt, st := if frozen then .frozen else .active, grantQueue := [], permits := [] }
    frames := List.filter (fun (p : (Nat × Nat × Nat) × Frame) => p.1.1 == rid) s.frames
    cells := savedCells s rid, lines := [], slot, strm }

/-- Save a region (R359, R364): its write queues drain, a logged interval is committed, its clusters' read buffers go
(R135), its image is kept, and it leaves the fabric. -/
def saveRegion (s : State) (rid : Nat) : State :=
  let r := s.region rid
  let s := drainUn s rid (r.host.headD 0) .part
  let s := if logging s rid then commitLogs s rid else s
  let s := r.host.foldl dropBuffers s
  let slot := r.yield.any fun y => y.dest matches .slot
  let (id, s) := s.fresh
  let img := imageOf s rid slot
  let clusters := s.clusters.map fun (p : Nat × Cluster) => (p.1, p.2.dropRuns rid)
  let s := releaseAll { s with clusters } rid
  let s := dropPackets (discardTokens s rid true) rid
  let s := s.modRegion rid fun r => { r with st := .saved, image := id, yield := none, gated := false, halted := false, permits := [] }
  { s with hg := { s.hg with images := AL.set s.hg.images id img } }

/-- Sections of an image: code and lines that follow (Table 13-10; sizes: log 11). -/
def sections (g : Image) : List (Nat × Nat) :=
  let r := g.region
  let sum := fun (l : List Nat) => l.foldl (· + ·) 0
  let recs := sum (g.clusters.map fun c => c.2.disp.length + c.2.parked.length) + r.spill.length + r.cutRec.toList.length
  let tiles := sum (g.clusters.map fun c => sum (c.2.tiles.map fun t =>
    if t.2.st == .filling || t.2.st == .ready then 1 + t.2.lines else 1))
  let lms := (r.host.filter (hasLm r)).length
  let strms := sum (g.units.map fun p => p.2.streams.length)
  [(0x01, 5), (0x02, 33 * sum (g.frames.map fun f => f.2.copies.length)), (0x03, 3 * recs), (0x04, tiles)]
    ++ (if lms = 0 then [] else [(0x05, 3075 * lms)])
    ++ (if g.strm then [(0x06, 2 * strms)] else [])
    ++ [(0x07, 2 * sum (g.units.map fun p => p.2.access.length + p.2.sideLog.length + p.2.ops.length + p.2.watchers.length)),
      (0x08, 2 * sum (g.units.map fun p => p.2.store.length)), (0x09, g.units.length)]

/-- The lines of an image of some saves, by number: header, then each section's line and its lines (R364). -/
def imageLines (vd : Nat) (l : List (Nat × Image)) : List LineData :=
  let secs := l.flatMap fun g => (sections g.2).map fun x => (g.1, g.2.region.num, x.1, x.2)
  let body := secs.zipIdx.flatMap fun (x, k) =>
    BitVec.ofNat 512 (x.2.2.1 * 2 ^ 56 + x.2.1 % 2 ^ 16 * 2 ^ 40 + x.2.2.2 % 2 ^ 32)
      :: (List.range x.2.2.2).map fun j => BitVec.ofNat 512 (Config.imageLine x.1 (k * 2 ^ 32 + j))
  let g := l.headD (0, ⟨0, 0, 0, 0, 0, Region.none, [], [], [], [], [], false, false⟩)
  let mask := (l.map fun x => Rcb.fmask x.2.region.rcb).foldl (· ||| ·) 0
  let head := 64 * (body.length + 1) * 2 ^ 192 + secs.length % 2 ^ 32 * 2 ^ 160 + g.2.strips % 2 ^ 8 * 2 ^ 144
    + vd % 2 ^ 10 * 2 ^ 128 + mask % 2 ^ 8 * 2 ^ 120 + 2 ^ 112 + 2 ^ 8 + 0xC7
  BitVec.ofNat 512 head :: body

/-- The first refusal of an image header (Table 13-11, 0x40 and 0x41), 0 for none. -/
def headerStatus (h : Nat) : Nat :=
  if bits h 7 0 != 0xC7 || bits h 15 8 != 1 || bits h 111 16 != 0 || bits h 143 138 != 0 || bits h 159 152 != 0
      || h / 2 ^ 256 != 0 then 0x40
  else if bits h 119 112 != 1 then 0x41
  else 0

/-! ### Restores (R365) -/

/-- A cluster number moved by `d` columns from column `w` on. -/
def moveCl (src dst cl : Nat) : Nat := (colOf cl + 64 + 4 * dst - 4 * src) % 64 + 64 * rowOf' cl

/-- A memory key of a cluster's SRAM moved with its cluster. -/
def moveKey (src dst k : Nat) : Nat :=
  let data := fun (k : Nat) =>
    if k < 2 ^ 42 then 2 ^ 40 + moveCl src dst ((k - 2 ^ 40) / 2 ^ 19) * 2 ^ 19 + (k - 2 ^ 40) % 2 ^ 19
    else if k < 2 ^ 43 then 2 ^ 42 + moveCl src dst ((k - 2 ^ 42) / 2 ^ 17) * 2 ^ 17 + (k - 2 ^ 42) % 2 ^ 17
    else if k < 2 ^ 44 then 2 ^ 43 + moveCl src dst ((k - 2 ^ 43) / 2 ^ 17) * 2 ^ 17 + (k - 2 ^ 43) % 2 ^ 17
    else 2 ^ 44 + moveCl src dst ((k - 2 ^ 44) / 2 ^ 16) * 2 ^ 16 + (k - 2 ^ 44) % 2 ^ 16
  if 2 ^ 120 ≤ k then 2 ^ 120 + data ((k - 2 ^ 120) / 2 * 64) / 64 * 2 + (k - 2 ^ 120) % 2 else data k

/-- An effective control block with its rectangle at the target's columns. -/
def moveRcb (src dst : Nat) (b : BitVec 2048) : BitVec 2048 :=
  let v := b.toNat
  let col := fun (x : Nat) => (x + 64 + 4 * dst - 4 * src) % 64
  BitVec.ofNat 2048 (v - bits v 133 128 * 2 ^ 128 - bits v 145 140 * 2 ^ 140 + col (Rcb.x0 b) * 2 ^ 128 + col (Rcb.x1 b) * 2 ^ 140)

/-- The first refusal of a restore of a saved region in a partition (Table 13-11), 0 for none; its control block meets the
checks of Table 12-10 once more, that of the partition word against what a cluster holds among them (R106). -/
def restoreStatus (s : State) (p : Nat) (g : Image) : Nat :=
  let q := s.part p
  let par := g.region.parent.getD (ctxRid g.cx)
  let b := moveRcb g.west q.west g.region.rcb
  let pe := (s.region par).rcb
  let host := g.region.host.map (moveCl g.west q.west)
  match AL.find? s.hg.codes g.region.code with
  | none => 0x42
  | some c => match Obj.findDir c g.region.num with
    | none => 0x42
    | some k =>
      if BitVec.ofNat 64 (Obj.sig (Obj.line c k)) ≠ g.region.sig || Obj.rev (Obj.line c k) ≠ g.region.rev then 0x42
      else if q.strips < g.strips then 0x43
      else if blockStatus s par b (some host) ≠ 0 || rightsStatus s par b ≠ 0 then 0x44
      else if Rcb.fmask pe &&& Rcb.fmask b != Rcb.fmask pe then 0x45
      else 0

/-- A record whose clusters are moved with those of its region. -/
def Rec.moved (mv : Nat → Nat) (r : Rec) : Rec :=
  { r with
    waitOp := r.waitOp.map fun (w : UId × Nat) => ((⟨mv w.1.cl, w.1.kind, w.1.num⟩ : UId), w.2)
    home := r.home.map mv }

/-- An access or operation of an image as it goes on after the restore: one that was held is translated again (R365). -/
def Access.resumed (a : Access) : Access :=
  { a with st := if a.st == .held then .queued else a.st, wline := none, woken := if a.st == .held then false else a.woken }

/-- A unit loaded again from its part, with what the image keeps of it; a watcher's firing fires again (R251). -/
def HwUnit.reloaded (h old : HwUnit) : HwUnit :=
  { old with
    words := h.words, lits := h.lits, arcs := h.arcs, flags := h.flags, rcv := h.rcv, complete := true
    access := old.access.map Access.resumed
    streams := old.streams.map fun (x : Nat × Stream) => (x.1, { x.2 with wline := none, held := false })
    ops := old.ops.map Access.resumed ++ old.watchers.map fun a => { a with aux := 0, woken := false, st := .queued }
    watchers := []
    sideLog := old.sideLog.map fun e => { e with woken := true } }

/-- Write one cell. -/
def putCell (m : Memory) (c : Host.Cell) : Memory := Memory.write m c.1 c.2

/-- A cluster with the restored parts of a region; the partition word and the dispatcher's count come back with its host
set alone. -/
def Cluster.restored (w : Word) (vd : Nat) (host lm : Bool) (mv : Nat → Nat) (g c : Cluster) : Cluster :=
  let c := { c with
    disp := c.disp ++ g.disp.map (Rec.moved mv), parked := c.parked ++ g.parked.map (Rec.moved mv)
    tiles := g.tiles.foldl (fun m t => AL.set m t.1 t.2) c.tiles }
  let c := if host then
      { c with pword := w, pwordVd := some vd, skip := g.skip, drain := g.drain, skipOf := g.skipOf.map (Rec.moved mv) }
    else c
  if lm then { c with bankA := g.bankA, bankB := g.bankB, pass := g.pass, look := g.look } else c

/-- Bring back a bank of an image by the rule of R280: a filled one has its entries, a built one is built again from its
run as it now stands, and one that is not valid has zero entries. -/
def restoreBank (s : State) (rid cl b : Nat) : State :=
  let k := { bankOf s cl b with srcCl := cl }
  let s := setBank s cl b k
  if k.filled = 1 || !k.valid then s
  else
    let off := setBank s cl b { k with valid := false }
    let fault := fun (f : Flt) => takeFault off ⟨none, cl, 0, rid, 0, 0, 0, 0, 0, 0, none, 0⟩ f
    match buildRun s cl k.srcOff k.planes with
    | .ok (fmt, l) => if k.src = some fmt then writeTables s cl b k (activations fmt l)
      else fault ⟨.format, (((padLines s cl k.srcOff 1).headD (0, 0)).2).toNat, 0xFC * 2 ^ 56 + k.srcOff⟩
    | .error (.fault f) => fault f
    | .error .wait => off

/-- Restore a saved region in a partition (R365): its code reloaded, every section written again, held accesses
translated again, streams and queues resumed. -/
def restoreRegion (s : State) (p : Nat) (g : Image) : State :=
  let q := s.part p
  let mv := moveCl g.west q.west
  let rid := g.rid
  let r := g.region
  let units := match AL.find? s.hg.codes r.code with
    | some c => (match Obj.findDir c r.num with | some k => unitsOf c (Obj.line c k) | none => [])
    | none => []
  let nodes := r.nodes.map fun (n : UId × Nat) => ((⟨mv n.1.cl, n.1.kind, n.1.num⟩ : UId), n.2)
  let r' : Region := { r with
    part := p, rcb := moveRcb g.west q.west r.rcb, host := r.host.map mv, nodes, spill := r.spill.map (Rec.moved mv) }
  let s := { s with regions := AL.set s.regions rid r' }
  let s := units.foldl (fun (s : State) (x : UId × HwUnit) =>
    let old := AL.get { HwUnit.empty with part := rid } g.units x.1
    let h := { x.2 with words := x.2.words.map fun (w : Nat × BitVec 32 × Nat) => (w.1, w.2.1, rid) }
    { s with units := AL.set s.units ⟨mv x.1.cl, x.1.kind, x.1.num⟩ (h.reloaded old) }) s
  let s := g.clusters.foldl (fun (s : State) (x : Nat × Cluster) =>
    let cl := mv x.1
    let lm := hasLm r x.1
    let s := s.modCluster cl fun c =>
      Cluster.restored (BitVec.ofNat 64 (Rcb.pword r.rcb)) r.vd (r.host.contains x.1) lm mv x.2 c
    if lm then clearKeys (clearKeys s (tableKey cl 0 0 0) (2 ^ 17)) (accKey cl 0) (2 ^ 16) else s) s
  let at' := fun (x : Nat × Nat) => (mv x.1, x.2)
  let moved := fun (f : Frame) => { f with
    copies := f.copies.map mv, slots := f.slots.map fun x => (at' x.1, x.2), stamps := f.stamps.map fun x => (at' x.1, x.2) }
  let s := { s with
    frames := g.frames.foldl (fun m f => AL.set m f.1 (moved f.2)) s.frames
    mem := g.cells.foldl (fun m c => putCell m (moveKey g.west q.west c.1, c.2)) s.mem }
  let s := g.clusters.foldl (fun (s : State) (x : Nat × Cluster) =>
    if hasLm r x.1 then restoreBank (restoreBank s rid (mv x.1) 0) rid (mv x.1) 1 else s) s
  admitEntry s rid

/-- Restore a region, which is asked to yield at once where its partition's holder yields (R323). While another virtual
device holds the fabric, which runs one at a time, the image is kept for its turn (R322). -/
def restoreOnto (s : State) (p : Nat) (g : Image) : State :=
  match holder (s.part p) with
  | some h =>
    if h = g.vd then yieldToo (restoreRegion s p g) g.rid
    else
      let (id, s) := s.fresh
      { s.modRegion g.rid fun r => { r with image := id } with
        hg := { s.hg with images := AL.set s.hg.images id { g with slot := true } } }
  | none => yieldToo (restoreRegion s p g) g.rid

/-- The image of a region's last save. -/
def lastImage (s : State) (rid : Nat) : Option Image := AL.find? s.hg.images (s.region rid).image

/-! ### Steps of a pre-emption -/

/-- PHASE_BOUNDARY_SAVE (R359): a free-form region that is asked to yield has no live token, and is saved. -/
def execPhaseBoundarySave (rid : Nat) (s : State) : Answer :=
  runEvent "PHASE_BOUNDARY_SAVE"
    (let r := s.region rid
    if r.st == .active && r.yield.isSome && !r.streamForm && !anyToken s rid && !(logging s rid && logMigrates s rid) then
      some (saveRegion s rid)
    else none)

/-- QUIESCENCE_REPORT (R360): a gated region is quiescent, and its save completes. -/
def execQuiescenceReport (rid : Nat) (s : State) : Answer :=
  runEvent "QUIESCENCE_REPORT"
    (let r := s.region rid
    if r.st == .active && r.yield.isSome && r.gated && quiescent s rid && !(logging s rid && logMigrates s rid) then
      some (saveRegion s rid)
    else none)

/-- Grace of a yield in nanoseconds (R323). -/
def graceNs : Nat := 64000

/-- The end of the grace for one region (Table 13-7). -/
def forceRegion (s : State) (rid : Nat) : State :=
  let r := s.region rid
  if r.streamForm then s
  else if mayFinish s rid then finishRegion s rid
  else if r.st == .active && !anyToken s rid && !(logging s rid && logMigrates s rid) then saveRegion s rid
  else if logging s rid then saveRegion (rollback s rid) rid
  else loseRegion s rid (if r.logged then 1 else 2) true

/-- Whether the slot table of a partition runs (Table 12-4); while it does not, the holder never changes (R322). -/
def slotsRun (s : State) (p : Nat) : Bool := bitAt (s.part p).slotCtl.toNat 63

/-- Whether the grace of a partition's holder has ended (R323). -/
def graceOver (s : State) (p : Nat) : Bool :=
  slotsRun s p && (s.part p).yielding.any fun y => decide (y.since + graceNs ≤ partTime s p)

/-- Regions of a partition whose grace has ended: those asked to yield each by itself, and every one of the holder's. -/
def overdue (s : State) (p : Nat) : List Nat :=
  let alone := fun (r : Region) =>
    r.st == .active && r.yield.any fun y => !(y.dest matches .slot) && decide (y.since + graceNs ≤ partTime s p)
  (List.filter (fun (r : Nat × Region) => decide (r.1 < 2 ^ 40) && r.2.part == p && !r.2.streamForm
    && (alone r.2 || (graceOver s p && holder (s.part p) == some r.2.vd && (r.2.st == .active || r.2.st == .ending)))) s.regions).map (·.1)

/-- FORCED_PREEMPTION (R323, R359): the grace of a yield has ended; event 0x04 tells the supervisor of a slot's. -/
def execForcedPreemption (p : Nat) (s : State) : Answer :=
  runEvent "FORCED_PREEMPTION"
    (let q := s.part p
    let l := overdue s p
    match q.yielding, holder q with
    | some y, some h =>
      if graceOver s p && !y.forced && (regionsOf s p h).any (running s) then
        let s := postEvent s p 0x04 (h + y.slot % 64 * 2 ^ 16)
        some (l.foldl forceRegion (s.modPart p fun q => { q with yielding := some { y with forced := true } }))
      else if l = [] then none else some (l.foldl forceRegion s)
    | _, _ => if l = [] then none else some (l.foldl forceRegion s))

/-- Partition time at which the slot that runs at time `t` began (R322). -/
def slotStart (t : Nat) : Nat := t / 16000 * 16000

/-- SLOT_BOUNDARY (R322, R323): the next slot begins; staged entries become active at slot 0, and a holder that is not the
slot's owner is asked to yield. -/
def execSlotBoundary (p : Nat) (s : State) : Answer :=
  runEvent "SLOT_BOUNDARY"
    (let q := s.part p
    let t := partTime s p
    if !q.valid || t % 1024000 / 16000 == curSlot q then none
    else
      let i := (curSlot q + 1) % 64
      let en := bitAt q.slotCtl.toNat 63
      let s := s.modPart p fun q => { q with slotCtl := slotCtlWord en i (holder q) }
      let s := if i = 0 then s.modPart p fun q =>
          { q with slotEnt := List.zipWith (fun e g => g.getD e) q.slotEnt q.slotStaged, slotStaged := List.replicate 64 none }
        else s
      let q := s.part p
      let ent := (q.slotEnt.getD i 0).toNat
      let owner := bits ent 9 0
      if !en || !bitAt ent 15 then some s
      else match q.yielding with
        | some y =>
          some (if y.owner = owner then s
            else s.modPart p fun q => { q with yielding := some { y with owner, slot := i } })
        | none =>
          if holder q = some owner then some s
          else
            let since := slotStart t
            let s := s.modPart p fun q => { q with yielding := some ⟨owner, i, since, false⟩ }
            some (match holder q with
              | some h => (regionsOf s p h).foldl (fun s rid => askYield s rid .slot since) s
              | none => s))

/-- The clusters of a partition but its supervisor cluster. -/
def fabricOf (s : State) (p cl : Nat) : Bool := partOf s cl == p && cl != (s.part p).supCluster

/-- Set the comparators of a partition's clusters to those of a virtual device, keeping those of the old holder (R387). -/
def swapComps (s : State) (p : Nat) (old : Option Nat) (new : Nat) : State :=
  let zero : List (BitVec 256) := List.replicate 8 0
  let kept := (List.filter (fun (x : (Nat × Nat) × List (BitVec 256)) => x.1.1 == new) s.hg.comps).map (·.1.2)
  (s.clusters.map (·.1) ++ kept).eraseDups.foldl (fun (s : State) cl =>
    if fabricOf s p cl then
      let s := match old with
        | some v => { s with hg := { s.hg with comps := AL.set s.hg.comps (v, cl) (s.cluster cl).comps } }
        | none => s
      s.modCluster cl fun c => { c with comps := AL.get zero s.hg.comps (new, cl) }
    else s) s

/-- HOLDER_CHANGE (R323, R390): every region of the holder is saved or lost; SRAM is zeroed and caches are empty, the
owner becomes holder, and what it had saved is restored. -/
def execHolderChange (p : Nat) (s : State) : Answer :=
  runEvent "HOLDER_CHANGE"
    (let q := s.part p
    match q.yielding with
    | none => none
    | some y =>
      let old := holder q
      if !slotsRun s p || (match old with | some h => (regionsOf s p h).any (running s) | none => false) then none
      else
        let s := swapComps (zeroSram (emptyTlbs s p) (fabricOf s p)) p old y.owner
        let s := s.modPart p fun q =>
          { q with yielding := none, slotCtl := slotCtlWord (bitAt q.slotCtl.toNat 63) (curSlot q) (some y.owner) }
        let s := postEvent s p 0x05 (y.owner % 2 ^ 10 + y.slot % 64 * 2 ^ 16)
        some ((regionsOf s p y.owner).foldl (fun s rid =>
          match lastImage s rid with
          | some g =>
            if (s.region rid).st == .saved && g.slot && restoreStatus s p g == 0 then restoreRegion s p g else s
          | none => s) s))

/-! ### gate.src (R363) -/

/-- `gate.src.close` (R363): B points to the save area. -/
def execGateSrcClose (n : Nd) (st : State) : Answer := issueOp 0xFF n (.gateSrcClose n) [.i64] ptrTypes true st

/-- `gate.src.open` (R363, R365): B points to an image, or is select 2. -/
def execGateSrcOpen (n : Nd) (st : State) : Answer :=
  issueOp 0xFF n (.gateSrcOpen n) [.i64] (if n.b = .zero then allTypes else ptrTypes) true st

/-- `gate.src.freeze` (R363). -/
def execGateSrcFreeze (n : Nd) (st : State) : Answer := issueOp 0xFF n (.gateSrcFreeze n) [.i64] allTypes true st

/-- `gate.src.evict` (R363). -/
def execGateSrcEvict (n : Nd) (st : State) : Answer := issueOp 0xFF n (.gateSrcEvict n) [.i64] allTypes true st

/-- The region that operand A names in a partition, or the gate fault (R363). -/
def gateTarget (s : State) (p v : Nat) : EngM Nat := do
  engNeed (v / 2 ^ 26 == 0) .gate 0x01
  match (regionsOf s p (bits v 25 16)).find? fun rid =>
      (s.region rid).num == bits v 15 0 && (running s rid || (s.region rid).st == .saved) with
  | some rid => return rid
  | none => engFault .gate 0x02

/-- The completion marker of a form: partition scope. -/
def gateEnd (s : State) (u : UId) (a : Access) (n : Nd) : EngM State := opSend s u a n (marker 3 false)

/-- Freeze a region (R363); one that is being saved is frozen once restored. -/
def freezeRegion (s : State) (rid : Nat) : State :=
  s.modRegion rid fun r =>
    match r.yield with
    | some y => { r with yield := some { y with frozen := true } }
    | none => if r.st == .active then { r with st := .frozen } else r

/-- Let a frozen region issue again (R363). -/
def thawRegion (s : State) (rid : Nat) : State :=
  s.modRegion rid fun r =>
    match r.yield with
    | some y => { r with yield := some { y with frozen := false } }
    | none => if r.st == .frozen then { r with st := .active } else r

/-- The operation of `gate.src.freeze` and `gate.src.evict`. -/
def performGate (s : State) (u : UId) (a : Access) (n : Nd) (evict : Bool) : OpRes :=
  ⟨s, a, do
    let rid ← gateTarget s (partOf s u.cl) (opA a)
    let st := (s.region rid).st
    engNeed (st == .active || (evict && st == .frozen)) .gate 0x03
    gateEnd (if evict then loseRegion s rid 3 false else freezeRegion s rid) u a n⟩

/-- Write the lines of an image that remain, in order, under the encryption of the saved region's context (R364); `aux`
counts what is done beyond the region number, which stands in `f.stage`. -/
def imageLoop (u : UId) (n : Nd) (id : Nat) : List LineData → State → Access → OpRes
  | [], s, a => ⟨s, a, gateEnd s u a n⟩
  | d :: l, s, a =>
    match engAt s u a.f.rid (opB a + 64 * a.aux) 64 64 false true a.f.o.isSome with
    | .ok (t, s) =>
      let s := visibleWrite s t.line (cellsOf t.key 64 d.toNat) (some 0) (t.enc (keysOf s (a.f.stage - 1)))
      let note := fun (g : Nat × Image) => if g.1 = id then (g.1, { g.2 with lines := g.2.lines ++ [t.phys] }) else g
      imageLoop u n id l { s with hg := { s.hg with images := s.hg.images.map note } } { a with aux := a.aux + 1 }
    | .error e => ⟨s, a, .error e⟩

/-- A step of `gate.src.close`: the yield is asked, and once the region is saved its image is written at B; a region that
was lost leaves none (R363, Table 13-7). `f.stage` is one more than the region. -/
def gateCloseStep (s : State) (u : UId) (a : Access) (n : Nd) : Option State :=
  if a.f.stage = 0 then
    match gateTarget s (partOf s u.cl) (opA a) with
    | .error e => opEnd u ⟨s, a, .error e⟩
    | .ok rid =>
      let r := s.region rid
      if r.st == .active && r.yield.isNone then
        let s := askYield s rid (.op u a.id) (partTime s r.part)
        some (setOp s u { a with st := .flight, f := { a.f with stage := rid + 1 } })
      else opEnd u ⟨s, a, engFault .gate 0x03⟩
  else
    let rid := a.f.stage - 1
    if running s rid then none
    else match (s.region rid).st, lastImage s rid with
      | .saved, some g =>
        let l := imageLines g.vd [((s.region rid).image, g)]
        if opB a / 2 ^ 56 ≠ 0 then opEnd u ⟨s, a, engFault .address 0 (opB a)⟩
        else if 2 ^ 52 < opB a % 2 ^ 52 + 64 * l.length then opEnd u ⟨s, a, engFault .gate 0x04⟩
        else opEnd u (imageLoop u n (s.region rid).image (l.drop a.aux) s a)
      | _, _ => opEnd u ⟨s, a, gateEnd s u a n⟩

/-- Read `k` lines of an image of a region `g`, under the encryption of its context (R364). -/
def imageAt (s : State) (u : UId) (rid g v : Nat) (ord : Bool) : Nat → EngM (List LineData × State)
  | 0 => .ok ([], s)
  | k + 1 => do
    let (t, s) ← engAt s u rid v 64 64 true false ord
    let s := drainOwn s u.cl t.line
    liftRes (needClean s t v)
    let d := readDesc s .outside rid u.cl t
    engNeed (formatOk d.fmt) .format d.toNat v
    let (l, s) ← imageAt s u rid g (v + 64) ord k
    return (BitVec.ofNat 512 (readTarget s .outside g u.cl t 64) :: l, s)

/-- The save whose image some lines are. -/
def knownImage (s : State) (rid : Nat) (l : List LineData) : Option Image :=
  (List.find? (fun (g : Nat × Image) => g.2.rid == rid && imageLines g.2.vd [g] == l) s.hg.images).map (·.2)

/-- The saved region that the lines of an image hold which no save of this device made, with the identity that the region
has here; none where its sections break Table 13-10. The layout of a section is open (log 11). -/
def readImage (s : State) (rid : Nat) (l : List LineData) : Option Image :=
  let r := s.region rid
  (Config.foreignImage rid l).filter fun g =>
    g.rid == rid && g.cx == r.cx && g.vd == r.vd && g.region.part == r.part && g.region.cx == r.cx && g.region.vd == r.vd
      && (g.frames.all fun f => f.1.1 == rid)

/-- The gate fault of a refused restore (R363, R365). -/
def restoreFault {α : Type} (status : Nat) : EngM α := engFault .gate (0x05 + status * 2 ^ 8)

/-- The operation of `gate.src.open` (R363, R365). -/
def performGateOpen (s : State) (u : UId) (a : Access) (n : Nd) : OpRes :=
  ⟨s, a, do
    let p := partOf s u.cl
    let rid ← gateTarget s p (opA a)
    let st := (s.region rid).st
    if n.b = .zero then
      engNeed (st == .frozen) .gate 0x03
      gateEnd (s.modRegion rid fun r => { r with st := .active }) u a n
    else
      engNeed (st == .saved) .gate 0x03
      engNeed (opB a / 2 ^ 56 == 0) .address 0 (opB a)
      let (h, s) ← imageAt s u a.f.rid rid (opB a) a.f.o.isSome 1
      let bad := headerStatus (h.headD 0).toNat
      if bad ≠ 0 then restoreFault bad
      else
        let (l, s) ← imageAt s u a.f.rid rid (opB a) a.f.o.isSome (bits (h.headD 0).toNat 255 192 / 64)
        match knownImage s rid l <|> readImage s rid l with
        | none => restoreFault 0x40
        | some g =>
          let bad := restoreStatus s p g
          if bad ≠ 0 then restoreFault bad else gateEnd (restoreOnto s p g) u a n⟩

end Sys2Proof.Machine
end

