-- ==== Sys2Proof/Machine/Headgate.lean ====
section
/-! DEFINITION. The Headgate: command rings (R370, R371), the policy (R372, R374), partitions, contexts, code, launches,
windows, attestation (R375 to R380, R398), `hg.*` (R381, R382), and teardown with its scrub (R383, R384, R409, R410). -/

namespace Sys2Proof.Machine

open Sys2Proof

/-! ### Rings and completions -/

/-- The registers of a function. -/
def fnRegs (s : State) (fn : Nat) : FnRegs := AL.get FnRegs.none s.hg.fns fn

/-- Change the registers of a function. -/
def modFn (s : State) (fn : Nat) (g : FnRegs → FnRegs) : State :=
  { s with hg := { s.hg with fns := AL.set s.hg.fns fn (g (fnRegs s fn)) } }

/-- The `n` bytes of host memory from an address up (R371). -/
def hostBytes (s : State) (a n : Nat) : List Byte := (List.range n).map fun i => Memory.read s.mem (hostKey (a + i))

/-- Write bytes to host memory. -/
def writeHost (s : State) (a : Nat) (l : List Byte) : State :=
  { s with mem := l.zipIdx.foldl (fun m x => putCell m (hostKey (a + x.2), x.1)) s.mem }

/-- The host writes bytes of its own memory, where its rings and buffers lie (R370, R371): an input. -/
def execHostStore (a : Nat) (l : List Byte) (s : State) : Answer := runEvent "a store of the host" (some (writeHost s a l))

/-- A command entry (R371). -/
def commandOf (fn v : Nat) : Cmd :=
  ⟨fn, bits v 7 0, bits v 31 16, bits v 15 8, bits v 63 32, bits v 127 64, bits v 191 128, bits v 511 192⟩

/-- The next command of a function, if one waits and the Headgate can take it: it takes one at a time (R370, R392). -/
def nextCommand (s : State) (fn : Nat) : Option Cmd :=
  let r := fnRegs s fn
  let k := bits r.cmdring.toNat 3 0
  if s.hg.booting || s.hg.inRom || r.pending.isSome || decide (k < 4) || decide (12 < k)
      || r.taken % 2 ^ k == r.cmdtail.toNat % 2 ^ k then none
  else some (commandOf fn (Memory.readN s.mem (hostKey (r.cmdring.toNat / 4096 * 4096 + 64 * (r.taken % 2 ^ k))) 64))

/-- Complete a command (R370, R371): its completion entry, and `HG_CMDSTAT` (Table 14-2). -/
def completeCmd (s : State) (c : Cmd) (status detail result : Nat) : State :=
  let s := modFn s c.fn fun r =>
    let werr := (bitAt r.cmdstat.toNat 62).toNat
    let v := werr * 2 ^ 62 + status % 256 * 2 ^ 40 + detail % 256 * 2 ^ 32 + c.tag % 2 ^ 16 * 2 ^ 16 + r.taken % 2 ^ 16
    { r with cmdstat := BitVec.ofNat 64 v, pending := none }
  postCpl s c.fn status detail c.tag result

/-- A refusal of a command: status and detail of Table 14-4. -/
abbrev CmdM (α : Type) := Except (Nat × Nat) α

/-- Refuse a command. -/
def refuse {α : Type} (status : Nat) (detail : Nat := 0) : CmdM α := .error (status, detail)

/-- Demand a condition, or refuse. -/
def cmdNeed (ok : Bool) (status : Nat) (detail : Nat := 0) : CmdM Unit := if ok then .ok () else refuse status detail

/-- How a command ends: status, detail, result, and the state. -/
structure CmdEnd where
  status : Nat
  detail : Nat
  result : Nat
  st : State

/-- A command done with a result. -/
def done (result : Nat) (s : State) : CmdEnd := ⟨0, 0, result, s⟩

/-- The virtual device bound to a function (R394). -/
def boundVd (s : State) (fn : Nat) : Option (Nat × VDev) := List.find? (fun p => p.2.fn = fn) s.hg.vds

/-- Checks that precede every command: that the function is bound, the boot scrub, a reserved field, and whether the
function may issue it (R384, R394, Table 14-3). -/
def precheck (s : State) (c : Cmd) (pfOnly : Bool) : CmdM Unit := do
  cmdNeed (c.fn == 0 || (boundVd s c.fn).isSome) 0x02
  cmdNeed (!bootScrub s || c.code == 0x10) 0x06
  cmdNeed (c.rsvd == 0) 0x01
  cmdNeed (c.fn == 0 || !pfOnly) 0x02

/-- A command is taken from its ring. -/
def takeCmd (s : State) (c : Cmd) : State := modFn s c.fn fun r => { r with taken := r.taken + 1 }

/-- The code of a command, with the subcommand of `DEBUG` above it (Tables 14-3 and 14-12; log 7). -/
def cmdCode (c : Cmd) : Nat := if c.code = 0x11 then 0x11 + 0x100 * bits c.args 7 0 else c.code

/-- Codes that a command may have (Tables 14-3 and 14-12). -/
def assignedCodes : List Nat :=
  [0x01, 0x02, 0x03, 0x04, 0x05, 0x06, 0x07, 0x08, 0x09, 0x0A, 0x0B, 0x0C, 0x0D, 0x0E, 0x0F, 0x10, 0x12,
   0x111, 0x211, 0x311, 0x411, 0x511, 0x611, 0x711]

/-- Process the next command of a function: its effect and completion, or its refusal, which changes nothing else. -/
def runCommand (name : String) (code : Nat) (c : Cmd) (pfOnly : Bool) (s : State) (body : State → CmdM CmdEnd) : Answer :=
  runEvent name
    (if nextCommand s c.fn = some c ∧ cmdCode c = code then
      let s := takeCmd s c
      some (match precheck s c pfOnly >>= fun _ => body s with
        | .ok e => completeCmd e.st c e.status e.detail e.result
        | .error (st, d) => completeCmd s c st d 0)
    else none)

/-! ### Handles, policy -/

/-- Kinds of handles (R368; log 7). -/
inductive HKind where
  | vd | ctx | code | launch
deriving DecidableEq, Repr

/-- The number of a handle kind (log 7). -/
def HKind.code' : HKind → Nat
  | .vd => 0x10 | .ctx => 0x11 | .code => 0x12 | .launch => 0x13

/-- The handle of an object (R368). -/
def handleOf (s : State) (k : HKind) (key : Nat) : Nat := Config.handleWord s.hg.boots k.code' key % 2 ^ 64

/-- The virtual device that a handle names. -/
def vdHandle (s : State) (h : Nat) : Option (Nat × VDev) := List.find? (fun p => handleOf s .vd p.1 = h) s.hg.vds

/-- The context that a handle names. -/
def ctxHandle (s : State) (h : Nat) : Option (Nat × Ctx) := List.find? (fun p => handleOf s .ctx p.1 = h) s.hg.ctxs

/-- Whether a `PART_SET` that clears a partition is under way (R373). -/
def clearing (s : State) (p : Nat) : Bool :=
  (fnRegs s 0).pending.any fun c => c.code == 0x01 && bits c.args 3 0 == p

/-- The policy check of a command for a virtual device (R372), with the frozen partition's (R373). -/
def policyCheck (s : State) (c : Cmd) (v : VDev) : CmdM Unit := do
  cmdNeed (!(s.part v.part).frozen || c.code == 0x0D) (if clearing s v.part then 0x06 else 0x0A)
  let k := c.code - 0x05
  let ok := if c.fn = 0 then c.code == 0x09 || c.code == 0x0D || bitAt (policyField v 47 35) k
    else v.fn == c.fn && bitAt (policyField v 60 48) k
  cmdNeed ok 0x04 k

/-- The virtual device a command names, permitted. -/
def cmdVd (s : State) (c : Cmd) : CmdM (Nat × VDev) :=
  match vdHandle s c.handle with
  | none => refuse 0x03
  | some v => do
    policyCheck s c v.2
    return v

/-- The live context a command names, permitted, with its virtual device (Table 14-9). -/
def cmdCtx (s : State) (c : Cmd) : CmdM (Nat × Ctx × VDev) :=
  match ctxHandle s c.handle with
  | none => refuse 0x03
  | some (cx, x) => match vdOf s x.vd with
    | none => refuse 0x03
    | some v => do
      cmdNeed (x.st != .free) 0x03
      cmdNeed (!(s.part v.part).frozen || x.st == .active) 0x06
      policyCheck s c v
      cmdNeed (x.st == .active) 0x06
      return (cx, x, v)

/-- Whether a virtual device's data are protected (R369). -/
def protected' (v : VDev) : Bool := bitAt (policyField v 63 63) 0

/-! ### Keys (R374 to R377) -/

/-- A key slot. -/
def slotOf (s : State) (slot : Nat) : KeySlot := AL.get KeySlot.none s.hg.slots slot

/-- The window keys of a slot (R375). -/
def windowKeys (s : State) (slot : Nat) : List Nat := ((slotOf s slot).keys.drop 2).take 2

/-- A host buffer of a context as the Headgate reads it: decrypted under the window keys (R369, R371). -/
def bufferOf (s : State) (slot a n : Nat) : List Byte := Config.bufferOpen (windowKeys s slot) (hostBytes s a n)

/-- The tenant identity of a virtual device (R374). -/
def tenantId (v : VDev) : Nat := sha3 ((v.policy.drop 256).take 432)

/-- The lowest free key slot (R375). -/
def freeSlot (s : State) : Option Nat := (List.range 1024).find? fun k => (slotOf s k).st == .free

/-- Bind a key slot with seven keys to a virtual device. -/
def bindSlot (s : State) (k vd : Nat) (keys : List Nat) : State :=
  let (g, s) := s.fresh
  { s with hg := { s.hg with slots := AL.set s.hg.slots k ⟨.bound, vd, g, (List.range 7).map fun i => keys.getD i 0⟩ } }

/-- Authenticate and encrypt a body under a key with a nonce (R377): 16 bytes of tag, and the ciphertext. -/
def gcmSeal (key nonce : Nat) (aad body : List Byte) : List Byte :=
  (List.range (16 + body.length)).map fun i => (Config.gcmSeal key nonce aad body).getD i 0

/-- A random nonce of 96 bits (R377). -/
def newNonce (s : State) : Nat × State :=
  let (k, s) := s.free
  (Config.random k % 2 ^ 96, s)

/-- A command entry as the ring holds it (R371). -/
def cmdBytes (c : Cmd) : List Byte :=
  toBytes (c.code + c.rsvd * 2 ^ 8 + c.tag * 2 ^ 16 + c.buflen * 2 ^ 32 + c.buf * 2 ^ 64 + c.handle * 2 ^ 128 + c.args * 2 ^ 192) 64

/-! ### Partitions -/

/-- Whether a `PART_CFG` value keeps Table 12-1 and R314. -/
def cfgOk (v : Nat) : Bool :=
  let s0 := bits v 3 0
  let n := bits v 12 8
  !bitAt v 62 && decide (1 ≤ n) && decide (s0 + n ≤ 16) && decide (4 * s0 ≤ bits v 19 14) && decide (bits v 19 14 < 4 * (s0 + n))

/-- A `PART_CFG` value without its reserved bits: a write leaves them zero (R9, Table 12-1). -/
def cfgMask (v : Nat) : Nat :=
  v - bits v 7 4 * 2 ^ 4 - bits v 13 13 * 2 ^ 13 - bits v 31 26 * 2 ^ 26 - bits v 61 48 * 2 ^ 48

/-- Whether a map gives a partition of `n` strips exactly the run of strips that starts at its own (R18, R313). -/
def mapsRun (map p n : Nat) : Bool :=
  (List.range 16).all fun st => (bits map (4 * st + 3) (4 * st) == p) == (decide (p ≤ st) && decide (st < p + n))

/-- Whether a map keeps R313 once partition `p` has `n` strips, or is not valid: every valid partition has its own run. -/
def mapOk (s : State) (p n map : Nat) (valid : Bool) : Bool :=
  (!valid || mapsRun map p n)
    && (List.range 16).all fun q => q == p || !(s.part q).valid || mapsRun map q (s.part q).strips

/-- Whether any strip whose entry or partition would change holds a resident context (R313), of a partition other than
`but`. -/
def residentOn (s : State) (s0 n map : Nat) (but : Option Nat) : Bool :=
  let held := fun (p : Nat) => some p != but && residentIn s p
  (List.range 16).any fun st =>
    let now := partOfStrip s st
    let next := bits map (4 * st + 3) (4 * st)
    (now != next || now == s0 || (decide (s0 ≤ st) && decide (st < s0 + n))) && (held now || held next)

/-- Grants of the partitions but one (R333). -/
def grantsElse (s : State) (p : Nat) : Nat :=
  ((List.filter (fun (q : Nat × Part) => q.1 != p && q.2.valid) s.parts).map fun q => q.2.gpool).foldl (· + ·) 0

/-- The context number that stands for a partition's supervisor. -/
def supCx (p : Nat) : Nat := 2 ^ 32 + p

/-- The supervisor region's code object for a partition's supervisor cluster (R314). -/
def supervisorCode (s : State) (p cl : Nat) : Code :=
  ⟨supCx p, Config.supervisorBody s.hg.fwVersion cl, Config.supervisorDescs s.hg.fwVersion cl⟩

/-- The supervisor region's control block in a partition (R314). -/
def supervisorRcb (s : State) (p : Nat) : BitVec 2048 := BitVec.ofNat 2048 (Config.supervisorBlock s.hg.fwVersion p)

/-- Whether the supervisor region that the firmware brings fits a partition (R314, R318, R331): it is privileged, and it
stands in the supervisor cluster, within the partition's strips. -/
def supervisorOk (s : State) (p : Nat) (q : Part) : Bool :=
  let b := supervisorRcb s p
  let c := supervisorCode s p q.supCluster
  !blockReserved b && Rcb.priv b && Rcb.holds b q.supCluster && decide (4 * q.west ≤ Rcb.x0 b)
    && decide (Rcb.x1 b < 4 * (q.west + q.strips)) && decide (hostOf c (Obj.line c 1) = [q.supCluster])
    && ((dataBlocks c (Obj.line c 1)).getD []).all fun k => k.kind != 1 || k.y * 64 + k.x == q.supCluster

/-- Load the supervisor region of a partition (R314, R351): a key slot, its code object, its block, an empty fault ring. -/
def loadSupervisor (s : State) (p slot : Nat) : State :=
  let fw := s.hg.fwVersion
  let cx := supCx p
  let eff : BitVec 2048 := BitVec.ofNat 2048 (putBits (supervisorRcb s p).toNat 905 896 slot)
  let code := supervisorCode s p (s.part p).supCluster
  let s := bindSlot s slot 1024 (Config.drawnKeys s.nextId)
  let (id, s) := s.fresh
  let root : Region := { Region.none with part := p, vd := 1024, cx, rcb := eff, priv := true }
  let s := { s with
    hg := { s.hg with codes := AL.set s.hg.codes id code }
    regions := AL.set s.regions (ctxRid cx) root }
  let (rid, s) := startRegion s (ctxRid cx) eff ⟨id, code, 1⟩ (BitVec.ofNat 1280 (Config.supervisorEntry fw)) false
  let head := poolKey (s.part p).supCluster 0
  visibleWrite (s.modPart p fun q => { q with supRid := some rid }) head (cellsOf head 64 0) (some 0) none

/-- Take a partition's supervisor region away. -/
def unloadSupervisor (s : State) (p : Nat) : State :=
  match (s.part p).supRid with
  | none => s
  | some rid =>
    let slot := Rcb.keyslot (s.region rid).rcb
    let s := (loseRegion (s.modPart p fun q => { q with supRid := none }) rid 3 false).modRegion rid fun r => { r with st := .completed }
    { s with hg := { s.hg with
        slots := AL.del s.hg.slots slot
        codes := s.hg.codes.filter fun c => c.2.cx != supCx p } }

/-! ### Teardown -/

/-- Whether a page-table entry is a leaf or a table that is present. -/
def entryFrame (e : Nat) : Nat := bits e 39 12 * 4096

/-- The ranges that the table at an address reaches: the table's own page, the tables below it and the leaf frames
(R383). -/
def tableRanges (s : State) (k : KeyRef) : Nat → Nat → Nat → List (Nat × Nat)
  | 0, _, _ => []
  | fuel + 1, level, table =>
    let n := if level = 0 then 8192 else 512
    (table, table + 8 * n) :: (List.range n).flatMap fun i =>
      let e := physRead s k (table + 8 * i) 8
      if !bitAt e 63 then []
      else if bitAt e 62 then
        if level = 0 || bitAt e 46 || !bitAt e 60 then [] else [(entryFrame e, entryFrame e + leafSize level e)]
      else tableRanges s k fuel (level + 1) (entryFrame e)

/-- Put a range into a list of ascending ranges that do not meet. -/
def addRange : List (Nat × Nat) → Nat × Nat → List (Nat × Nat)
  | [], r => if r.1 < r.2 then [r] else []
  | q :: l, r =>
    if r.2 ≤ r.1 then q :: l
    else if r.2 < q.1 then r :: q :: l
    else if q.2 < r.1 then q :: addRange l r
    else addRange l (min q.1 r.1, max q.2 r.2)

/-- What the scrub of a context covers in HBM (R383), within its partition. -/
def scrubRanges (s : State) (cx p : Nat) : List (Nat × Nat) :=
  let rid := ctxRid cx
  let b := (s.region rid).rcb
  let limit := (s.part p).hbmBytes
  let heap := (Rcb.hbase b + Rcb.hoff b) % 2 ^ 40
  let imgs := (List.filter (fun (g : Nat × Image) => g.2.cx = cx) s.hg.images).flatMap fun g =>
    g.2.lines.map fun a => (a / 4096 * 4096, a / 4096 * 4096 + 4096)
  let all := (heap, heap + Rcb.hlimit b) :: imgs ++ tableRanges s (keysOf s rid) 4 0 (Rcb.ptroot b)
  (all.map fun r => (r.1, min r.2 limit)).foldl addRange []

/-- The clusters of a rectangle, in ascending number (R409). -/
def rectClusters (b : BitVec 2048) : List Nat := (List.range 4096).filter (Rcb.holds b)

/-- Begin to tear a context down (R383): its regions are lost without records, windows and Culvert handles closed, its
objects deleted. -/
def teardown (s : State) (cx : Nat) (x : Ctx) : State :=
  let mine := (List.filter (fun (r : Nat × Region) => r.2.cx = cx && decide (r.1 < 2 ^ 40)) s.regions).map (·.1)
  let s := mine.foldl (fun s rid => if running s rid || (s.region rid).st == .saved then loseRegion s rid 3 false else s) s
  { s with
    hg := { s.hg with
      windows := s.hg.windows.filter fun w => w.2.cx != cx
      launches := s.hg.launches.filter fun l => l.cx != cx
      ctxs := AL.set s.hg.ctxs cx { x with st := .zeroing false } }
    out := { s.out with
      handles := s.out.handles.filter fun h => h.1.1 != cx
      objects := s.out.objects.map fun o => if o.2.cx = cx then (o.1, { o.2 with deleting := true }) else o } }

/-- Overwrite the keys of a context that is torn down with zeros, and begin its scrub (R383, R409, R410). -/
def beginScrub (s : State) (cx : Nat) (x : Ctx) (p : Nat) : State :=
  let scrub := fun (q : Part) => (⟨some cx, x.vd, x.slot,
    if holder q = some x.vd then rectClusters (s.region (ctxRid cx)).rcb else [], scrubRanges s cx p⟩ : Scrub)
  let t := s.modPart p fun q => { q with scrubs := q.scrubs ++ [scrub q] }
  let (g, t) := t.fresh
  { t with hg := { t.hg with
      images := t.hg.images.filter fun i => i.2.cx != cx
      codes := t.hg.codes.filter fun c => c.2.cx != cx
      ctxs := AL.set t.hg.ctxs cx { x with st := .scrubbing }
      slots := AL.set t.hg.slots x.slot { KeySlot.none with st := .zeroed, vd := x.vd, gen := g } } }

/-- The next step of the zeroing of a context (Table 14-9, R410): first the mark becomes durable, then the keys are
overwritten and the scrub begins; none once that is done. -/
def zeroStep (s : State) (cx : Nat) (x : Ctx) (p : Nat) : Option State :=
  match x.st with
  | .zeroing false =>
    some { s with hg := { s.hg with ctxs := AL.set s.hg.ctxs cx { x with st := .zeroing true }, scrubPending := true } }
  | .zeroing true => some (beginScrub s cx x p)
  | _ => none

/-- The contexts of a partition with their numbers. -/
def ctxsIn (s : State) (p : Nat) : List (Nat × Ctx) :=
  List.filter (fun (x : Nat × Ctx) => match vdOf s x.2.vd with | some v => v.part == p | none => false) s.hg.ctxs

/-- Whether a context of a partition is being zeroed or a scrub of the partition runs: a command that would use what it
holds is busy (Table 14-9). -/
def tearing (s : State) (p : Nat) : Bool :=
  (s.part p).scrubs != [] || (ctxsIn s p).any fun x => x.2.st matches .zeroing _

/-- Zero `n` bytes of HBM from a key up (R409, R418). -/
def zeroHbm (s : State) (key n : Nat) : State :=
  let inside := fun (k : Nat) => decide (key ≤ k) && decide (k < key + n)
  let meta' := fun (k : Nat) => decide (descKey key ≤ k) && decide (k < descKey key + 2 * (n / 64))
  { s with
    mem := s.mem.filter fun c => !inside c.1 && !meta' c.1
    enc := s.enc.filter fun e => !inside e.1
    poison := s.poison.filter fun k => !inside k
    zeroed := s.zeroed ++ [(key, key + n)] }

/-- Zero a range of partition-relative physical addresses, one interleave unit at a time (R117); `fuel` bounds them. -/
def zeroPhys (s : State) (p hi : Nat) : Nat → Nat → State
  | 0, _ => s
  | fuel + 1, lo =>
    if hi ≤ lo then s
    else
      let top := min hi (lo / 128 * 128 + 128)
      zeroPhys (zeroHbm s (physKey s p lo) (top - lo)) p hi fuel top

/-- Cut a 64 KiB unit out of ascending ranges: what it covers, and what is left. -/
def cutUnit (u : Nat) : List (Nat × Nat) → List (Nat × Nat) × List (Nat × Nat)
  | [] => ([], [])
  | r :: l =>
    let top := (u + 1) * 65536
    if top ≤ r.1 then ([], r :: l)
    else
      let (a, b) := cutUnit u l
      ((r.1, min r.2 top) :: a, if top < r.2 then (top, r.2) :: b else b)

/-- A scrub's next unit of HBM zeroed. -/
def scrubUnit (s : State) (p : Nat) (x : Scrub) : State × Scrub :=
  match x.ranges with
  | [] => (s, x)
  | r :: _ =>
    let (now, rest) := cutUnit (r.1 / 65536) x.ranges
    (now.foldl (fun s q => zeroPhys s p q.2 513 q.1) s, { x with ranges := rest })

/-- A context reaches free (Table 14-9): its slot is free, its Culvert objects are deleted by now, and the mark is cleared when
no scrub is left. -/
def endScrub (s : State) (p : Nat) (x : Scrub) : State :=
  let s := s.modPart p fun q => { q with scrubs := q.scrubs.drop 1 }
  let s := match x.cx with
    | some cx => match AL.find? s.hg.ctxs cx with
      | some c =>
        { s with
          hg := { s.hg with ctxs := AL.set s.hg.ctxs cx { c with st := .free }, slots := AL.del s.hg.slots c.slot }
          out := { s.out with objects := s.out.objects.filter fun o => !(o.2.cx == cx && o.2.deleting) } }
      | none => s
    | none => s
  if (s.parts.any fun q => q.2.scrubs != []) || (s.hg.ctxs.any fun x => x.2.st == .zeroing true) then s
  else { s with hg := { s.hg with scrubPending := false } }

/-- Make a partition invalid (R373): its `PART_CFG` takes the value written, frozen clear. DESIGN CHOICE: its other registers
hold their reset values, as those of a partition that does not exist (log 62). -/
def clearPart (s : State) (p cfg map : Nat) : State :=
  let s := unloadSupervisor s p
  let new := fun (q : Part) => { Part.reset p with cfg := BitVec.ofNat 64 cfg, scrubs := q.scrubs, ptime := q.ptime }
  { s.modPart p new with partMap := BitVec.ofNat 64 map }

/-- A `PART_SET` that waited for the teardowns and scrubs of its partition completes (R373). -/
def partSetEnd (s : State) (p : Nat) : State :=
  if tearing s p then s
  else
    match (fnRegs s 0).pending with
    | some c =>
      if c.code = 0x01 ∧ bits c.args 3 0 = p then
        completeCmd (clearPart s p (cfgMask (bits c.args 63 0)) (bits c.args 127 64)) c 0 0 0
      else s
    | none => s

/-- SCRUB_UNIT_DONE (R409, R411): the next cluster or unit of the scrub is zero; which of the two comes first is open. -/
def execScrubUnitDone (p : Nat) (s : State) : Answer :=
  runEvent "SCRUB_UNIT_DONE"
    (match (s.part p).scrubs with
    | [] => none
    | x :: _ =>
      let (k, s) := s.free
      let (s, y) := match x.clusters with
        | cl :: l => if x.ranges = [] ∨ Config.choose k % 2 = 0 then (zeroSram s (· == cl), { x with clusters := l }) else scrubUnit s p x
        | [] => scrubUnit s p x
      if y.clusters = [] ∧ y.ranges = [] then some (partSetEnd (endScrub s p y) p)
      else some (s.modPart p fun q => { q with scrubs := q.scrubs.set 0 y }))

/-- The context that a `TEARDOWN` names, permitted and live (R372, Table 14-9). -/
def tornCtx (s : State) (c : Cmd) : CmdM (Nat × Ctx) :=
  match ctxHandle s c.handle with
  | none => refuse 0x03
  | some (cx, x) => match vdOf s x.vd with
    | none => refuse 0x0A
    | some v => do
      policyCheck s c v
      cmdNeed (x.st == .active) 0x0A
      return (cx, x)

/-- The next step of a `TEARDOWN` that has been accepted: its completion is posted once the keys are zeros (R410). -/
def teardownStep (s : State) (c : Cmd) : State :=
  match ctxHandle s c.handle with
  | none => completeCmd s c 0 0 0
  | some (cx, x) => match zeroStep s cx x (s.region (ctxRid cx)).part with
    | none => completeCmd s c 0 0 0
    | some t => if x.st = .zeroing true then completeCmd t c 0 0 0 else t

/-- TEARDOWN (R383, R410, Table 14-9): accepted, the context is being zeroed; then the mark is made durable; then the keys are
zeros, the scrub begins and the completion is posted. -/
def execTeardown (c : Cmd) (s : State) : Answer :=
  if (fnRegs s c.fn).pending = some c ∧ cmdCode c = 0x0D then .next (teardownStep s c)
  else if nextCommand s c.fn = some c ∧ cmdCode c = 0x0D then
    let s := takeCmd s c
    .next (match precheck s c false >>= fun _ => tornCtx s c with
      | .error (st, d) => completeCmd s c st d 0
      | .ok (cx, x) => modFn (teardown s cx x) c.fn fun r => { r with pending := some c })
  else .refused (.notEnabled "TEARDOWN")

/-! ### The blocks the Headgate writes -/

/-- The widest level-1 block of a partition: an admissible one (log 43). -/
def widestBlock (q : Part) : BitVec 2048 :=
  BitVec.ofNat 2048 ([(1, 7, 0), (1, 8, 8), (15, 51, 48), (4 * q.west, 133, 128), (4 * (q.west + q.strips) - 1, 145, 140),
    (63, 151, 146), (0x1DFF, 167, 152), (0x1400000000, 255, 192), (4096, 268, 256), (511, 280, 272), (255, 295, 288),
    (q.gpool, 311, 296)].foldl (fun v f => putBits v f.2.1 f.2.2 f.1) 0)

/-- The level-1 block that the Headgate writes for a partition: any admissible block (R329; log 43). -/
def partitionBlock (q : Part) (k : Nat) : BitVec 2048 :=
  let b : BitVec 2048 := BitVec.ofNat 2048 (Config.headgateBlock 1 k)
  if partitionBlockOk q b then b else widestBlock q

/-- The effective feature mask starts at the virtual device (R330): what a level-1 block passes on has none. -/
def belowPartition (b : BitVec 2048) : BitVec 2048 := BitVec.ofNat 2048 (putBits b.toNat 183 176 0)

/-- The level-2 block that the Headgate writes for a virtual device: any admissible block, the one that inherits every
group among them (R329; log 43). -/
def deviceBlock (par : BitVec 2048) (sup k : Nat) : BitVec 2048 :=
  let b : BitVec 2048 := BitVec.ofNat 2048 (Config.headgateBlock 2 k)
  if chainBlockOk 2 b (belowPartition par) sup then b else BitVec.ofNat 2048 0x102

/-- The effective level-2 block of a virtual device, the policy's masks in it (R330, Table 14-5). -/
def deviceEffective (s : State) (v : VDev) : BitVec 2048 :=
  let e := effective v.block (belowPartition (s.part v.part).block)
  let mask := policyField v 73 66 ||| (if bitAt (policyField v 65 65) 0 then 0 else 8) ||| Rcb.fmask e
  BitVec.ofNat 2048 (putBits e.toNat 183 176 mask)

/-! ### Commands for partitions -/

/-- The level-2 blocks of a partition's virtual devices once its own block or strips have changed: one that no longer stands
under it inherits every group (R18, R329, R331; log 43). -/
def reblock (s : State) (p : Nat) : State :=
  let q := s.part p
  let fit := fun (v : VDev) =>
    if v.part != p || chainBlockOk 2 v.block (belowPartition q.block) q.supCluster then v
    else { v with block := BitVec.ofNat 2048 0x102 }
  { s with hg := { s.hg with vds := s.hg.vds.map fun (x : Nat × VDev) => (x.1, fit x.2) } }

/-- Make a partition valid with a configuration, map and key slot (R313, R314, R329). -/
def makePart (s : State) (p cfg map slot : Nat) : State :=
  let s := unloadSupervisor s p
  let (k, s) := s.free
  let q : Part := { s.part p with cfg := BitVec.ofNat 64 cfg }
  let now := partTime s p % 1024000 / 16000
  let new := fun (r : Part) =>
    { r with cfg := q.cfg, block := partitionBlock q k, slotCtl := slotCtlWord (bitAt r.slotCtl.toNat 63) now (holder r) }
  loadSupervisor (reblock { s.modPart p new with partMap := BitVec.ofNat 64 map } p) p slot

/-- A `PART_SET` with valid 0 of a frozen partition under way: the next step of a context's teardown, and its completion once
the last scrub has ended (R373). -/
def partSetStep (s : State) (p : Nat) : Option State :=
  match (ctxsIn s p).find? fun x => x.2.st matches .zeroing _ with
  | some x => (zeroStep s x.1 x.2 p).map fun t => partSetEnd t p
  | none => if tearing s p then none else some (partSetEnd s p)

/-- PART_SET (R313, R314, R373): arguments bits 63:0 `PART_CFG`, 127:64 `PART_MAP` (log 7). Of a frozen partition that is
made invalid every context is torn down first, and the command completes after the scrubs. DESIGN CHOICE: a supervisor region
that does not fit the partition refuses the command with status 0x08 (log 20). -/
def execPartSet (c : Cmd) (s : State) : Answer :=
  let cfg := cfgMask (bits c.args 63 0)
  let map := bits c.args 127 64
  let p := bits cfg 3 0
  let n := bits cfg 12 8
  let q := s.part p
  let checks : CmdM Unit := do
    precheck s c true
    cmdNeed (cfgOk cfg && mapOk s p n map (bitAt cfg 63)) 0x01
    cmdNeed (!residentOn s p n map (some p)) 0x06
  if (fnRegs s c.fn).pending = some c ∧ cmdCode c = 0x01 then runEvent "PART_SET" (partSetStep s p)
  else if nextCommand s c.fn = some c && cmdCode c == 0x01 && q.frozen && !bitAt cfg 63 && checks matches .ok _ then
    let s := ((ctxsIn s p).filter fun x => x.2.st == .active).foldl (fun s x => teardown s x.1 x.2) (takeCmd s c)
    .next (partSetEnd (modFn s c.fn fun r => { r with pending := some c }) p)
  else
    runCommand "PART_SET" 0x01 c true s fun s => do
      cmdNeed (cfgOk cfg && mapOk s p n map (bitAt cfg 63)) 0x01
      cmdNeed (decide (bits cfg 47 32 + grantsElse s p ≤ 7168)) 0x01
      cmdNeed (!tearing s p && !residentOn s p n map none) 0x06
      if !bitAt cfg 63 then return done 0 (clearPart s p cfg map)
      else match freeSlot s with
        | none => refuse 0x07
        | some slot =>
          cmdNeed (decide (16384 ≤ classSize (BitVec.ofNat 64 (Rcb.pword (supervisorRcb s p))) 0)) 0x01
          cmdNeed (supervisorOk s p { q with cfg := BitVec.ofNat 64 cfg }) 0x08
          return done 0 (makePart s p cfg map slot)

/-- CAL_SET (R319): arguments bits 127:0 are the calendar (log 7). -/
def execCalSet (c : Cmd) (s : State) : Answer :=
  runCommand "CAL_SET" 0x02 c true s fun s => do
    cmdNeed (!(List.range 16).any (residentIn s)) 0x06
    return done 0 { s with edgeCal := BitVec.ofNat 128 c.args }

/-- POWER (R388): argument bit 0 enables gating; bits 7:4 name the partition (log 6). -/
def execPower (c : Cmd) (s : State) : Answer :=
  runCommand "POWER" 0x12 c true s fun s => do
    let p := bits c.args 7 4
    cmdNeed (s.part p).valid 0x0A
    cmdNeed (!(s.part p).frozen) 0x0A
    return done 0 (s.modPart p fun q => { q with powerEn := bitAt c.args 0 })

/-- UNASSIGNED_COMMAND (R371): a reserved code completes with status 0x01, and a reserved subcommand of `DEBUG` during the
boot scrub with 0x06 (R384). -/
def execUnassignedCommand (c : Cmd) (s : State) : Answer :=
  runEvent "UNASSIGNED_COMMAND"
    (if nextCommand s c.fn = some c ∧ !assignedCodes.contains (cmdCode c) then
      let unbound := c.fn != 0 && (boundVd s c.fn).isNone
      some (completeCmd (takeCmd s c) c (if unbound then 0x02 else if c.code = 0x11 ∧ bootScrub s then 0x06 else 0x01) 0 0)
    else none)

/-! ### Virtual devices and contexts -/

/-- Bytes of a policy blob (R374). -/
def policyBytes : Nat := 17296

/-- Whether a policy header keeps Table 14-5. -/
def policyOk (h : Nat) : Bool :=
  h / 2 ^ 192 == 0 && bits h 34 32 == 0 && bits h 31 16 == policyBytes && bits h 15 8 == 1 && bits h 7 0 == 0x9E
    && bits h 62 61 != 3 && decide (bits h 95 90 ≤ 32) && decide (1 ≤ bits h 89 79) && decide (bits h 89 79 ≤ 1024)
    && decide (1 ≤ bits h 78 74) && decide (bits h 78 74 ≤ 16)

/-- VD_CREATE (R374, R394): arguments bits 3:0 the partition, 18:8 the function (log 7). DESIGN CHOICE: a partition of more
strips than the policy's maxstrips, for which the spec names no status, is refused with 0x04 (log 62). -/
def execVdCreate (c : Cmd) (s : State) : Answer :=
  runCommand "VD_CREATE" 0x03 c true s fun s => do
    let p := bits c.args 3 0
    let fn := bits c.args 18 8
    cmdNeed (decide (policyBytes ≤ c.buflen)) 0x0C
    let blob := hostBytes s c.buf policyBytes
    let body := blob.take 688
    let h := ofBytes (blob.take 256)
    cmdNeed (policyOk h && decide (1 ≤ fn) && decide (fn ≤ 1024)) 0x01
    cmdNeed (Config.sigGood 1 ((blob.drop 256).take 384) body ((blob.drop 688).take 384)) 0x05 1
    cmdNeed (Config.sigGood 2 ((blob.drop 640).take 48) body (blob.drop 1072)) 0x05 2
    cmdNeed (decide (bits h 191 160 ≤ s.hg.fwVersion)) 0x04
    cmdNeed ((s.part p).valid && !(s.part p).frozen && (boundVd s fn).isNone) 0x0A
    cmdNeed (decide ((s.part p).strips ≤ bits h 78 74)) 0x04
    match (List.range 1024).find? fun k => (vdOf s k).isNone with
    | none => refuse 0x07
    | some num =>
      let (key, s) := s.fresh
      let (k, s) := s.free
      let block := deviceBlock (s.part p).block (s.part p).supCluster k
      let s := { s with hg := { s.hg with vds := AL.set s.hg.vds key ⟨num, p, fn, blob, block⟩ } }
      return done (handleOf s .vd key) s

/-- VD_DESTROY (R371). -/
def execVdDestroy (c : Cmd) (s : State) : Answer :=
  runCommand "VD_DESTROY" 0x04 c true s fun s =>
    match vdHandle s c.handle with
    | none => refuse 0x03
    | some (key, v) => do
      cmdNeed (!(s.part v.part).frozen) 0x0A
      cmdNeed (!s.hg.ctxs.any fun x => x.2.vd == v.num && x.2.st != .free) 0x0A
      return done 0 { s with hg := { s.hg with vds := AL.del s.hg.vds key, ctxs := s.hg.ctxs.filter fun x => x.2.vd != v.num } }

/-- The effective level-3 block of a context (R329, R330, R376): the block given under its virtual device's, with the key
slot that holds its keys. -/
def contextBlock (s : State) (blk : BitVec 2048) (slot : Nat) (v : VDev) : BitVec 2048 :=
  BitVec.ofNat 2048 (putBits (effective blk (deviceEffective s v)).toNat 905 896 slot)

/-- Whether a level-3 block may stand under its virtual device's (Table 12-10); waive needs the block's own priv. -/
def contextBlockOk (s : State) (v : VDev) (blk : BitVec 2048) : Bool :=
  chainBlockOk 3 blk (deviceEffective s v) (s.part v.part).supCluster && (!Rcb.waive blk || Rcb.priv blk)

/-- CTX_CREATE (R375): the key blob at buf; arguments bits 63:0 the host address of the level-3 block (log 7). -/
def execCtxCreate (c : Cmd) (s : State) : Answer :=
  runCommand "CTX_CREATE" 0x05 c false s fun s => do
    let (_, v) ← cmdVd s c
    cmdNeed (decide (1800 ≤ c.buflen)) 0x0C
    cmdNeed (!tearing s v.part) 0x06
    let keys := Config.unwrapKeys s.hg.boots (tenantId v) (hostBytes s c.buf 1800)
    cmdNeed keys.isSome 0x05 3
    let blk : BitVec 2048 := BitVec.ofNat 2048 (Memory.readN s.mem (hostKey (bits c.args 63 0)) 256)
    cmdNeed (contextBlockOk s v blk) 0x01
    let have' := (List.filter (fun (x : Nat × Ctx) => x.2.vd = v.num && x.2.st != .free) s.hg.ctxs).length
    cmdNeed (decide (have' < policyField v 89 79)) 0x07
    match freeSlot s with
    | none => refuse 0x07
    | some slot =>
      let (cx, s) := (bindSlot s slot v.num (keys.getD [])).fresh
      let eff := contextBlock s blk slot v
      let root : Region := { Region.none with part := v.part, vd := v.num, cx, rcb := eff, priv := Rcb.priv blk }
      let s := { s with
        regions := AL.set s.regions (ctxRid cx) root
        hg := { s.hg with ctxs := AL.set s.hg.ctxs cx ⟨v.num, slot, .active, false⟩ } }
      return done (handleOf s .ctx cx) s

/-- The lines of a code object in a buffer: `n` lines, then `n` descriptors (log 7). -/
def bufferLines (l : List Byte) (n : Nat) : List Line :=
  (List.range n).map fun i =>
    (BitVec.ofNat 512 (ofBytes ((l.drop (64 * i)).take 64)), BitVec.ofNat 16 (ofBytes ((l.drop (64 * n + 2 * i)).take 2)))

/-- Whether a `CODE_LOAD` waits for a page that migrates (R348, R401). -/
def loadWaits (s : State) (c : Cmd) : Bool :=
  match precheck s c false >>= fun _ => cmdCtx s c with
  | .ok (cx, x, _) =>
    let n := c.buflen / 66
    n != 0 && (sealWaits s cx (bufferLines (bufferOf s x.slot c.buf c.buflen) n) n).isSome
  | .error _ => false

/-- CODE_LOAD (R403, R404). -/
def execCodeLoad (c : Cmd) (s : State) : Answer :=
  if loadWaits s c then .refused (.notEnabled "CODE_LOAD")
  else runCommand "CODE_LOAD" 0x06 c false s fun s => do
    let (cx, x, _) ← cmdCtx s c
    let n := c.buflen / 66
    cmdNeed (n != 0) 0x0C
    let (st, t) := sealCode s cx (bufferLines (bufferOf s x.slot c.buf c.buflen) n) n
    return if st = 0 then done (handleOf t .code (t.nextId - 1)) t else ⟨0x08, st, 0, t⟩

/-- SCHED (R371): arguments bits 63:0 are the mask. -/
def execSched (c : Cmd) (s : State) : Answer :=
  runCommand "SCHED" 0x07 c false s fun s => do
    let (_, v) ← cmdVd s c
    let e : Word := BitVec.ofNat 64 (2 ^ 15 + v.num % 2 ^ 10)
    let put := fun (l : List (Option Word)) => l.zipIdx.map fun x => if bitAt c.args x.2 then some e else x.1
    return done 0 (s.modPart v.part fun q => { q with slotStaged := put q.slotStaged })

/-- LAUNCH (R325, R334): the launch line at buf holds the addresses of the control block and the record image in bits 63:0
and 127:64; arguments bits 3:0 are the queue (log 7). -/
def execLaunchCmd (c : Cmd) (s : State) : Answer :=
  runCommand "LAUNCH_CMD" 0x08 c false s fun s => do
    let (cx, x, v) ← cmdCtx s c
    cmdNeed (decide (64 ≤ c.buflen)) 0x0C
    let l := ofBytes (bufferOf s x.slot c.buf 64)
    let q := bits c.args 3 0
    let (id, s) := s.fresh
    let item : Launch := ⟨id, v.num, q, cx, bits l 63 0, bits l 127 64, v.fn, c.tag⟩
    let hg := { s.hg with launches := s.hg.launches ++ [item], notifies := s.hg.notifies ++ [(v.part, 16 * v.num + q)] }
    let s := { s with hg }
    return done (handleOf s .launch id) s

/-- PAUSE (R371). -/
def execPause (c : Cmd) (s : State) : Answer :=
  runCommand "PAUSE" 0x09 c false s fun s => do
    let (_, v) ← cmdVd s c
    return done 0 ((regionsOf s v.part v.num).foldl freezeRegion s)

/-- RESUME (R371). -/
def execResume (c : Cmd) (s : State) : Answer :=
  runCommand "RESUME" 0x0A c false s fun s => do
    let (_, v) ← cmdVd s c
    return done 0 ((regionsOf s v.part v.num).foldl thawRegion s)

/-- The saved regions of a virtual device with their last images. -/
def savedImages (s : State) (v : VDev) : List (Nat × Image) :=
  (regionsOf s v.part v.num).filterMap fun rid =>
    if (s.region rid).st == .saved then (lastImage s rid).map fun g => ((s.region rid).image, g) else none

/-- Key `i` of a virtual device, of its first context's slot (R375; log 17). -/
def deviceKeyOf (s : State) (v : VDev) (i : Nat) : Nat :=
  match List.find? (fun (x : Nat × Ctx) => x.2.vd = v.num && x.2.st == .active) s.hg.ctxs with
  | some x => (slotOf s x.2.slot).keys.getD i 0
  | none => 0

/-- The key of a virtual device's sealed images: its image key, bound to this device unless the policy exports them
(R377). -/
def imageKey (s : State) (v : VDev) : Nat :=
  let k := deviceKeyOf s v 5
  if bitAt (policyField v 64 64) 0 then k else Config.deviceKey k

/-- A sealed image: a seal line of nonce, length and tag, and the ciphertext (R377). PRESUMED: the fields of the seal line
stand in that order from bit 0 (log 17). -/
def sealedImage (s : State) (v : VDev) (nonce : Nat) (l : List (Nat × Image)) : List Byte :=
  let body := (imageLines v.num l).flatMap fun d => toBytes d.toNat 64
  let out := gcmSeal (imageKey s v) nonce (body.take 64) body
  toBytes nonce 12 ++ toBytes body.length 8 ++ out.take 16 ++ List.replicate 28 0 ++ out.drop 16

/-- The end of an `EVICT`: the sealed image is written at buf. -/
def evictEnd (s : State) (c : Cmd) (v : VDev) : State :=
  let (nonce, s) := newNonce s
  let l := sealedImage s v nonce (savedImages s v)
  if c.buflen < l.length then completeCmd s c 0x0C 0 0 else completeCmd (writeHost s c.buf l) c 0 0 0

/-- EVICT (R364, R371): the regions are asked to yield; once each is saved or lost the sealed image is written. -/
def execEvict (c : Cmd) (s : State) : Answer :=
  if (fnRegs s c.fn).pending = some c ∧ cmdCode c = 0x0B then
    runEvent "EVICT" (match vdHandle s c.handle with
      | none => some (completeCmd s c 0x03 0 0)
      | some v => if (regionsOf s v.2.part v.2.num).any (running s) then none else some (evictEnd s c v.2))
  else if nextCommand s c.fn = some c ∧ cmdCode c = 0x0B then
    let s := takeCmd s c
    .next (match precheck s c false >>= fun _ => cmdVd s c with
      | .error (st, d) => completeCmd s c st d 0
      | .ok (_, v) =>
        let s := (regionsOf s v.part v.num).foldl (fun s rid => askYield s rid (.evict c.fn) (partTime s v.part)) s
        modFn s c.fn fun r => { r with pending := some c })
  else .refused (.notEnabled "EVICT")

/-- The images of saved regions of a virtual device that some lines hold which this device did not seal (R365; log 11). -/
def readImages (s : State) (v : VDev) (l : List LineData) : List (Nat × Image) :=
  (savedImages s v).filterMap fun g => (readImage s g.2.rid l).map fun h => (g.1, h)

/-- Restore saved regions, unless a check of Table 13-11 refuses one; images of none are no images (0x40). -/
def restoreAll (s : State) (v : VDev) (l : List (Nat × Image)) : CmdM CmdEnd :=
  match l.find? fun g => restoreStatus s v.part g.2 != 0 with
  | some g => refuse 0x09 (restoreStatus s v.part g.2)
  | none => if l = [] then refuse 0x09 0x40 else return done 0 (l.foldl (fun s g => restoreOnto s v.part g.2) s)

/-- RESTORE (R365): an image that this device sealed, of regions that are still saved, or one that opens under the image key
and whose header is good. -/
def execRestore (c : Cmd) (s : State) : Answer :=
  runCommand "RESTORE" 0x0C c false s fun s => do
    let (_, v) ← cmdVd s c
    cmdNeed (!tearing s v.part) 0x06
    cmdNeed (decide (128 ≤ c.buflen)) 0x0C
    let bytes := hostBytes s c.buf c.buflen
    let nonce := ofBytes (bytes.take 12)
    let l := savedImages s v
    let img := sealedImage s v nonce l
    if img = bytes.take img.length ∧ l ≠ [] then restoreAll s v l
    else match Config.imageOpen (imageKey s v) nonce (bytes.drop 20) with
      | none => refuse 0x05 4
      | some body =>
        let bad := headerStatus (ofBytes (body.take 64))
        if bad ≠ 0 then refuse 0x09 bad
        else restoreAll s v (readImages s v ((List.range (body.length / 64)).map fun i =>
          BitVec.ofNat 512 (ofBytes ((body.drop (64 * i)).take 64))))

/-! ### Windows (R378, R394, R398) -/

/-- The context a window opens onto: the live one with the lowest number of the function's virtual device, or of the
device for the physical function (log 7). -/
def windowCtx (s : State) (fn : Nat) : Option (Nat × Ctx) :=
  List.find? (fun (x : Nat × Ctx) => x.2.st == .active
    && (fn == 0 || (match vdOf s x.2.vd with | some v => v.fn == fn | none => false))) s.hg.ctxs

/-- WIN_OPEN (R398, Table 15-3). -/
def execWinOpen (c : Cmd) (s : State) : Answer :=
  runCommand "WIN_OPEN" 0x0E c false s fun s => do
    let h := c.handle
    let w := bits h 4 0
    let kind := bits h 6 5
    let size := bits c.args 127 64
    let fmt := bits c.args 7 0
    cmdNeed (h / 2 ^ 9 == 0 && kind != 3 && c.args / 2 ^ 211 == 0 && bits c.args 172 128 == 0 && bits c.args 63 8 == 0
      && size % 64 == 0 && decide (size ≤ 2 ^ 30) && formatOk fmt && c.buf % 64 == 0) 0x01
    match windowCtx s c.fn with
    | none => refuse 0x03
    | some (cx, x) => match vdOf s x.vd with
      | none => refuse 0x03
      | some v => do
        policyCheck s c v
        cmdNeed (AL.find? s.hg.windows w).isNone 0x0A
        cmdNeed (decide ((List.filter (fun (y : Nat × Window) => y.2.vd = v.num) s.hg.windows).length < policyField v 95 90)) 0x07
        let win : Window := ⟨cx, v.num, kind, c.buf, size, bitAt h 7, bitAt h 8, fmt, bits c.args 210 192, bits c.args 191 173⟩
        return done w { s with hg := { s.hg with windows := AL.set s.hg.windows w win } }

/-- WIN_CLOSE (R371). -/
def execWinClose (c : Cmd) (s : State) : Answer :=
  runCommand "WIN_CLOSE" 0x0F c false s fun s => do
    let w := bits c.handle 4 0
    cmdNeed (c.handle / 2 ^ 5 == 0) 0x01
    match AL.find? s.hg.windows w with
    | none => refuse 0x0A
    | some x => match vdOf s x.vd with
      | none => refuse 0x0A
      | some v => do
        policyCheck s c v
        return done 0 { s with hg := { s.hg with windows := AL.del s.hg.windows w } }

/-- The host window that a function reaches at a BAR2 offset, with the offset in it (R394). -/
def hostWindow (s : State) (fn off : Nat) : Option (Nat × Nat × Window) :=
  let w := off / 2 ^ 30
  match AL.find? s.hg.windows w with
  | none => none
  | some x =>
    let mine := fn == 0 || (match vdOf s x.vd with | some v => v.fn == fn | none => false)
    if mine && x.kind != 2 then some (w, off % 2 ^ 30, x) else none

/-- Note a failed window access (R378). -/
def setWerr (s : State) (fn : Nat) : State :=
  modFn s fn fun r => { r with cmdstat := r.cmdstat ||| BitVec.ofNat 64 (2 ^ 62) }

/-- The keys of a window's lines, if its context is protected (R377). -/
def windowKey (s : State) (x : Window) : Option (List Nat) :=
  match vdOf s x.vd, AL.find? s.hg.ctxs x.cx with
  | some v, some c => if protected' v then some (windowKeys s c.slot) else none
  | _, _ => none

/-- The tweak of a window line (Table 14-6). -/
def windowTweak (w line : Nat) : Nat := w * 2 ^ 96 + line

/-- A line of a window as the host reads it (R378). -/
def windowLine (s : State) (w line : Nat) (x : Window) : Option Nat :=
  if !x.rd || decide (x.size < line + 64) then none
  else match ctxTarget s (ctxRid x.cx) (x.base + line) with
    | .at t =>
      if !t.r || t.ident != 0 || s.poison.contains t.line then none
      else
        let v := readTarget s .outside (ctxRid x.cx) 0 t 64
        some (match windowKey s x with
          | some k => Config.windowSeal k (windowTweak w line) v % 2 ^ 512
          | none => v)
    | _ => none

/-- What a host read of a window returns (R378): none where it fails. -/
def windowRead (s : State) (fn off len : Nat) : Option (List Byte) := do
  let (w, o, x) ← hostWindow s fn off
  (List.range len).mapM fun i => do
    let v ← windowLine s w ((o + i) / 64 * 64) x
    some (BitVec.ofNat 8 (v / 2 ^ (8 * ((o + i) % 64))))

/-- HOST_WINDOW_READ (R378). -/
def execHostWindowRead (fn off len : Nat) (s : State) : Answer :=
  runEvent "HOST_WINDOW_READ" (some (match windowRead s fn off len with
    | some l => { s with out := { s.out with hostRead := l } }
    | none => setWerr { s with out := { s.out with hostRead := List.replicate len 0xFF } } fn))

/-- A host write of a window: one aligned line, as a line store at system scope (R378). -/
def windowWrite (s : State) (fn off : Nat) (data : List Byte) : Option State := do
  let (w, o, x) ← hostWindow s fn off
  if data.length ≠ 64 ∨ o % 64 ≠ 0 ∨ !x.wr ∨ x.size < o + 64 then none
  else match ctxTarget s (ctxRid x.cx) (x.base + o) with
    | .at t =>
      if !t.w || t.ident != 0 then none
      else
        let v := ofBytes data
        let v := match windowKey s x with | some k => Config.windowOpen k (windowTweak w o) v % 2 ^ 512 | none => v
        some (visibleWrite s t.line (cellsOf t.key 64 v) (some (Desc.mk x.fmt 0)) (t.enc (keysOf s (ctxRid x.cx))))
    | _ => none

/-- HOST_WINDOW_WRITE (R378). -/
def execHostWindowWrite (fn off : Nat) (data : List Byte) (s : State) : Answer :=
  runEvent "HOST_WINDOW_WRITE" (some ((windowWrite s fn off data).getD (setWerr s fn)))

/-- HG_CMDTAIL_WRITE (R370): commands up to the tail wait to be taken in ring order. -/
def execHgCmdtailWrite (fn : Nat) (v : Word) (s : State) : Answer :=
  runEvent "HG_CMDTAIL_WRITE" (some (modFn s fn fun r => { r with cmdtail := v }))

/-- `HG_CMDSTAT` as the host reads it (Table 14-2, R392). -/
def cmdStat (s : State) (fn : Nat) : Nat :=
  let r := fnRegs s fn
  (s.hg.booting || s.hg.inRom || r.pending.isSome).toNat * 2 ^ 63 + bits r.cmdstat.toNat 62 16 * 2 ^ 16 + r.taken % 2 ^ 16

/-- What the host reads at an offset of a function's registers that it may read (Table 14-1, R368): the registers of the
device are there for the physical function alone. -/
def readFn (s : State) (fn off : Nat) : Option Nat :=
  let r := fnRegs s fn
  if off = 0x000 then some r.cmdring.toNat
  else if off = 0x010 then some r.cplring.toNat
  else if fn ≠ 0 then none
  else if 0x100 ≤ off ∧ off ≤ 0x178 ∧ off % 8 = 0 then some (scrubWord s ((off - 0x100) / 8))
  else if off = 0x180 then some s.out.devnum.toNat
  else if off = 0x200 then some s.hg.recovery.toNat
  else if off = 0x208 then some s.hg.recoveryLen.toNat
  else if 0x280 ≤ off ∧ off ≤ 0x2F8 ∧ off % 8 = 0 then some (s.out.routes.getD ((off - 0x280) / 8) 0).toNat
  else none

/-- The host reads a register of a function whose reading changes nothing (Table 14-1): an input. -/
def execHostRead (fn off : Nat) (s : State) : Answer :=
  runEvent "a read of a register" ((readFn s fn off).map fun v => { s with out := { s.out with hostRead := toBytes v 8 } })

/-- HG_CMDSTAT_READ (R370): the read returns the register and clears werr. -/
def execHgCmdstatRead (fn : Nat) (s : State) : Answer :=
  runEvent "HG_CMDSTAT_READ" (some (modFn { s with out := { s.out with hostRead := toBytes (cmdStat s fn) 8 } } fn fun r =>
    { r with cmdstat := BitVec.ofNat 64 (bits r.cmdstat.toNat 61 0) }))

/-! ### Attestation (R380) -/

/-- The state of a context in a report (Table 14-7). -/
def attestState (s : State) (c : Nat × Ctx) : Nat :=
  let mine := List.filter (fun (r : Nat × Region) => r.2.cx = c.1 && decide (r.1 < 2 ^ 40)) s.regions
  if c.2.st == .free then 0
  else if c.2.st != .active then 4
  else if mine.any fun r => r.2.st == .saved then 3
  else if mine.any fun r => r.2.st == .frozen then 2
  else 1

/-- The body of a report with a nonce, for a context or none (Table 14-7). -/
def reportBody (s : State) (nonce : Nat) (c : Option (Nat × Ctx)) : Nat :=
  let digest := fun (l : List Byte) => sha3 l % 2 ^ 384
  let common := nonce % 2 ^ 512 * 2 ^ 3584 + Config.kemKey s.hg.boots % 2 ^ 384 * 2 ^ 3200
    + digest s.hg.fwImage * 2 ^ 2048 + Config.deviceId % 2 ^ 384 * 2 ^ 1664 + s.hg.fwVersion % 2 ^ 32 * 2 ^ 64 + 2 ^ 8 + 0xA5
  match c with
  | none => common
  | some x => match vdOf s x.2.vd with
    | none => common
    | some v =>
      let codes := (codesOf s x.1).flatMap fun p => toBytes (digest p.2.body) 48
      let st := if bootScrub s then 0 else attestState s x
      common + digest codes * 2 ^ 2816 + digest v.policy * 2 ^ 2432 + v.num % 2 ^ 10 * 2 ^ 38
        + (protected' v).toNat * 2 ^ 37 + policyField v 62 61 % 4 * 2 ^ 35 + st * 2 ^ 32

/-- A report: body, RSA signature, SLH-DSA signature, under the keys of the firmware measured, with a salt (R380). -/
def report (s : State) (salt nonce : Nat) (c : Option (Nat × Ctx)) : List Byte :=
  let body := toBytes (reportBody s nonce c) 512
  let part := fun (k n : Nat) => (List.range n).map fun i => (Config.sign k (sha3 s.hg.fwImage) salt body).getD i 0
  body ++ part 1 384 ++ part 2 16224

/-- ATTEST (R380): a handle of 0 names no context; a virtual function may ask that too only where its policy lets it attest
(R372). -/
def execAttest (c : Cmd) (s : State) : Answer :=
  runCommand "ATTEST" 0x10 c false s fun s => do
    let go := fun (x : Option (Nat × Ctx)) => do
      cmdNeed (decide (17120 ≤ c.buflen)) 0x0C
      let (salt, s) := s.free
      return done 0 (writeHost s c.buf (report s salt (ofBytes (hostBytes s c.buf 64)) x))
    if c.handle = 0 then do
      match boundVd s c.fn with
      | some v => if c.fn = 0 then pure () else policyCheck s c v.2
      | none => pure ()
      go none
    else match ctxHandle s c.handle with
      | none => refuse 0x03
      | some x => match vdOf s x.2.vd with
        | none => refuse 0x03
        | some v => do
          cmdNeed (x.2.st != .free) 0x03
          policyCheck s c v
          go (some x)

/-! ### hg.* (R381, R382) -/

/-- `hg.take` (R382). -/
def execHgTake (n : Nd) (st : State) : Answer :=
  issueRanged 0xFD n (.hgTake n) [.i64] allTypes (fun x _ => decide (x < 64)) st

/-- `hg.post` (R382). -/
def execHgPost (n : Nd) (st : State) : Answer :=
  issueRanged 0xFD n (.hgPost n) [.i64] allTypes (fun x _ => x / 2 ^ 26 == 0 && bits x 15 8 == 0) st

/-- `hg.quote` (R382): a pointer of another form, or that is not aligned to a line, is out of range. -/
def execHgQuote (n : Nd) (st : State) : Answer :=
  issueRanged 0xFD n (.hgQuote n) ptrTypes ptrTypes
    (fun x y => x / 2 ^ 56 == 0xFC && y / 2 ^ 56 == 0 && x % 64 == 0 && y % 64 == 0) st

/-- Bytes that the Headgate reads through a context's translation; none where it cannot. -/
def ctxRead (s : State) (cx a n : Nat) : Option Nat := do
  let parts ← (List.range (n / 32)).mapM fun i =>
    match ctxTarget s (ctxRid cx) (a + 32 * i) with
    | .at t => if t.r && !s.poison.contains t.line && a % 32 == 0 then some (readTarget s .outside (ctxRid cx) 0 t 32) else none
    | _ => none
  some (parts.foldr (fun x acc => x + acc * 2 ^ 256) 0)

/-- Launch a queued launch under its context's block: its refusal status, or its region begun (R331, R334). DESIGN CHOICE: a
block's address of a wrong form, or not aligned to the block's 256 bytes, is refused with 0x11, and one that cannot be read too
(log 62). -/
def takeLaunch (s : State) (l : Launch) (handle : Nat) : Nat × State :=
  let par := ctxRid l.cx
  match ctxRead s l.cx l.rcb 256, ctxRead s l.cx l.img 160 with
  | some b, some i =>
    let own : BitVec 2048 := BitVec.ofNat 2048 b
    let img : BitVec 1280 := BitVec.ofNat 1280 i
    let st := if l.rcb % 256 ≠ 0 ∨ l.rcb / 2 ^ 56 ≠ 0 then 0x11 else launchStatus s par own img
    if st ≠ 0 then (st, refusedLaunch s par st own)
    else match launchCode s l.cx own with
      | none => (0x16, s)
      | some lc =>
        let (rid, s) := startRegion s par (effective own (s.region par).rcb) lc img (holdsChildren s l.vd)
        let qid := 16 * l.vd + l.q
        let s := s.modRegion rid fun r => { r with launchTag := some (l.fn, handle), qid := some qid }
        let s := yieldToo s rid
        (0, s.modPart (s.region par).part fun p =>
          { p with qslot := p.qslot.map fun w =>
              if Qs.valid w ∧ Qs.qid w = qid then w ||| BitVec.ofNat 64 (2 ^ 60) else w })
  | none, _ => (0x11, s)
  | _, none => (0x1A, s)

/-- The launch of a queue that can be taken: its first, once its notify has been delivered (R326, R334); notifies are delivered
in the order of the launches. -/
def takeable (s : State) (p qid : Nat) : Option Launch :=
  let l := s.hg.launches.filter fun l => 16 * l.vd + l.q == qid
  if (s.hg.notifies.filter (· == (p, qid))).length < l.length then l.head? else none

/-- The operation of `hg.take` (R382, R327). -/
def performHgTake (s : State) (u : UId) (a : Access) (n : Nd) : OpRes :=
  let q := s.part (partOf s u.cl)
  let w := q.qslot.getD (opA a) 0
  let answer := fun (s : State) (v : Nat) => opSend s u a n (plain (BitVec.ofNat 64 v) .i64)
  ⟨s, a,
    if !Qs.valid w || holder q != some (Qs.qid w / 16) then answer s 2
    else match takeable s (partOf s u.cl) (Qs.qid w) with
      | none => answer s 1
      | some l =>
        let s := { s with hg := { s.hg with launches := s.hg.launches.erase l } }
        let handle := handleOf s .launch l.id
        match takeLaunch s l handle with
        | (0, s) => answer s 0
        | (st, s) => answer (postCpl s l.fn 0x08 st l.tag handle) (3 + st * 2 ^ 8)⟩

/-- Post a firmware notice to the function of a virtual device (Table 14-4, 0x21). -/
def postNotice (s : State) (v : VDev) (code : Nat) : State := postCpl s v.fn 0x21 code 0xFFFF 0

/-- The operation of `hg.post` (R382). -/
def performHgPost (s : State) (u : UId) (a : Access) (n : Nd) : OpRes :=
  let code := bits (opA a) 7 0
  let answer := fun (s : State) (v : Nat) => opSend s u a n (plain (BitVec.ofNat 64 v) .i64)
  ⟨s, a, match vdOf s (bits (opA a) 25 16) with
    | some v =>
      if v.part = partOf s u.cl ∧ 0x20 ≤ code ∧ code ≤ 0x2F then answer (postNotice s v code) 0 else answer s 1
    | none => answer s 1⟩

/-- Write the lines of a report that remain; `aux` counts those done. -/
def quoteLoop (u : UId) (n : Nd) : List LineData → State → Access → OpRes
  | [], s, a => ⟨s, a, opSend { s with hg := { s.hg with quotes := AL.del s.hg.quotes a.id } } u a n (plain 0 .i64)⟩
  | d :: l, s, a =>
    match engStoreLine s u a.f.rid (opB a + 64 * a.aux) d 0 a.f.o.isSome with
    | .ok t => quoteLoop u n l t { a with aux := a.aux + 1 }
    | .error e => ⟨s, a, .error e⟩

/-- The lines of the report for a region's own context with a nonce (R380, R382). -/
def quoteLines (s : State) (salt rid nonce : Nat) : List LineData :=
  let cx := (s.region rid).cx
  let l := report s salt nonce ((AL.find? s.hg.ctxs cx).map fun c => (cx, c))
  (List.range ((l.length + 63) / 64)).map fun i => (BitVec.ofNat 512 (ofBytes ((l.drop (64 * i)).take 64)) : LineData)

/-- The operation of `hg.quote` (R382): the report for the region's own context, with the nonce line at A, is made once, and
what its lines have still to be written is kept with the operation. -/
def performHgQuote (s : State) (u : UId) (a : Access) (n : Nd) : OpRes :=
  match AL.find? s.hg.quotes a.id with
  | some l => quoteLoop u n (l.drop a.aux) s a
  | none => match engLine s u a.f.rid (opA a) a.f.o.isSome with
    | .error e => ⟨s, a, .error e⟩
    | .ok (d, _, t) =>
      let (salt, t) := t.free
      let l := quoteLines t salt a.f.rid d.toNat
      quoteLoop u n l { t with hg := { t.hg with quotes := AL.set t.hg.quotes a.id l } } a

end Sys2Proof.Machine
end

