-- ==== Sys2Proof/Machine/Device.lean ====
section
/-! DEFINITION. The debugger (R385 to R387, R391), power states (R388, R389), boot, reset and recovery (R392, R393, R418),
the links, the clock source and the drives (R395 to R399), and the return of idle grants (R332). -/

namespace Sys2Proof.Machine

open Sys2Proof

/-! ### Debug (Tables 14-12 and 14-14): arguments are laid out as log 7 says -/

namespace Dbg
/-- subcommand -/
def sub (c : Cmd) : Nat := bits c.args 7 0
/-- cluster -/
def cl (c : Cmd) : Nat := bits c.args 21 16 * 64 + bits c.args 13 8
/-- region number -/
def region (c : Cmd) : Nat := bits c.args 39 24
/-- comparator or unit number -/
def num (c : Cmd) : Nat := bits c.args 47 40
/-- unit kind -/
def ukind (c : Cmd) : Nat := bits c.args 50 48
/-- what a read returns -/
def what (c : Cmd) : Nat := bits c.args 58 56
/-- entry that a read returns -/
def index (c : Cmd) : Nat := bits c.args 63 59 + 32 * bits c.args 95 64
/-- comparator word -/
def word (c : Cmd) : BitVec 256 := BitVec.ofNat 256 (bits c.args 319 64)
end Dbg

/-- The virtual device that a debug command names by its handle or that of a context, permitted (R372, R391). -/
def dbgVd (s : State) (c : Cmd) : CmdM VDev :=
  let byCtx := (ctxHandle s c.handle).bind fun x => if x.2.st == .free then none else vdOf s x.2.vd
  match ((vdHandle s c.handle).map (·.2)) <|> byCtx with
  | none => refuse 0x03
  | some v => do
    policyCheck s c v
    return v

/-- Demand that the policy permits debug and that the cluster is the device's and has power (Table 14-14). -/
def dbgAllowed (s : State) (c : Cmd) (v : VDev) : CmdM Unit := do
  cmdNeed (policyField v 62 61 == 1 || policyField v 62 61 == 2) 0x0B
  cmdNeed (partOf s (Dbg.cl c) == v.part) 0x01
  cmdNeed ((s.cluster (Dbg.cl c)).power != .gated) 0x0B

/-- The loaded region of a number of a virtual device. -/
def dbgRegion (s : State) (c : Cmd) (v : VDev) : CmdM Nat :=
  match (regionsOf s v.part v.num).find? fun rid => (s.region rid).num == Dbg.region c && running s rid with
  | some rid => .ok rid
  | none => refuse 0x0A

/-- The comparators of a virtual device in a cluster: those that act for the holder, and those kept for another (R387). -/
def compsOf (s : State) (v : VDev) (cl : Nat) : List (BitVec 256) :=
  if holder (s.part v.part) = some v.num then (s.cluster cl).comps
  else AL.get (List.replicate 8 0) s.hg.comps (v.num, cl)

/-- Set a comparator of a virtual device in a cluster: at once for the holder, and kept for its restore (R387). -/
def setComp (s : State) (v : VDev) (cl i : Nat) (w : BitVec 256) : State :=
  let new := (compsOf s v cl).set i w
  let s := { s with hg := { s.hg with comps := AL.set s.hg.comps (v.num, cl) new } }
  if holder (s.part v.part) = some v.num then s.modCluster cl fun c => { c with comps := new } else s

/-- The bits of a comparator word that are not reserved (Table 14-11); a write leaves the reserved ones zero (R9). -/
def compMask : BitVec 256 := BitVec.ofNat 256 (2 ^ 256 - 1 - (2 ^ 64 - 2 ^ 23) - (2 ^ 6 - 2))

/-- DEBUG_SET (R385, R391). -/
def execDebugSet (c : Cmd) (s : State) : Answer :=
  runCommand "DEBUG_SET" 0x111 c false s fun s => do
    let v ← dbgVd s c
    dbgAllowed s c v
    cmdNeed (decide (Dbg.num c < 8) && decide (bits (Dbg.word c).toNat 22 20 ≤ 4)) 0x01
    return done 0 (setComp s v (Dbg.cl c) (Dbg.num c) (Dbg.word c &&& compMask))

/-- DEBUG_CLEAR (R385). -/
def execDebugClear (c : Cmd) (s : State) : Answer :=
  runCommand "DEBUG_CLEAR" 0x211 c false s fun s => do
    let v ← dbgVd s c
    cmdNeed (policyField v 62 61 == 1 || policyField v 62 61 == 2) 0x0B
    cmdNeed (decide (Dbg.num c < 8) && partOf s (Dbg.cl c) == v.part) 0x01
    let old := (compsOf s v (Dbg.cl c)).getD (Dbg.num c) 0
    return done 0 (setComp s v (Dbg.cl c) (Dbg.num c) (old &&& ~~~ 1))

/-- The unit that a debug command names. -/
def dbgUnit (c : Cmd) : CmdM UId :=
  match ukindOf (Dbg.ukind c) with
  | some k => if unitInRange (Dbg.ukind c) (Dbg.num c) then .ok ⟨Dbg.cl c, k, Dbg.num c⟩ else refuse 0x01
  | none => refuse 0x01

/-- DEBUG_STEP (R386): one firing of a unit of a halted region is permitted: its earliest withheld one, which goes to the
head of the ready queue, else the next to issue. -/
def execDebugStep (c : Cmd) (s : State) : Answer :=
  runCommand "DEBUG_STEP" 0x311 c false s fun s => do
    let v ← dbgVd s c
    dbgAllowed s c v
    let u ← dbgUnit c
    let rid ← dbgRegion s c v
    cmdNeed (s.region rid).halted 0x0A
    let s := s.modUnit u fun h =>
      match h.withheld.find? fun w => w.2.rid == rid with
      | some w => { h with withheld := h.withheld.erase w, ready := w.2 :: h.ready }
      | none => h
    return done 0 (s.modRegion rid fun r => { r with permits := r.permits ++ [u] })

/-- DEBUG_RESUME (R386): withheld firings enter their ready queues in the order they were withheld. -/
def execDebugResume (c : Cmd) (s : State) : Answer :=
  runCommand "DEBUG_RESUME" 0x411 c false s fun s => do
    let v ← dbgVd s c
    cmdNeed (policyField v 62 61 == 1 || policyField v 62 61 == 2) 0x0B
    let rid ← dbgRegion s c v
    cmdNeed (s.region rid).halted 0x0A
    let s := s.modRegion rid fun r => { r with halted := false, permits := [], stepped := [] }
    return done 0 { s with units := s.units.map fun (p : UId × HwUnit) => (p.1, rejoinAll rid p.2) }

/-- DEBUG_HALT (R386); of a region that yields, the halt begins once it is restored (R387). -/
def execDebugHalt (c : Cmd) (s : State) : Answer :=
  runCommand "DEBUG_HALT" 0x511 c false s fun s => do
    let v ← dbgVd s c
    cmdNeed (policyField v 62 61 == 1 || policyField v 62 61 == 2) 0x0B
    let rid ← dbgRegion s c v
    return done 0 (s.modRegion rid fun r => match r.yield with
      | some y => { r with yield := some { y with halt := true } }
      | none => { r with halted := true })

/-- A matching-store entry as a read shows it: value, tag, slot and side (log 7). -/
def entryBytes (e : MatchEntry) : Nat :=
  let side := match e.side with | .left => 0 | .right => 1 | .ord => 2 | .exp => 3
  match e.pay with
  | .scal x => x.val.toNat + x.ty.code * 2 ^ 64 + e.tag.toNat * 2 ^ 72 + e.slot * 2 ^ 96 + side * 2 ^ 104
  | .line d _ _ => d.toNat

/-- A tile-table entry as a read shows it: its declared fields and its state (Table 04-7; log 7). -/
def tileBytes (t : Tile) : Nat :=
  let st := match t.st with | .empty => 0 | .filling => 1 | .ready => 2 | .draining => 3
  (!t.om).toNat * 2 ^ 125 + t.format % 2 ^ 8 * 2 ^ 112 + t.lines % 2 ^ 12 * 2 ^ 100 + t.arrived % 2 ^ 12 * 2 ^ 88
    + t.readers % 2 ^ 8 * 2 ^ 80 + t.left % 2 ^ 8 * 2 ^ 72 + t.scaleoff * 2 ^ 45 + t.base % 2 ^ 13 * 2 ^ 19 + st * 2 ^ 126

/-- A table bank's state as a read shows it (Table 09-2; log 7). -/
def bankBytes (k : Bank) : Nat :=
  k.valid.toNat + k.auto.toNat * 2 + k.planes.toNat * 4 + k.filled % 2 * 8 + k.owner.isSome.toNat * 16 + k.gated.toNat * 32
    + k.len % 2 ^ 16 * 2 ^ 32 + k.groups % 2 ^ 16 * 2 ^ 48 + k.rows % 2 ^ 16 * 2 ^ 64 + k.owner.getD 0 % 2 ^ 64 * 2 ^ 128
    + k.srcOff % 2 ^ 32 * 2 ^ 192 + k.srcLines % 2 ^ 32 * 2 ^ 224 + k.srcCl % 2 ^ 16 * 2 ^ 256

/-- The pass register as a read shows it (Table 09-2; log 7). -/
def passBytes (p : Pass) : Nat :=
  p.armed.toNat + p.running.toNat * 2 + p.pick % 4 * 4 + p.n % 2 ^ 16 * 2 ^ 16 + p.u % 2 ^ 16 * 2 ^ 32 + p.rows % 2 ^ 16 * 2 ^ 48
    + p.cols % 2 ^ 16 * 2 ^ 64

/-- A 64-byte part of a lookup matrix unit's state (Table 09-2): the accumulators, the tables of its two banks, the banks and
the pass register, in this order (log 7). -/
def lmBytes (s : State) (cl k : Nat) : Nat :=
  if k < 1024 then Memory.readN s.mem (accKey cl (16 * k)) 64
  else if k < 2048 then Memory.readN s.mem (tableKey cl 0 0 0 + 64 * (k - 1024)) 64
  else if k < 3072 then Memory.readN s.mem (tableKey cl 1 0 0 + 64 * (k - 2048)) 64
  else if k < 3074 then bankBytes (bankOf s cl (k - 3072))
  else passBytes (s.cluster cl).pass

/-- A 64-byte part of a unit's words (R150): node words, literals, then arcs with the flags word (log 7). -/
def unitBytes (h : HwUnit) (k : Nat) : Nat :=
  let row := fun (n w : Nat) (f : Nat → Nat) => ((List.range n).map fun i => f i * 2 ^ (w * i)).foldl (· + ·) 0
  if k = 0 then row 16 32 fun i => (AL.get (0, 0) h.words i).1.toNat
  else if k < 3 then row 8 64 fun i => (AL.get 0 h.lits (8 * (k - 1) + i)).toNat
  else row 8 32 (fun i => (AL.get 0 h.arcs i).toNat) + h.flags.toNat * 2 ^ 256

/-- What a debug read returns (R386): words of a unit, a matching-store entry, a frame slot, a tile-table entry,
lookup-matrix state or a scratchpad line. -/
def debugValue (s : State) (c : Cmd) (u : UId) (rid : Nat) : Nat :=
  let h := s.unit u
  let k := Dbg.index c
  match Dbg.what c with
  | 0 => unitBytes h k
  | 1 => match h.store[k]? with | some e => entryBytes e | none => 0
  | 2 => (AL.get 0 (s.frame rid (dieOf u.cl) (k / 128)).slots (u.cl, k % 128)).toNat
  | 3 => match AL.find? (s.cluster u.cl).tiles k with | some t => tileBytes t | none => 0
  | 4 => lmBytes s u.cl k
  | _ => if 64 * k + 64 ≤ padSize s u.cl then Memory.readN s.mem (poolKey u.cl (64 * k)) 64 else 0

/-- A debug read as it is written at buf: plaintext, or for a protected context sealed under the debug key with the command
entry as authenticated data, after its nonce (R377; log 17). -/
def debugBytes (s : State) (c : Cmd) (v : VDev) (l : List Byte) : List Byte × State :=
  if protected' v then
    let (nonce, s) := newNonce s
    (toBytes nonce 12 ++ gcmSeal (deviceKeyOf s v 6) nonce (cmdBytes c) l, s)
  else (l, s)

/-- Whether a debug read that is permitted waits for the end of a cluster's wake (R391). -/
def readWaits (s : State) (c : Cmd) : Bool :=
  (s.cluster (Dbg.cl c)).power == .waking
    && (do precheck s c false; let v ← dbgVd s c; dbgAllowed s c v : CmdM Unit) matches .ok _

/-- DEBUG_READ (R386, R391): written at buf, sealed under the debug key where protected; it waits while the cluster
wakes. -/
def execDebugRead (c : Cmd) (s : State) : Answer :=
  if readWaits s c then .refused (.notEnabled "DEBUG_READ")
  else runCommand "DEBUG_READ" 0x611 c false s fun s => do
    let v ← dbgVd s c
    dbgAllowed s c v
    let u ← dbgUnit c
    let rid ← dbgRegion s c v
    cmdNeed (decide (Dbg.what c ≤ 5)) 0x01
    let (l, s) := debugBytes s c v (toBytes (debugValue s c u rid) 64)
    cmdNeed (decide (l.length ≤ c.buflen)) 0x0C
    return done 0 (writeHost s c.buf l)

/-- DEBUG_RELEASE (R63, R386): held is cleared on every held record of the region. -/
def execDebugRelease (c : Cmd) (s : State) : Answer :=
  runCommand "DEBUG_RELEASE" 0x711 c false s fun s => do
    let v ← dbgVd s c
    cmdNeed (policyField v 62 61 == 1 || policyField v 62 61 == 2) 0x0B
    let rid ← dbgRegion s c v
    let free := fun (r : Rec) => if r.rid = rid then { r with held := false, img := RecImg.set r.img 113 1 0 } else r
    let s := { s with clusters := s.clusters.map fun (p : Nat × Cluster) =>
      let first := fun (l : List Rec) => (l.find? fun (r : Rec) => !r.held).map fun (r : Rec) => r.img
      let disp := p.2.disp.map free
      (p.1, { p.2 with
        disp, parked := p.2.parked.map free
        skip := if first disp = first p.2.disp then p.2.skip else 0
        drain := first disp == first p.2.disp && p.2.drain }) }
    return done 0 (s.modRegion rid fun r => { r with spill := r.spill.map free, entryRec := r.entryRec.map free })

/-! ### Power (R388, R389) -/

/-- Whether a cluster may be power-gated (R388). -/
def mayGate (s : State) (cl : Nat) : Bool :=
  let p := partOf s cl
  let q := s.part p
  q.powerEn && q.supCluster != cl && (s.cluster cl).power == .on && decide ((s.cluster cl).lastFlit + 6000 ≤ s.clock)
    && !(s.net.any fun f => f.cl == cl && f.kind != sinkKind) && !(s.cfgNet.any fun c => c.cl == cl)
    && (match holder q with
      | some h => !(regionsOf s p h).any fun rid => (running s rid || (s.region rid).st == .saved) && Rcb.holds (s.region rid).rcb cl
      | none => true)

/-- CLUSTER_POWER_GATE (R388): the cluster loses its SRAM. -/
def execClusterPowerGate (cl : Nat) (s : State) : Answer :=
  runEvent "CLUSTER_POWER_GATE"
    (if mayGate s cl then some ((zeroSram s (· == cl)).modCluster cl fun c => { c with power := .gated }) else none)

/-- Whether an access or operation has an operand that points into the pool of a cluster. -/
def reaches (s : State) (u : UId) (cl : Nat) (a : Access) : Bool :=
  [opA a, opB a].any fun v => match formOf s u.cl v with | some (.pool k _) => k == cl | _ => false

/-- Whether a flit is addressed to a cluster: a token, a configuration packet, or a request for its pool (R389). -/
def addressed (s : State) (cl : Nat) : Bool :=
  (s.net.any fun f => f.cl == cl && f.kind != sinkKind && !crosses s f) || (s.cfgNet.any fun c => c.cl == cl)
    || s.units.any fun p => (p.2.access.any fun a => reaches s p.1 cl a) || p.2.ops.any fun a => reaches s p.1 cl a

/-- CLUSTER_WAKE_START (R389): a flit is addressed to a gated cluster, whose wake begins. -/
def execClusterWakeStart (cl : Nat) (s : State) : Answer :=
  runEvent "CLUSTER_WAKE_START"
    (if (s.cluster cl).power == .gated && addressed s cl then
      some (s.modCluster cl fun c => { c with power := .waking, lastFlit := s.clock })
    else none)

/-- Deliver the flits of a wake buffer in their order; one that cannot be accepted, and what follows it on its arc, stays
behind (R26, R389). -/
def wakeDeliver (x : State × List Flit) (f : Flit) : State × List Flit :=
  if x.2.any fun g => g.src = f.src && g.arc = f.arc then (x.1, x.2 ++ [f])
  else match if f.kind = 5 then tileLine x.1 f else deliver x.1 f with
    | some t => (t, x.2)
    | none => (x.1, x.2 ++ [f])

/-- CLUSTER_WAKE_END (R389): 2,400 clocks on the cluster's SRAM is zero, loads that waited are made, and the buffered flits are
delivered in order. -/
def execClusterWakeEnd (cl : Nat) (s : State) : Answer :=
  runEvent "CLUSTER_WAKE_END"
    (let c := s.cluster cl
    if c.power == .waking && decide (c.lastFlit + 2400 ≤ s.clock) then
      let s := (zeroSram s (· == cl)).modCluster cl fun c => { c with power := .on, wakeBuf := [], lastFlit := s.clock }
      let s := loadWoken s cl
      let (s, back) := c.wakeBuf.foldl wakeDeliver (s, [])
      some { s with net := back ++ s.net }
    else none)

/-- BANK_POWER_GATE (R389): a table bank that nothing has owned for 4,096 clocks is gated alone and loses its entries. -/
def execBankPowerGate (cl bank : Nat) (s : State) : Answer :=
  runEvent "BANK_POWER_GATE"
    (let k := bankOf s cl bank
    if k.owner.isNone && k.claims == [] && !k.gated && !k.clearing && decide (bank < 2) && decide (k.since + 4096 ≤ s.clock) then
      some (zeroTables (setBank s cl bank { k with gated := true, valid := false, auto := false, filled := 0, srcLines := 0 }) cl bank)
    else none)

/-! ### Grants (R332) -/

/-- Grants that the units of a region hold. -/
def grantsOf (s : State) (rid : Nat) : Nat := (List.filter (fun (x : UId × HwUnit) => x.2.grant = some rid) s.units).length

/-- Whether a unit is in the course of a pass (R332); a tile-form firing of a line unit ends in the step that issues it. -/
def unitBusy (s : State) (u : UId) : Bool := u.kind == .lmu && (s.cluster u.cl).look.isSome

/-- Give a free grant of a region to the unit that waits first. -/
def passGrant (s : State) (rid : Nat) : State :=
  match (s.region rid).grantQueue with
  | [] => s
  | u :: l =>
    if grantsOf s rid < Rcb.grants (s.region rid).rcb then
      (s.modRegion rid fun r => { r with grantQueue := l }).modUnit u fun h =>
        { h with grant := some rid, grantWait := h.grantWait + (s.clock - h.grantIdle), grantIdle := s.clock }
    else s

/-- The clocks that a unit's head firing has waited while the unit held the grant of another region (R299): from when it
reached the head of its queue until the unit returned that grant. -/
def waitedElse (h : HwUnit) (f : Firing) : Nat :=
  match h.returned with
  | some (rid, t) => if rid = f.rid then 0 else t - max f.formedAt h.grantIdle
  | none => 0

/-- GRANT_IDLE_RETURN (R332): 64 clocks without work return a unit's grant. -/
def execGrantIdleReturn (u : UId) (s : State) : Answer :=
  runEvent "GRANT_IDLE_RETURN"
    (match (s.unit u).grant with
    | some rid =>
      if !unitBusy s u && decide ((s.unit u).grantIdle + 64 ≤ s.clock) then
        some (passGrant (s.modUnit u fun h => { h with grant := none, returned := some (rid, s.clock) }) rid)
      else none
    | none => none)

/-! ### Boot, reset, recovery -/

/-- A tag of HBM after a reset: of what hardware had zeroed nothing is known, for the keys it is read under are new (R418). -/
def EncTag.reset (t : EncTag) : EncTag := if t = .any then .lost else t

/-- The device after a reset (R410, R418): HBM, flash and host memory keep their bytes, the firmware slot and the scrub mark
survive; boot has yet to run. -/
def resetDevice (s : State) : State :=
  let keep := fun (k : Nat) => (sramCluster k).isNone
  { State.reset with
    nonce := s.nonce, nextId := s.nextId, mem := s.mem.filter fun c => keep c.1
    enc := s.enc.map fun (e : Nat × EncTag) => (e.1, e.2.reset)
    poison := s.poison.filter keep
    hg := { Headgate.reset with
      booting := true, boots := s.hg.boots + 1, fwVersion := s.hg.fwVersion, fwImage := s.hg.fwImage
      retiredMask := s.hg.retiredMask, scrubPending := s.hg.scrubPending }
    out := { Outside.reset with objects := s.out.objects, badDrives := s.out.badDrives } }

/-- RESET (R410, R418): a reset or a loss of power. -/
def execReset (s : State) : Answer := runEvent "RESET" (some (resetDevice s))

/-- The boot scrub of a partition of one strip (R384). -/
def bootScrubOf (p : Nat) : Scrub := ⟨none, 0, 0, (List.range 4096).filter (fun cl => stripOf cl == p), [(0, stripBytes)]⟩

/-- The check of a firmware image by the ROM (R379): 0 passed, else the reason of Table 15-2 of the first check that fails:
the version against the fused minimum, the hashes of the public keys against the fuses, the two signatures. -/
def firmwareFailure (img : List Byte) : Nat :=
  let part := fun (k : Nat) => Config.firmwarePart k img
  if Config.firmwareVersion img < Config.fuseVersion then 1
  else if sha3 (part 1) ≠ Config.fuseKeyHash 1 ∨ sha3 (part 2) ≠ Config.fuseKeyHash 2 then 2
  else if !Config.sigGood 1 (part 1) (part 0) (part 3) then 3
  else if !Config.sigGood 2 (part 2) (part 0) (part 4) then 4
  else 0

/-- Whether every step of Table 15-1 succeeds at a boot: the check of the firmware image, and the others as the device
fares (R392). -/
def bootOk (s : State) : Bool :=
  firmwareFailure s.hg.fwImage == 0 && [1, 3, 4, 5, 6, 7].all (Config.bootStep s.hg.boots)

/-- The retired mask of a firmware image: empty in version 0x0001_0000 (R405). -/
def retiredOf (img : List Byte) : Nat :=
  if Config.firmwareVersion img = 0x00010000 then 0 else Config.firmwareRetired img % 2 ^ 256

/-- POWER_GOOD (R392, R384): the boot sequence; a step that fails stops it in ROM recovery, a surviving mark starts the
boot scrub. -/
def execPowerGood (s : State) : Answer :=
  runEvent "POWER_GOOD"
    (if !s.hg.booting then none
    else if !bootOk s then some { s with hg := { s.hg with inRom := true } }
    else
      let parts := (List.range 16).map fun p =>
        (p, if s.hg.scrubPending then { Part.reset p with scrubs := [bootScrubOf p] } else Part.reset p)
      some { s with
        parts, partMap := State.reset.partMap, edgeCal := State.reset.edgeCal
        hg := { s.hg with
          booting := false, inRom := false, fwVersion := Config.firmwareVersion s.hg.fwImage
          retiredMask := retiredOf s.hg.fwImage }
        out := { s.out with linksUp := (List.range 16).map (Config.linkTrained s.hg.boots) } })

/-- HG_RECOVERY_WRITE (R393, Table 15-2): state 0b01 starts a fetch, in recovery or while no context exists. -/
def execHgRecoveryWrite (v : Word) (len : BitVec 32) (s : State) : Answer :=
  runEvent "HG_RECOVERY_WRITE"
    (let live := s.hg.ctxs.any fun c => c.2.st != .free
    let ok := bits v.toNat 11 10 == 1 && decide (4096 ≤ len.toNat) && decide (len.toNat ≤ 2 ^ 26)
    some (if ok && (s.hg.inRom || !live) then
      let r := BitVec.ofNat 64 (bits v.toNat 63 12 * 2 ^ 12 + 2 * 2 ^ 10)
      { s with hg := { s.hg with recovery := r, recoveryLen := len, inRom := true } }
    else s))

/-- RECOVERY_FETCH_DONE (R393): a good image is installed and the device resets; a bad one leaves the slot and its
reason. -/
def execRecoveryFetchDone (readError : Bool) (s : State) : Answer :=
  runEvent "RECOVERY_FETCH_DONE"
    (if bits s.hg.recovery.toNat 11 10 ≠ 2 then none
    else
      let addr := bits s.hg.recovery.toNat 63 12 * 4096
      let img := hostBytes s addr s.hg.recoveryLen.toNat
      let reason := if readError then 5 else firmwareFailure img
      some (if reason = 0 then resetDevice { s with hg := { s.hg with fwImage := img } }
        else { s with hg := { s.hg with recovery := BitVec.ofNat 64 (addr + 3 * 2 ^ 10 + reason) } }))

/-! ### Links, time, drives -/

/-- Whether any partition is valid. -/
def anyValid (s : State) : Bool := s.parts.any fun p => p.2.valid

/-- KN_DEVNUM_WRITE (R397): it changes nothing while a partition is valid. -/
def execKnDevnumWrite (v : Word) (s : State) : Answer :=
  runEvent "KN_DEVNUM_WRITE"
    (some (if anyValid s then s else { s with out := { s.out with devnum := BitVec.ofNat 64 (bits v.toNat 18 0) } }))

/-- KN_ROUTE_WRITE (R397). -/
def execKnRouteWrite (k : Nat) (v : Word) (s : State) : Answer :=
  runEvent "KN_ROUTE_WRITE"
    (if 16 ≤ k then none
    else
      let w := BitVec.ofNat 64 (bits v.toNat 50 32 * 2 ^ 32 + bits v.toNat 18 0)
      some (if anyValid s then s else { s with out := { s.out with routes := s.out.routes.set k w } }))

/-- KNANOLO_FLIT_AUTH_FAILURE (R396): the flit is dropped; 16 of them in 1 ms take the link down. -/
def execKnanoloFlitAuthFailure (port : Nat) (s : State) : Answer :=
  runEvent "KNANOLO_FLIT_AUTH_FAILURE"
    (if 16 ≤ port then none
    else
      let l := (port, s.clock) :: s.out.drops.filter fun d => decide (s.clock < d.2 + 600000)
      let mine := (l.filter fun d => d.1 == port).length
      some { s with out := if 16 ≤ mine then
          { s.out with drops := l.filter fun d => d.1 != port, linksUp := s.out.linksUp.set port false }
        else { s.out with drops := l } })

/-- A partition steered to a time: a slot that the time is set into or past does not begin, since the time does not pass
its beginning (R322, R399). -/
def Part.steer (off now : Nat) (q : Part) : Part :=
  let ctl := if q.valid then slotCtlWord (bitAt q.slotCtl.toNat 63) (now % 1024000 / 16000) (holder q) else q.slotCtl
  { q with ptime := off, slotCtl := ctl }

/-- SYNC_MESSAGE (R399): a valid message steers partition time. -/
def execSyncMessage (t : Nat) (s : State) : Answer :=
  runEvent "SYNC_MESSAGE"
    (let off := (t + 2 ^ 64 - s.clock * 5 / 3 % 2 ^ 64) % 2 ^ 64
    some { s with
      parts := s.parts.map fun (p : Nat × Part) => (p.1, p.2.steer off ((off + s.clock * 5 / 3) % 2 ^ 64))
      out := { s.out with timeAt := s.clock, timeLost := false } })

/-- Whether a virtual device may span devices: its policy admits peers (Table 14-5; log 5). -/
def spans (v : VDev) : Bool := policyField v 65 65 == 1

/-- TIME_SYNC_LOSS (R399): after 1 s without a valid message, notice 0x20 goes to the devices that span devices. -/
def execTimeSyncLoss (s : State) : Answer :=
  runEvent "TIME_SYNC_LOSS"
    (if s.out.timeLost || decide (s.clock < s.out.timeAt + 600000000) then none
    else
      let s := { s with out := { s.out with timeLost := true } }
      some (s.hg.vds.foldl (fun s v => if spans v.2 then postNotice s v.2 0x20 else s) s))

/-- DRIVE_FAILURE (R395): every page that the drive holds fails authentication from now on. -/
def execDriveFailure (drive : Nat) (s : State) : Answer :=
  runEvent "DRIVE_FAILURE"
    (let hit := fun (o : Nat × CvObject) => o.2.written.filter fun p => Config.driveOf o.1 p == drive
    some { s with out := { s.out with
      badDrives := if s.out.badDrives.contains drive then s.out.badDrives else drive :: s.out.badDrives
      objects := s.out.objects.map fun o => (o.1, { o.2 with bad := o.2.bad ++ (hit o).filter fun p => !o.2.bad.contains p }) } })

end Sys2Proof.Machine
end

