-- ==== Sys2Proof/Machine/EngineEvents.lean ====
section
/-! DEFINITION. What an engine port's queued operations do when their turn comes (R138, R238, R285), and the waits of
records and watchers (R60, R61, R247). -/

namespace Sys2Proof.Machine

open Sys2Proof

/-- A step of a queued operation; none while it waits, and for a `cut`, whose commit is a step of its own. -/
def performOp (s : State) (u : UId) (a : Access) : Option State :=
  match a.i with
  | .spawn n => opEnd u (performSpawn s u a n)
  | .suspend n => opEnd u (performSuspend s u a n)
  | .jinit n sc => opEnd u (performJinit s u a n sc)
  | .jarrive n sc => opEnd u (performJarrive s u a n sc)
  | .barArrive n sc => opEnd u (performBarArrive s u a n sc)
  | .barWait n sc => opEnd u (performBarWait s u a n sc)
  | .qPush n sc => opEnd u (performQPush s u a n sc)
  | .qPop n p _ => opEnd u (performQPop s u a n p)
  | .launch n sc => opEnd u (performLaunch s u a n sc)
  | .cp n sc => opEnd u (performCp s u a n sc)
  | .nmAdd n sc => opEnd u (performNm s u a n .add sc)
  | .nmAxpy n sc => opEnd u (performNm s u a n .axpy sc)
  | .nmScl n sc => opEnd u (performNm s u a n .scl sc)
  | .nmCvt n sc => opEnd u (performNm s u a n .cvt sc)
  | .xrGet _ _ _ | .xrPut _ _ | .xrAmo _ _ _ => if a.st = .queued then remoteStep s u a else remoteLocalEnd s u a
  | .cvIn n => if a.st = .queued then cvInStart s u a n else none
  | .cvOut n => opEnd u (performCvOut s u a n)
  | .cvOpen n x nm => opEnd u (performCvOpen s u a n x nm)
  | .cvClose n x => cvCloseStep s u a n x
  | .publish n => opEnd u (performPublish s u a n)
  | .scrubZero n => opEnd u (performScrubZero s u a n)
  | .scrubWait n => opEnd u (performScrubWait s u a n)
  | .hgTake n => opEnd u (performHgTake s u a n)
  | .hgPost n => opEnd u (performHgPost s u a n)
  | .hgQuote n => opEnd u (performHgQuote s u a n)
  | .gateSrcClose n => gateCloseStep s u a n
  | .gateSrcOpen n => opEnd u (performGateOpen s u a n)
  | .gateSrcFreeze n => opEnd u (performGate s u a n false)
  | .gateSrcEvict n => opEnd u (performGate s u a n true)
  | _ => none

/-- ENGINE_OPERATION_COMPLETE (R138, R238, R285): a queued operation is performed, or one in flight ends. -/
def execEngineOperationComplete (u : UId) (id : Nat) (s : State) : Answer :=
  runWork "ENGINE_OPERATION_COMPLETE" do
    let a ← opNo s u id
    if a.st = .queued ∨ a.st = .flight ∨ a.st = .parking then performOp s u a else none

/-- Whether an operation waits for room to park its own record (R60), rather than to enqueue one that has waited (R61). -/
def parks (a : Access) : Bool :=
  match a.i with
  | .suspend _ => true
  | .cvIn _ | .xrGet _ _ _ => a.aux == 0
  | _ => false

/-- End the watch on a region that no longer waits for spill area (R357). -/
def endSpillWatch (s : State) (rid : Nat) : State :=
  if s.units.any fun p => p.2.ops.any fun a => a.f.rid == rid && a.st == .spill then s
  else s.modRegion rid fun r => { r with spillSince := none }

/-- Try again an operation that waits for room: none while it still waits. -/
def retryOp (s : State) (u : UId) (a : Access) : Option State := do
  let st := match a.i with | .xrGet _ _ _ => (if a.aux = 0 then AccSt.queued else .parking) | _ => .queued
  let b := { a with st }
  let s := setOp s u b
  let t ← match a.i with
    | .cvIn _ => if a.aux = 0 then performOp s u b else some s
    | _ => performOp s u b
  match opNo t u a.id with
  | some c => if c.st = .spill then none else some (endSpillWatch t a.f.rid)
  | none => some (endSpillWatch t a.f.rid)

/-- PARK_WAIT_END (R60): the first parking operation of a port that waits for room parks its record. -/
def execParkWaitEnd (u : UId) (s : State) : Answer :=
  runWork "PARK_WAIT_END" do
    let a ← (s.unit u).ops.find? fun a => a.st == .spill && parks a
    retryOp s u a

/-- Let the region's oldest spilled record enter a queue with room (R61). -/
def unspill (s : State) (rid : Nat) : Option State := do
  let r ← (s.region rid).spill.head?
  let cl ← dispatcherFor s rid (RecImg.entry r.img)
  if (s.cluster cl).disp.length < queueSize then
    some ((s.modRegion rid fun g => { g with spill := g.spill.drop 1 }).modCluster cl fun c =>
      { c with disp := c.disp ++ [r.inQueue] })
  else none

/-- SPILL_ROOM_FREED (R61): the oldest spilled record enters a queue, or else a stalled `spawn` or a held completion goes
on. -/
def execSpillRoomFreed (rid : Nat) (s : State) : Answer :=
  runWork "SPILL_ROOM_FREED"
    (match unspill s rid with
    | some t => some t
    | none => s.units.findSome? fun p =>
      p.2.ops.findSome? fun a => if a.f.rid = rid ∧ a.st = .spill ∧ !parks a then retryOp s p.1 a else none)

/-- BARRIER_EVENT (R247): a barrier event has reached a cluster, and a watcher of the barrier reads it again. -/
def execBarrierEvent (cl k : Nat) (s : State) : Answer :=
  runWork "BARRIER_EVENT" do
    let u : UId := ⟨cl, .eng, 0⟩
    let w ← (s.unit u).watchers.find? fun w => w.aux == k && w.woken
    let a := { w with aux := 0, woken := false, st := .queued }
    let s := s.modUnit u fun h => { h with watchers := h.watchers.erase w, ops := h.ops ++ [a] }
    some ((performOp s u a).getD s)

/-! ### Steps of memory that a gated cluster delays -/

/-- Whether an access may be performed now: the pool it names belongs to a cluster with power (R389). -/
def poolAwake (s : State) (u : UId) (a : Access) : Bool :=
  match formOf s u.cl (accessAddr a) with
  | some (.pool cl _) => (s.cluster cl).power == .on
  | _ => true

end Sys2Proof.Machine
end

