-- ==== Sys2Proof/Machine/Dispatch.lean ====
section
/-! DEFINITION. One arm for each constructor of `Instr`: each is one call of that instruction's own meaning. -/

namespace Sys2Proof.Machine

open Sys2Proof

/-- The meaning of one instruction or event of the table. -/
def exec (i : Instr) (s : State) : Host.Outcome State Fault Refusal :=
  match i with
  | .add n u sc w => Sys2Proof.Machine.execAdd n u sc w s
  | .sub n u sc w => Sys2Proof.Machine.execSub n u sc w s
  | .mul n u sc w => Sys2Proof.Machine.execMul n u sc w s
  | .mulhi n u w => Sys2Proof.Machine.execMulhi n u w s
  | .div n u sc w => Sys2Proof.Machine.execDiv n u sc w s
  | .rem n u w => Sys2Proof.Machine.execRem n u w s
  | .min n u w => Sys2Proof.Machine.execMin n u w s
  | .max n u w => Sys2Proof.Machine.execMax n u w s
  | .abs n sc w => Sys2Proof.Machine.execAbs n sc w s
  | .neg n sc w => Sys2Proof.Machine.execNeg n sc w s
  | .lea n k => Sys2Proof.Machine.execLea n k s
  | .mov n w => Sys2Proof.Machine.execMov n w s
  | .and n w => Sys2Proof.Machine.execAnd n w s
  | .or n w => Sys2Proof.Machine.execOr n w s
  | .xor n w => Sys2Proof.Machine.execXor n w s
  | .andn n w => Sys2Proof.Machine.execAndn n w s
  | .not n w => Sys2Proof.Machine.execNot n w s
  | .shl n w => Sys2Proof.Machine.execShl n w s
  | .shr n w => Sys2Proof.Machine.execShr n w s
  | .sar n w => Sys2Proof.Machine.execSar n w s
  | .rotl n w => Sys2Proof.Machine.execRotl n w s
  | .clz n w => Sys2Proof.Machine.execClz n w s
  | .popc n w => Sys2Proof.Machine.execPopc n w s
  | .bfx n u w => Sys2Proof.Machine.execBfx n u w s
  | .bfi n w => Sys2Proof.Machine.execBfi n w s
  | .cmp n w k => Sys2Proof.Machine.execCmp n w k s
  | .sel n => Sys2Proof.Machine.execSel n s
  | .faddF32 n f r => Sys2Proof.Machine.execFaddF32 n f r s
  | .fsubF32 n f r => Sys2Proof.Machine.execFsubF32 n f r s
  | .fmulF32 n f r => Sys2Proof.Machine.execFmulF32 n f r s
  | .fmaF32 n f r => Sys2Proof.Machine.execFmaF32 n f r s
  | .fminF32 n nm f => Sys2Proof.Machine.execFminF32 n nm f s
  | .fmaxF32 n nm f => Sys2Proof.Machine.execFmaxF32 n nm f s
  | .fnegF32 n f => Sys2Proof.Machine.execFnegF32 n f s
  | .fabsF32 n f => Sys2Proof.Machine.execFabsF32 n f s
  | .fcmpF32 n k => Sys2Proof.Machine.execFcmpF32 n k s
  | .frcpF32 n f r => Sys2Proof.Machine.execFrcpF32 n f r s
  | .fsqrtF32 n f r => Sys2Proof.Machine.execFsqrtF32 n f r s
  | .fexp2F32 n f r => Sys2Proof.Machine.execFexp2F32 n f r s
  | .flog2F32 n f r => Sys2Proof.Machine.execFlog2F32 n f r s
  | .faddBf16x4 n f r => Sys2Proof.Machine.execFaddBf16x4 n f r s
  | .fsubBf16x4 n f r => Sys2Proof.Machine.execFsubBf16x4 n f r s
  | .fmulBf16x4 n f r => Sys2Proof.Machine.execFmulBf16x4 n f r s
  | .fmaBf16x4 n f r => Sys2Proof.Machine.execFmaBf16x4 n f r s
  | .fminBf16x4 n nm f => Sys2Proof.Machine.execFminBf16x4 n nm f s
  | .fmaxBf16x4 n nm f => Sys2Proof.Machine.execFmaxBf16x4 n nm f s
  | .fnegBf16x4 n f => Sys2Proof.Machine.execFnegBf16x4 n f s
  | .fabsBf16x4 n f => Sys2Proof.Machine.execFabsBf16x4 n f s
  | .fcmpBf16x4 n k => Sys2Proof.Machine.execFcmpBf16x4 n k s
  | .frcpBf16x4 n f r => Sys2Proof.Machine.execFrcpBf16x4 n f r s
  | .fsqrtBf16x4 n f r => Sys2Proof.Machine.execFsqrtBf16x4 n f r s
  | .fexp2Bf16x4 n f r => Sys2Proof.Machine.execFexp2Bf16x4 n f r s
  | .flog2Bf16x4 n f r => Sys2Proof.Machine.execFlog2Bf16x4 n f r s
  | .dotBf16 n f => Sys2Proof.Machine.execDotBf16 n f s
  | .faddE4x8 n f r => Sys2Proof.Machine.execFaddE4x8 n f r s
  | .fsubE4x8 n f r => Sys2Proof.Machine.execFsubE4x8 n f r s
  | .fmulE4x8 n f r => Sys2Proof.Machine.execFmulE4x8 n f r s
  | .fminE4x8 n nm f => Sys2Proof.Machine.execFminE4x8 n nm f s
  | .fmaxE4x8 n nm f => Sys2Proof.Machine.execFmaxE4x8 n nm f s
  | .fcmpE4x8 n k => Sys2Proof.Machine.execFcmpE4x8 n k s
  | .dotE4x8 n f => Sys2Proof.Machine.execDotE4x8 n f s
  | .faddE5x8 n f r => Sys2Proof.Machine.execFaddE5x8 n f r s
  | .fsubE5x8 n f r => Sys2Proof.Machine.execFsubE5x8 n f r s
  | .fmulE5x8 n f r => Sys2Proof.Machine.execFmulE5x8 n f r s
  | .fminE5x8 n nm f => Sys2Proof.Machine.execFminE5x8 n nm f s
  | .fmaxE5x8 n nm f => Sys2Proof.Machine.execFmaxE5x8 n nm f s
  | .fcmpE5x8 n k => Sys2Proof.Machine.execFcmpE5x8 n k s
  | .dotE5x8 n f => Sys2Proof.Machine.execDotE5x8 n f s
  | .cvtI64 n u f r => Sys2Proof.Machine.execCvtI64 n u f r s
  | .cvtI32 n u f r => Sys2Proof.Machine.execCvtI32 n u f r s
  | .cvtI16x4 n u f r => Sys2Proof.Machine.execCvtI16x4 n u f r s
  | .cvtI8x8 n u f r => Sys2Proof.Machine.execCvtI8x8 n u f r s
  | .cvtF32 n u f r => Sys2Proof.Machine.execCvtF32 n u f r s
  | .cvtBf16x4 n u f r => Sys2Proof.Machine.execCvtBf16x4 n u f r s
  | .cvtE4x8 n u f r => Sys2Proof.Machine.execCvtE4x8 n u f r s
  | .cvtE5x8 n u f r => Sys2Proof.Machine.execCvtE5x8 n u f r s
  | .cvtQn4x16 n u f r => Sys2Proof.Machine.execCvtQn4x16 n u f r s
  | .scl n f r => Sys2Proof.Machine.execScl n f r s
  | .uscl n f r => Sys2Proof.Machine.execUscl n f r s
  | .pack n k => Sys2Proof.Machine.execPack n k s
  | .unpk n k => Sys2Proof.Machine.execUnpk n k s
  | .switch n => Sys2Proof.Machine.execSwitch n s
  | .merge n => Sys2Proof.Machine.execMerge n s
  | .dup n => Sys2Proof.Machine.execDup n s
  | .gate n => Sys2Proof.Machine.execGate n s
  | .sink n => Sys2Proof.Machine.execSink n s
  | .fcomp n => Sys2Proof.Machine.execFcomp n s
  | .steer n => Sys2Proof.Machine.execSteer n s
  | .ojoin n => Sys2Proof.Machine.execOjoin n s
  | .talloc n => Sys2Proof.Machine.execTalloc n s
  | .tfree n => Sys2Proof.Machine.execTfree n s
  | .falloc n => Sys2Proof.Machine.execFalloc n s
  | .ffree n => Sys2Proof.Machine.execFfree n s
  | .call n => Sys2Proof.Machine.execCall n s
  | .ret n => Sys2Proof.Machine.execRet n s
  | .fbcast n => Sys2Proof.Machine.execFbcast n s
  | .tagv n => Sys2Proof.Machine.execTagv n s
  | .ldB n x sc => Sys2Proof.Machine.execLdB n x sc s
  | .ldH n x sc => Sys2Proof.Machine.execLdH n x sc s
  | .ldW n x sc => Sys2Proof.Machine.execLdW n x sc s
  | .ldD n p sc => Sys2Proof.Machine.execLdD n p sc s
  | .stB n sc => Sys2Proof.Machine.execStB n sc s
  | .stH n sc => Sys2Proof.Machine.execStH n sc s
  | .stW n sc => Sys2Proof.Machine.execStW n sc s
  | .stD n sc => Sys2Proof.Machine.execStD n sc s
  | .ldAcq n w sc => Sys2Proof.Machine.execLdAcq n w sc s
  | .stRel n w sc => Sys2Proof.Machine.execStRel n w sc s
  | .ldl n sc => Sys2Proof.Machine.execLdl n sc s
  | .stl n sc => Sys2Proof.Machine.execStl n sc s
  | .stlm n sc => Sys2Proof.Machine.execStlm n sc s
  | .ldd n sc => Sys2Proof.Machine.execLdd n sc s
  | .std n sc => Sys2Proof.Machine.execStd n sc s
  | .pf n => Sys2Proof.Machine.execPf n s
  | .aadd n w sc => Sys2Proof.Machine.execAadd n w sc s
  | .aand n w sc => Sys2Proof.Machine.execAand n w sc s
  | .aor n w sc => Sys2Proof.Machine.execAor n w sc s
  | .axor n w sc => Sys2Proof.Machine.execAxor n w sc s
  | .amin n w sc => Sys2Proof.Machine.execAmin n w sc s
  | .amax n w sc => Sys2Proof.Machine.execAmax n w sc s
  | .aswp n w sc => Sys2Proof.Machine.execAswp n w sc s
  | .acas n w sc => Sys2Proof.Machine.execAcas n w sc s
  | .afadd n w sc => Sys2Proof.Machine.execAfadd n w sc s
  | .fencePub n sc => Sys2Proof.Machine.execFencePub n sc s
  | .fenceAcq n sc => Sys2Proof.Machine.execFenceAcq n sc s
  | .strm n sc => Sys2Proof.Machine.execStrm n sc s
  | .vadd n x f r => Sys2Proof.Machine.execVadd n x f r s
  | .vsub n x f r => Sys2Proof.Machine.execVsub n x f r s
  | .vmul n x f r => Sys2Proof.Machine.execVmul n x f r s
  | .vfma n f r => Sys2Proof.Machine.execVfma n f r s
  | .vmin n nm f r => Sys2Proof.Machine.execVmin n nm f r s
  | .vmax n nm f r => Sys2Proof.Machine.execVmax n nm f r s
  | .vabs n x f r => Sys2Proof.Machine.execVabs n x f r s
  | .vneg n x f r => Sys2Proof.Machine.execVneg n x f r s
  | .vexp2 n f r => Sys2Proof.Machine.execVexp2 n f r s
  | .vlog2 n f r => Sys2Proof.Machine.execVlog2 n f r s
  | .vrcp n f r => Sys2Proof.Machine.execVrcp n f r s
  | .vrsqrt n f r => Sys2Proof.Machine.execVrsqrt n f r s
  | .vcmp n k => Sys2Proof.Machine.execVcmp n k s
  | .vsel n m => Sys2Proof.Machine.execVsel n m s
  | .vand n m => Sys2Proof.Machine.execVand n m s
  | .vor n m => Sys2Proof.Machine.execVor n m s
  | .vxor n m => Sys2Proof.Machine.execVxor n m s
  | .vshl n m => Sys2Proof.Machine.execVshl n m s
  | .vshr n u m => Sys2Proof.Machine.execVshr n u m s
  | .vcvt n f r => Sys2Proof.Machine.execVcvt n f r s
  | .vscl n f r => Sys2Proof.Machine.execVscl n f r s
  | .vbcast n m => Sys2Proof.Machine.execVbcast n m s
  | .vext n m => Sys2Proof.Machine.execVext n m s
  | .vperm n m => Sys2Proof.Machine.execVperm n m s
  | .rsum n m => Sys2Proof.Machine.execRsum n m s
  | .rmin n nm x m => Sys2Proof.Machine.execRmin n nm x m s
  | .rmax n nm x m => Sys2Proof.Machine.execRmax n nm x m s
  | .racc n f r => Sys2Proof.Machine.execRacc n f r s
  | .lmClaim n => Sys2Proof.Machine.execLmClaim n s
  | .lmRelease n => Sys2Proof.Machine.execLmRelease n s
  | .lmFill n => Sys2Proof.Machine.execLmFill n s
  | .lmBuild n x => Sys2Proof.Machine.execLmBuild n x s
  | .lmArm n l c => Sys2Proof.Machine.execLmArm n l c s
  | .lmLook n k p => Sys2Proof.Machine.execLmLook n k p s
  | .lmDirect n f => Sys2Proof.Machine.execLmDirect n f s
  | .lmDrain n x sc => Sys2Proof.Machine.execLmDrain n x sc s
  | .lmSpill n sc => Sys2Proof.Machine.execLmSpill n sc s
  | .lmReload n sc => Sys2Proof.Machine.execLmReload n sc s
  | .lmStat n => Sys2Proof.Machine.execLmStat n s
  | .cp n sc => Sys2Proof.Machine.execCp n sc s
  | .nmAdd n sc => Sys2Proof.Machine.execNmAdd n sc s
  | .nmAxpy n sc => Sys2Proof.Machine.execNmAxpy n sc s
  | .nmScl n sc => Sys2Proof.Machine.execNmScl n sc s
  | .nmCvt n sc => Sys2Proof.Machine.execNmCvt n sc s
  | .xrGet n k l => Sys2Proof.Machine.execXrGet n k l s
  | .xrPut n l => Sys2Proof.Machine.execXrPut n l s
  | .xrAmo n w o => Sys2Proof.Machine.execXrAmo n w o s
  | .cvIn n => Sys2Proof.Machine.execCvIn n s
  | .cvOut n => Sys2Proof.Machine.execCvOut n s
  | .cvOpen n x nm => Sys2Proof.Machine.execCvOpen n x nm s
  | .cvClose n x => Sys2Proof.Machine.execCvClose n x s
  | .spawn n => Sys2Proof.Machine.execSpawn n s
  | .suspend n => Sys2Proof.Machine.execSuspend n s
  | .jinit n sc => Sys2Proof.Machine.execJinit n sc s
  | .jarrive n sc => Sys2Proof.Machine.execJarrive n sc s
  | .barArrive n sc => Sys2Proof.Machine.execBarArrive n sc s
  | .barWait n sc => Sys2Proof.Machine.execBarWait n sc s
  | .qPush n sc => Sys2Proof.Machine.execQPush n sc s
  | .qPop n p sc => Sys2Proof.Machine.execQPop n p sc s
  | .launch n sc => Sys2Proof.Machine.execLaunch n sc s
  | .cut n => Sys2Proof.Machine.execCut n s
  | .trap n k => Sys2Proof.Machine.execTrap n k s
  | .brk n => Sys2Proof.Machine.execBrk n s
  | .rdctr n k => Sys2Proof.Machine.execRdctr n k s
  | .csrRd n => Sys2Proof.Machine.execCsrRd n s
  | .csrWr n => Sys2Proof.Machine.execCsrWr n s
  | .publish n => Sys2Proof.Machine.execPublish n s
  | .hgTake n => Sys2Proof.Machine.execHgTake n s
  | .hgPost n => Sys2Proof.Machine.execHgPost n s
  | .hgQuote n => Sys2Proof.Machine.execHgQuote n s
  | .scrubZero n => Sys2Proof.Machine.execScrubZero n s
  | .scrubWait n => Sys2Proof.Machine.execScrubWait n s
  | .gateSrcClose n => Sys2Proof.Machine.execGateSrcClose n s
  | .gateSrcOpen n => Sys2Proof.Machine.execGateSrcOpen n s
  | .gateSrcFreeze n => Sys2Proof.Machine.execGateSrcFreeze n s
  | .gateSrcEvict n => Sys2Proof.Machine.execGateSrcEvict n s
  | .tokenArrival j => Sys2Proof.Machine.execTokenArrival j s
  | .breakpointHalt rid => Sys2Proof.Machine.execBreakpointHalt rid s
  | .reservedFkindFlit cl hdr => Sys2Proof.Machine.execReservedFkindFlit cl hdr s
  | .sluiceDrop j => Sys2Proof.Machine.execSluiceDrop j s
  | .configPacket j => Sys2Proof.Machine.execConfigPacket j s
  | .configSeal j => Sys2Proof.Machine.execConfigSeal j s
  | .configWordUncorrectable u => Sys2Proof.Machine.execConfigWordUncorrectable u s
  | .frameCopyRoomFreed cl => Sys2Proof.Machine.execFrameCopyRoomFreed cl s
  | .lastCopyReleased rid die fr => Sys2Proof.Machine.execLastCopyReleased rid die fr s
  | .recordDispatch cl => Sys2Proof.Machine.execRecordDispatch cl s
  | .parkWaitEnd u => Sys2Proof.Machine.execParkWaitEnd u s
  | .spillRoomFreed rid => Sys2Proof.Machine.execSpillRoomFreed rid s
  | .spillWatchdog rid => Sys2Proof.Machine.execSpillWatchdog rid s
  | .sinkTokenArrival j => Sys2Proof.Machine.execSinkTokenArrival j s
  | .memoryAccessPerformed u id => Sys2Proof.Machine.execMemoryAccessPerformed u id s
  | .unStoreDrainTimeout cl k => Sys2Proof.Machine.execUnStoreDrainTimeout cl k s
  | .readBufferExpiry u line => Sys2Proof.Machine.execReadBufferExpiry u line s
  | .pageWalkComplete u id => Sys2Proof.Machine.execPageWalkComplete u id s
  | .heldAccessWake u id => Sys2Proof.Machine.execHeldAccessWake u id s
  | .migrationWaitEnd u id => Sys2Proof.Machine.execMigrationWaitEnd u id s
  | .sideLogReplay u => Sys2Proof.Machine.execSideLogReplay u s
  | .sideLogWaitEnd u => Sys2Proof.Machine.execSideLogWaitEnd u s
  | .streamLine u sc => Sys2Proof.Machine.execStreamLine u sc s
  | .tileLineArrival j => Sys2Proof.Machine.execTileLineArrival j s
  | .tileDrainEnd cl k => Sys2Proof.Machine.execTileDrainEnd cl k s
  | .fenceDrainComplete u id => Sys2Proof.Machine.execFenceDrainComplete u id s
  | .intervalCommitComplete u id => Sys2Proof.Machine.execIntervalCommitComplete u id s
  | .engineOperationComplete u id => Sys2Proof.Machine.execEngineOperationComplete u id s
  | .cvInComplete u id => Sys2Proof.Machine.execCvInComplete u id s
  | .xrGetReturn u id ans => Sys2Proof.Machine.execXrGetReturn u id ans s
  | .remoteRequestArrival r => Sys2Proof.Machine.execRemoteRequestArrival r s
  | .barrierEvent cl k => Sys2Proof.Machine.execBarrierEvent cl k s
  | .claimClearComplete cl bank => Sys2Proof.Machine.execClaimClearComplete cl bank s
  | .lmBuildComplete cl => Sys2Proof.Machine.execLmBuildComplete cl s
  | .passTileUse cl => Sys2Proof.Machine.execPassTileUse cl s
  | .lmDrainLine cl => Sys2Proof.Machine.execLmDrainLine cl s
  | .grantIdleReturn u => Sys2Proof.Machine.execGrantIdleReturn u s
  | .slotBoundary p => Sys2Proof.Machine.execSlotBoundary p s
  | .forcedPreemption p => Sys2Proof.Machine.execForcedPreemption p s
  | .phaseBoundarySave rid => Sys2Proof.Machine.execPhaseBoundarySave rid s
  | .quiescenceReport rid => Sys2Proof.Machine.execQuiescenceReport rid s
  | .holderChange p => Sys2Proof.Machine.execHolderChange p s
  | .queueNotify p qid => Sys2Proof.Machine.execQueueNotify p qid s
  | .faultRingRoom p => Sys2Proof.Machine.execFaultRingRoom p s
  | .registerWrite p num v => Sys2Proof.Machine.execRegisterWrite p num v s
  | .hgCmdtailWrite fn v => Sys2Proof.Machine.execHgCmdtailWrite fn v s
  | .hgCmdstatRead fn => Sys2Proof.Machine.execHgCmdstatRead fn s
  | .hgRecoveryWrite v len => Sys2Proof.Machine.execHgRecoveryWrite v len s
  | .recoveryFetchDone readError => Sys2Proof.Machine.execRecoveryFetchDone readError s
  | .knDevnumWrite v => Sys2Proof.Machine.execKnDevnumWrite v s
  | .knRouteWrite k v => Sys2Proof.Machine.execKnRouteWrite k v s
  | .hostWindowRead fn off len => Sys2Proof.Machine.execHostWindowRead fn off len s
  | .hostWindowWrite fn off data => Sys2Proof.Machine.execHostWindowWrite fn off data s
  | .partSet c => Sys2Proof.Machine.execPartSet c s
  | .calSet c => Sys2Proof.Machine.execCalSet c s
  | .vdCreate c => Sys2Proof.Machine.execVdCreate c s
  | .vdDestroy c => Sys2Proof.Machine.execVdDestroy c s
  | .ctxCreate c => Sys2Proof.Machine.execCtxCreate c s
  | .codeLoad c => Sys2Proof.Machine.execCodeLoad c s
  | .sched c => Sys2Proof.Machine.execSched c s
  | .launchCmd c => Sys2Proof.Machine.execLaunchCmd c s
  | .pause c => Sys2Proof.Machine.execPause c s
  | .resume c => Sys2Proof.Machine.execResume c s
  | .evict c => Sys2Proof.Machine.execEvict c s
  | .restore c => Sys2Proof.Machine.execRestore c s
  | .teardown c => Sys2Proof.Machine.execTeardown c s
  | .scrubUnitDone p => Sys2Proof.Machine.execScrubUnitDone p s
  | .winOpen c => Sys2Proof.Machine.execWinOpen c s
  | .winClose c => Sys2Proof.Machine.execWinClose c s
  | .attest c => Sys2Proof.Machine.execAttest c s
  | .debugSet c => Sys2Proof.Machine.execDebugSet c s
  | .debugClear c => Sys2Proof.Machine.execDebugClear c s
  | .debugStep c => Sys2Proof.Machine.execDebugStep c s
  | .debugResume c => Sys2Proof.Machine.execDebugResume c s
  | .debugHalt c => Sys2Proof.Machine.execDebugHalt c s
  | .debugRead c => Sys2Proof.Machine.execDebugRead c s
  | .debugRelease c => Sys2Proof.Machine.execDebugRelease c s
  | .power c => Sys2Proof.Machine.execPower c s
  | .unassignedCommand c => Sys2Proof.Machine.execUnassignedCommand c s
  | .clusterPowerGate cl => Sys2Proof.Machine.execClusterPowerGate cl s
  | .clusterWakeStart cl => Sys2Proof.Machine.execClusterWakeStart cl s
  | .clusterWakeEnd cl => Sys2Proof.Machine.execClusterWakeEnd cl s
  | .bankPowerGate cl bank => Sys2Proof.Machine.execBankPowerGate cl bank s
  | .powerGood => Sys2Proof.Machine.execPowerGood s
  | .reset => Sys2Proof.Machine.execReset s
  | .knanoloFlitAuthFailure port => Sys2Proof.Machine.execKnanoloFlitAuthFailure port s
  | .syncMessage t => Sys2Proof.Machine.execSyncMessage t s
  | .timeSyncLoss => Sys2Proof.Machine.execTimeSyncLoss s
  | .driveFailure drive => Sys2Proof.Machine.execDriveFailure drive s
  | .culvertDeletionComplete oid => Sys2Proof.Machine.execCulvertDeletionComplete oid s

end Sys2Proof.Machine
end

