-- ==== Sys2Proof/Machine/Issue.lean ====
section
/-! DEFINITION. The issue of a unit's head firing (R40), the heavy-unit grant that it needs (R31, R332), and the fetch of its
node word (R150). -/

namespace Sys2Proof.Machine

open Sys2Proof

/-- Whether firings of a kind of unit need a grant (R31, R332). -/
def heavy (k : UKind) : Bool := k == .ln || k == .lmu

/-- Whether a unit may issue firings of a region now: the region is active (R57) and neither frozen for a reload (R165) nor
halted but for a step (R386), the partition is not frozen (R352), the unit waits for no room in the fault ring (R351), and
its cluster has power (R389). A firing that may commit the region's interval logs waits while one of their stores goes to a
page that migrates (R147, R149); an element's commits none. -/
def mayIssue (s : State) (u : UId) (rid : Nat) : Bool :=
  let r := s.region rid
  r.st == .active && (!r.halted || r.permits.contains u) && !reloading s rid && !(s.part r.part).frozen
    && !((s.part r.part).faultWait.any fun w => w.1 == some u) && (s.cluster u.cl).power == .on
    && (u.kind == .el || !logging s rid || !logMigrates s rid)

/-- A unit whose head firing needs a grant asks for one: it is granted at once while the region holds fewer than its
grants and none waits, else the unit joins the queue once (R332). What the firing has waited for another region's grant to
leave the unit counts as waiting (R299). -/
def askGrant (s : State) (u : UId) (f : Firing) : Option State :=
  let r := s.region f.rid
  if r.grantQueue.contains u then none
  else if r.grantQueue = [] ∧ grantsOf s f.rid < Rcb.grants r.rcb then
    some (s.modUnit u fun h =>
      { h with grant := some f.rid, grantIdle := s.clock, grantWait := h.grantWait + waitedElse h f })
  else
    some ((s.modRegion f.rid fun r => { r with grantQueue := r.grantQueue ++ [u] }).modUnit u fun h =>
      { h with grantIdle := s.clock - waitedElse h f })

/-- The word of a slot of a unit (R150). -/
def slotWord (s : State) (u : UId) (slot : Nat) : BitVec 32 := (AL.get (0, 0) (s.unit u).words slot).1

/-- Whether the target that an arc entry gives in a cluster can accept a token, or a line (R39, R40, R113, R218): no token
stays on a link to the unit, and no line waits for the tile. Beyond a closed sluice, which drops what reaches it, nothing
holds a token back (R73, R317, R318). -/
def targetAccepts (s : State) (w : BitVec 32) (src cl : Nat) (line : Bool) : Bool :=
  (closedBoundary s src cl).isSome ||
  match ukindOf (Arc.kind w) with
  | some k =>
    let u : UId := ⟨cl, k, Arc.unit w⟩
    (s.unit u).refused.isNone && !(line && buffersFull u (s.unit u))
  | none => Arc.kind w != 5 || !(s.cluster cl).tileIn.any (·.1 = Arc.unit w)

/-- Whether an arc entry of a unit leads where a token, or a line, is accepted. -/
def arcAccepts (s : State) (u : UId) (k : Nat) (line : Bool) : Bool :=
  let w := AL.get 0 (s.unit u).arcs k
  !Arc.valid w || targetAccepts s w u.cl (Arc.target w u.cl) line

/-- The arcs that a firing's word names: those of its destination selects, the mask of a `dup` (R203), and the arc that
the selector of a `steer` numbers (R205). -/
def namedArcs (s : State) (u : UId) (f : Firing) (w : Nat) : List (Nat × Bool) :=
  let op := bits w 31 24
  let mask := (AL.get 0 (s.unit u).lits 13).toNat
  arcSelects w
    ++ (if op = 0x62 then ((List.range 8).filter (bitAt mask)).map fun k => (k, true) else [])
    ++ (if op = 0x66 then
      let (v, _) := peekSrc s ⟨u, f⟩ (Src.ofCode (BitVec.ofNat 4 (bits w 19 16)))
      if v.toNat < 8 then [(v.toNat, true)] else []
    else [])

/-- Whether every destination that a firing's word names can accept a token (R40). A frame slot, the termination sink and
an arc that is not valid always can. -/
def destsAccept (s : State) (u : UId) (f : Firing) (w : Nat) : Bool :=
  let back := (frameAt s f.rid f.tag).retarc
  (namedArcs s u f w).all (fun p => arcAccepts s u p.1 (emitsLine w p.2))
    && ((bits w 11 8 != 9 && (bits w 7 4 != 9 || threeSource (bits w 31 24))) || !Arc.valid back || targetAccepts s back u.cl (Arc.absTarget back) false)

/-- What an attempt to issue comes to: no firing is ready, the head waits, a grant is asked for, the instruction of the
head's slot runs on it, or its word is none. -/
inductive Issuing where
  | nothing
  | waits
  | grant (s : State)
  | runs (i : Instr) (s : State)
  | bad (word : BitVec 32)
deriving DecidableEq, Repr

/-- The state in which a unit's head firing has left its queue and is being issued, with the number of its issue. A firing
issued in a halted region uses up its step (R386); an issue ends the watch for spill area that counts clocks without one
(R357). A withheld `brk` that is let go issues a second time and counts once (R298, R299). -/
def takeHead (s : State) (u : UId) (f : Firing) (rest : List Firing) : State :=
  let n := if f.stage = 0 then 1 else 0
  let s := s.modUnit u fun h => pullReady { h with ready := rest, fired := h.fired + n, grantIdle := s.clock }
  let r := s.region f.rid
  let s := if r.halted || r.spillSince.isSome || !r.spillArmed then
      s.modRegion f.rid fun r =>
        { r with permits := if r.halted then r.permits.erase u else r.permits
                 stepped := if r.halted then (s.issued + 1) :: r.stepped else r.stepped
                 spillArmed := true, spillSince := r.spillSince.map fun _ => s.clock }
    else s
  { s with cur := some ⟨u, { f with seq := s.issued + 1 }⟩, issued := s.issued + 1 }

/-- Try to issue the head firing of a unit (R40). A firing at the head that needs a grant asks for it whatever else it waits
for (R332). -/
def tryIssue (s : State) (u : UId) : Issuing :=
  match (pullReady (s.unit u)).ready with
  | [] => .nothing
  | f :: rest =>
    if heavy u.kind && (s.unit u).grant != some f.rid then
      (if (s.unit u).grant.isSome || (s.region f.rid).st != .active then .waits
      else match askGrant s u f with
        | some t => .grant t
        | none => .waits)
    else if !mayIssue s u f.rid || !destsAccept s u f (slotWord s u f.slot).toNat then .waits
    else
      match decode (slotWord s u f.slot) with
      | .ok i => .runs i (takeHead (s.modUnit u pullReady) u f rest)
      | .error _ => .bad (slotWord s u f.slot)

end Sys2Proof.Machine
end

