-- ==== Sys2Proof/Machine/Movers.lean ====
section
/-! DEFINITION. What the device does of itself: the moves that may be made in a state, the choice among them, and one
attempt at a move. Inputs from outside stand at the head of the agenda. -/

namespace Sys2Proof.Machine

open Sys2Proof

/-! ### Candidates -/

/-- The event an issued access of a memory port waits for. -/
def accessMove (s : State) (u : UId) (a : Access) : List Move :=
  match a.st with
  | .queued | .accepted => if poolAwake s u a then [.event (.memoryAccessPerformed u a.id)] else []
  | .walking => [.event (.pageWalkComplete u a.id)]
  | .held => if a.woken then [.event (.heldAccessWake u a.id)] else []
  | .migrating => if a.woken then [.event (.migrationWaitEnd u a.id)] else []
  | .sideWait => [.event (.sideLogWaitEnd u)]
  | .parking => [.event (.fenceDrainComplete u a.id)]
  | .spill | .flight => []

/-- The events an operation of an engine port may wait for. -/
def opMove (u : UId) (a : Access) : List Move :=
  match a.st with
  | .held => if a.woken then [.event (.heldAccessWake u a.id)] else []
  | .migrating => if a.woken then [.event (.migrationWaitEnd u a.id)] else []
  | .spill => [.event (.parkWaitEnd u), .event (.spillRoomFreed a.f.rid)]
  | .walking | .accepted | .sideWait => []
  | .queued | .flight | .parking =>
    match a.i with
    | .cut _ => [.event (.intervalCommitComplete u a.id)]
    | .cvIn _ => [.event (.cvInComplete u a.id), .event (.engineOperationComplete u a.id)]
    | _ => [.event (.engineOperationComplete u a.id)]

/-- Moves of a unit. -/
def unitMoves (s : State) (p : UId × HwUnit) : List Move :=
  let u := p.1
  let h := p.2
  (if h.ready = [] ∧ h.formed = [] then [] else [.issue u])
    ++ h.access.flatMap (accessMove s u)
    ++ h.ops.flatMap (opMove u)
    ++ (h.streams.map fun x => Move.event (.streamLine u x.1))
    ++ (h.readBuf.map fun e => Move.event (.readBufferExpiry u e.key))
    ++ (if h.sideLog.any (·.woken) then [.event (.sideLogReplay u)] else [])
    ++ (if h.grant.isSome then [.event (.grantIdleReturn u)] else [])
    ++ (h.watchers.filter (·.woken)).map fun w => Move.event (.barrierEvent u.cl w.aux)

/-- Moves of a cluster. -/
def clusterMoves (p : Nat × Cluster) : List Move :=
  let cl := p.1
  let c := p.2
  ((c.writeQ.filter (·.un)).map fun e => Move.event (.unStoreDrainTimeout cl e.id))
    ++ (if c.slotWait = [] then [] else [.event (.frameCopyRoomFreed cl)])
    ++ (if c.disp = [] then [] else [.event (.recordDispatch cl)])
    ++ ((List.filter (fun (t : Nat × Tile) => t.2.st == .draining) c.tiles).map fun (t : Nat × Tile) =>
      Move.event (.tileDrainEnd cl t.1))
    ++ [.event (.claimClearComplete cl 0), .event (.claimClearComplete cl 1)]
    ++ (if c.build.isSome then [.event (.lmBuildComplete cl)] else [])
    ++ (if c.look.isSome then [.event (.passTileUse cl)] else [])
    ++ (if c.drains = [] then [] else [.event (.lmDrainLine cl)])
    ++ (if c.power = .on then [] else [.event (.clusterWakeStart cl), .event (.clusterWakeEnd cl)])

/-- The move of a flit on its way. -/
def netMove (s : State) (i : Nat) (f : Flit) : Move :=
  .event (if f.kind = sinkKind then .sinkTokenArrival i
    else if crosses s f then .sluiceDrop i
    else if f.kind = 5 then .tileLineArrival i
    else .tokenArrival i)

/-- The move of a configuration packet on its way; a sluice that drops one numbers it after the flits. -/
def cfgMove (s : State) (i : Nat) (p : Packet) : Move :=
  .event (if (closedBoundary s (loaderOf s p) p.cl).isSome then .sluiceDrop (s.net.length + i)
    else if Pk.pkind p.line.toNat = 6 then .configSeal i else .configPacket i)

/-- Moves of a region. -/
def regionMoves (rid : Nat) : List Move :=
  [.event (.breakpointHalt rid), .event (.spillRoomFreed rid), .event (.spillWatchdog rid),
   .event (.phaseBoundarySave rid), .event (.quiescenceReport rid), .finish rid]

/-- Moves of a partition. -/
def partMoves (p : Nat) : List Move :=
  [.event (.slotBoundary p), .event (.forcedPreemption p), .event (.holderChange p), .event (.faultRingRoom p),
   .event (.scrubUnitDone p), .postHeld p]

/-- The step that a Headgate command is (Tables 14-3 and 14-12). -/
def execCommand (c : Cmd) (s : State) : Host.Outcome State Fault Refusal :=
  match cmdCode c with
  | 0x01 => execPartSet c s
  | 0x02 => execCalSet c s
  | 0x03 => execVdCreate c s
  | 0x04 => execVdDestroy c s
  | 0x05 => execCtxCreate c s
  | 0x06 => execCodeLoad c s
  | 0x07 => execSched c s
  | 0x08 => execLaunchCmd c s
  | 0x09 => execPause c s
  | 0x0A => execResume c s
  | 0x0B => execEvict c s
  | 0x0C => execRestore c s
  | 0x0D => execTeardown c s
  | 0x0E => execWinOpen c s
  | 0x0F => execWinClose c s
  | 0x10 => execAttest c s
  | 0x12 => execPower c s
  | 0x111 => execDebugSet c s
  | 0x211 => execDebugClear c s
  | 0x311 => execDebugStep c s
  | 0x411 => execDebugResume c s
  | 0x511 => execDebugHalt c s
  | 0x611 => execDebugRead c s
  | 0x711 => execDebugRelease c s
  | _ => execUnassignedCommand c s

/-- The command that a function's rings have for the Headgate: the one being processed, or the next (R370). -/
def commandFor (s : State) (fn : Nat) : Option Cmd :=
  match (fnRegs s fn).pending with
  | some c => some c
  | none => nextCommand s fn

/-- Moves of the Headgate, of flash and of the clock source. -/
def deviceMoves (s : State) : List Move :=
  (s.hg.fns.map fun p => Move.command p.1)
    ++ (s.hg.notifies.map fun q => Move.event (.queueNotify q.1 q.2))
    ++ (if s.hg.booting then [.boot] else [])
    ++ (if bits s.hg.recovery.toNat 11 10 = 2 then [.fetched false, .fetched true] else [])
    ++ ((List.filter (fun (o : Nat × CvObject) => o.2.deleting) s.out.objects).map fun (o : Nat × CvObject) =>
      Move.deleted o.1)
    ++ [.timeLost]

/-- Power gating of one cluster of the device, which the free choice picks, and of its banks (R388, R389). -/
def powerMoves (cl : Nat) : List Move :=
  [.gateCluster cl, .gateBank cl 0, .gateBank cl 1]

/-- Every move that may be possible; `k` picks a cluster for power gating. -/
def candidates (s : State) (k : Nat) : List Move :=
  s.units.flatMap (unitMoves s) ++ s.clusters.flatMap clusterMoves
    ++ s.net.zipIdx.map (fun x => netMove s x.2 x.1) ++ s.cfgNet.zipIdx.map (fun x => cfgMove s x.2 x.1)
    ++ ((List.filter (fun (p : (Nat × Nat × Nat) × Frame) => p.2.st == .returning) s.frames).map
      fun (p : (Nat × Nat × Nat) × Frame) => Move.event (.lastCopyReleased p.1.1 p.1.2.1 p.1.2.2))
    ++ s.regions.flatMap (fun p => regionMoves p.1) ++ s.parts.flatMap (fun p => partMoves p.1)
    ++ deviceMoves s ++ powerMoves (k % 4096)

/-! ### One move -/

/-- Make one move. A firing that cannot issue yet leaves the state as it was, with its unit's queue untouched (R40). -/
def attempt (s : State) (m : Move) : Host.Outcome State Fault Refusal :=
  match m with
  | .event i => exec i s
  | .issue u =>
    match tryIssue s u with
    | .nothing => .fault .nothingReady
    | .waits => .next s
    | .grant t => .next t
    | .bad w => .refused (.undecodable w)
    | .runs i t =>
      match exec i t with
      | .next v => .next (if v.cur.isSome then s else v)
      | o => o
  | .command fn => match commandFor s fn with
    | some c => execCommand c s
    | none => .refused (.notEnabled "a command")
  | .gateCluster cl => execClusterPowerGate cl s
  | .gateBank cl bank => execBankPowerGate cl bank s
  | .boot => execPowerGood s
  | .fetched e => execRecoveryFetchDone e s
  | .deleted oid => execCulvertDeletionComplete oid s
  | .timeLost => execTimeSyncLoss s
  | .finish rid => execFinish rid s
  | .postHeld p => execPostHeld p s
  | .uncorrectable line => execUncorrectable line s
  | .hostStore a l => execHostStore a l s
  | .hostRead fn off => execHostRead fn off s

/-- Whether a move is possible: an event whose meaning takes it, or a head firing that issues or is given a grant. -/
def possible (s : State) (m : Move) : Bool :=
  match m with
  | .issue u =>
    match tryIssue s u with
    | .nothing | .waits => false
    | .grant _ | .bad _ => true
    | .runs i t => match exec i t with | .next v => v.cur.isNone | _ => true
  | m => match attempt s m with | .next _ => true | _ => false

/-- Time passes, less than a slot in one step (logs 2, 13); a UN store that a cluster has held for 4,096 clocks is drained
(R134). -/
def tick (s : State) : State :=
  let t := { s with clock := s.clock + Config.elapsed s.nonce % 9600, nonce := s.nonce + 1 }
  drainWhere t fun _ e => e.un && decide (e.since + 4096 ≤ t.clock)

/-- The ends of streams all of whose lines have been accepted: a stream's context is free, and its completion token leaves,
at once (R232, R309). -/
def streamEnds (s : State) : List Move :=
  s.units.flatMap fun p => (p.2.streams.filter fun x => streamDone s p.1 x.2).map fun x => Move.event (.streamLine p.1 x.1)

/-- A move whose time has come, if there is one: a slot boundary, the forced end of a yield (R322, R323), or the end of a
stream. -/
def dueMove (s : State) : Option Move :=
  (s.parts.flatMap (fun p => [Move.event (.slotBoundary p.1), .event (.forcedPreemption p.1)]) ++ streamEnds s).find? (possible s)

/-- The next move of the device itself: a free choice among those that are possible (log 13). -/
def ownMove (s : State) : Option Move :=
  let ms := (candidates s (Config.choose (2 * s.nonce))).filter (possible s)
  ms[Config.choose (2 * s.nonce + 1) % ms.length]?

/-- One step: an input or a forced move at the head of the agenda, at once; else a move whose time has come; else time
passes and the device makes a move, if any is possible. -/
def nextStep (s : State) : Host.Outcome State Fault Refusal :=
  match s.agenda with
  | m :: l => attempt { s with agenda := l } m
  | [] =>
    match dueMove s with
    | some m => attempt s m
    | none =>
      let t := tick s
      match dueMove t <|> ownMove t with
      | some m => attempt t m
      | none => .next t

end Sys2Proof.Machine
end

