-- ==== Sys2Proof/Machine/Placed.lean ====
section
/-! DEFINITION. A node word placed by hand where the next step issues it: what configuration load, launch and matching do
for a program, done for one firing (log 22). -/

namespace Sys2Proof.Machine

open Sys2Proof

/-- The kind of unit on which an opcode is placed (R22, R168): the kinds are numbered by opcode range, and a system opcode
that may stand anywhere is placed on an element. -/
def placeOf (op : Nat) : UKind :=
  if op < 0x80 then .el
  else if op < 0xA0 then .mp
  else if op < 0xC0 then .ln
  else if op < 0xE0 then .lmu
  else if op < 0xF8 then .eng
  else if op < 0xFB then .el
  else .eng

/-- A token for each side that a firing can consume, of value 0 but for a memory port's or engine port's left side, which
names the first byte of the cluster's scratchpad (R102); `acas` alone has an expected value (R157). -/
def placedFiring (rid op : Nat) : Firing :=
  let zero : Payload := .scal ⟨0, .i64, false⟩
  let left : Payload := if 0x80 ≤ op ∧ (op < 0xA0 ∨ 0xE0 ≤ op) then .scal ⟨0xFC00000000000000, .i64, false⟩ else zero
  ⟨0, rid, 0, some left, some zero, some (.scal ⟨0, .marker, false⟩), if op = 0x97 then some zero else none, 0, 0, 0⟩

/-- A unit whose part is complete, with one word in slot 0 and one firing of it ready. -/
def placedUnit (rid : Nat) (w : BitVec 32) (heavy : Bool) : HwUnit :=
  { HwUnit.empty with
    words := [(0, (w, rid))], complete := true, part := rid
    ready := [placedFiring rid (w.toNat / 2 ^ 24)], grant := if heavy then some rid else none }

/-- An active region of one cluster with one node. -/
def placedRegion (u : UId) : Region := { Region.none with num := 1, st := .active, host := [u.cl], nodes := [(u, 0)] }

/-- Put a node word where the next step issues it: in slot 0 of unit 0 of its kind in cluster 0, in an active region, with
its firing at the head of the ready queue and its issue at the head of the agenda. -/
def placeWord (s : State) (w : BitVec 32) : State :=
  let rid := s.nextId
  let u : UId := ⟨0, placeOf (w.toNat / 2 ^ 24), 0⟩
  { s with
    nextId := rid + 1
    agenda := .issue u :: s.agenda
    units := AL.set s.units u (placedUnit rid w (heavy u.kind))
    regions := AL.set s.regions rid (placedRegion u) }

end Sys2Proof.Machine
end

