-- ==== Sys2Proof/Machine/Step.lean ====
section
/-! DEFINITION. One step of the device. -/

namespace Sys2Proof.Machine

open Sys2Proof

/-- One step (R40; logs 2, 13). -/
def step (s : State) : Host.Outcome State Fault Refusal := nextStep s

/-- The state with an opcode-table word where the next step issues it (log 22). -/
def State.withFetchWord (s : State) (_nbits w : Nat) : State := placeWord s (BitVec.ofNat 32 w)

end Sys2Proof.Machine
end

