-- ==== Sys2Proof/Laws/PerInstr.lean ====
section
/-! SUPPORT. Decoding answers the instruction that a word encodes: one lemma for each constructor (R150 to R181). -/

namespace Sys2Proof.Laws

open Sys2Proof

/-! ### Codes of the select fields -/

theorem src_code (a : Src) : Src.ofCode a.code = a := by
  cases a with
  | fs k => revert k; decide
  | lit k => revert k; decide
  | _ => rfl

theorem dst_code (d : Dst) : Dst.ofCode? d.code = some d := by
  cases d with
  | arc k => revert k; decide
  | _ => rfl

theorem tag_code (t : TagAct) : TagAct.ofCode? t.code = some t := by cases t <;> rfl

/-! ### Words and fields -/

theorem ofWord_toWord (f : Fields) : Fields.ofWord f.toWord = f := by
  cases f
  simp only [Fields.ofWord, Fields.toWord, Fields.mk.injEq]
  refine ⟨?_, ?_, ?_, ?_, ?_, ?_, ?_⟩ <;> ext i hi <;>
    simp only [BitVec.getElem_extractLsb', BitVec.getLsbD_append] <;> rw [← BitVec.getLsbD_eq_getElem] <;>
    repeat' (first | rw [if_neg (by omega)] | rw [if_pos (by omega)])
  all_goals (congr 1; omega)

theorem toWord_modifier (f : Fields) : f.toWord.extractLsb' 0 4 = f.k := congrArg Fields.k (ofWord_toWord f)

theorem two_view2 (op : BitVec 8) (n : Nd) (k : BitVec 4) (mk : Nd → Except LoadStatus Instr) :
    two (view2 op n k) mk = mk n := by
  simp only [two, view2, dst_code, tag_code, src_code]

theorem three_view3 (op : BitVec 8) (n : N3) (k : BitVec 4) (mk : N3 → Except LoadStatus Instr) :
    three (view3 op n k) mk = mk n := by
  simp only [three, view3, dst_code, tag_code, src_code]

theorem view2_op (op : BitVec 8) (n : Nd) (k : BitVec 4) : (view2 op n k).op = op := rfl

theorem view2_k (op : BitVec 8) (n : Nd) (k : BitVec 4) : (view2 op n k).k = k := rfl

theorem view3_op (op : BitVec 8) (n : N3) (k : BitVec 4) : (view3 op n k).op = op := rfl

theorem view3_k (op : BitVec 8) (n : N3) (k : BitVec 4) : (view3 op n k).k = k := rfl

/-- A word decodes to its instruction where the row of its fields reads it and nothing refuses it. -/
theorem decode_of_row {i : Instr} {f : Fields} (h : i.fields = some f) (hr : rowOf f = .ok i) (hc : i.check = none) :
    decode f.toWord = .ok i := by
  simp only [decode, ofWord_toWord, hr, h, toWord_modifier, hc, ne_eq, not_true_eq_false, if_false]

namespace Encoding

/-- The word of a well-formed instruction decodes to it (R150, R166, R181). -/
def Statement (i : Instr) : Prop := ∀ w, i.WellFormed → encode i = some w → decode w = .ok i

theorem of_row {i : Instr} {f : Fields} (h : i.fields = some f) (hr : rowOf f = .ok i) : Statement i := by
  intro w hc hw
  simp only [encode, h, Option.map_some, Option.some.injEq] at hw
  subst hw
  exact decode_of_row h hr hc

theorem of_none {i : Instr} (h : i.fields = none) : Statement i := by
  intro w _ hw
  simp [encode, h] at hw

theorem add (n : Nd) (u : Bool) (s : Bool) (w : Width) : Statement (.add n u s w) := by
  refine of_row rfl ?_
  simp only [rowOf, view2_op, BitVec.toNat_ofNat, Nat.reducePow, Nat.reduceMod, Nat.reduceDiv, row0, two_view2, view2_k]
  cases u <;> cases s <;> cases w <;> rfl

theorem sub (n : Nd) (u : Bool) (s : Bool) (w : Width) : Statement (.sub n u s w) := by
  refine of_row rfl ?_
  simp only [rowOf, view2_op, BitVec.toNat_ofNat, Nat.reducePow, Nat.reduceMod, Nat.reduceDiv, row0, two_view2, view2_k]
  cases u <;> cases s <;> cases w <;> rfl

theorem mul (n : Nd) (u : Bool) (s : Bool) (w : Width) : Statement (.mul n u s w) := by
  refine of_row rfl ?_
  simp only [rowOf, view2_op, BitVec.toNat_ofNat, Nat.reducePow, Nat.reduceMod, Nat.reduceDiv, row0, two_view2, view2_k]
  cases u <;> cases s <;> cases w <;> rfl

theorem mulhi (n : Nd) (u : Bool) (w : Width) : Statement (.mulhi n u w) := by
  refine of_row rfl ?_
  simp only [rowOf, view2_op, BitVec.toNat_ofNat, Nat.reducePow, Nat.reduceMod, Nat.reduceDiv, row0, two_view2, view2_k]
  cases u <;> cases w <;> rfl

theorem div (n : Nd) (u : Bool) (s : Bool) (w : Width) : Statement (.div n u s w) := by
  refine of_row rfl ?_
  simp only [rowOf, view2_op, BitVec.toNat_ofNat, Nat.reducePow, Nat.reduceMod, Nat.reduceDiv, row0, two_view2, view2_k]
  cases u <;> cases s <;> cases w <;> rfl

theorem rem (n : Nd) (u : Bool) (w : Width) : Statement (.rem n u w) := by
  refine of_row rfl ?_
  simp only [rowOf, view2_op, BitVec.toNat_ofNat, Nat.reducePow, Nat.reduceMod, Nat.reduceDiv, row0, two_view2, view2_k]
  cases u <;> cases w <;> rfl

theorem min (n : Nd) (u : Bool) (w : Width) : Statement (.min n u w) := by
  refine of_row rfl ?_
  simp only [rowOf, view2_op, BitVec.toNat_ofNat, Nat.reducePow, Nat.reduceMod, Nat.reduceDiv, row0, two_view2, view2_k]
  cases u <;> cases w <;> rfl

theorem max (n : Nd) (u : Bool) (w : Width) : Statement (.max n u w) := by
  refine of_row rfl ?_
  simp only [rowOf, view2_op, BitVec.toNat_ofNat, Nat.reducePow, Nat.reduceMod, Nat.reduceDiv, row0, two_view2, view2_k]
  cases u <;> cases w <;> rfl

theorem abs (n : Nd) (s : Bool) (w : Width) : Statement (.abs n s w) := by
  refine of_row rfl ?_
  simp only [rowOf, view2_op, BitVec.toNat_ofNat, Nat.reducePow, Nat.reduceMod, Nat.reduceDiv, row0, two_view2, view2_k]
  cases s <;> cases w <;> rfl

theorem neg (n : Nd) (s : Bool) (w : Width) : Statement (.neg n s w) := by
  refine of_row rfl ?_
  simp only [rowOf, view2_op, BitVec.toNat_ofNat, Nat.reducePow, Nat.reduceMod, Nat.reduceDiv, row0, two_view2, view2_k]
  cases s <;> cases w <;> rfl

theorem lea (n : Nd) (k : BitVec 2) : Statement (.lea n k) := by
  refine of_row rfl ?_
  simp only [rowOf, view2_op, BitVec.toNat_ofNat, Nat.reducePow, Nat.reduceMod, Nat.reduceDiv, row0, two_view2, view2_k]
  have h : ∀ k : BitVec 2, (bn k 0).extractLsb' 0 2 = k := by decide
  simp only [h]

theorem mov (n : Nd) (w : Width) : Statement (.mov n w) := by
  refine of_row rfl ?_
  simp only [rowOf, view2_op, BitVec.toNat_ofNat, Nat.reducePow, Nat.reduceMod, Nat.reduceDiv, row0, two_view2, view2_k]
  cases w <;> rfl

theorem and (n : Nd) (w : Width) : Statement (.and n w) := by
  refine of_row rfl ?_
  simp only [rowOf, view2_op, BitVec.toNat_ofNat, Nat.reducePow, Nat.reduceMod, Nat.reduceDiv, row1, two_view2, view2_k]
  cases w <;> rfl

theorem or (n : Nd) (w : Width) : Statement (.or n w) := by
  refine of_row rfl ?_
  simp only [rowOf, view2_op, BitVec.toNat_ofNat, Nat.reducePow, Nat.reduceMod, Nat.reduceDiv, row1, two_view2, view2_k]
  cases w <;> rfl

theorem xor (n : Nd) (w : Width) : Statement (.xor n w) := by
  refine of_row rfl ?_
  simp only [rowOf, view2_op, BitVec.toNat_ofNat, Nat.reducePow, Nat.reduceMod, Nat.reduceDiv, row1, two_view2, view2_k]
  cases w <;> rfl

theorem andn (n : Nd) (w : Width) : Statement (.andn n w) := by
  refine of_row rfl ?_
  simp only [rowOf, view2_op, BitVec.toNat_ofNat, Nat.reducePow, Nat.reduceMod, Nat.reduceDiv, row1, two_view2, view2_k]
  cases w <;> rfl

theorem not (n : Nd) (w : Width) : Statement (.not n w) := by
  refine of_row rfl ?_
  simp only [rowOf, view2_op, BitVec.toNat_ofNat, Nat.reducePow, Nat.reduceMod, Nat.reduceDiv, row1, two_view2, view2_k]
  cases w <;> rfl

theorem shl (n : Nd) (w : Width) : Statement (.shl n w) := by
  refine of_row rfl ?_
  simp only [rowOf, view2_op, BitVec.toNat_ofNat, Nat.reducePow, Nat.reduceMod, Nat.reduceDiv, row1, two_view2, view2_k]
  cases w <;> rfl

theorem shr (n : Nd) (w : Width) : Statement (.shr n w) := by
  refine of_row rfl ?_
  simp only [rowOf, view2_op, BitVec.toNat_ofNat, Nat.reducePow, Nat.reduceMod, Nat.reduceDiv, row1, two_view2, view2_k]
  cases w <;> rfl

theorem sar (n : Nd) (w : Width) : Statement (.sar n w) := by
  refine of_row rfl ?_
  simp only [rowOf, view2_op, BitVec.toNat_ofNat, Nat.reducePow, Nat.reduceMod, Nat.reduceDiv, row1, two_view2, view2_k]
  cases w <;> rfl

theorem rotl (n : Nd) (w : Width) : Statement (.rotl n w) := by
  refine of_row rfl ?_
  simp only [rowOf, view2_op, BitVec.toNat_ofNat, Nat.reducePow, Nat.reduceMod, Nat.reduceDiv, row1, two_view2, view2_k]
  cases w <;> rfl

theorem clz (n : Nd) (w : Width) : Statement (.clz n w) := by
  refine of_row rfl ?_
  simp only [rowOf, view2_op, BitVec.toNat_ofNat, Nat.reducePow, Nat.reduceMod, Nat.reduceDiv, row1, two_view2, view2_k]
  cases w <;> rfl

theorem popc (n : Nd) (w : Width) : Statement (.popc n w) := by
  refine of_row rfl ?_
  simp only [rowOf, view2_op, BitVec.toNat_ofNat, Nat.reducePow, Nat.reduceMod, Nat.reduceDiv, row1, two_view2, view2_k]
  cases w <;> rfl

theorem bfx (n : Nd) (u : Bool) (w : Bool) : Statement (.bfx n u w) := by
  refine of_row rfl ?_
  simp only [rowOf, view2_op, BitVec.toNat_ofNat, Nat.reducePow, Nat.reduceMod, Nat.reduceDiv, row1, two_view2, view2_k]
  cases u <;> cases w <;> rfl

theorem bfi (n : N3) (w : Bool) : Statement (.bfi n w) := by
  refine of_row rfl ?_
  simp only [rowOf, view3_op, BitVec.toNat_ofNat, Nat.reducePow, Nat.reduceMod, Nat.reduceDiv, row1, three_view3, view3_k]
  cases w <;> rfl

theorem cmp (n : Nd) (w : Bool) (k : Cond) : Statement (.cmp n w k) := by
  refine of_row rfl ?_
  simp only [rowOf, view2_op, BitVec.toNat_ofNat, Nat.reducePow, Nat.reduceMod, Nat.reduceDiv, row1, two_view2, view2_k]
  cases w <;> cases k <;> rfl

theorem sel (n : N3) : Statement (.sel n) := by
  refine of_row rfl ?_
  simp only [rowOf, view3_op, BitVec.toNat_ofNat, Nat.reducePow, Nat.reduceMod, Nat.reduceDiv, row1, three_view3]

theorem faddF32 (n : Nd) (f : Bool) (r : Rnd) : Statement (.faddF32 n f r) := by
  refine of_row rfl ?_
  simp only [rowOf, view2_op, BitVec.toNat_ofNat, Nat.reducePow, Nat.reduceMod, Nat.reduceDiv, row2, two_view2, view2_k]
  cases f <;> cases r <;> rfl

theorem fsubF32 (n : Nd) (f : Bool) (r : Rnd) : Statement (.fsubF32 n f r) := by
  refine of_row rfl ?_
  simp only [rowOf, view2_op, BitVec.toNat_ofNat, Nat.reducePow, Nat.reduceMod, Nat.reduceDiv, row2, two_view2, view2_k]
  cases f <;> cases r <;> rfl

theorem fmulF32 (n : Nd) (f : Bool) (r : Rnd) : Statement (.fmulF32 n f r) := by
  refine of_row rfl ?_
  simp only [rowOf, view2_op, BitVec.toNat_ofNat, Nat.reducePow, Nat.reduceMod, Nat.reduceDiv, row2, two_view2, view2_k]
  cases f <;> cases r <;> rfl

theorem fmaF32 (n : N3) (f : Bool) (r : Rnd) : Statement (.fmaF32 n f r) := by
  refine of_row rfl ?_
  simp only [rowOf, view3_op, BitVec.toNat_ofNat, Nat.reducePow, Nat.reduceMod, Nat.reduceDiv, row2, three_view3, view3_k]
  cases f <;> cases r <;> rfl

theorem fminF32 (n : Nd) (nm : Bool) (f : Bool) : Statement (.fminF32 n nm f) := by
  refine of_row rfl ?_
  simp only [rowOf, view2_op, BitVec.toNat_ofNat, Nat.reducePow, Nat.reduceMod, Nat.reduceDiv, row2, two_view2, view2_k]
  cases nm <;> cases f <;> rfl

theorem fmaxF32 (n : Nd) (nm : Bool) (f : Bool) : Statement (.fmaxF32 n nm f) := by
  refine of_row rfl ?_
  simp only [rowOf, view2_op, BitVec.toNat_ofNat, Nat.reducePow, Nat.reduceMod, Nat.reduceDiv, row2, two_view2, view2_k]
  cases nm <;> cases f <;> rfl

theorem fnegF32 (n : Nd) (f : Bool) : Statement (.fnegF32 n f) := by
  refine of_row rfl ?_
  simp only [rowOf, view2_op, BitVec.toNat_ofNat, Nat.reducePow, Nat.reduceMod, Nat.reduceDiv, row2, two_view2, view2_k]
  cases f <;> rfl

theorem fabsF32 (n : Nd) (f : Bool) : Statement (.fabsF32 n f) := by
  refine of_row rfl ?_
  simp only [rowOf, view2_op, BitVec.toNat_ofNat, Nat.reducePow, Nat.reduceMod, Nat.reduceDiv, row2, two_view2, view2_k]
  cases f <;> rfl

theorem fcmpF32 (n : Nd) (k : Cond) : Statement (.fcmpF32 n k) := by
  refine of_row rfl ?_
  simp only [rowOf, view2_op, BitVec.toNat_ofNat, Nat.reducePow, Nat.reduceMod, Nat.reduceDiv, row2, two_view2, view2_k]
  cases k <;> rfl

theorem frcpF32 (n : Nd) (f : Bool) (r : Rnd) : Statement (.frcpF32 n f r) := by
  refine of_row rfl ?_
  simp only [rowOf, view2_op, BitVec.toNat_ofNat, Nat.reducePow, Nat.reduceMod, Nat.reduceDiv, row2, two_view2, view2_k]
  cases f <;> cases r <;> rfl

theorem fsqrtF32 (n : Nd) (f : Bool) (r : Rnd) : Statement (.fsqrtF32 n f r) := by
  refine of_row rfl ?_
  simp only [rowOf, view2_op, BitVec.toNat_ofNat, Nat.reducePow, Nat.reduceMod, Nat.reduceDiv, row2, two_view2, view2_k]
  cases f <;> cases r <;> rfl

theorem fexp2F32 (n : Nd) (f : Bool) (r : Rnd) : Statement (.fexp2F32 n f r) := by
  refine of_row rfl ?_
  simp only [rowOf, view2_op, BitVec.toNat_ofNat, Nat.reducePow, Nat.reduceMod, Nat.reduceDiv, row2, two_view2, view2_k]
  cases f <;> cases r <;> rfl

theorem flog2F32 (n : Nd) (f : Bool) (r : Rnd) : Statement (.flog2F32 n f r) := by
  refine of_row rfl ?_
  simp only [rowOf, view2_op, BitVec.toNat_ofNat, Nat.reducePow, Nat.reduceMod, Nat.reduceDiv, row2, two_view2, view2_k]
  cases f <;> cases r <;> rfl

theorem faddBf16x4 (n : Nd) (f : Bool) (r : Rnd) : Statement (.faddBf16x4 n f r) := by
  refine of_row rfl ?_
  simp only [rowOf, view2_op, BitVec.toNat_ofNat, Nat.reducePow, Nat.reduceMod, Nat.reduceDiv, row3, two_view2, view2_k]
  cases f <;> cases r <;> rfl

theorem fsubBf16x4 (n : Nd) (f : Bool) (r : Rnd) : Statement (.fsubBf16x4 n f r) := by
  refine of_row rfl ?_
  simp only [rowOf, view2_op, BitVec.toNat_ofNat, Nat.reducePow, Nat.reduceMod, Nat.reduceDiv, row3, two_view2, view2_k]
  cases f <;> cases r <;> rfl

theorem fmulBf16x4 (n : Nd) (f : Bool) (r : Rnd) : Statement (.fmulBf16x4 n f r) := by
  refine of_row rfl ?_
  simp only [rowOf, view2_op, BitVec.toNat_ofNat, Nat.reducePow, Nat.reduceMod, Nat.reduceDiv, row3, two_view2, view2_k]
  cases f <;> cases r <;> rfl

theorem fmaBf16x4 (n : N3) (f : Bool) (r : Rnd) : Statement (.fmaBf16x4 n f r) := by
  refine of_row rfl ?_
  simp only [rowOf, view3_op, BitVec.toNat_ofNat, Nat.reducePow, Nat.reduceMod, Nat.reduceDiv, row3, three_view3, view3_k]
  cases f <;> cases r <;> rfl

theorem fminBf16x4 (n : Nd) (nm : Bool) (f : Bool) : Statement (.fminBf16x4 n nm f) := by
  refine of_row rfl ?_
  simp only [rowOf, view2_op, BitVec.toNat_ofNat, Nat.reducePow, Nat.reduceMod, Nat.reduceDiv, row3, two_view2, view2_k]
  cases nm <;> cases f <;> rfl

theorem fmaxBf16x4 (n : Nd) (nm : Bool) (f : Bool) : Statement (.fmaxBf16x4 n nm f) := by
  refine of_row rfl ?_
  simp only [rowOf, view2_op, BitVec.toNat_ofNat, Nat.reducePow, Nat.reduceMod, Nat.reduceDiv, row3, two_view2, view2_k]
  cases nm <;> cases f <;> rfl

theorem fnegBf16x4 (n : Nd) (f : Bool) : Statement (.fnegBf16x4 n f) := by
  refine of_row rfl ?_
  simp only [rowOf, view2_op, BitVec.toNat_ofNat, Nat.reducePow, Nat.reduceMod, Nat.reduceDiv, row3, two_view2, view2_k]
  cases f <;> rfl

theorem fabsBf16x4 (n : Nd) (f : Bool) : Statement (.fabsBf16x4 n f) := by
  refine of_row rfl ?_
  simp only [rowOf, view2_op, BitVec.toNat_ofNat, Nat.reducePow, Nat.reduceMod, Nat.reduceDiv, row3, two_view2, view2_k]
  cases f <;> rfl

theorem fcmpBf16x4 (n : Nd) (k : Cond) : Statement (.fcmpBf16x4 n k) := by
  refine of_row rfl ?_
  simp only [rowOf, view2_op, BitVec.toNat_ofNat, Nat.reducePow, Nat.reduceMod, Nat.reduceDiv, row3, two_view2, view2_k]
  cases k <;> rfl

theorem frcpBf16x4 (n : Nd) (f : Bool) (r : Rnd) : Statement (.frcpBf16x4 n f r) := by
  refine of_row rfl ?_
  simp only [rowOf, view2_op, BitVec.toNat_ofNat, Nat.reducePow, Nat.reduceMod, Nat.reduceDiv, row3, two_view2, view2_k]
  cases f <;> cases r <;> rfl

theorem fsqrtBf16x4 (n : Nd) (f : Bool) (r : Rnd) : Statement (.fsqrtBf16x4 n f r) := by
  refine of_row rfl ?_
  simp only [rowOf, view2_op, BitVec.toNat_ofNat, Nat.reducePow, Nat.reduceMod, Nat.reduceDiv, row3, two_view2, view2_k]
  cases f <;> cases r <;> rfl

theorem fexp2Bf16x4 (n : Nd) (f : Bool) (r : Rnd) : Statement (.fexp2Bf16x4 n f r) := by
  refine of_row rfl ?_
  simp only [rowOf, view2_op, BitVec.toNat_ofNat, Nat.reducePow, Nat.reduceMod, Nat.reduceDiv, row3, two_view2, view2_k]
  cases f <;> cases r <;> rfl

theorem flog2Bf16x4 (n : Nd) (f : Bool) (r : Rnd) : Statement (.flog2Bf16x4 n f r) := by
  refine of_row rfl ?_
  simp only [rowOf, view2_op, BitVec.toNat_ofNat, Nat.reducePow, Nat.reduceMod, Nat.reduceDiv, row3, two_view2, view2_k]
  cases f <;> cases r <;> rfl

theorem dotBf16 (n : N3) (f : Bool) : Statement (.dotBf16 n f) := by
  refine of_row rfl ?_
  simp only [rowOf, view3_op, BitVec.toNat_ofNat, Nat.reducePow, Nat.reduceMod, Nat.reduceDiv, row3, three_view3, view3_k]
  cases f <;> rfl

theorem faddE4x8 (n : Nd) (f : Bool) (r : Rnd) : Statement (.faddE4x8 n f r) := by
  refine of_row rfl ?_
  simp only [rowOf, view2_op, BitVec.toNat_ofNat, Nat.reducePow, Nat.reduceMod, Nat.reduceDiv, row4, two_view2, view2_k]
  cases f <;> cases r <;> rfl

theorem fsubE4x8 (n : Nd) (f : Bool) (r : Rnd) : Statement (.fsubE4x8 n f r) := by
  refine of_row rfl ?_
  simp only [rowOf, view2_op, BitVec.toNat_ofNat, Nat.reducePow, Nat.reduceMod, Nat.reduceDiv, row4, two_view2, view2_k]
  cases f <;> cases r <;> rfl

theorem fmulE4x8 (n : Nd) (f : Bool) (r : Rnd) : Statement (.fmulE4x8 n f r) := by
  refine of_row rfl ?_
  simp only [rowOf, view2_op, BitVec.toNat_ofNat, Nat.reducePow, Nat.reduceMod, Nat.reduceDiv, row4, two_view2, view2_k]
  cases f <;> cases r <;> rfl

theorem fminE4x8 (n : Nd) (nm : Bool) (f : Bool) : Statement (.fminE4x8 n nm f) := by
  refine of_row rfl ?_
  simp only [rowOf, view2_op, BitVec.toNat_ofNat, Nat.reducePow, Nat.reduceMod, Nat.reduceDiv, row4, two_view2, view2_k]
  cases nm <;> cases f <;> rfl

theorem fmaxE4x8 (n : Nd) (nm : Bool) (f : Bool) : Statement (.fmaxE4x8 n nm f) := by
  refine of_row rfl ?_
  simp only [rowOf, view2_op, BitVec.toNat_ofNat, Nat.reducePow, Nat.reduceMod, Nat.reduceDiv, row4, two_view2, view2_k]
  cases nm <;> cases f <;> rfl

theorem fcmpE4x8 (n : Nd) (k : Cond) : Statement (.fcmpE4x8 n k) := by
  refine of_row rfl ?_
  simp only [rowOf, view2_op, BitVec.toNat_ofNat, Nat.reducePow, Nat.reduceMod, Nat.reduceDiv, row4, two_view2, view2_k]
  cases k <;> rfl

theorem dotE4x8 (n : N3) (f : Bool) : Statement (.dotE4x8 n f) := by
  refine of_row rfl ?_
  simp only [rowOf, view3_op, BitVec.toNat_ofNat, Nat.reducePow, Nat.reduceMod, Nat.reduceDiv, row4, three_view3, view3_k]
  cases f <;> rfl

theorem faddE5x8 (n : Nd) (f : Bool) (r : Rnd) : Statement (.faddE5x8 n f r) := by
  refine of_row rfl ?_
  simp only [rowOf, view2_op, BitVec.toNat_ofNat, Nat.reducePow, Nat.reduceMod, Nat.reduceDiv, row4, two_view2, view2_k]
  cases f <;> cases r <;> rfl

theorem fsubE5x8 (n : Nd) (f : Bool) (r : Rnd) : Statement (.fsubE5x8 n f r) := by
  refine of_row rfl ?_
  simp only [rowOf, view2_op, BitVec.toNat_ofNat, Nat.reducePow, Nat.reduceMod, Nat.reduceDiv, row4, two_view2, view2_k]
  cases f <;> cases r <;> rfl

theorem fmulE5x8 (n : Nd) (f : Bool) (r : Rnd) : Statement (.fmulE5x8 n f r) := by
  refine of_row rfl ?_
  simp only [rowOf, view2_op, BitVec.toNat_ofNat, Nat.reducePow, Nat.reduceMod, Nat.reduceDiv, row4, two_view2, view2_k]
  cases f <;> cases r <;> rfl

theorem fminE5x8 (n : Nd) (nm : Bool) (f : Bool) : Statement (.fminE5x8 n nm f) := by
  refine of_row rfl ?_
  simp only [rowOf, view2_op, BitVec.toNat_ofNat, Nat.reducePow, Nat.reduceMod, Nat.reduceDiv, row4, two_view2, view2_k]
  cases nm <;> cases f <;> rfl

theorem fmaxE5x8 (n : Nd) (nm : Bool) (f : Bool) : Statement (.fmaxE5x8 n nm f) := by
  refine of_row rfl ?_
  simp only [rowOf, view2_op, BitVec.toNat_ofNat, Nat.reducePow, Nat.reduceMod, Nat.reduceDiv, row4, two_view2, view2_k]
  cases nm <;> cases f <;> rfl

theorem fcmpE5x8 (n : Nd) (k : Cond) : Statement (.fcmpE5x8 n k) := by
  refine of_row rfl ?_
  simp only [rowOf, view2_op, BitVec.toNat_ofNat, Nat.reducePow, Nat.reduceMod, Nat.reduceDiv, row4, two_view2, view2_k]
  cases k <;> rfl

theorem dotE5x8 (n : N3) (f : Bool) : Statement (.dotE5x8 n f) := by
  refine of_row rfl ?_
  simp only [rowOf, view3_op, BitVec.toNat_ofNat, Nat.reducePow, Nat.reduceMod, Nat.reduceDiv, row4, three_view3, view3_k]
  cases f <;> rfl

theorem cvtI64 (n : Nd) (u : Bool) (f : Bool) (r : Rnd) : Statement (.cvtI64 n u f r) := by
  refine of_row rfl ?_
  simp only [rowOf, view2_op, BitVec.toNat_ofNat, Nat.reducePow, Nat.reduceMod, Nat.reduceDiv, row5, two_view2, view2_k]
  cases u <;> cases f <;> cases r <;> rfl

theorem cvtI32 (n : Nd) (u : Bool) (f : Bool) (r : Rnd) : Statement (.cvtI32 n u f r) := by
  refine of_row rfl ?_
  simp only [rowOf, view2_op, BitVec.toNat_ofNat, Nat.reducePow, Nat.reduceMod, Nat.reduceDiv, row5, two_view2, view2_k]
  cases u <;> cases f <;> cases r <;> rfl

theorem cvtI16x4 (n : Nd) (u : Bool) (f : Bool) (r : Rnd) : Statement (.cvtI16x4 n u f r) := by
  refine of_row rfl ?_
  simp only [rowOf, view2_op, BitVec.toNat_ofNat, Nat.reducePow, Nat.reduceMod, Nat.reduceDiv, row5, two_view2, view2_k]
  cases u <;> cases f <;> cases r <;> rfl

theorem cvtI8x8 (n : Nd) (u : Bool) (f : Bool) (r : Rnd) : Statement (.cvtI8x8 n u f r) := by
  refine of_row rfl ?_
  simp only [rowOf, view2_op, BitVec.toNat_ofNat, Nat.reducePow, Nat.reduceMod, Nat.reduceDiv, row5, two_view2, view2_k]
  cases u <;> cases f <;> cases r <;> rfl

theorem cvtF32 (n : Nd) (u : Bool) (f : Bool) (r : Rnd) : Statement (.cvtF32 n u f r) := by
  refine of_row rfl ?_
  simp only [rowOf, view2_op, BitVec.toNat_ofNat, Nat.reducePow, Nat.reduceMod, Nat.reduceDiv, row5, two_view2, view2_k]
  cases u <;> cases f <;> cases r <;> rfl

theorem cvtBf16x4 (n : Nd) (u : Bool) (f : Bool) (r : Rnd) : Statement (.cvtBf16x4 n u f r) := by
  refine of_row rfl ?_
  simp only [rowOf, view2_op, BitVec.toNat_ofNat, Nat.reducePow, Nat.reduceMod, Nat.reduceDiv, row5, two_view2, view2_k]
  cases u <;> cases f <;> cases r <;> rfl

theorem cvtE4x8 (n : Nd) (u : Bool) (f : Bool) (r : Rnd) : Statement (.cvtE4x8 n u f r) := by
  refine of_row rfl ?_
  simp only [rowOf, view2_op, BitVec.toNat_ofNat, Nat.reducePow, Nat.reduceMod, Nat.reduceDiv, row5, two_view2, view2_k]
  cases u <;> cases f <;> cases r <;> rfl

theorem cvtE5x8 (n : Nd) (u : Bool) (f : Bool) (r : Rnd) : Statement (.cvtE5x8 n u f r) := by
  refine of_row rfl ?_
  simp only [rowOf, view2_op, BitVec.toNat_ofNat, Nat.reducePow, Nat.reduceMod, Nat.reduceDiv, row5, two_view2, view2_k]
  cases u <;> cases f <;> cases r <;> rfl

theorem cvtQn4x16 (n : Nd) (u : Bool) (f : Bool) (r : Rnd) : Statement (.cvtQn4x16 n u f r) := by
  refine of_row rfl ?_
  simp only [rowOf, view2_op, BitVec.toNat_ofNat, Nat.reducePow, Nat.reduceMod, Nat.reduceDiv, row5, two_view2, view2_k]
  cases u <;> cases f <;> cases r <;> rfl

theorem scl (n : Nd) (f : Bool) (r : Rnd) : Statement (.scl n f r) := by
  refine of_row rfl ?_
  simp only [rowOf, view2_op, BitVec.toNat_ofNat, Nat.reducePow, Nat.reduceMod, Nat.reduceDiv, row5, two_view2, view2_k]
  cases f <;> cases r <;> rfl

theorem uscl (n : Nd) (f : Bool) (r : Rnd) : Statement (.uscl n f r) := by
  refine of_row rfl ?_
  simp only [rowOf, view2_op, BitVec.toNat_ofNat, Nat.reducePow, Nat.reduceMod, Nat.reduceDiv, row5, two_view2, view2_k]
  cases f <;> cases r <;> rfl

theorem pack (n : Nd) (k : BitVec 4) : Statement (.pack n k) := by
  refine of_row rfl ?_
  simp only [rowOf, view2_op, BitVec.toNat_ofNat, Nat.reducePow, Nat.reduceMod, Nat.reduceDiv, row5, two_view2, view2_k]
  have h : ∀ k : BitVec 4, (bn k 0).extractLsb' 0 4 = k := by decide
  simp only [h]

theorem unpk (n : Nd) (k : BitVec 4) : Statement (.unpk n k) := by
  refine of_row rfl ?_
  simp only [rowOf, view2_op, BitVec.toNat_ofNat, Nat.reducePow, Nat.reduceMod, Nat.reduceDiv, row5, two_view2, view2_k]
  have h : ∀ k : BitVec 4, (bn k 0).extractLsb' 0 4 = k := by decide
  simp only [h]

theorem switch (n : Nd) : Statement (.switch n) := by
  refine of_row rfl ?_
  simp only [rowOf, view2_op, BitVec.toNat_ofNat, Nat.reducePow, Nat.reduceMod, Nat.reduceDiv, row6, two_view2]

theorem merge (n : Nd) : Statement (.merge n) := by
  refine of_row rfl ?_
  simp only [rowOf, view2_op, BitVec.toNat_ofNat, Nat.reducePow, Nat.reduceMod, Nat.reduceDiv, row6, two_view2]

theorem dup (n : Nd) : Statement (.dup n) := by
  refine of_row rfl ?_
  simp only [rowOf, view2_op, BitVec.toNat_ofNat, Nat.reducePow, Nat.reduceMod, Nat.reduceDiv, row6, two_view2]

theorem gate (n : Nd) : Statement (.gate n) := by
  refine of_row rfl ?_
  simp only [rowOf, view2_op, BitVec.toNat_ofNat, Nat.reducePow, Nat.reduceMod, Nat.reduceDiv, row6, two_view2]

theorem sink (n : Nd) : Statement (.sink n) := by
  refine of_row rfl ?_
  simp only [rowOf, view2_op, BitVec.toNat_ofNat, Nat.reducePow, Nat.reduceMod, Nat.reduceDiv, row6, two_view2]

theorem fcomp (n : Nd) : Statement (.fcomp n) := by
  refine of_row rfl ?_
  simp only [rowOf, view2_op, BitVec.toNat_ofNat, Nat.reducePow, Nat.reduceMod, Nat.reduceDiv, row6, two_view2]

theorem steer (n : Nd) : Statement (.steer n) := by
  refine of_row rfl ?_
  simp only [rowOf, view2_op, BitVec.toNat_ofNat, Nat.reducePow, Nat.reduceMod, Nat.reduceDiv, row6, two_view2]

theorem ojoin (n : Nd) : Statement (.ojoin n) := by
  refine of_row rfl ?_
  simp only [rowOf, view2_op, BitVec.toNat_ofNat, Nat.reducePow, Nat.reduceMod, Nat.reduceDiv, row6, two_view2]

theorem talloc (n : Nd) : Statement (.talloc n) := by
  refine of_row rfl ?_
  simp only [rowOf, view2_op, BitVec.toNat_ofNat, Nat.reducePow, Nat.reduceMod, Nat.reduceDiv, row7, two_view2]

theorem tfree (n : Nd) : Statement (.tfree n) := by
  refine of_row rfl ?_
  simp only [rowOf, view2_op, BitVec.toNat_ofNat, Nat.reducePow, Nat.reduceMod, Nat.reduceDiv, row7, two_view2]

theorem falloc (n : Nd) : Statement (.falloc n) := by
  refine of_row rfl ?_
  simp only [rowOf, view2_op, BitVec.toNat_ofNat, Nat.reducePow, Nat.reduceMod, Nat.reduceDiv, row7, two_view2]

theorem ffree (n : Nd) : Statement (.ffree n) := by
  refine of_row rfl ?_
  simp only [rowOf, view2_op, BitVec.toNat_ofNat, Nat.reducePow, Nat.reduceMod, Nat.reduceDiv, row7, two_view2]

theorem call (n : Nd) : Statement (.call n) := by
  refine of_row rfl ?_
  simp only [rowOf, view2_op, BitVec.toNat_ofNat, Nat.reducePow, Nat.reduceMod, Nat.reduceDiv, row7, two_view2]

theorem ret (n : Nd) : Statement (.ret n) := by
  refine of_row rfl ?_
  simp only [rowOf, view2_op, BitVec.toNat_ofNat, Nat.reducePow, Nat.reduceMod, Nat.reduceDiv, row7, two_view2]

theorem fbcast (n : Nd) : Statement (.fbcast n) := by
  refine of_row rfl ?_
  simp only [rowOf, view2_op, BitVec.toNat_ofNat, Nat.reducePow, Nat.reduceMod, Nat.reduceDiv, row7, two_view2]

theorem tagv (n : Nd) : Statement (.tagv n) := by
  refine of_row rfl ?_
  simp only [rowOf, view2_op, BitVec.toNat_ofNat, Nat.reducePow, Nat.reduceMod, Nat.reduceDiv, row7, two_view2]

theorem ldB (n : Nd) (x : Bool) (s : Scope) : Statement (.ldB n x s) := by
  refine of_row rfl ?_
  simp only [rowOf, view2_op, BitVec.toNat_ofNat, Nat.reducePow, Nat.reduceMod, Nat.reduceDiv, row8, two_view2, view2_k]
  cases x <;> cases s <;> rfl

theorem ldH (n : Nd) (x : Bool) (s : Scope) : Statement (.ldH n x s) := by
  refine of_row rfl ?_
  simp only [rowOf, view2_op, BitVec.toNat_ofNat, Nat.reducePow, Nat.reduceMod, Nat.reduceDiv, row8, two_view2, view2_k]
  cases x <;> cases s <;> rfl

theorem ldW (n : Nd) (x : Bool) (s : Scope) : Statement (.ldW n x s) := by
  refine of_row rfl ?_
  simp only [rowOf, view2_op, BitVec.toNat_ofNat, Nat.reducePow, Nat.reduceMod, Nat.reduceDiv, row8, two_view2, view2_k]
  cases x <;> cases s <;> rfl

theorem ldD (n : Nd) (p : Bool) (s : Scope) : Statement (.ldD n p s) := by
  refine of_row rfl ?_
  simp only [rowOf, view2_op, BitVec.toNat_ofNat, Nat.reducePow, Nat.reduceMod, Nat.reduceDiv, row8, two_view2, view2_k]
  cases p <;> cases s <;> rfl

theorem stB (n : Nd) (s : Scope) : Statement (.stB n s) := by
  refine of_row rfl ?_
  simp only [rowOf, view2_op, BitVec.toNat_ofNat, Nat.reducePow, Nat.reduceMod, Nat.reduceDiv, row8, two_view2, view2_k]
  cases s <;> rfl

theorem stH (n : Nd) (s : Scope) : Statement (.stH n s) := by
  refine of_row rfl ?_
  simp only [rowOf, view2_op, BitVec.toNat_ofNat, Nat.reducePow, Nat.reduceMod, Nat.reduceDiv, row8, two_view2, view2_k]
  cases s <;> rfl

theorem stW (n : Nd) (s : Scope) : Statement (.stW n s) := by
  refine of_row rfl ?_
  simp only [rowOf, view2_op, BitVec.toNat_ofNat, Nat.reducePow, Nat.reduceMod, Nat.reduceDiv, row8, two_view2, view2_k]
  cases s <;> rfl

theorem stD (n : Nd) (s : Scope) : Statement (.stD n s) := by
  refine of_row rfl ?_
  simp only [rowOf, view2_op, BitVec.toNat_ofNat, Nat.reducePow, Nat.reduceMod, Nat.reduceDiv, row8, two_view2, view2_k]
  cases s <;> rfl

theorem ldAcq (n : Nd) (w : Bool) (s : Scope) : Statement (.ldAcq n w s) := by
  refine of_row rfl ?_
  simp only [rowOf, view2_op, BitVec.toNat_ofNat, Nat.reducePow, Nat.reduceMod, Nat.reduceDiv, row8, two_view2, view2_k]
  cases w <;> cases s <;> rfl

theorem stRel (n : Nd) (w : Bool) (s : Scope) : Statement (.stRel n w s) := by
  refine of_row rfl ?_
  simp only [rowOf, view2_op, BitVec.toNat_ofNat, Nat.reducePow, Nat.reduceMod, Nat.reduceDiv, row8, two_view2, view2_k]
  cases w <;> cases s <;> rfl

theorem ldl (n : Nd) (s : Scope) : Statement (.ldl n s) := by
  refine of_row rfl ?_
  simp only [rowOf, view2_op, BitVec.toNat_ofNat, Nat.reducePow, Nat.reduceMod, Nat.reduceDiv, row8, two_view2, view2_k]
  cases s <;> rfl

theorem stl (n : Nd) (s : Scope) : Statement (.stl n s) := by
  refine of_row rfl ?_
  simp only [rowOf, view2_op, BitVec.toNat_ofNat, Nat.reducePow, Nat.reduceMod, Nat.reduceDiv, row8, two_view2, view2_k]
  cases s <;> rfl

theorem stlm (n : Nd) (s : Scope) : Statement (.stlm n s) := by
  refine of_row rfl ?_
  simp only [rowOf, view2_op, BitVec.toNat_ofNat, Nat.reducePow, Nat.reduceMod, Nat.reduceDiv, row8, two_view2, view2_k]
  cases s <;> rfl

theorem ldd (n : Nd) (s : Scope) : Statement (.ldd n s) := by
  refine of_row rfl ?_
  simp only [rowOf, view2_op, BitVec.toNat_ofNat, Nat.reducePow, Nat.reduceMod, Nat.reduceDiv, row8, two_view2, view2_k]
  cases s <;> rfl

theorem std (n : Nd) (s : Scope) : Statement (.std n s) := by
  refine of_row rfl ?_
  simp only [rowOf, view2_op, BitVec.toNat_ofNat, Nat.reducePow, Nat.reduceMod, Nat.reduceDiv, row8, two_view2, view2_k]
  cases s <;> rfl

theorem pf (n : Nd) : Statement (.pf n) := by
  refine of_row rfl ?_
  simp only [rowOf, view2_op, BitVec.toNat_ofNat, Nat.reducePow, Nat.reduceMod, Nat.reduceDiv, row8, two_view2]

theorem aadd (n : Nd) (w : Bool) (s : Scope) : Statement (.aadd n w s) := by
  refine of_row rfl ?_
  simp only [rowOf, view2_op, BitVec.toNat_ofNat, Nat.reducePow, Nat.reduceMod, Nat.reduceDiv, row9, two_view2, view2_k]
  cases w <;> cases s <;> rfl

theorem aand (n : Nd) (w : Bool) (s : Scope) : Statement (.aand n w s) := by
  refine of_row rfl ?_
  simp only [rowOf, view2_op, BitVec.toNat_ofNat, Nat.reducePow, Nat.reduceMod, Nat.reduceDiv, row9, two_view2, view2_k]
  cases w <;> cases s <;> rfl

theorem aor (n : Nd) (w : Bool) (s : Scope) : Statement (.aor n w s) := by
  refine of_row rfl ?_
  simp only [rowOf, view2_op, BitVec.toNat_ofNat, Nat.reducePow, Nat.reduceMod, Nat.reduceDiv, row9, two_view2, view2_k]
  cases w <;> cases s <;> rfl

theorem axor (n : Nd) (w : Bool) (s : Scope) : Statement (.axor n w s) := by
  refine of_row rfl ?_
  simp only [rowOf, view2_op, BitVec.toNat_ofNat, Nat.reducePow, Nat.reduceMod, Nat.reduceDiv, row9, two_view2, view2_k]
  cases w <;> cases s <;> rfl

theorem amin (n : Nd) (w : Bool) (s : Scope) : Statement (.amin n w s) := by
  refine of_row rfl ?_
  simp only [rowOf, view2_op, BitVec.toNat_ofNat, Nat.reducePow, Nat.reduceMod, Nat.reduceDiv, row9, two_view2, view2_k]
  cases w <;> cases s <;> rfl

theorem amax (n : Nd) (w : Bool) (s : Scope) : Statement (.amax n w s) := by
  refine of_row rfl ?_
  simp only [rowOf, view2_op, BitVec.toNat_ofNat, Nat.reducePow, Nat.reduceMod, Nat.reduceDiv, row9, two_view2, view2_k]
  cases w <;> cases s <;> rfl

theorem aswp (n : Nd) (w : Bool) (s : Scope) : Statement (.aswp n w s) := by
  refine of_row rfl ?_
  simp only [rowOf, view2_op, BitVec.toNat_ofNat, Nat.reducePow, Nat.reduceMod, Nat.reduceDiv, row9, two_view2, view2_k]
  cases w <;> cases s <;> rfl

theorem acas (n : Nd) (w : Bool) (s : Scope) : Statement (.acas n w s) := by
  refine of_row rfl ?_
  simp only [rowOf, view2_op, BitVec.toNat_ofNat, Nat.reducePow, Nat.reduceMod, Nat.reduceDiv, row9, two_view2, view2_k]
  cases w <;> cases s <;> rfl

theorem afadd (n : Nd) (w : Bool) (s : Scope) : Statement (.afadd n w s) := by
  refine of_row rfl ?_
  simp only [rowOf, view2_op, BitVec.toNat_ofNat, Nat.reducePow, Nat.reduceMod, Nat.reduceDiv, row9, two_view2, view2_k]
  cases w <;> cases s <;> rfl

theorem fencePub (n : Nd) (s : Scope) : Statement (.fencePub n s) := by
  refine of_row rfl ?_
  simp only [rowOf, view2_op, BitVec.toNat_ofNat, Nat.reducePow, Nat.reduceMod, Nat.reduceDiv, row9, two_view2, view2_k]
  cases s <;> rfl

theorem fenceAcq (n : Nd) (s : Scope) : Statement (.fenceAcq n s) := by
  refine of_row rfl ?_
  simp only [rowOf, view2_op, BitVec.toNat_ofNat, Nat.reducePow, Nat.reduceMod, Nat.reduceDiv, row9, two_view2, view2_k]
  cases s <;> rfl

theorem strm (n : Nd) (s : Scope) : Statement (.strm n s) := by
  refine of_row rfl ?_
  simp only [rowOf, view2_op, BitVec.toNat_ofNat, Nat.reducePow, Nat.reduceMod, Nat.reduceDiv, row9, two_view2, view2_k]
  cases s <;> rfl

theorem vadd (n : Nd) (x : Bool) (f : Bool) (r : Rnd) : Statement (.vadd n x f r) := by
  refine of_row rfl ?_
  simp only [rowOf, view2_op, BitVec.toNat_ofNat, Nat.reducePow, Nat.reduceMod, Nat.reduceDiv, rowA, two_view2, view2_k]
  cases x <;> cases f <;> cases r <;> rfl

theorem vsub (n : Nd) (x : Bool) (f : Bool) (r : Rnd) : Statement (.vsub n x f r) := by
  refine of_row rfl ?_
  simp only [rowOf, view2_op, BitVec.toNat_ofNat, Nat.reducePow, Nat.reduceMod, Nat.reduceDiv, rowA, two_view2, view2_k]
  cases x <;> cases f <;> cases r <;> rfl

theorem vmul (n : Nd) (x : Bool) (f : Bool) (r : Rnd) : Statement (.vmul n x f r) := by
  refine of_row rfl ?_
  simp only [rowOf, view2_op, BitVec.toNat_ofNat, Nat.reducePow, Nat.reduceMod, Nat.reduceDiv, rowA, two_view2, view2_k]
  cases x <;> cases f <;> cases r <;> rfl

theorem vfma (n : Nd) (f : Bool) (r : Rnd) : Statement (.vfma n f r) := by
  refine of_row rfl ?_
  simp only [rowOf, view2_op, BitVec.toNat_ofNat, Nat.reducePow, Nat.reduceMod, Nat.reduceDiv, rowA, two_view2, view2_k]
  cases f <;> cases r <;> rfl

theorem vmin (n : Nd) (nm : Bool) (f : Bool) (r : Rnd) : Statement (.vmin n nm f r) := by
  refine of_row rfl ?_
  simp only [rowOf, view2_op, BitVec.toNat_ofNat, Nat.reducePow, Nat.reduceMod, Nat.reduceDiv, rowA, two_view2, view2_k]
  cases nm <;> cases f <;> cases r <;> rfl

theorem vmax (n : Nd) (nm : Bool) (f : Bool) (r : Rnd) : Statement (.vmax n nm f r) := by
  refine of_row rfl ?_
  simp only [rowOf, view2_op, BitVec.toNat_ofNat, Nat.reducePow, Nat.reduceMod, Nat.reduceDiv, rowA, two_view2, view2_k]
  cases nm <;> cases f <;> cases r <;> rfl

theorem vabs (n : Nd) (x : Bool) (f : Bool) (r : Rnd) : Statement (.vabs n x f r) := by
  refine of_row rfl ?_
  simp only [rowOf, view2_op, BitVec.toNat_ofNat, Nat.reducePow, Nat.reduceMod, Nat.reduceDiv, rowA, two_view2, view2_k]
  cases x <;> cases f <;> cases r <;> rfl

theorem vneg (n : Nd) (x : Bool) (f : Bool) (r : Rnd) : Statement (.vneg n x f r) := by
  refine of_row rfl ?_
  simp only [rowOf, view2_op, BitVec.toNat_ofNat, Nat.reducePow, Nat.reduceMod, Nat.reduceDiv, rowA, two_view2, view2_k]
  cases x <;> cases f <;> cases r <;> rfl

theorem vexp2 (n : Nd) (f : Bool) (r : Rnd) : Statement (.vexp2 n f r) := by
  refine of_row rfl ?_
  simp only [rowOf, view2_op, BitVec.toNat_ofNat, Nat.reducePow, Nat.reduceMod, Nat.reduceDiv, rowA, two_view2, view2_k]
  cases f <;> cases r <;> rfl

theorem vlog2 (n : Nd) (f : Bool) (r : Rnd) : Statement (.vlog2 n f r) := by
  refine of_row rfl ?_
  simp only [rowOf, view2_op, BitVec.toNat_ofNat, Nat.reducePow, Nat.reduceMod, Nat.reduceDiv, rowA, two_view2, view2_k]
  cases f <;> cases r <;> rfl

theorem vrcp (n : Nd) (f : Bool) (r : Rnd) : Statement (.vrcp n f r) := by
  refine of_row rfl ?_
  simp only [rowOf, view2_op, BitVec.toNat_ofNat, Nat.reducePow, Nat.reduceMod, Nat.reduceDiv, rowA, two_view2, view2_k]
  cases f <;> cases r <;> rfl

theorem vrsqrt (n : Nd) (f : Bool) (r : Rnd) : Statement (.vrsqrt n f r) := by
  refine of_row rfl ?_
  simp only [rowOf, view2_op, BitVec.toNat_ofNat, Nat.reducePow, Nat.reduceMod, Nat.reduceDiv, rowA, two_view2, view2_k]
  cases f <;> cases r <;> rfl

theorem vcmp (n : Nd) (k : Cond) : Statement (.vcmp n k) := by
  refine of_row rfl ?_
  simp only [rowOf, view2_op, BitVec.toNat_ofNat, Nat.reducePow, Nat.reduceMod, Nat.reduceDiv, rowA, two_view2, view2_k]
  cases k <;> rfl

theorem vsel (n : Nd) (m : BitVec 3) : Statement (.vsel n m) := by
  refine of_row rfl ?_
  simp only [rowOf, view2_op, BitVec.toNat_ofNat, Nat.reducePow, Nat.reduceMod, Nat.reduceDiv, rowA, two_view2, view2_k]
  have h : ∀ m : BitVec 3, (bn m 0).extractLsb' 0 3 = m := by decide
  simp only [h]

theorem vand (n : Nd) (m : BitVec 3) : Statement (.vand n m) := by
  refine of_row rfl ?_
  simp only [rowOf, view2_op, BitVec.toNat_ofNat, Nat.reducePow, Nat.reduceMod, Nat.reduceDiv, rowA, two_view2, view2_k]
  have h : ∀ m : BitVec 3, (bn m 0).extractLsb' 0 3 = m := by decide
  simp only [h]

theorem vor (n : Nd) (m : BitVec 3) : Statement (.vor n m) := by
  refine of_row rfl ?_
  simp only [rowOf, view2_op, BitVec.toNat_ofNat, Nat.reducePow, Nat.reduceMod, Nat.reduceDiv, rowA, two_view2, view2_k]
  have h : ∀ m : BitVec 3, (bn m 0).extractLsb' 0 3 = m := by decide
  simp only [h]

theorem vxor (n : Nd) (m : BitVec 3) : Statement (.vxor n m) := by
  refine of_row rfl ?_
  simp only [rowOf, view2_op, BitVec.toNat_ofNat, Nat.reducePow, Nat.reduceMod, Nat.reduceDiv, rowB, two_view2, view2_k]
  have h : ∀ m : BitVec 3, (bn m 0).extractLsb' 0 3 = m := by decide
  simp only [h]

theorem vshl (n : Nd) (m : BitVec 3) : Statement (.vshl n m) := by
  refine of_row rfl ?_
  simp only [rowOf, view2_op, BitVec.toNat_ofNat, Nat.reducePow, Nat.reduceMod, Nat.reduceDiv, rowB, two_view2, view2_k]
  have h : ∀ m : BitVec 3, (bn m 0).extractLsb' 0 3 = m := by decide
  simp only [h]

theorem vshr (n : Nd) (u : Bool) (m : BitVec 3) : Statement (.vshr n u m) := by
  refine of_row rfl ?_
  simp only [rowOf, view2_op, BitVec.toNat_ofNat, Nat.reducePow, Nat.reduceMod, Nat.reduceDiv, rowB, two_view2, view2_k]
  have h : ∀ u : Bool, ∀ m : BitVec 3, (b1 u 3 ||| bn m 0).getLsbD 3 = u ∧ (b1 u 3 ||| bn m 0).extractLsb' 0 3 = m := by decide
  simp only [h]

theorem vcvt (n : Nd) (f : Bool) (r : Rnd) : Statement (.vcvt n f r) := by
  refine of_row rfl ?_
  simp only [rowOf, view2_op, BitVec.toNat_ofNat, Nat.reducePow, Nat.reduceMod, Nat.reduceDiv, rowB, two_view2, view2_k]
  cases f <;> cases r <;> rfl

theorem vscl (n : Nd) (f : Bool) (r : Rnd) : Statement (.vscl n f r) := by
  refine of_row rfl ?_
  simp only [rowOf, view2_op, BitVec.toNat_ofNat, Nat.reducePow, Nat.reduceMod, Nat.reduceDiv, rowB, two_view2, view2_k]
  cases f <;> cases r <;> rfl

theorem vbcast (n : Nd) (m : BitVec 3) : Statement (.vbcast n m) := by
  refine of_row rfl ?_
  simp only [rowOf, view2_op, BitVec.toNat_ofNat, Nat.reducePow, Nat.reduceMod, Nat.reduceDiv, rowB, two_view2, view2_k]
  have h : ∀ m : BitVec 3, (bn m 0).extractLsb' 0 3 = m := by decide
  simp only [h]

theorem vext (n : Nd) (m : BitVec 3) : Statement (.vext n m) := by
  refine of_row rfl ?_
  simp only [rowOf, view2_op, BitVec.toNat_ofNat, Nat.reducePow, Nat.reduceMod, Nat.reduceDiv, rowB, two_view2, view2_k]
  have h : ∀ m : BitVec 3, (bn m 0).extractLsb' 0 3 = m := by decide
  simp only [h]

theorem vperm (n : Nd) (m : BitVec 3) : Statement (.vperm n m) := by
  refine of_row rfl ?_
  simp only [rowOf, view2_op, BitVec.toNat_ofNat, Nat.reducePow, Nat.reduceMod, Nat.reduceDiv, rowB, two_view2, view2_k]
  have h : ∀ m : BitVec 3, (bn m 0).extractLsb' 0 3 = m := by decide
  simp only [h]

theorem rsum (n : Nd) (m : BitVec 2) : Statement (.rsum n m) := by
  refine of_row rfl ?_
  simp only [rowOf, view2_op, BitVec.toNat_ofNat, Nat.reducePow, Nat.reduceMod, Nat.reduceDiv, rowB, two_view2, view2_k]
  have h : ∀ m : BitVec 2, (bn m 0).extractLsb' 0 2 = m := by decide
  simp only [h]

theorem rmin (n : Nd) (nm : Bool) (x : Bool) (m : BitVec 2) : Statement (.rmin n nm x m) := by
  refine of_row rfl ?_
  simp only [rowOf, view2_op, BitVec.toNat_ofNat, Nat.reducePow, Nat.reduceMod, Nat.reduceDiv, rowB, two_view2, view2_k]
  have h : ∀ nm : Bool, ∀ x : Bool, ∀ m : BitVec 2, (b1 nm 3 ||| b1 x 2 ||| bn m 0).getLsbD 3 = nm ∧ (b1 nm 3 ||| b1 x 2 ||| bn m 0).getLsbD 2 = x ∧ (b1 nm 3 ||| b1 x 2 ||| bn m 0).extractLsb' 0 2 = m := by decide
  simp only [h]

theorem rmax (n : Nd) (nm : Bool) (x : Bool) (m : BitVec 2) : Statement (.rmax n nm x m) := by
  refine of_row rfl ?_
  simp only [rowOf, view2_op, BitVec.toNat_ofNat, Nat.reducePow, Nat.reduceMod, Nat.reduceDiv, rowB, two_view2, view2_k]
  have h : ∀ nm : Bool, ∀ x : Bool, ∀ m : BitVec 2, (b1 nm 3 ||| b1 x 2 ||| bn m 0).getLsbD 3 = nm ∧ (b1 nm 3 ||| b1 x 2 ||| bn m 0).getLsbD 2 = x ∧ (b1 nm 3 ||| b1 x 2 ||| bn m 0).extractLsb' 0 2 = m := by decide
  simp only [h]

theorem racc (n : Nd) (f : Bool) (r : Rnd) : Statement (.racc n f r) := by
  refine of_row rfl ?_
  simp only [rowOf, view2_op, BitVec.toNat_ofNat, Nat.reducePow, Nat.reduceMod, Nat.reduceDiv, rowB, two_view2, view2_k]
  cases f <;> cases r <;> rfl

theorem lmClaim (n : Nd) : Statement (.lmClaim n) := by
  refine of_row rfl ?_
  simp only [rowOf, view2_op, BitVec.toNat_ofNat, Nat.reducePow, Nat.reduceMod, Nat.reduceDiv, rowC, two_view2]

theorem lmRelease (n : Nd) : Statement (.lmRelease n) := by
  refine of_row rfl ?_
  simp only [rowOf, view2_op, BitVec.toNat_ofNat, Nat.reducePow, Nat.reduceMod, Nat.reduceDiv, rowC, two_view2]

theorem lmFill (n : Nd) : Statement (.lmFill n) := by
  refine of_row rfl ?_
  simp only [rowOf, view2_op, BitVec.toNat_ofNat, Nat.reducePow, Nat.reduceMod, Nat.reduceDiv, rowC, two_view2]

theorem lmBuild (n : Nd) (x : Bool) : Statement (.lmBuild n x) := by
  refine of_row rfl ?_
  simp only [rowOf, view2_op, BitVec.toNat_ofNat, Nat.reducePow, Nat.reduceMod, Nat.reduceDiv, rowC, two_view2, view2_k]
  cases x <;> rfl

theorem lmArm (n : Nd) (l : Bool) (c : Bool) : Statement (.lmArm n l c) := by
  refine of_row rfl ?_
  simp only [rowOf, view2_op, BitVec.toNat_ofNat, Nat.reducePow, Nat.reduceMod, Nat.reduceDiv, rowC, two_view2, view2_k]
  cases l <;> cases c <;> rfl

theorem lmLook (n : Nd) (k : BitVec 3) (p : Bool) : Statement (.lmLook n k p) := by
  refine of_row rfl ?_
  simp only [rowOf, view2_op, BitVec.toNat_ofNat, Nat.reducePow, Nat.reduceMod, Nat.reduceDiv, rowC, two_view2, view2_k]
  have h : ∀ k : BitVec 3, ∀ p : Bool, (bn k 1 ||| b1 p 0).extractLsb' 1 3 = k ∧ (bn k 1 ||| b1 p 0).getLsbD 0 = p := by decide
  simp only [h]

theorem lmDirect (n : Nd) (f : BitVec 2) : Statement (.lmDirect n f) := by
  refine of_row rfl ?_
  simp only [rowOf, view2_op, BitVec.toNat_ofNat, Nat.reducePow, Nat.reduceMod, Nat.reduceDiv, rowC, two_view2, view2_k]
  have h : ∀ f : BitVec 2, (bn f 0).extractLsb' 0 2 = f := by decide
  simp only [h]

theorem lmDrain (n : Nd) (x : Bool) (s : Scope) : Statement (.lmDrain n x s) := by
  refine of_row rfl ?_
  simp only [rowOf, view2_op, BitVec.toNat_ofNat, Nat.reducePow, Nat.reduceMod, Nat.reduceDiv, rowC, two_view2, view2_k]
  cases x <;> cases s <;> rfl

theorem lmSpill (n : Nd) (s : Scope) : Statement (.lmSpill n s) := by
  refine of_row rfl ?_
  simp only [rowOf, view2_op, BitVec.toNat_ofNat, Nat.reducePow, Nat.reduceMod, Nat.reduceDiv, rowC, two_view2, view2_k]
  cases s <;> rfl

theorem lmReload (n : Nd) (s : Scope) : Statement (.lmReload n s) := by
  refine of_row rfl ?_
  simp only [rowOf, view2_op, BitVec.toNat_ofNat, Nat.reducePow, Nat.reduceMod, Nat.reduceDiv, rowC, two_view2, view2_k]
  cases s <;> rfl

theorem lmStat (n : Nd) : Statement (.lmStat n) := by
  refine of_row rfl ?_
  simp only [rowOf, view2_op, BitVec.toNat_ofNat, Nat.reducePow, Nat.reduceMod, Nat.reduceDiv, rowC, two_view2]

theorem cp (n : Nd) (s : Scope) : Statement (.cp n s) := by
  refine of_row rfl ?_
  simp only [rowOf, view2_op, BitVec.toNat_ofNat, Nat.reducePow, Nat.reduceMod, Nat.reduceDiv, rowE, two_view2, view2_k]
  cases s <;> rfl

theorem nmAdd (n : Nd) (s : Scope) : Statement (.nmAdd n s) := by
  refine of_row rfl ?_
  simp only [rowOf, view2_op, BitVec.toNat_ofNat, Nat.reducePow, Nat.reduceMod, Nat.reduceDiv, rowE, two_view2, view2_k]
  cases s <;> rfl

theorem nmAxpy (n : Nd) (s : Scope) : Statement (.nmAxpy n s) := by
  refine of_row rfl ?_
  simp only [rowOf, view2_op, BitVec.toNat_ofNat, Nat.reducePow, Nat.reduceMod, Nat.reduceDiv, rowE, two_view2, view2_k]
  cases s <;> rfl

theorem nmScl (n : Nd) (s : Scope) : Statement (.nmScl n s) := by
  refine of_row rfl ?_
  simp only [rowOf, view2_op, BitVec.toNat_ofNat, Nat.reducePow, Nat.reduceMod, Nat.reduceDiv, rowE, two_view2, view2_k]
  cases s <;> rfl

theorem nmCvt (n : Nd) (s : Scope) : Statement (.nmCvt n s) := by
  refine of_row rfl ?_
  simp only [rowOf, view2_op, BitVec.toNat_ofNat, Nat.reducePow, Nat.reduceMod, Nat.reduceDiv, rowE, two_view2, view2_k]
  cases s <;> rfl

theorem xrGet (n : Nd) (k : Bool) (l : Bool) : Statement (.xrGet n k l) := by
  refine of_row rfl ?_
  simp only [rowOf, view2_op, BitVec.toNat_ofNat, Nat.reducePow, Nat.reduceMod, Nat.reduceDiv, rowE, two_view2, view2_k]
  cases k <;> cases l <;> rfl

theorem xrPut (n : Nd) (l : Bool) : Statement (.xrPut n l) := by
  refine of_row rfl ?_
  simp only [rowOf, view2_op, BitVec.toNat_ofNat, Nat.reducePow, Nat.reduceMod, Nat.reduceDiv, rowE, two_view2, view2_k]
  cases l <;> rfl

theorem xrAmo (n : Nd) (w : Bool) (o : BitVec 3) : Statement (.xrAmo n w o) := by
  refine of_row rfl ?_
  simp only [rowOf, view2_op, BitVec.toNat_ofNat, Nat.reducePow, Nat.reduceMod, Nat.reduceDiv, rowE, two_view2, view2_k]
  have h : ∀ w : Bool, ∀ o : BitVec 3, (b1 w 3 ||| bn o 0).getLsbD 3 = w ∧ (b1 w 3 ||| bn o 0).extractLsb' 0 3 = o := by decide
  simp only [h]

theorem cvIn (n : Nd) : Statement (.cvIn n) := by
  refine of_row rfl ?_
  simp only [rowOf, view2_op, BitVec.toNat_ofNat, Nat.reducePow, Nat.reduceMod, Nat.reduceDiv, rowE, two_view2]

theorem cvOut (n : Nd) : Statement (.cvOut n) := by
  refine of_row rfl ?_
  simp only [rowOf, view2_op, BitVec.toNat_ofNat, Nat.reducePow, Nat.reduceMod, Nat.reduceDiv, rowE, two_view2]

theorem cvOpen (n : Nd) (x : Bool) (nm : Bool) : Statement (.cvOpen n x nm) := by
  refine of_row rfl ?_
  simp only [rowOf, view2_op, BitVec.toNat_ofNat, Nat.reducePow, Nat.reduceMod, Nat.reduceDiv, rowE, two_view2, view2_k]
  cases x <;> cases nm <;> rfl

theorem cvClose (n : Nd) (x : Bool) : Statement (.cvClose n x) := by
  refine of_row rfl ?_
  simp only [rowOf, view2_op, BitVec.toNat_ofNat, Nat.reducePow, Nat.reduceMod, Nat.reduceDiv, rowE, two_view2, view2_k]
  cases x <;> rfl

theorem spawn (n : Nd) : Statement (.spawn n) := by
  refine of_row rfl ?_
  simp only [rowOf, view2_op, BitVec.toNat_ofNat, Nat.reducePow, Nat.reduceMod, Nat.reduceDiv, rowE, two_view2]

theorem suspend (n : Nd) : Statement (.suspend n) := by
  refine of_row rfl ?_
  simp only [rowOf, view2_op, BitVec.toNat_ofNat, Nat.reducePow, Nat.reduceMod, Nat.reduceDiv, rowE, two_view2]

theorem jinit (n : Nd) (s : Scope) : Statement (.jinit n s) := by
  refine of_row rfl ?_
  simp only [rowOf, view2_op, BitVec.toNat_ofNat, Nat.reducePow, Nat.reduceMod, Nat.reduceDiv, rowE, two_view2, view2_k]
  cases s <;> rfl

theorem jarrive (n : Nd) (s : Scope) : Statement (.jarrive n s) := by
  refine of_row rfl ?_
  simp only [rowOf, view2_op, BitVec.toNat_ofNat, Nat.reducePow, Nat.reduceMod, Nat.reduceDiv, rowE, two_view2, view2_k]
  cases s <;> rfl

theorem barArrive (n : Nd) (s : Scope) : Statement (.barArrive n s) := by
  refine of_row rfl ?_
  simp only [rowOf, view2_op, BitVec.toNat_ofNat, Nat.reducePow, Nat.reduceMod, Nat.reduceDiv, rowF, two_view2, view2_k]
  cases s <;> rfl

theorem barWait (n : Nd) (s : Scope) : Statement (.barWait n s) := by
  refine of_row rfl ?_
  simp only [rowOf, view2_op, BitVec.toNat_ofNat, Nat.reducePow, Nat.reduceMod, Nat.reduceDiv, rowF, two_view2, view2_k]
  cases s <;> rfl

theorem qPush (n : Nd) (s : Scope) : Statement (.qPush n s) := by
  refine of_row rfl ?_
  simp only [rowOf, view2_op, BitVec.toNat_ofNat, Nat.reducePow, Nat.reduceMod, Nat.reduceDiv, rowF, two_view2, view2_k]
  cases s <;> rfl

theorem qPop (n : Nd) (p : Bool) (s : Scope) : Statement (.qPop n p s) := by
  refine of_row rfl ?_
  simp only [rowOf, view2_op, BitVec.toNat_ofNat, Nat.reducePow, Nat.reduceMod, Nat.reduceDiv, rowF, two_view2, view2_k]
  cases p <;> cases s <;> rfl

theorem launch (n : Nd) (s : Scope) : Statement (.launch n s) := by
  refine of_row rfl ?_
  simp only [rowOf, view2_op, BitVec.toNat_ofNat, Nat.reducePow, Nat.reduceMod, Nat.reduceDiv, rowF, two_view2, view2_k]
  cases s <;> rfl

theorem cut (n : Nd) : Statement (.cut n) := by
  refine of_row rfl ?_
  simp only [rowOf, view2_op, BitVec.toNat_ofNat, Nat.reducePow, Nat.reduceMod, Nat.reduceDiv, rowF, two_view2]

theorem trap (n : Nd) (k : BitVec 4) : Statement (.trap n k) := by
  refine of_row rfl ?_
  simp only [rowOf, view2_op, BitVec.toNat_ofNat, Nat.reducePow, Nat.reduceMod, Nat.reduceDiv, rowF, two_view2, view2_k]
  have h : ∀ k : BitVec 4, (bn k 0).extractLsb' 0 4 = k := by decide
  simp only [h]

theorem brk (n : Nd) : Statement (.brk n) := by
  refine of_row rfl ?_
  simp only [rowOf, view2_op, BitVec.toNat_ofNat, Nat.reducePow, Nat.reduceMod, Nat.reduceDiv, rowF, two_view2]

theorem rdctr (n : Nd) (k : BitVec 4) : Statement (.rdctr n k) := by
  refine of_row rfl ?_
  simp only [rowOf, view2_op, BitVec.toNat_ofNat, Nat.reducePow, Nat.reduceMod, Nat.reduceDiv, rowF, two_view2, view2_k]
  have h : ∀ k : BitVec 4, (bn k 0).extractLsb' 0 4 = k := by decide
  simp only [h]

theorem csrRd (n : Nd) : Statement (.csrRd n) := by
  refine of_row rfl ?_
  simp only [rowOf, view2_op, BitVec.toNat_ofNat, Nat.reducePow, Nat.reduceMod, Nat.reduceDiv, rowF, two_view2, view2_k]
  rfl

theorem csrWr (n : Nd) : Statement (.csrWr n) := by
  refine of_row rfl ?_
  simp only [rowOf, view2_op, BitVec.toNat_ofNat, Nat.reducePow, Nat.reduceMod, Nat.reduceDiv, rowF, two_view2, view2_k]
  rfl

theorem publish (n : Nd) : Statement (.publish n) := by
  refine of_row rfl ?_
  simp only [rowOf, view2_op, BitVec.toNat_ofNat, Nat.reducePow, Nat.reduceMod, Nat.reduceDiv, rowF, two_view2]

theorem hgTake (n : Nd) : Statement (.hgTake n) := by
  refine of_row rfl ?_
  simp only [rowOf, view2_op, BitVec.toNat_ofNat, Nat.reducePow, Nat.reduceMod, Nat.reduceDiv, rowF, two_view2, view2_k]

theorem hgPost (n : Nd) : Statement (.hgPost n) := by
  refine of_row rfl ?_
  simp only [rowOf, view2_op, BitVec.toNat_ofNat, Nat.reducePow, Nat.reduceMod, Nat.reduceDiv, rowF, two_view2, view2_k]

theorem hgQuote (n : Nd) : Statement (.hgQuote n) := by
  refine of_row rfl ?_
  simp only [rowOf, view2_op, BitVec.toNat_ofNat, Nat.reducePow, Nat.reduceMod, Nat.reduceDiv, rowF, two_view2, view2_k]

theorem scrubZero (n : Nd) : Statement (.scrubZero n) := by
  refine of_row rfl ?_
  simp only [rowOf, view2_op, BitVec.toNat_ofNat, Nat.reducePow, Nat.reduceMod, Nat.reduceDiv, rowF, two_view2, view2_k]

theorem scrubWait (n : Nd) : Statement (.scrubWait n) := by
  refine of_row rfl ?_
  simp only [rowOf, view2_op, BitVec.toNat_ofNat, Nat.reducePow, Nat.reduceMod, Nat.reduceDiv, rowF, two_view2, view2_k]

theorem gateSrcClose (n : Nd) : Statement (.gateSrcClose n) := by
  refine of_row rfl ?_
  simp only [rowOf, view2_op, BitVec.toNat_ofNat, Nat.reducePow, Nat.reduceMod, Nat.reduceDiv, rowF, two_view2, view2_k]

theorem gateSrcOpen (n : Nd) : Statement (.gateSrcOpen n) := by
  refine of_row rfl ?_
  simp only [rowOf, view2_op, BitVec.toNat_ofNat, Nat.reducePow, Nat.reduceMod, Nat.reduceDiv, rowF, two_view2, view2_k]

theorem gateSrcFreeze (n : Nd) : Statement (.gateSrcFreeze n) := by
  refine of_row rfl ?_
  simp only [rowOf, view2_op, BitVec.toNat_ofNat, Nat.reducePow, Nat.reduceMod, Nat.reduceDiv, rowF, two_view2, view2_k]

theorem gateSrcEvict (n : Nd) : Statement (.gateSrcEvict n) := by
  refine of_row rfl ?_
  simp only [rowOf, view2_op, BitVec.toNat_ofNat, Nat.reducePow, Nat.reduceMod, Nat.reduceDiv, rowF, two_view2, view2_k]

theorem tokenArrival (i : Nat) : Statement (.tokenArrival i) := of_none rfl

theorem breakpointHalt (rid : Nat) : Statement (.breakpointHalt rid) := of_none rfl

theorem reservedFkindFlit (cl : Nat) (hdr : BitVec 128) : Statement (.reservedFkindFlit cl hdr) := of_none rfl

theorem sluiceDrop (i : Nat) : Statement (.sluiceDrop i) := of_none rfl

theorem configPacket (i : Nat) : Statement (.configPacket i) := of_none rfl

theorem configSeal (i : Nat) : Statement (.configSeal i) := of_none rfl

theorem configWordUncorrectable (u : UId) : Statement (.configWordUncorrectable u) := of_none rfl

theorem frameCopyRoomFreed (cl : Nat) : Statement (.frameCopyRoomFreed cl) := of_none rfl

theorem lastCopyReleased (rid : Nat) (die : Nat) (fr : Nat) : Statement (.lastCopyReleased rid die fr) := of_none rfl

theorem recordDispatch (cl : Nat) : Statement (.recordDispatch cl) := of_none rfl

theorem parkWaitEnd (u : UId) : Statement (.parkWaitEnd u) := of_none rfl

theorem spillRoomFreed (rid : Nat) : Statement (.spillRoomFreed rid) := of_none rfl

theorem spillWatchdog (rid : Nat) : Statement (.spillWatchdog rid) := of_none rfl

theorem sinkTokenArrival (i : Nat) : Statement (.sinkTokenArrival i) := of_none rfl

theorem memoryAccessPerformed (u : UId) (id : Nat) : Statement (.memoryAccessPerformed u id) := of_none rfl

theorem unStoreDrainTimeout (cl : Nat) (k : Nat) : Statement (.unStoreDrainTimeout cl k) := of_none rfl

theorem readBufferExpiry (u : UId) (line : Nat) : Statement (.readBufferExpiry u line) := of_none rfl

theorem pageWalkComplete (u : UId) (id : Nat) : Statement (.pageWalkComplete u id) := of_none rfl

theorem heldAccessWake (u : UId) (id : Nat) : Statement (.heldAccessWake u id) := of_none rfl

theorem migrationWaitEnd (u : UId) (id : Nat) : Statement (.migrationWaitEnd u id) := of_none rfl

theorem sideLogReplay (u : UId) : Statement (.sideLogReplay u) := of_none rfl

theorem sideLogWaitEnd (u : UId) : Statement (.sideLogWaitEnd u) := of_none rfl

theorem streamLine (u : UId) (sc : Nat) : Statement (.streamLine u sc) := of_none rfl

theorem tileLineArrival (i : Nat) : Statement (.tileLineArrival i) := of_none rfl

theorem tileDrainEnd (cl : Nat) (k : Nat) : Statement (.tileDrainEnd cl k) := of_none rfl

theorem fenceDrainComplete (u : UId) (id : Nat) : Statement (.fenceDrainComplete u id) := of_none rfl

theorem intervalCommitComplete (u : UId) (id : Nat) : Statement (.intervalCommitComplete u id) := of_none rfl

theorem engineOperationComplete (u : UId) (id : Nat) : Statement (.engineOperationComplete u id) := of_none rfl

theorem cvInComplete (u : UId) (id : Nat) : Statement (.cvInComplete u id) := of_none rfl

theorem xrGetReturn (u : UId) (id : Nat) (ans : RemoteAnswer) : Statement (.xrGetReturn u id ans) := of_none rfl

theorem remoteRequestArrival (r : RemoteReq) : Statement (.remoteRequestArrival r) := of_none rfl

theorem barrierEvent (cl : Nat) (k : Nat) : Statement (.barrierEvent cl k) := of_none rfl

theorem claimClearComplete (cl : Nat) (bank : Nat) : Statement (.claimClearComplete cl bank) := of_none rfl

theorem lmBuildComplete (cl : Nat) : Statement (.lmBuildComplete cl) := of_none rfl

theorem passTileUse (cl : Nat) : Statement (.passTileUse cl) := of_none rfl

theorem lmDrainLine (cl : Nat) : Statement (.lmDrainLine cl) := of_none rfl

theorem grantIdleReturn (u : UId) : Statement (.grantIdleReturn u) := of_none rfl

theorem slotBoundary (p : Nat) : Statement (.slotBoundary p) := of_none rfl

theorem forcedPreemption (p : Nat) : Statement (.forcedPreemption p) := of_none rfl

theorem phaseBoundarySave (rid : Nat) : Statement (.phaseBoundarySave rid) := of_none rfl

theorem quiescenceReport (rid : Nat) : Statement (.quiescenceReport rid) := of_none rfl

theorem holderChange (p : Nat) : Statement (.holderChange p) := of_none rfl

theorem queueNotify (p : Nat) (qid : Nat) : Statement (.queueNotify p qid) := of_none rfl

theorem faultRingRoom (p : Nat) : Statement (.faultRingRoom p) := of_none rfl

theorem registerWrite (p : Nat) (num : Nat) (v : Nat) : Statement (.registerWrite p num v) := of_none rfl

theorem hgCmdtailWrite (fn : Nat) (v : Word) : Statement (.hgCmdtailWrite fn v) := of_none rfl

theorem hgCmdstatRead (fn : Nat) : Statement (.hgCmdstatRead fn) := of_none rfl

theorem hgRecoveryWrite (v : Word) (len : BitVec 32) : Statement (.hgRecoveryWrite v len) := of_none rfl

theorem recoveryFetchDone (readError : Bool) : Statement (.recoveryFetchDone readError) := of_none rfl

theorem knDevnumWrite (v : Word) : Statement (.knDevnumWrite v) := of_none rfl

theorem knRouteWrite (k : Nat) (v : Word) : Statement (.knRouteWrite k v) := of_none rfl

theorem hostWindowRead (fn : Nat) (off : Nat) (len : Nat) : Statement (.hostWindowRead fn off len) := of_none rfl

theorem hostWindowWrite (fn : Nat) (off : Nat) (data : List Byte) : Statement (.hostWindowWrite fn off data) := of_none rfl

theorem partSet (c : Cmd) : Statement (.partSet c) := of_none rfl

theorem calSet (c : Cmd) : Statement (.calSet c) := of_none rfl

theorem vdCreate (c : Cmd) : Statement (.vdCreate c) := of_none rfl

theorem vdDestroy (c : Cmd) : Statement (.vdDestroy c) := of_none rfl

theorem ctxCreate (c : Cmd) : Statement (.ctxCreate c) := of_none rfl

theorem codeLoad (c : Cmd) : Statement (.codeLoad c) := of_none rfl

theorem sched (c : Cmd) : Statement (.sched c) := of_none rfl

theorem launchCmd (c : Cmd) : Statement (.launchCmd c) := of_none rfl

theorem pause (c : Cmd) : Statement (.pause c) := of_none rfl

theorem resume (c : Cmd) : Statement (.resume c) := of_none rfl

theorem evict (c : Cmd) : Statement (.evict c) := of_none rfl

theorem restore (c : Cmd) : Statement (.restore c) := of_none rfl

theorem teardown (c : Cmd) : Statement (.teardown c) := of_none rfl

theorem scrubUnitDone (p : Nat) : Statement (.scrubUnitDone p) := of_none rfl

theorem winOpen (c : Cmd) : Statement (.winOpen c) := of_none rfl

theorem winClose (c : Cmd) : Statement (.winClose c) := of_none rfl

theorem attest (c : Cmd) : Statement (.attest c) := of_none rfl

theorem debugSet (c : Cmd) : Statement (.debugSet c) := of_none rfl

theorem debugClear (c : Cmd) : Statement (.debugClear c) := of_none rfl

theorem debugStep (c : Cmd) : Statement (.debugStep c) := of_none rfl

theorem debugResume (c : Cmd) : Statement (.debugResume c) := of_none rfl

theorem debugHalt (c : Cmd) : Statement (.debugHalt c) := of_none rfl

theorem debugRead (c : Cmd) : Statement (.debugRead c) := of_none rfl

theorem debugRelease (c : Cmd) : Statement (.debugRelease c) := of_none rfl

theorem power (c : Cmd) : Statement (.power c) := of_none rfl

theorem unassignedCommand (c : Cmd) : Statement (.unassignedCommand c) := of_none rfl

theorem clusterPowerGate (cl : Nat) : Statement (.clusterPowerGate cl) := of_none rfl

theorem clusterWakeStart (cl : Nat) : Statement (.clusterWakeStart cl) := of_none rfl

theorem clusterWakeEnd (cl : Nat) : Statement (.clusterWakeEnd cl) := of_none rfl

theorem bankPowerGate (cl : Nat) (bank : Nat) : Statement (.bankPowerGate cl bank) := of_none rfl

theorem powerGood : Statement (.powerGood) := of_none rfl

theorem reset : Statement (.reset) := of_none rfl

theorem knanoloFlitAuthFailure (port : Nat) : Statement (.knanoloFlitAuthFailure port) := of_none rfl

theorem syncMessage (t : Nat) : Statement (.syncMessage t) := of_none rfl

theorem timeSyncLoss : Statement (.timeSyncLoss) := of_none rfl

theorem driveFailure (drive : Nat) : Statement (.driveFailure drive) := of_none rfl

theorem culvertDeletionComplete (oid : Nat) : Statement (.culvertDeletionComplete oid) := of_none rfl

end Encoding

end Sys2Proof.Laws
end

