-- ==== Sys2Proof/Safety.lean ====
section
/-! DEFINITION. What counts as a safe step and a sound state, and the words in which statements say when an instruction
can complete: its operands are read, its tag can be formed and its destinations can take a token. -/

namespace Sys2Proof.Machine

open Sys2Proof

/-! ### States and steps -/

/-- Memory is in its canonical form. -/
abbrev State.MemOk (s : State) : Prop := Memory.wf s.mem = true

/-- No firing is in hand, as it is between steps. -/
abbrev State.Resting (s : State) : Prop := s.cur = none

/-- A step is safe where it gives a next state: it neither stops with a fault nor lacks a meaning. -/
def StepSafe (s : State) : Prop := ∃ t, step s = .next t

/-- One state leads to another in some steps. -/
inductive Reach : State → State → Prop where
  | refl (s : State) : Reach s s
  | step {s t u : State} : Machine.step s = .next t → Reach t u → Reach s u

/-- The state without the firing in hand, in which a node's meaning runs. -/
abbrev State.base (s : State) : State := { s with cur := none }

/-! ### When a node can complete -/

/-- The region's feature mask lets an opcode run (R169). -/
def Unmasked (s : State) (c : Cur) (op : Nat) : Prop :=
  ∀ g, featureGroup op = some g → bitAt (s.region c.f.rid).rcb.toNat (176 + g) = false

/-- No line of a cluster's copy of a frame has an uncorrectable error (R355). -/
def CopyGood (s : State) (rid : Nat) (t : Tag) (cl : Nat) : Prop :=
  (frameAt s rid t).copies.contains cl = true → ∀ i, i < 260 → s.poison.contains (frameLine s rid t cl (8 * i)) = false

/-- A cluster has a copy of a live frame, or room for one (R51, R54). -/
def CopyOk (s : State) (rid : Nat) (t : Tag) (cl : Nat) : Prop :=
  (frameAt s rid t).st = .live ∧ ((frameAt s rid t).copies.contains cl = true ∨ copyRoom s cl = true)

/-- A cluster can write a slot of a live frame (R51, R54, R355). -/
def SlotOk (s : State) (rid : Nat) (t : Tag) (cl : Nat) : Prop := CopyOk s rid t cl ∧ CopyGood s rid t cl

/-- The arrival that the end of a frame's activation owes its parent issues now: there is none, or the stores that the region's
log holds can be performed first (R66, R147, R149). -/
def MayFree (s : State) (rid : Nat) (t : Tag) : Prop :=
  (frameAt s rid t).join = 0 ∨ logging s rid = false ∨ logMigrates s rid = false

/-- A destination can take a token under a tag; `sc` is the token's scaled bit, which no frame slot takes (R91). -/
def DstOk (s : State) (c : Cur) (d : Dst) (t : Tag) (sc : Bool) : Prop :=
  match d with
  | .arc k =>
    Arc.valid (AL.get 0 (s.unit c.u).arcs k.toNat) = true →
      Arc.kind (AL.get 0 (s.unit c.u).arcs k.toNat) = 6 → sc = false
  | .slot => sc = false ∧ SlotOk s c.f.rid t c.u.cl
  | .ret =>
    Arc.valid (frameAt s c.f.rid c.f.tag).retarc = true → Arc.kind (frameAt s c.f.rid c.f.tag).retarc = 6 → sc = false
  | .term | .none => True

/-- A destination can take a result token once the firing's own frame has its copy at the firing's cluster, which takes
2,080 bytes of its frame class (R51). -/
def DstNear (s : State) (c : Cur) (d : Dst) (t : Tag) : Prop :=
  d = .slot → CopyGood s c.f.rid t c.u.cl ∧ ((t.die = c.f.tag.die ∧ t.frame = c.f.tag.frame) ∨
    (frameAt s c.f.rid t).st = .live ∧ ((frameAt s c.f.rid t).copies.contains c.u.cl = true ∨
      frameUsed s c.u.cl + 4160 ≤ classSize (s.cluster c.u.cl).pword 1))

/-- The tag action has an index in range where it takes one (Table 02-3, action 2). -/
def TagOk (t : TagAct) (b : Payload) : Prop := t = .into → b.value.toNat < 512

/-- A node with two destinations can send a token. -/
def CanEmit (s : State) (c : Cur) (n : Nd) (b : Payload) (sc : Bool) : Prop :=
  TagOk n.t b ∧ ∀ t, tagOf s c n.t b = .ok t → DstOk s c n.d t sc ∧ DstOk s c n.e t sc

/-- A three-operand form can send its token. -/
def CanEmit3 (s : State) (c : Cur) (n : N3) (b : Payload) (sc : Bool) : Prop :=
  TagOk n.t b ∧ ∀ t, tagOf s c n.t b = .ok t → DstOk s c n.d t sc

/-- The instruction with operands A and B completes on every firing whose operands are good: it sends the scalar that `val`
describes on its destinations under its tag, and that is all it does. -/
def Node2 (op : Nat) (i : Instr) (n : Nd) (good : Opd → Opd → Prop) (val : Opd → Opd → Scalar → Prop) : Prop :=
  ∀ s c a b s1 s2, s.cur = some c → Unmasked s c op →
    readSrc s.base c n.a = .ok (a, s1) → readSrc s1 c n.b = .ok (b, s2) → good a b →
    (∀ r, val a b r → CanEmit s2 c n b.pay r.sc) →
    ∃ r t, val a b r ∧ finish s2 c n b.pay (.scal r) = .ok t ∧ exec i s = .next (countRetired t c op)

/-- The same for a three-operand form, which has one destination. -/
def Node3 (op : Nat) (i : Instr) (n : N3) (good : Opd → Opd → Opd → Prop) (val : Opd → Opd → Opd → Scalar → Prop) : Prop :=
  ∀ s c a b d s1 s2 s3, s.cur = some c → Unmasked s c op →
    readSrc s.base c n.a = .ok (a, s1) → readSrc s1 c n.b = .ok (b, s2) → readSrc s2 c n.c = .ok (d, s3) → good a b d →
    (∀ r, val a b d r → CanEmit3 s3 c n b.pay r.sc) →
    ∃ r t, val a b d r ∧ finish3 s3 c n b.pay (.scal r) = .ok t ∧ exec i s = .next (countRetired t c op)

/-! ### Lanes of a value -/

/-- Lane `j` of `k`-bit lanes (R74). -/
def laneAt (k j v : Nat) : Nat := v / 2 ^ (k * j) % 2 ^ k

/-- Lane `j` of `k`-bit lanes, as a bit vector. -/
abbrev laneBv (k j v : Nat) : BitVec k := BitVec.ofNat k (laneAt k j v)

/-- The number a lane stands for (R184). -/
def laneVal {k : Nat} (u : Bool) (p : BitVec k) : Int := if u then p.toNat else p.toInt

/-- A lane's exact result in the lane: its low bits, or clamped to the lane's range (R184). -/
def laneOf (k : Nat) (u sat : Bool) (x : Int) : BitVec k :=
  let lo : Int := if u then 0 else -(2 : Int) ^ (k - 1)
  let hi : Int := if u then (2 : Int) ^ k - 1 else (2 : Int) ^ (k - 1) - 1
  BitVec.ofInt k (if sat then max lo (min hi x) else x)

/-- An integer operand: a scalar of a type its width takes, scaled bit clear (R183, R90). -/
def IntOpd (w : Width) (o : Opd) (x : Scalar) : Prop := asScalar o (intTypes w) = .ok x ∧ x.sc = false

/-- A scalar of the type of Table 07-1 whose lanes at a width are those given, with zeros above them (R74, R183). -/
def IntLanes (w : Width) (ty : TType) (lane : Nat → BitVec (Width.shape w).1) (r : Scalar) : Prop :=
  r.sc = false ∧ r.ty = intResult w ty ∧ r.val.toNat < 2 ^ ((Width.shape w).1 * (Width.shape w).2) ∧
    ∀ j, j < (Width.shape w).2 → laneBv (Width.shape w).1 j r.val.toNat = lane j

/-- An integer node of two operands: `g` relates their lanes to the result's, lane by lane. -/
def IntNode2 (op : Nat) (i : Instr) (n : Nd) (w : Width) (u : Bool)
    (g : BitVec (Width.shape w).1 → BitVec (Width.shape w).1 → BitVec (Width.shape w).1 → Prop) : Prop :=
  Node2 op i n (fun a b => ∃ x y, IntOpd w a x ∧ IntOpd w b y) fun a b r => ∃ x y lane, IntOpd w a x ∧ IntOpd w b y ∧
    (∀ j, j < (Width.shape w).2 → g (laneBv _ j (intRead w u x)) (laneBv _ j (intRead w u y)) (lane j)) ∧
    IntLanes w x.ty lane r

/-- An integer node of one operand: `g` relates its lanes to the result's, lane by lane. -/
def IntNode1 (op : Nat) (i : Instr) (n : Nd) (w : Width)
    (g : BitVec (Width.shape w).1 → BitVec (Width.shape w).1 → Prop) : Prop :=
  Node2 op i n (fun a _ => ∃ x, IntOpd w a x) fun a _ r => ∃ x lane, IntOpd w a x ∧
    (∀ j, j < (Width.shape w).2 → g (laneBv _ j (intRead w false x)) (lane j)) ∧ IntLanes w x.ty lane r

/-- Length of the field at `pos` of a `k`-bit value under a control value (R188). -/
def fieldLength (k ctl : Nat) : Nat := if k ≤ ctl % 64 then 0 else Nat.min (ctl / 256 % 128) (k - ctl % 64)

/-- The bits of `bfx`: the field, extended with zeros or with its top bit (R188). -/
def FieldExtract {k : Nat} (u : Bool) (p : BitVec k) (ctl : Nat) (r : BitVec k) : Prop :=
  ∀ i, i < k → r.getLsbD i =
    if fieldLength k ctl = 0 then false
    else if i < fieldLength k ctl then p.getLsbD (ctl % 64 + i)
    else !u && p.getLsbD (ctl % 64 + fieldLength k ctl - 1)

/-- The bits of `bfi`: the base with the low bits of the inserted value in the field (R188). -/
def FieldInsert {k : Nat} (p q : BitVec k) (ctl : Nat) (r : BitVec k) : Prop :=
  ∀ i, i < k → r.getLsbD i =
    if ctl % 64 ≤ i ∧ i < ctl % 64 + fieldLength k ctl then q.getLsbD (i - ctl % 64) else p.getLsbD i

/-- The condition of an integer compare (Table 06-6). -/
def condHolds {k : Nat} (c : Cond) (p q : BitVec k) : Prop :=
  match c with
  | .eq => p = q | .ne => p ≠ q | .lt => p.toInt < q.toInt | .le => p.toInt ≤ q.toInt
  | .gt => q.toInt < p.toInt | .ge => q.toInt ≤ p.toInt
  | .c6 => p.toNat < q.toNat | .c7 => p.toNat ≤ q.toNat

/-! ### Floating lanes -/

/-- An operand of a floating format. -/
def FloatOpd (f : LaneFmt) (o : Opd) (x : Scalar) : Prop := asScalar o [f.ty] = .ok x

/-- The exact value of lane `j` of an operand, a subnormal read as zero under `fz` (R80). -/
def laneFV (f : LaneFmt) (fz : Bool) (x : Scalar) (j : Nat) : FV :=
  f.fmt.flushIn fz (f.fmt.value (laneAt f.w j x.val.toNat))

/-- The code that an exact value rounds to once in a mode (R81, R82). -/
def codeOf (f : LaneFmt) (mode : Rnd) (fz : Bool) (v : FV) : Nat := (f.fmt.round mode fz .arith v).1

/-- A scalar whose lanes have the codes given, with zeros above them, and its scaled bit (R74). -/
def FloatLanes (f : LaneFmt) (sc : Bool) (code : Nat → Nat) (r : Scalar) : Prop :=
  r.ty = f.ty ∧ r.sc = sc ∧ r.val.toNat < 2 ^ (f.w * f.n) ∧
    ∀ j, j < f.n → laneBv f.w j r.val.toNat = BitVec.ofNat f.w (code j)

/-- A node of two operands of scaled-bit class E on the lanes of a format (R90). -/
def FloatNodeE (op : Nat) (i : Instr) (n : Nd) (f : LaneFmt) (g : Scalar → Scalar → Nat → Nat) : Prop :=
  Node2 op i n (fun a b => ∃ x y, FloatOpd f a x ∧ FloatOpd f b y ∧ x.sc = y.sc)
    fun a b r => ∃ x y, FloatOpd f a x ∧ FloatOpd f b y ∧ FloatLanes f x.sc (g x y) r

/-- A node of two operands of class M: at most one scaled bit is set, and it sets the result's (R90). -/
def FloatNodeM (op : Nat) (i : Instr) (n : Nd) (f : LaneFmt) (g : Scalar → Scalar → Nat → Nat) : Prop :=
  Node2 op i n (fun a b => ∃ x y, FloatOpd f a x ∧ FloatOpd f b y ∧ ¬ (x.sc = true ∧ y.sc = true))
    fun a b r => ∃ x y, FloatOpd f a x ∧ FloatOpd f b y ∧ FloatLanes f (x.sc || y.sc) (g x y) r

/-- A node on the lanes of operand A, whose scaled bit must satisfy `ok` and is the result's. -/
def FloatNode1 (op : Nat) (i : Instr) (n : Nd) (f : LaneFmt) (ok : Bool → Prop) (g : Scalar → Nat → Nat) : Prop :=
  Node2 op i n (fun a _ => ∃ x, FloatOpd f a x ∧ ok x.sc)
    fun a _ r => ∃ x, FloatOpd f a x ∧ FloatLanes f x.sc (g x) r

/-- A comparison of the lanes of two operands: one bit for each lane, zeros above them (R193). -/
def FloatCompare (op : Nat) (i : Instr) (n : Nd) (f : LaneFmt) (k : Cond) : Prop :=
  Node2 op i n (fun a b => ∃ x y, FloatOpd f a x ∧ FloatOpd f b y ∧ x.sc = y.sc)
    fun a b r => ∃ x y, FloatOpd f a x ∧ FloatOpd f b y ∧ r.ty = .control ∧ r.sc = false ∧
      ∀ j, r.val.getLsbD j = (decide (j < f.n) && floatCond k (laneFV f false x j) (laneFV f false y j))

/-- A three-operand product and sum: M for A and B, E for C against the product (R191, R195). -/
def FloatNode3 (op : Nat) (i : Instr) (n : N3) (f cf : LaneFmt) (g : Scalar → Scalar → Scalar → Nat → Nat) : Prop :=
  Node3 op i n
    (fun a b d => ∃ x y z, FloatOpd f a x ∧ FloatOpd f b y ∧ FloatOpd cf d z ∧ ¬ (x.sc = true ∧ y.sc = true) ∧
      z.sc = (x.sc || y.sc))
    fun a b d r => ∃ x y z, FloatOpd f a x ∧ FloatOpd f b y ∧ FloatOpd cf d z ∧ FloatLanes cf z.sc (g x y z) r

/-! ### Conversions and packed values -/

/-- Types a conversion accepts (R196). -/
def cvtTypes : List TType := [.i64, .i32, .u64, .f32, .bf16x4, .i16x4, .e4x8, .e5x8, .i8x8, .qn4x16, .tagix]

/-- A converted scalar and its overflow mask: each output lane from its input lane, or the fill of its format (R92, R93,
R197). -/
def CvtLanes (o : OutFmt) (u fz : Bool) (m : Rnd) (ls : FV) (l : List InLane) (r : Scalar) (mask : Word) : Prop :=
  r.ty = o.ty ∧ r.sc = false ∧ r.val.toNat < 2 ^ (o.w * o.n) ∧
    (∀ j, j < o.n → laneBv o.w j r.val.toNat = BitVec.ofNat o.w
      (match l[j]? with | some x => (cvtLane o u fz m ls x).1 | none => o.fill)) ∧
    ∀ j, mask.getLsbD j = (decide (j < o.n) && match l[j]? with | some x => (cvtLane o u fz m ls x).2 | none => false)

/-- Operand B of a conversion: read where QN4 is involved (R198) or where the tag action takes it (R42), and only then. -/
def CvtReadsB (s : State) (c : Cur) (o : OutFmt) (n : Nd) (x : Scalar) (b : Opd) (s' : State) : Prop :=
  if cvtReadsB o x = true ∨ n.t = .into ∨ n.t = .frame then readSrc s c n.b = .ok (b, s')
  else b = ⟨plain 0 .i64, true⟩ ∧ s' = s

/-- A conversion completes: its value on destination 0 and, where a lane overflowed, the mask on destination 1, or counted
where that is 15 (R93). -/
def CvtNode (op : Nat) (i : Instr) (n : Nd) (o : OutFmt) (u fz : Bool) (m : Rnd) : Prop :=
  ∀ s c a b s1 s2 x l ls, s.cur = some c → Unmasked s c op →
    readSrc s.base c n.a = .ok (a, s1) → asScalar a cvtTypes = .ok x → CvtReadsB s1 c o n x b s2 →
    x.sc = false → inLanes u fz x = some l → cvtAllowed o l = true →
    (cvtReadsB o x = true → ∃ y, asScalar b [.i64] = .ok y ∧ y.sc = false ∧ scaleWord y.val.toNat = .ok ls) →
    CanEmit s2 c n b.pay false →
    ∃ r mask t, CvtLanes o u fz m ls l r mask ∧
      finishPair s2 c n b.pay (some (.scal r)) (if mask = 0 then none else some (plain mask .control)) = .ok t ∧
      exec i s = .next (countRetired (if mask ≠ 0 ∧ n.e = .none then countDiscard t c.u else t) c op)

/-- Two packed operands of one type; a zero takes the type of the other (R177, R200). -/
def PackPair (a b : Opd) (x y : Scalar) : Prop :=
  (a.zero = true → x = zeroOf (if b.zero then .bf16x4 else y.ty)) ∧ (a.zero = false → asScalar a packedTypes = .ok x) ∧
    (b.zero = true → y = zeroOf x.ty) ∧ (b.zero = false → asScalar b packedTypes = .ok y)

/-- A packed scalar of the type and scaled bit of another, whose lanes are those given. -/
def PackedLanes (x : Scalar) (lane : Nat → Nat) (r : Scalar) : Prop :=
  r.ty = x.ty ∧ r.sc = x.sc ∧ ∀ j, j < (packedShape x.ty).2 → laneAt (packedShape x.ty).1 j r.val.toNat = lane j

/-! ### Graph control, tags and frames -/

/-- The firing of a node whose opcode its region may run. -/
abbrev Fires (s : State) (c : Cur) (op : Nat) : Prop := s.cur = some c ∧ Unmasked s c op

/-- Operand A is read. -/
abbrev ReadsA (s : State) (c : Cur) (n : Nd) (a : Opd) (s' : State) : Prop := readSrc s.base c n.a = .ok (a, s')

/-- Operands A and B are read. -/
abbrev ReadsAB (s : State) (c : Cur) (n : Nd) (a b : Opd) (s' : State) : Prop :=
  ∃ s1, readSrc s.base c n.a = .ok (a, s1) ∧ readSrc s1 c n.b = .ok (b, s')

/-- The node ends in a state, in which its firing is counted if its opcode is retired (R405). -/
abbrev Ends (i : Instr) (s : State) (c : Cur) (op : Nat) (t : State) : Prop := exec i s = .next (countRetired t c op)

/-- The node takes a fault and has no other effect (R13). -/
abbrev Faults (i : Instr) (s : State) (c : Cur) (op : Nat) (n : Nd) (cause : Cause) (detail : Nat) : Prop :=
  exec i s = .next (takeFault (countRetired s.base c op) (siteOf s c op n.a n.b) ⟨cause, detail, 0⟩)

/-- A control operand: a scalar of a condition type, scaled bit clear (R190, R201). -/
def ControlOpd (o : Opd) (x : Scalar) : Prop := asScalar o condTypes = .ok x ∧ x.sc = false

/-- A condition operand is true (R190). -/
def Truth (x : Scalar) : Prop := if x.ty = .i32 then x.val.setWidth 32 ≠ 0 else x.val ≠ 0

/-- One token to each destination of a list, in order. -/
def sendList (s : State) (c : Cur) (p : Payload) (t : Tag) : List Dst → Res State
  | [] => .ok s
  | d :: l => match sendTo s c d p t with
    | .ok s' => sendList s' c p t l
    | .error e => .error e

/-- The arcs that the mask of `lit13` names beside the two destinations (R203). -/
def dupArcs (s : State) (c : Cur) (n : Nd) : List Dst :=
  ((List.range 8).filter fun k => bitAt (AL.get 0 (s.unit c.u).lits 13).toNat k).map (fun k => Dst.arc (BitVec.ofNat 3 k))
    |>.filter fun d => n.d ≠ d ∧ n.e ≠ d

/-- A result token whose tag and destinations are in order after an effect. -/
abbrev CanSay (s : State) (c : Cur) (n : Nd) : Prop := CanEmit s c n (plain 0 .i64) false

/-- A result token whose tag and destinations are in order after an effect on the firing's own frame. -/
def CanSayNear (s : State) (c : Cur) (n : Nd) : Prop :=
  ∀ t, tagOf s c n.t (plain 0 .i64) = .ok t → DstNear s c n.d t ∧ DstNear s c n.e t

/-- The token of a result with an effect before it: sent under the node's tag. -/
abbrev Says (s : State) (c : Cur) (n : Nd) (v : Nat) (ty : TType) (t : State) : Prop :=
  finish s c n (plain 0 .i64) (plain (BitVec.ofNat 64 v) ty) = .ok t

/-! ### What stays the same -/

/-- Nothing outside the tokens, units, clusters, frames and memory of the fabric has changed. -/
def SameDevice (s t : State) : Prop :=
  t.clock = s.clock ∧ t.agenda = s.agenda ∧ t.zeroed = s.zeroed ∧ t.regions = s.regions ∧ t.cfgNet = s.cfgNet ∧
    t.parts = s.parts ∧ t.partMap = s.partMap ∧ t.edgeCal = s.edgeCal ∧ t.hg = s.hg ∧ t.out = s.out

/-- Memory and its marks have not changed. -/
def SameMemory (s t : State) : Prop :=
  t.mem = s.mem ∧ t.enc = s.enc ∧ t.poison = s.poison ∧ t.pageRecs = s.pageRecs

/-- A logged interval of the region has room for what one node records (R361). -/
def LogRoom (s : State) (rid cl : Nat) : Prop := logging s rid = true → 2 ≤ ilogRoom s cl

/-- Tokens have been added to those on their way, and none taken. -/
def TokensAdded (s t : State) : Prop := ∃ l, t.net = s.net ++ l

/-- What a node that only computes may change: tokens on their way, slots and copies of frames of its region (a new copy is
written whole, which clears the errors of its lines: R51, R355), undo entries of its cluster's interval log, its overflow counter, and the retired-opcode counter of its partition. -/
def NodeFrame (op : Nat) (s : State) (c : Cur) (t : State) : Prop :=
  SameDevice (countRetired s c op) t ∧ SameMemory s { t with poison := s.poison } ∧
    (∀ k ∈ t.poison, k ∈ s.poison) ∧
    (∀ k ∈ s.poison, k ∉ t.poison → ∃ g i, k = frameLine s c.f.rid g c.u.cl i) ∧ t.nextId = s.nextId ∧ t.nonce = s.nonce ∧
    t.issued = s.issued ∧ TokensAdded s t ∧ (∀ u, u ≠ c.u → t.unit u = s.unit u) ∧
    { t.unit c.u with ovDiscard := 0 } = { s.unit c.u with ovDiscard := 0 } ∧
    (∀ k, k ≠ c.u.cl → t.cluster k = s.cluster k) ∧
    { t.cluster c.u.cl with undo := [] } = { s.cluster c.u.cl with undo := [] } ∧
    (∀ r d f, r ≠ c.f.rid → t.frame r d f = s.frame r d f) ∧
    ∀ d f, { t.frame c.f.rid d f with copies := [], slots := [], stamps := [] } =
      { s.frame c.f.rid d f with copies := [], slots := [], stamps := [] }

/-! ### Memory accesses -/

/-- The node takes a fault that names an address, and has no other effect (R13). -/
abbrev FaultsAt (i : Instr) (s : State) (c : Cur) (op : Nat) (n : Nd) (cause : Cause) (addr : Nat) : Prop :=
  exec i s = .next (takeFault (countRetired s.base c op) (siteOf s c op n.a n.b) ⟨cause, 0, addr⟩)

/-- The operands of a memory-port node pass their checks of type and scaled bit (Table 08-1, step 1). -/
def MemOperands (s : State) (c : Cur) (m : MemForm) (s2 : State) (x : Scalar) (y : Payload) : Prop :=
  ∃ a b s1, readSrc s.base c m.n.a = .ok (a, s1) ∧ readSrc s1 c m.n.b = .ok (b, s2) ∧ asScalar a [.u64, .i64] = .ok x ∧
    x.sc = false ∧ memOperand m.kind b = .ok y ∧ orderOk c.f.o = .ok () ∧ expectedOk m.kind y c.f.x = .ok ()

/-- The pointer passes steps 2 to 4 of Table 08-1; a prefetch takes step 2 alone (R226). -/
def PointerOk (s : State) (c : Cur) (m : MemForm) (v : Nat) : Prop :=
  if m.kind = .prefetch then (formOf s c.u.cl v).isSome = true
  else ∃ g, checkPointer s c.u c.f.rid v m.kind.size m.kind.size = .ok g

/-- No region waits for its last work to end. -/
def NoneEnding (s : State) : Prop := ∀ p ∈ s.regions, (s.region p.1).st ≠ .ending

/-- An access of a port's queue that may be performed at a target: its page has the rights it needs and its region's
identity, and it has the ordering input that an SO page or `st.rel` demands (Table 08-1, steps 5 to 8). -/
def Performs (s : State) (u : UId) (a : Access) (m : MemForm) (t : Target) : Prop :=
  accessNo s u a.id = some a ∧ memForm a.i = some m ∧ a.st = .queued ∧ accessTarget s u a m = .at t ∧ NoneEnding s ∧
    (m.kind.reads = true → t.r = true) ∧ (m.kind.writes = true → t.w = true) ∧
    (t.pool = true ∨ t.ident = 0 ∨ t.ident = Rcb.ident (s.region a.f.rid).rcb) ∧
    ((t.pool = false ∧ t.kind = .so ∨ ∃ w, m.kind = .storeRel w) → a.f.o.isSome = true)

/-- The state in which an access is performed: its translation is the most recently used (R342). -/
abbrev atPort (s : State) (u : UId) (a : Access) : State := touchTlb s u a.f.rid (accessAddr a)

/-- The line at a target is not poisoned and its format admits a scalar of a declared format (R122, R220). -/
def Admits (s : State) (v : View) (u : UId) (a : Access) (t : Target) : Prop :=
  s.poison.contains t.line = false ∧ formatOk (readDesc s v a.f.rid u.cl t).fmt = true ∧
    formatAdmits (readDesc s v a.f.rid u.cl t).fmt (declared (accessB a).2) = true

/-- The bytes and the descriptor that a store writes, once it passes the format check (R220, R223 to R225, R123). -/
def Stores (s : State) (u : UId) (a : Access) (m : MemForm) (t : Target) (cells : List Host.Cell) (desc : Option Desc) : Prop :=
  let d := readDesc s .cluster a.f.rid u.cl t
  let x := accessLine a
  match m.kind with
  | .store n => Admits s .cluster u a t ∧ cells = cellsOf t.key n (accessB a).1 ∧ desc = none
  | .storeRel w => Admits s .cluster u a t ∧ cells = cellsOf t.key (if w then 4 else 8) (accessB a).1 ∧ desc = none
  | .storeLine => formatOk x.2.fmt = true ∧ cells = cellsOf t.key 64 x.1.toNat ∧ desc = some x.2
  | .storeMasked => formatOk x.2.fmt = true ∧
      if granuleMask s u a.f.slot = 0xFF then cells = cellsOf t.key 64 x.1.toNat ∧ desc = some x.2
      else s.poison.contains t.line = false ∧ (d.fmt = 0 ∨ d = x.2) ∧ desc = none ∧
        cells = maskedCells t.key (granuleMask s u a.f.slot) x.1
  | .storeDesc => (accessB a).1 < 2 ^ 16 ∧ formatOk ((accessB a).1 / 256) = true ∧ cells = [] ∧
      desc = some (BitVec.ofNat 16 (accessB a).1)
  | _ => False

/-- Memory after a store: its bytes and its descriptor, and every other byte as before. -/
def Stored (s t : State) (line : Nat) (cells : List Host.Cell) (desc : Option Desc) : Prop :=
  (∀ p ∈ cells, Memory.read t.mem p.1 = p.2) ∧ (∀ d, desc = some d → Memory.readN t.mem (descKey line) 2 = d.toNat) ∧
    ∀ k, (∀ p ∈ cells, p.1 ≠ k) → (desc = none ∨ k ≠ descKey line ∧ k ≠ descKey line + 1) →
      Memory.read t.mem k = Memory.read s.mem k

/-- The state in which a store or atomic finds its line: what the other clusters hold for the line has drained (R124,
R131). -/
abbrev atLine (s : State) (u : UId) (a : Access) (t : Target) : State := drainOthers (atPort s u a) u.cl t.line

/-- The state on which a visible write to a line lands: no cluster holds a store to it, and where a port's translations were
read from it no cluster holds any (R129, R149). -/
def drainedFor (s : State) (line : Nat) : State :=
  if translates s line = true then drainWhere s fun _ _ => true else drainLine s line fun _ _ => true

/-- The check that a store meets when it is performed later (R122, R123). -/
def storeAdmit (s : State) (u : UId) (a : Access) (m : MemForm) : Admit :=
  match m.kind with
  | .store _ | .storeRel _ => .scalar (declared (accessB a).2)
  | .storeMasked => if granuleMask s u a.f.slot = 0xFF then .any else .masked (accessLine a).2
  | _ => .any

/-- What a load emits of its bytes and its line's descriptor (Table 08-3, R222, R225). -/
def loadedToken (k : MemKind) (v : Nat) (d : Desc) : Payload :=
  match k with
  | .loadLine => .line (BitVec.ofNat 512 v) d none
  | .loadDesc => plain (BitVec.ofNat 64 d.toNat) .i64
  | _ => loadToken k d.fmt v

/-- The kinds of access that load. -/
def Loads (k : MemKind) : Prop := (∃ n x, k = .load n x) ∨ (∃ w, k = .loadAcq w) ∨ k = .loadLine ∨ k = .loadDesc

/-- No cluster holds a store to a line. -/
def NoneHeld (s : State) (line : Nat) : Prop := ∀ p ∈ s.clusters, ∀ e ∈ p.2.writeQ, e.line ≠ line

/-- A visible write to a line finds no held store that must land before it (R129, R131, R149). -/
def Quiet (s : State) (line : Nat) : Prop := translates s line = false ∧ NoneHeld s line

/-- The second operand of an access, by which its tag action may form a tag. -/
abbrev accessArg (a : Access) : Payload := a.f.r.getD (plain 0 .i64)

/-- The state once what a frame was that is about to be free is in the undo entries of its region (R361). -/
abbrev recorded (s : State) (rid die fr : Nat) : State :=
  logUndo s rid ((s.frame rid die fr).copies.headD ((s.region rid).host.headD 0)) (.frame die fr (s.frame rid die fr))

/-! ### Tokens that meet -/

/-- Of two matches that formed in one clock the first enters the queue before the second: that of the lower slot (R40), and of
two of a `merge` the left token's (R202). -/
def Before (f g : Firing) : Prop :=
  f.slot < g.slot ∨ f.slot = g.slot ∧ f.l.isSome = true ∧ f.r = none ∧ g.l = none

/-- A match joins a queue behind the matches formed before it and, of those of its own clock, where R40 and R202 put it. -/
def Joins (f : Firing) (l l' : List Firing) : Prop :=
  ∃ pre post, l = pre ++ post ∧ l' = pre ++ f :: post ∧ (∀ g ∈ post, g.formedAt = f.formedAt ∧ Before f g) ∧
    ∀ g, pre.getLast? = some g → ¬ (g.formedAt = f.formedAt ∧ Before f g)

/-! ### Lines -/

/-- A line-unit firing issues: the tiles its operands name are ready and this use of each is counted, and A and B are read
(R40, R253, R254). -/
def FiresLine (s : State) (c : Cur) (n : Nd) (a b : Opd) (s2 : State) : Prop :=
  s.cur = some c ∧ (∀ k ∈ firingTiles s.base c n, tileReady s.base c.u.cl k = true) ∧
    ∃ s1, readSrc ((firingTiles s.base c n).foldl (consumeTile c.u.cl) s.base) c n.a = .ok (a, s1) ∧
      readSrc s1 c n.b = .ok (b, s2)

/-- A line-unit firing faults: it has issued, so its use of each tile counts, and it has no other effect (R13, R253). -/
abbrev LineFaults (i : Instr) (s : State) (c : Cur) (op : Nat) (n : Nd) (cause : Cause) (detail addr : Nat) : Prop :=
  exec i s = .next (takeFault (countRetired ((firingTiles s.base c n).foldl (consumeTile c.u.cl) s.base) c op)
    (siteOf s.base c op n.a n.b) ⟨cause, detail, addr⟩)

/-- Lane `j` of a line's data at the lane width of a format (R255). -/
abbrev lineLane (fmt : Nat) (l : Line) (j : Nat) : Nat := laneAt (lineShape fmt).1 j l.1.toNat

/-- A line whose lanes at the width of a format are those given. -/
def LanesAre (fmt : Nat) (lane : Nat → Nat) (r : Line) : Prop :=
  ∀ j, j < (lineShape fmt).2 → laneBv (lineShape fmt).1 j r.1.toNat = BitVec.ofNat _ (lane j)

/-- A lane-by-lane instruction of two operands: a result line for each line of A, whose lanes `g` gives and whose descriptor
`desc` gives; `ok` is its format set and `exempt` says that B may have any format (R254, R256). -/
def LineNode2 (op : Nat) (i : Instr) (n : Nd) (exempt : Bool) (ok : Nat → Prop) (desc : Desc → Desc)
    (g : Cur → State → Nat → Nat → Nat → Nat) : Prop :=
  ∀ s c a b s2 x y, FiresLine s c n a b s2 → lineA s2 c.u.cl a = .ok x → lineB s2 c.u.cl x exempt b = .ok y →
    (∀ l ∈ x.lines, ok l.2.fmt) → CanEmit s2 c n b.pay false →
    ∃ l t, l.length = x.lines.length ∧ (∀ p ∈ List.zip l (List.zip x.lines y), p.1.2 = desc p.2.1.2 ∧
        LanesAre p.2.1.2.fmt (fun j => g c s2 p.2.1.2.fmt (lineLane p.2.1.2.fmt p.2.1 j) (lineLane p.2.1.2.fmt p.2.2 j)) p.1) ∧
      emitLines s2 c n b l = .ok t ∧ Ends i s c op t

/-- A lane-by-lane instruction of one operand. -/
def LineNode1 (op : Nat) (i : Instr) (n : Nd) (ok : Nat → Prop) (g : Nat → Nat → Nat) : Prop :=
  ∀ s c a b s2 x, FiresLine s c n a b s2 → lineA s2 c.u.cl a = .ok x → (∀ l ∈ x.lines, ok l.2.fmt) →
    CanEmit s2 c n b.pay false →
    ∃ l t, l.length = x.lines.length ∧ (∀ p ∈ List.zip l x.lines, p.1.2 = resultDesc p.2.2 ∧
        LanesAre p.2.2.fmt (fun j => g p.2.2.fmt (lineLane p.2.2.fmt p.2 j)) p.1) ∧
      emitLines s2 c n b l = .ok t ∧ Ends i s c op t

/-- The formats of set F or I of Table 09-1. -/
def inFI (fmt : Nat) : Prop := fmt = 0x01 ∨ fmt = 0x02 ∨ fmt = 0x03 ∨ fmt = 0x04 ∨ fmt = 0x05

/-- The formats of set F. -/
def inF (fmt : Nat) : Prop := fmt = 0x04 ∨ fmt = 0x05

/-- The formats of set I. -/
def inI (fmt : Nat) : Prop := fmt = 0x01 ∨ fmt = 0x02 ∨ fmt = 0x03

/-- The formats of set X: those of Table 03-7 but QN4 and compressed context. -/
def inX (fmt : Nat) : Prop := fmt = 0x00 ∨ inFI fmt ∨ fmt = 0x07 ∨ fmt = 0x08 ∨ fmt = 0x0A

/-- The floating format of a line of set F. -/
def fmtF (fmt : Nat) : Fmt := if fmt = 0x04 then .f32 else .bf16

/-- The exact value of a lane of set F, a subnormal read as zero under `fz` (R80). -/
def fvF (fz : Bool) (fmt v : Nat) : FV := (fmtF fmt).flushIn fz ((fmtF fmt).value v)

/-- The signed integer of a lane of set I. -/
def intI (fmt v : Nat) : Int := (BitVec.ofNat (lineShape fmt).1 v).toInt

/-- A lane of set F rounded once, or of set I brought into its lane (R258). -/
def fiLane (m : Rnd) (fz sat : Bool) (fmt : Nat) (f : FV) (x : Int) : Nat :=
  if fmt = 0x04 ∨ fmt = 0x05 then ((fmtF fmt).round m fz .arith f).1 else (laneOf (lineShape fmt).1 false sat x).toNat

/-- The tokens of a list leave in order on both destinations. -/
abbrev Emits (s : State) (c : Cur) (n : Nd) (b : Opd) (l : List Payload) (t : State) : Prop :=
  l.foldlM (fun s p => finish s c n b.pay p) s = .ok t

/-! ### Engine operations -/

/-- The node's operation takes the next entry of its port's queue with its operands (R238); nothing else changes. -/
def Queues (op : Nat) (i : Instr) (s : State) (c : Cur) (s3 : State) (l r : Payload) : Prop :=
  Ends i s c op { s3 with
    nextId := s3.nextId + 1
    units := AL.set s3.units c.u { s3.unit c.u with ops := (s3.unit c.u).ops ++
      [⟨s3.nextId, i, { c.f with l := some l, r := some r }, .queued, none, none, false, 0⟩] } }

/-- Operation `a` of a port's queue may be performed. -/
def OpReady (s : State) (u : UId) (a : Access) : Prop := opNo s u a.id = some a ∧ a.st = .queued ∧ NoneEnding s

/-- The operation ends, and its entry is free. -/
abbrev OpEnds (s : State) (u : UId) (a : Access) (t : State) : Prop :=
  exec (.engineOperationComplete u a.id) s = .next (settle (dropOp t u a.id))

/-- The operation faults: its entry is free and it has no other effect (R239). -/
abbrev OpFaults (s : State) (u : UId) (a : Access) (cause : Cause) (detail : Nat) : Prop :=
  exec (.engineOperationComplete u a.id) s =
    .next (settle (takeFault (dropOp s u a.id) (opFaultSite u a ⟨cause, detail, 0⟩) ⟨cause, detail, 0⟩))

/-- The block at a pointer of an operation: its contents, its target, and the state in which it is read (R239). -/
abbrev OpBlock (s : State) (u : UId) (a : Access) (p n blk : Nat) (t : Target) (s1 : State) : Prop :=
  engBlock s u a.f.rid p n a.f.o.isSome = .ok (blk, t, s1)

/-- The state after an operation writes `n` bytes at an offset of its block. -/
abbrev blockWrite (s : State) (a : Access) (t : Target) (off n v : Nat) : State :=
  visibleWrite s t.line (cellsOf (t.key + off) n v) none (t.enc (keysOf s a.f.rid))

/-- An operation's one result leaves, and it ends. -/
def OpSays (s : State) (u : UId) (a : Access) (n : Nd) (s2 : State) (p : Payload) : Prop :=
  CanEmit s2 ⟨u, a.f⟩ n (accessArg a) p.scaled → ∃ t, finish s2 ⟨u, a.f⟩ n (accessArg a) p = .ok t ∧ OpEnds s u a t

/-- An operation's results leave on its two destinations, and it ends. -/
def OpSaysPair (s : State) (u : UId) (a : Access) (n : Nd) (s2 : State) (p q : Option Payload) : Prop :=
  (∀ x, p = some x ∨ q = some x → CanEmit s2 ⟨u, a.f⟩ n (accessArg a) x.scaled) →
    TagOk n.t (accessArg a) → ∃ t, finishPair s2 ⟨u, a.f⟩ n (accessArg a) p q = .ok t ∧ OpEnds s u a t

/-- A queue header keeps R248. -/
def QueueOk (s : State) (cl v : Nat) : Prop :=
  QHead.lgcap v ≤ 20 ∧ (formOf s cl (QHead.base v)).isSome = true ∧ QHead.base v % 8 = 0 ∧ v / 2 ^ 192 = 0 ∧ bits v 127 72 = 0 ∧
    (QHead.tail v + 2 ^ 32 - QHead.head v) % 2 ^ 32 ≤ 2 ^ QHead.lgcap v

/-! ### Commands of the host -/

/-- Command `c` is the next of its function, it has a code, and it passes the checks that precede every command (R370, R384,
R394). -/
def Taken (s : State) (c : Cmd) (code : Nat) (pfOnly : Bool) : Prop :=
  nextCommand s c.fn = some c ∧ cmdCode c = code ∧ c.rsvd = 0 ∧ (bootScrub s = false ∨ c.code = 0x10) ∧
    (c.fn = 0 ∨ pfOnly = false ∧ ∃ v, boundVd s c.fn = some v)

/-- The command completes with a status, detail and result, after an effect. -/
abbrev Completes (i : Instr) (s : State) (c : Cmd) (status detail result : Nat) (t : State) : Prop :=
  exec i s = .next (completeCmd t c status detail result)

/-- The policy of a virtual device permits a command for it, and its partition is not frozen (R372, R373). -/
def Permits (s : State) (c : Cmd) (v : VDev) : Prop :=
  ((s.part v.part).frozen = false ∨ c.code = 0x0D) ∧
    (if c.fn = 0 then c.code = 0x09 ∨ c.code = 0x0D ∨ bitAt (policyField v 47 35) (c.code - 5) = true
      else v.fn = c.fn ∧ bitAt (policyField v 60 48) (c.code - 5) = true)

/-- The virtual device that a command names by its handle, permitted. -/
def NamesVd (s : State) (c : Cmd) (v : VDev) : Prop := (∃ k, vdHandle s c.handle = some (k, v)) ∧ Permits s c v

/-- The active context that a command names by its handle, permitted. -/
def NamesCtx (s : State) (c : Cmd) (cx : Nat) (x : Ctx) (v : VDev) : Prop :=
  ctxHandle s c.handle = some (cx, x) ∧ vdOf s x.vd = some v ∧ x.st = .active ∧ Permits s c v

/-- A debug command names a virtual device whose policy permits debug, and a cluster of its partition that has power (R386,
R391). -/
def DebugOf (s : State) (c : Cmd) (v : VDev) : Prop :=
  ((∃ k, vdHandle s c.handle = some (k, v)) ∨
      vdHandle s c.handle = none ∧ ∃ cx x, ctxHandle s c.handle = some (cx, x) ∧ x.st ≠ .free ∧
        vdOf s x.vd = some v) ∧
    Permits s c v ∧ (policyField v 62 61 = 1 ∨ policyField v 62 61 = 2) ∧ partOf s (Dbg.cl c) = v.part ∧
    (s.cluster (Dbg.cl c)).power ≠ .gated

/-- The loaded region that a debug command names. -/
def DebugRegion (s : State) (c : Cmd) (v : VDev) (rid : Nat) : Prop :=
  (regionsOf s v.part v.num).find? (fun r => (s.region r).num == Dbg.region c && running s r) = some rid

/-- The unit that a debug command names. -/
def DebugUnit (c : Cmd) (u : UId) : Prop :=
  ∃ k, ukindOf (Dbg.ukind c) = some k ∧ unitInRange (Dbg.ukind c) (Dbg.num c) = true ∧ u = ⟨Dbg.cl c, k, Dbg.num c⟩

end Sys2Proof.Machine
end

