-- ==== Sys2Proof/Certificates/Slice0/Obligations.lean ====
section
/-! DEFINITION. The statements for the provers. Each docstring cites the rules of the spec that the statement rests on. -/

open Sys2Proof Sys2Proof.Machine

/-! ### Integer nodes -/

/-- R184 (`add`, `sub`, `mul`, `div`, `rem`, `mulhi`): the exact lane result, its low bits or clamped under `.sat`. R184
(`min`, `max`, `abs`, `neg`): the smaller and the larger lane, the magnitude and the negation, the last two read as signed and
clamped under `.sat`. -/
def Obligations.IntegerArithmeticAndOrderGiveExactLanes : Prop :=
  (∀ (n : Nd) (u sat : Bool) (w : Width),
    IntNode2 0x00 (.add n u sat w) n w u (fun p q r => r = laneOf _ u sat (laneVal u p + laneVal u q)) ∧
    IntNode2 0x01 (.sub n u sat w) n w u (fun p q r => r = laneOf _ u sat (laneVal u p - laneVal u q)) ∧
    IntNode2 0x02 (.mul n u sat w) n w u (fun p q r => r = laneOf _ u sat (laneVal u p * laneVal u q)) ∧
    IntNode2 0x03 (.mulhi n u w) n w u
      (fun p q r => r = BitVec.ofInt _ (laneVal u p * laneVal u q / (2 : Int) ^ (Width.shape w).1)) ∧
    IntNode2 0x04 (.div n u sat w) n w u
      (fun p q r => r = if q = 0 then BitVec.allOnes _ else laneOf _ u sat (Int.tdiv (laneVal u p) (laneVal u q))) ∧
    IntNode2 0x05 (.rem n u w) n w u
      (fun p q r => r = if q = 0 then p else
        BitVec.ofInt _ (laneVal u p - laneVal u q * Int.tdiv (laneVal u p) (laneVal u q)))) ∧
  (∀ (n : Nd) (u sat : Bool) (w : Width),
    IntNode2 0x06 (.min n u w) n w u (fun p q r => r = if laneVal u q < laneVal u p then q else p) ∧
    IntNode2 0x07 (.max n u w) n w u (fun p q r => r = if laneVal u p < laneVal u q then q else p) ∧
    IntNode1 0x08 (.abs n sat w) n w (fun p r => r = laneOf _ false sat p.toInt.natAbs) ∧
    IntNode1 0x09 (.neg n sat w) n w (fun p r => r = laneOf _ false sat (-p.toInt)))

/-- R187, Table 07-4: the bit operations, lane by lane; the count of a shift is the lane of B modulo the lane width; `clz`
gives the number of zero bits above the highest one bit of a lane, the lane width where it has none; `popc` the number of its
one bits. -/
def Obligations.BitOperationsActOnEachLane : Prop :=
  ∀ (n : Nd) (w : Width),
    IntNode2 0x10 (.and n w) n w false (fun p q r => r = p &&& q) ∧
    IntNode2 0x11 (.or n w) n w false (fun p q r => r = p ||| q) ∧
    IntNode2 0x12 (.xor n w) n w false (fun p q r => r = p ^^^ q) ∧
    IntNode2 0x13 (.andn n w) n w false (fun p q r => r = p &&& ~~~q) ∧
    IntNode1 0x14 (.not n w) n w (fun p r => r = ~~~p) ∧
    IntNode2 0x15 (.shl n w) n w false (fun p q r => r = p <<< (q.toNat % (Width.shape w).1)) ∧
    IntNode2 0x16 (.shr n w) n w false (fun p q r => r = p >>> (q.toNat % (Width.shape w).1)) ∧
    IntNode2 0x17 (.sar n w) n w false (fun p q r => r = p.sshiftRight (q.toNat % (Width.shape w).1)) ∧
    IntNode2 0x18 (.rotl n w) n w false (fun p q r => r = p.rotateLeft (q.toNat % (Width.shape w).1)) ∧
    IntNode1 0x19 (.clz n w) n w (fun p r => ∃ c, c ≤ (Width.shape w).1 ∧ r = BitVec.ofNat _ c ∧
      p.toNat < 2 ^ ((Width.shape w).1 - c) ∧ (c < (Width.shape w).1 → 2 ^ ((Width.shape w).1 - c - 1) ≤ p.toNat)) ∧
    IntNode1 0x1A (.popc n w) n w (fun p r =>
      r = BitVec.ofNat _ ((List.range (Width.shape w).1).filter fun i => p.getLsbD i).length)

/-- R188: the field that a control value describes, extracted and sign- or zero-extended by `bfx`, inserted by `bfi`. R189
(`cmp`), R190 (`sel`), R185 (`lea`), R186 (`mov`): a control token of the condition; B or C as they are; the address A +
B*2^k; operand A unchanged. -/
def Obligations.BitFieldsCompareSelectAddressAndMove : Prop :=
  ((∀ (n : Nd) (u wd : Bool), IntNode2 0x1B (.bfx n u wd) n (wide wd) u fun p ctl r => FieldExtract u p ctl.toNat r) ∧
  ∀ (n : N3) (wd : Bool), Node3 0x1C (.bfi n wd) n
    (fun a b d => ∃ x y z, IntOpd (wide wd) a x ∧ IntOpd (wide wd) b y ∧ IntOpd (wide wd) d z)
    fun a b d r => ∃ x y z, IntOpd (wide wd) a x ∧ IntOpd (wide wd) b y ∧ IntOpd (wide wd) d z ∧
      ∃ q, FieldInsert (laneBv _ 0 (intRead (wide wd) false x)) (laneBv _ 0 (intRead (wide wd) false y))
        (intRead (wide wd) false z) q ∧ IntLanes (wide wd) x.ty (fun _ => q) r) ∧
  ((∀ (n : Nd) (wd : Bool) (k : Cond), Node2 0x1D (.cmp n wd k) n
    (fun a b => ∃ x y, asScalar a (intTypes (wide wd)) = .ok x ∧ asScalar b (intTypes (wide wd)) = .ok y ∧ x.sc = y.sc)
    fun a b r => ∃ x y, asScalar a (intTypes (wide wd)) = .ok x ∧ asScalar b (intTypes (wide wd)) = .ok y ∧
      r.ty = .control ∧ r.sc = false ∧ (r.val = 1 ∨ r.val = 0) ∧
      (r.val = 1 ↔ condHolds k (laneBv (Width.shape (wide wd)).1 0 (intRead (wide wd) false x))
        (laneBv _ 0 (intRead (wide wd) false y)))) ∧
  (∀ n : N3, Node3 0x1E (.sel n) n
    (fun a b d => (∃ x, asScalar a condTypes = .ok x ∧ x.sc = false) ∧ (∃ y, asScalar b allTypes = .ok y) ∧
      ∃ z, asScalar d allTypes = .ok z)
    fun a b d r => ∃ x, asScalar a condTypes = .ok x ∧
      (Truth x → asScalar b allTypes = .ok r) ∧ (¬ Truth x → asScalar d allTypes = .ok r)) ∧
  (∀ (n : Nd) (k : BitVec 2), Node2 0x0A (.lea n k) n
    (fun a b => ∃ x y, asScalar a [.u64, .i64] = .ok x ∧ asScalar b [.i64, .u64, .i32, .tagix] = .ok y ∧ x.sc = false ∧
      y.sc = false)
    fun a b r => ∃ x y, asScalar a [.u64, .i64] = .ok x ∧ asScalar b [.i64, .u64, .i32, .tagix] = .ok y ∧
      r = ⟨x.val + (if y.ty = .i32 then (y.val.setWidth 32).signExtend 64 else y.val) <<< k.toNat, .u64, false⟩) ∧
  ∀ (n : Nd) (w : Width), Node2 0x0B (.mov n w) n (fun a _ => ∃ x, asScalar a allTypes = .ok x)
    fun a _ r => asScalar a allTypes = .ok r)

/-! ### Floating-point nodes -/

/-- R191: sum, difference and product of each lane, formed exactly and rounded once. -/
def Obligations.FloatArithmeticRoundsEachLaneOnce : Prop :=
  ∀ (n : Nd) (fz : Bool) (m : Rnd),
    let sum := fun (f : LaneFmt) x y j => codeOf f m fz (FV.add m (laneFV f fz x j) (laneFV f fz y j))
    let diff := fun (f : LaneFmt) x y j => codeOf f m fz (FV.add m (laneFV f fz x j) (FV.neg (laneFV f fz y j)))
    let prod := fun (f : LaneFmt) x y j => codeOf f m fz (FV.mul (laneFV f fz x j) (laneFV f fz y j))
    FloatNodeE 0x20 (.faddF32 n fz m) n .f32 (sum .f32) ∧ FloatNodeE 0x30 (.faddBf16x4 n fz m) n .bf16 (sum .bf16) ∧
    FloatNodeE 0x40 (.faddE4x8 n fz m) n .e4 (sum .e4) ∧ FloatNodeE 0x48 (.faddE5x8 n fz m) n .e5 (sum .e5) ∧
    FloatNodeE 0x21 (.fsubF32 n fz m) n .f32 (diff .f32) ∧ FloatNodeE 0x31 (.fsubBf16x4 n fz m) n .bf16 (diff .bf16) ∧
    FloatNodeE 0x41 (.fsubE4x8 n fz m) n .e4 (diff .e4) ∧ FloatNodeE 0x49 (.fsubE5x8 n fz m) n .e5 (diff .e5) ∧
    FloatNodeM 0x22 (.fmulF32 n fz m) n .f32 (prod .f32) ∧ FloatNodeM 0x32 (.fmulBf16x4 n fz m) n .bf16 (prod .bf16) ∧
    FloatNodeM 0x42 (.fmulE4x8 n fz m) n .e4 (prod .e4) ∧ FloatNodeM 0x4A (.fmulE5x8 n fz m) n .e5 (prod .e5)

/-- R192: `fmin` and `fmax` do not round; a lone NaN yields the other operand, or the canonical NaN under `.nan`; -0 is below
+0; subnormals are flushed first under `fz`. -/
def Obligations.FloatMinimumAndMaximum : Prop :=
  ∀ (n : Nd) (nan fz : Bool),
    let pick := fun (more : Bool) (f : LaneFmt) (x y : Scalar) j =>
      let p := laneFV f fz x j
      let q := laneFV f fz y j
      codeOf f .ne false
        (if p = .nan ∧ q = .nan then .nan
         else if p = .nan then (if nan then .nan else q)
         else if q = .nan then (if nan then .nan else p)
         else if more then (if FV.cmp true p q < 0 then q else p) else (if 0 < FV.cmp true p q then q else p))
    FloatNodeE 0x24 (.fminF32 n nan fz) n .f32 (pick false .f32) ∧
    FloatNodeE 0x34 (.fminBf16x4 n nan fz) n .bf16 (pick false .bf16) ∧
    FloatNodeE 0x43 (.fminE4x8 n nan fz) n .e4 (pick false .e4) ∧
    FloatNodeE 0x4B (.fminE5x8 n nan fz) n .e5 (pick false .e5) ∧
    FloatNodeE 0x25 (.fmaxF32 n nan fz) n .f32 (pick true .f32) ∧
    FloatNodeE 0x35 (.fmaxBf16x4 n nan fz) n .bf16 (pick true .bf16) ∧
    FloatNodeE 0x44 (.fmaxE4x8 n nan fz) n .e4 (pick true .e4) ∧
    FloatNodeE 0x4C (.fmaxE5x8 n nan fz) n .e5 (pick true .e5)

/-- R193: bit i of the control token is 1 where the condition holds in lane i; bits at and above the lane count are 0; a NaN
operand makes conditions 1 and 6 true and the others false (R156). -/
def Obligations.FloatCompareGivesOneBitForEachLane : Prop :=
  (∀ p q : FV, (p = .nan ∨ q = .nan) → (∀ k, k ∈ ([.eq, .lt, .le, .gt, .ge, .c7] : List Cond) → floatCond k p q = false) ∧
    floatCond .ne p q = true ∧ floatCond .c6 p q = true) ∧
  (∀ p q : FV, p ≠ .nan → q ≠ .nan → floatCond .c6 p q = false ∧ floatCond .c7 p q = true ∧
    floatCond .ne p q = !floatCond .eq p q ∧ floatCond .ge p q = !floatCond .lt p q ∧ floatCond .le p q = !floatCond .gt p q) ∧
  ∀ (n : Nd) (k : Cond),
    FloatCompare 0x28 (.fcmpF32 n k) n .f32 k ∧ FloatCompare 0x38 (.fcmpBf16x4 n k) n .bf16 k ∧
    FloatCompare 0x45 (.fcmpE4x8 n k) n .e4 k ∧ FloatCompare 0x4D (.fcmpE5x8 n k) n .e5 k

/-- R191: `fneg` and `fabs` change the sign of each lane; the FP32 and BF16 approximations of R194 round f(a) once. -/
def Obligations.FloatSignAndApproximations : Prop :=
  ∀ (n : Nd) (fz : Bool) (m : Rnd),
    let sign := fun (g : FV → FV) (f : LaneFmt) (x : Scalar) j => codeOf f .ne false (g (laneFV f fz x j))
    let near := fun (g : FV → Near) (f : LaneFmt) (x : Scalar) j =>
      ((if f = .f32 then Fmt.p12 else f.fmt).round m fz .arith (g (laneFV f fz x j)).1 (g (laneFV f fz x j)).2).1
    FloatNode1 0x26 (.fnegF32 n fz) n .f32 (fun _ => True) (sign FV.neg .f32) ∧
    FloatNode1 0x36 (.fnegBf16x4 n fz) n .bf16 (fun _ => True) (sign FV.neg .bf16) ∧
    FloatNode1 0x27 (.fabsF32 n fz) n .f32 (fun _ => True) (sign FV.abs .f32) ∧
    FloatNode1 0x37 (.fabsBf16x4 n fz) n .bf16 (fun _ => True) (sign FV.abs .bf16) ∧
    FloatNode1 0x29 (.frcpF32 n fz m) n .f32 (· = false) (near frcp .f32) ∧
    FloatNode1 0x39 (.frcpBf16x4 n fz m) n .bf16 (· = false) (near frcp .bf16) ∧
    FloatNode1 0x2A (.fsqrtF32 n fz m) n .f32 (· = false) (near fsqrt .f32) ∧
    FloatNode1 0x3A (.fsqrtBf16x4 n fz m) n .bf16 (· = false) (near fsqrt .bf16) ∧
    FloatNode1 0x2B (.fexp2F32 n fz m) n .f32 (· = false) (near fexp2 .f32) ∧
    FloatNode1 0x3B (.fexp2Bf16x4 n fz m) n .bf16 (· = false) (near fexp2 .bf16) ∧
    FloatNode1 0x2C (.flog2F32 n fz m) n .f32 (· = false) (near flog2 .f32) ∧
    FloatNode1 0x3C (.flog2Bf16x4 n fz m) n .bf16 (· = false) (near flog2 .bf16)

/-- R194: the reciprocal and the square root bracket the real value: with the sticky flag clear they are it, and with it set
the real value lies within one unit of the magnitude's last place above. -/
def Obligations.ReciprocalAndRootBracketTheRealValue : Prop :=
  (∀ s m e, 0 < m → ∃ (q k : Nat) (st : Bool), frcp (.fin s m e) = (.fin s q (-e - k), st) ∧
    q * m ≤ 2 ^ k ∧ 2 ^ k < (q + 1) * m ∧ (st = false ↔ q * m = 2 ^ k)) ∧
  ∀ m (e : Int), 0 < m → ∃ (r o : Nat) (st : Bool), fsqrt (.fin false m e) = (.fin false r ((e - o - 96) / 2), st) ∧
    (e - (o : Int)) % 2 = 0 ∧ o < 2 ∧ (m < 2 ^ 30 → r * r ≤ m * 2 ^ (o + 96) ∧ m * 2 ^ (o + 96) < (r + 1) * (r + 1)) ∧
    (st = false ↔ r * r = m * 2 ^ (o + 96))

/-- R96 (`fma`), R195 (dot): the exact product plus C, rounded once; the tree of the exact products plus C, rounded once to
FP32. -/
def Obligations.FusedAndDotFormsRoundOnce : Prop :=
  ∀ (n : N3) (fz : Bool) (m : Rnd),
    let fma := fun (f : LaneFmt) x y z j =>
      codeOf f m fz (FV.add m (FV.mul (laneFV f fz x j) (laneFV f fz y j)) (laneFV f fz z j))
    let dot := fun (f : LaneFmt) x y z (_ : Nat) =>
      codeOf .f32 .ne fz (FV.add .ne
        (treeSum ((List.range f.n).map fun j => FV.mul (laneFV f fz x j) (laneFV f fz y j))) (laneFV .f32 fz z 0))
    FloatNode3 0x23 (.fmaF32 n fz m) n .f32 .f32 (fma .f32) ∧
    FloatNode3 0x33 (.fmaBf16x4 n fz m) n .bf16 .bf16 (fma .bf16) ∧
    FloatNode3 0x3D (.dotBf16 n fz) n .bf16 .f32 (dot .bf16) ∧
    FloatNode3 0x46 (.dotE4x8 n fz) n .e4 .f32 (dot .e4) ∧
    FloatNode3 0x4E (.dotE5x8 n fz) n .e5 .f32 (dot .e5)

/-! ### Conversions, scales and packed values -/

/-- R196 to R198, R93: each output lane is its input lane converted; the overflow mask goes to destination 1. R199 (`scl`,
`uscl`): each lane times the FP32 scale of B, rounded once; `scl` sets the scaled bit, `uscl` clears it. R200 (`pack`,
`unpk`): the first k lanes of A and then lanes of B; the lanes of A from k up and then zeros of its format. -/
def Obligations.ConversionsScalesAndPackedLanes : Prop :=
  (∀ (n : Nd) (u fz : Bool) (m : Rnd),
    CvtNode 0x50 (.cvtI64 n u fz m) n (.int .i64 64 1) u fz m ∧ CvtNode 0x51 (.cvtI32 n u fz m) n (.int .i32 32 1) u fz m ∧
    CvtNode 0x52 (.cvtI16x4 n u fz m) n (.int .i16x4 16 4) u fz m ∧
    CvtNode 0x53 (.cvtI8x8 n u fz m) n (.int .i8x8 8 8) u fz m ∧
    CvtNode 0x54 (.cvtF32 n u fz m) n (.float .f32) u fz m ∧ CvtNode 0x55 (.cvtBf16x4 n u fz m) n (.float .bf16) u fz m ∧
    CvtNode 0x56 (.cvtE4x8 n u fz m) n (.float .e4) u fz m ∧ CvtNode 0x57 (.cvtE5x8 n u fz m) n (.float .e5) u fz m ∧
    CvtNode 0x58 (.cvtQn4x16 n u fz m) n .qn4 u fz m) ∧
  ((∀ (n : Nd) (fz : Bool) (m : Rnd) (set : Bool),
    Node2 (if set then 0x59 else 0x5A) (if set then .scl n fz m else .uscl n fz m) n
      (fun a b => ∃ x y, asScalar a [.f32, .bf16x4, .e4x8, .e5x8] = .ok x ∧ FloatOpd .f32 b y ∧ x.sc = !set ∧ y.sc = false)
      fun a b r => ∃ x y f, asScalar a [.f32, .bf16x4, .e4x8, .e5x8] = .ok x ∧ FloatOpd .f32 b y ∧ sclFmt x.ty = some f ∧
        FloatLanes f set (fun j => codeOf f m fz (FV.mul (laneFV f fz x j) (laneFV .f32 fz y 0))) r) ∧
  (∀ (n : Nd) (k : BitVec 4), Node2 0x5B (.pack n k) n
    (fun a b => ∃ x y, PackPair a b x y ∧ x.ty = y.ty ∧ x.sc = y.sc ∧ k.toNat < (packedShape x.ty).2)
    fun a b r => ∃ x y, PackPair a b x y ∧ PackedLanes x (fun j =>
      if j < k.toNat then laneAt (packedShape x.ty).1 j x.val.toNat
      else laneAt (packedShape x.ty).1 (j - k.toNat) y.val.toNat) r) ∧
  ∀ (n : Nd) (k : BitVec 4), Node2 0x5C (.unpk n k) n
    (fun a _ => ∃ x, asScalar a packedTypes = .ok x ∧ k.toNat < (packedShape x.ty).2)
    fun a _ r => ∃ x, asScalar a packedTypes = .ok x ∧ PackedLanes x (fun j =>
      if j + k.toNat < (packedShape x.ty).2 then laneAt (packedShape x.ty).1 (j + k.toNat) x.val.toNat
      else if x.ty = .qn4x16 then 7 else 0) r)

/-! ### Graph control, tags and frames -/

/-- R201, R202, R203, R205, R206, Table 07-10: where `switch`, `merge`, `dup`, `gate`, `sink` and `steer` send their token,
with its type and scaled bit. -/
def Obligations.GraphControlRoutesTokens : Prop :=
  (∀ n s c a b s2 x y, Fires s c 0x60 → ReadsAB s c n a b s2 → ControlOpd a x → asScalar b allTypes = .ok y →
    TagOk n.t b.pay → (∀ t, tagOf s2 c n.t b.pay = .ok t →
      (Truth x → DstOk s2 c n.d t y.sc) ∧ (¬ Truth x → DstOk s2 c n.e t y.sc)) →
    ∃ g t, tagOf s2 c n.t b.pay = .ok g ∧
      (Truth x → sendTo s2 c n.d (outForm n.t (.scal y)) g = .ok t) ∧
      (¬ Truth x → sendTo s2 c n.e (outForm n.t (.scal y)) g = .ok t) ∧ Ends (.switch n) s c 0x60 t) ∧
  (∀ n s c q, Fires s c 0x61 → (c.f.l = some q ∨ c.f.l = none ∧ c.f.r = some q) → let p := q.clean
    CanEmit s.base c n p p.scaled → ∃ t, finish s.base c n p p = .ok t ∧ Ends (.merge n) s c 0x61 t) ∧
  (∀ n s c a s1 x, Fires s c 0x62 → ReadsA s c n a s1 → asScalar a allTypes = .ok x → TagOk n.t (plain 0 .i64) →
    (∀ d ∈ n.d :: n.e :: dupArcs s c n, ∀ t, tagOf s1 c n.t (plain 0 .i64) = .ok t → DstOk s1 c d t x.sc) →
    ∃ g t1 t, tagOf s1 c n.t (plain 0 .i64) = .ok g ∧ sendBoth s1 c n.d n.e (outForm n.t (.scal x)) g = .ok t1 ∧
      sendList t1 c (outForm n.t (.scal x)) g (dupArcs s c n) = .ok t ∧ Ends (.dup n) s c 0x62 t) ∧
  (∀ n : Nd, Node2 0x63 (.gate n) n
    (fun a b => (∃ x, asScalar a allTypes = .ok x ∧ x.sc = false) ∧ ∃ y, asScalar b allTypes = .ok y)
    fun _ b r => asScalar b allTypes = .ok r) ∧
  (∀ n s c a b s2, Fires s c 0x64 → ReadsAB s c n a b s2 → Ends (.sink n) s c 0x64 s2) ∧
  ∀ n s c a b s2 x y, Fires s c 0x66 → ReadsAB s c n a b s2 → asScalar a [.i32, .i64, .u64, .control] = .ok x →
    x.sc = false → asScalar b allTypes = .ok y → TagOk n.t b.pay →
    let v := if x.ty = .i32 then (x.val.setWidth 32).toNat else x.val.toNat
    let d : Dst := if v < 8 ∧ Arc.valid (AL.get 0 (s2.unit c.u).arcs v) = true then .arc (BitVec.ofNat 3 v) else n.d
    (∀ t, tagOf s2 c n.t b.pay = .ok t → DstOk s2 c d t y.sc) →
    ∃ g t, tagOf s2 c n.t b.pay = .ok g ∧ sendTo s2 c d (outForm n.t (.scal y)) g = .ok t ∧ Ends (.steer n) s c 0x66 t

/-- R207: `ojoin` accepts only ordering tokens with their scaled bits clear, and emits the narrower scope with the OR of the
logged bits; another type is a type fault. -/
def Obligations.OrderingTokensAreJoined : Prop :=
  (∀ n : Nd, Node2 0x67 (.ojoin n) n
    (fun a b => ∃ x y, asScalar a [.marker] = .ok x ∧ asScalar b [.marker] = .ok y ∧ x.sc = false ∧ y.sc = false)
    fun a b r => ∃ x y, asScalar a [.marker] = .ok x ∧ asScalar b [.marker] = .ok y ∧ r.ty = .marker ∧ r.sc = false ∧
      r.val.toNat = min (x.val.toNat % 8) (y.val.toNat % 8) + (if x.val.getLsbD 3 || y.val.getLsbD 3 then 8 else 0)) ∧
  (∀ n s c a b s2 x y, Fires s c 0x67 → ReadsAB s c n a b s2 → a = ⟨.scal x, false⟩ → b = ⟨.scal y, false⟩ →
    (x.ty ≠ .marker ∨ y.ty ≠ .marker) → Faults (.ojoin n) s c 0x67 n .type 0) ∧
  ∀ n s c a b s2 x y, Fires s c 0x67 → ReadsAB s c n a b s2 → a = ⟨.scal x, false⟩ → b = ⟨.scal y, false⟩ →
    x.ty = .marker → y.ty = .marker → (x.sc = true ∨ y.sc = true) → Faults (.ojoin n) s c 0x67 n .scaleMismatch 0

/-- R44, R204, R208: `talloc` takes the head of the run's free list, writes the link and emits the index; `fcomp` does so for
a true predicate and sends B under the new index; either stalls on an empty run, `fcomp` with the operands it has read; a
false predicate sends B on destination 1. A firing whose ix is not of the parent space is a tag-range fault, and `talloc` in a
frame that is not live a frame-busy fault. R45, R53: `tfree` returns its index to the free list of its run, or hands it to the
earliest stalled allocation on the run, which completes, or keeps it until its cluster has room for a frame copy; an index
that is free, outside every space or above allocated children, and a frame that is not live, are faults that change no free
list. -/
def Obligations.IndicesAreAllocatedAndFreed : Prop :=
  ((∀ n s c sp p ix l, Fires s c 0x70 → CopyOk s.base c.f.rid c.f.tag c.u.cl →
    spaceOf (s.region c.f.rid) (spaceLit s c.u) = some sp → parentNo (s.region c.f.rid) sp c.f.tag.ix = some p →
    freeRun (frameAt s c.f.rid c.f.tag) (spaceLit s c.u) sp p = ix :: l → CanSayNear s.base c n →
    ∃ s' t, takeIndex s.base c (spaceLit s c.u) = .ok (some ix, s') ∧
      freeRun (frameAt s' c.f.rid c.f.tag) (spaceLit s c.u) sp p = l ∧
      AL.find? (frameAt s' c.f.rid c.f.tag).link ix = some c.f.tag.ix ∧
      Says s' c n ix .tagix t ∧ Ends (.talloc n) s c 0x70 t) ∧
  (∀ n s c a b s2 x y sp p, Fires s c 0x65 → ReadsAB s c n a b s2 → ControlOpd a x → asScalar b allTypes = .ok y →
    spaceOf (s2.region c.f.rid) (spaceLit s2 c.u) = some sp → parentNo (s2.region c.f.rid) sp c.f.tag.ix = some p →
    let run := freeRun (frameAt s2 c.f.rid c.f.tag) (spaceLit s2 c.u) sp p
    (∀ ix l, Truth x → CopyOk s2 c.f.rid c.f.tag c.u.cl → run = ix :: l → DstOk s2 c n.d (c.f.tag.withIx ix) y.sc →
      ∃ s' t, takeIndex s2 c (spaceLit s2 c.u) = .ok (some ix, s') ∧
        freeRun (frameAt s' c.f.rid c.f.tag) (spaceLit s2 c.u) sp p = l ∧
        AL.find? (frameAt s' c.f.rid c.f.tag).link ix = some c.f.tag.ix ∧
        sendTo s' c n.d (.scal y) (c.f.tag.withIx ix) = .ok t ∧ Ends (.fcomp n) s c 0x65 t) ∧
    (Truth x → CopyOk s2 c.f.rid c.f.tag c.u.cl → run = [] →
      ∃ t, Ends (.fcomp n) s c 0x65 t ∧ t.net = s.net ∧ (frameAt t c.f.rid c.f.tag).talloc =
        (frameAt s2 c.f.rid c.f.tag).talloc ++
          [(spaceLit s2 c.u, p, ⟨c.u, .fcomp n, { c.f with l := some a.pay, r := some (.scal y) }⟩)]) ∧
    (¬ Truth x → DstOk s2 c n.e c.f.tag y.sc →
      ∃ t, sendTo s2 c n.e (.scal y) c.f.tag = .ok t ∧ Ends (.fcomp n) s c 0x65 t)) ∧
  (∀ n s c sp p, Fires s c 0x70 → CopyOk s.base c.f.rid c.f.tag c.u.cl →
    spaceOf (s.region c.f.rid) (spaceLit s c.u) = some sp → parentNo (s.region c.f.rid) sp c.f.tag.ix = some p →
    freeRun (frameAt s c.f.rid c.f.tag) (spaceLit s c.u) sp p = [] →
    ∃ t, Ends (.talloc n) s c 0x70 t ∧ (frameAt t c.f.rid c.f.tag).talloc =
      (frameAt s c.f.rid c.f.tag).talloc ++ [(spaceLit s c.u, p, ⟨c.u, .talloc n, c.f⟩)] ∧ t.net = s.net) ∧
  (∀ n s c sp, Fires s c 0x70 → CopyOk s.base c.f.rid c.f.tag c.u.cl →
    spaceOf (s.region c.f.rid) (spaceLit s c.u) = some sp → parentNo (s.region c.f.rid) sp c.f.tag.ix = none →
    Faults (.talloc n) s c 0x70 n .tagRange c.f.tag.ix) ∧
  (∀ n s c a b s2 x y sp, Fires s c 0x65 → ReadsAB s c n a b s2 → ControlOpd a x → asScalar b allTypes = .ok y →
    spaceOf (s2.region c.f.rid) (spaceLit s2 c.u) = some sp → parentNo (s2.region c.f.rid) sp c.f.tag.ix = none →
    Faults (.fcomp n) s c 0x65 n .tagRange c.f.tag.ix) ∧
  ∀ n s c, Fires s c 0x70 → (frameAt s c.f.rid c.f.tag).st ≠ .live →
    Faults (.talloc n) s c 0x70 n .frameBusy (frameBits c.f.tag)) ∧
  (∀ n s c a s1 x v, Fires s c 0x71 → ReadsA s c n a s1 → asScalar a [.tagix, .i32, .i64] = .ok x → x.sc = false →
    v = (if x.ty = .i32 then (x.val.setWidth 32).toNat else x.val.toNat) →
    let r := s1.region c.f.rid
    let f := frameAt s1 c.f.rid c.f.tag
    (512 ≤ v → Faults (.tfree n) s c 0x71 n .tagRange (v % 512)) ∧
    (v < 512 → f.st ≠ .live → Faults (.tfree n) s c 0x71 n .frameBusy (frameBits c.f.tag)) ∧
    (v < 512 → CopyOk s1 c.f.rid c.f.tag c.u.cl → runOf r v = none → Faults (.tfree n) s c 0x71 n .tagRange v) ∧
    ∀ k sp p, v < 512 → CopyOk s1 c.f.rid c.f.tag c.u.cl → runOf r v = some (k, sp, p) →
      (v ∈ freeRun f k sp p → Faults (.tfree n) s c 0x71 n .tagDoubleFree v) ∧
      (v ∉ freeRun f k sp p → ∀ ch, (childrenOf r v).find? (allocated r f) = some ch →
        Faults (.tfree n) s c 0x71 n .tagBusy ch) ∧
      (v ∉ freeRun f k sp p → (∀ ch ∈ childrenOf r v, allocated r f ch = false) →
        (∀ w ∈ f.talloc, ¬ (w.1 = k ∧ w.2.1 = p)) → CanSayNear s1 c n →
        ∃ s' t, giveIndex s1 c v = .ok s' ∧ freeRun (frameAt s' c.f.rid c.f.tag) k sp p = freeRun f k sp p ++ [v] ∧
          Says s' c n v .control t ∧ Ends (.tfree n) s c 0x71 t) ∧
      (v ∉ freeRun f k sp p → (∀ ch ∈ childrenOf r v, allocated r f ch = false) →
        ∀ w l l' s' g, f.talloc = l ++ w :: l' → w.1 = k → w.2.1 = p → (∀ w' ∈ l, ¬ (w'.1 = k ∧ w'.2.1 = p)) →
        ensureCopy s1 c.f.rid c.f.tag c.u.cl = .ok s' →
        let s2 := changeFrame s' c.f.rid c.u.cl c.f.tag ((frameAt s' c.f.rid c.f.tag).handed w v)
        (stallDone s2 w.2.2 v = .ok g ∨ stallDone s2 w.2.2 v = .error .wait ∧ g = keepStall s2 w.2.2 v) → CanSay g c n →
        ∃ t, giveIndex s1 c v = .ok g ∧ Says g c n v .control t ∧ Ends (.tfree n) s c 0x71 t))

/-- R50, R53, R208: `falloc` takes the lowest free frame of its die, live and empty, with a copy at its cluster, and emits its
frame token; with the budget used up it stalls, or in a recursive region faults. R54, R210, R66: `ffree` and `ret` put a live
frame with no index allocated in state returning; `ret` sends A on the return arc first, where the header holds one; any other
frame is a frame-busy fault with no effect. -/
def Obligations.FramesAreAllocatedFreedAndReturned : Prop :=
  (∀ n s c, Fires s c 0x72 → c.f.stage = 0 →
    let die := dieOf c.u.cl
    (∀ fr, framesUsed s c.f.rid die < frameBudget (s.region c.f.rid) → copyRoom s c.u.cl = true → fr < 4096 →
      (s.frame c.f.rid die fr).st = .free → (∀ k, k < fr → (s.frame c.f.rid die k).st ≠ .free) →
      let s' := newFrame s.base c.f.rid die fr c.u.cl 0 0 0 0
      CanSay s' c n →
      ∃ t, (s'.frame c.f.rid die fr).st = .live ∧ (s'.frame c.f.rid die fr).copies = [c.u.cl] ∧
        (∀ k, AL.get 0 (s'.frame c.f.rid die fr).slots (c.u.cl, k) = 0) ∧ (s'.frame c.f.rid die fr).runs = [] ∧
        Says s' c n (die % 8 * 2 ^ 21 + fr % 4096 * 2 ^ 9) .tagix t ∧ Ends (.falloc n) s c 0x72 t) ∧
    (frameBudget (s.region c.f.rid) ≤ framesUsed s c.f.rid die → (s.region c.f.rid).recursive = true →
      Faults (.falloc n) s c 0x72 n .frameExhausted 0) ∧
    (frameBudget (s.region c.f.rid) ≤ framesUsed s c.f.rid die → (s.region c.f.rid).recursive = false →
      ∃ t, Ends (.falloc n) s c 0x72 t ∧ t.net = s.net ∧
        (t.region c.f.rid).falloc = (s.region c.f.rid).falloc ++ [(die, ⟨c.u, .falloc n, c.f⟩)])) ∧
  ((∀ n s c a s1 t, Fires s c 0x73 → ReadsA s c n a s1 → frameOperand a = .ok t →
    ((frameAt s1 c.f.rid t).st = .live → (∀ ix ∈ allIndices (s1.region c.f.rid),
        allocated (s1.region c.f.rid) (frameAt s1 c.f.rid t) ix = false) → MayFree s1 c.f.rid t →
      (∀ s', freeFrame s1 c.f.rid c.u.cl t = .ok s' → CanSay s' c n) →
      ∃ s' v, freeFrame s1 c.f.rid c.u.cl t = .ok s' ∧ (frameAt s' c.f.rid t).st = .returning ∧ Says s' c n 0 .control v ∧
        Ends (.ffree n) s c 0x73 v) ∧
    (((frameAt s1 c.f.rid t).st ≠ .live ∨ ∃ ix ∈ allIndices (s1.region c.f.rid),
        allocated (s1.region c.f.rid) (frameAt s1 c.f.rid t) ix = true) →
      Faults (.ffree n) s c 0x73 n .frameBusy (frameBits t))) ∧
  ∀ n s c a s1 x, Fires s c 0x75 → ReadsA s c n a s1 → asScalar a allTypes = .ok x → x.sc = false →
    ((frameAt s1 c.f.rid c.f.tag).st = .live → (∀ ix ∈ allIndices (s1.region c.f.rid),
        allocated (s1.region c.f.rid) (frameAt s1 c.f.rid c.f.tag) ix = false) → MayFree s1 c.f.rid c.f.tag →
      ∃ v, (frameAt v c.f.rid c.f.tag).st = .returning ∧ Ends (.ret n) s c 0x75 v ∧
        let w := (frameAt s1 c.f.rid c.f.tag).retarc
        (Arc.valid w = true → Arc.kind w ≠ 7 → ∃ fl ∈ v.net, fl.pay = .scal x ∧ fl.cl = Arc.absTarget w ∧
          fl.rid = (frameAt s1 c.f.rid c.f.tag).retRid ∧
          fl.kind = Arc.kind w ∧ fl.unit = Arc.unit w ∧ fl.slot = Arc.slot w ∧ fl.side = Arc.side w ∧
          fl.tag = (frameAt s1 c.f.rid c.f.tag).rettag)) ∧
    (((frameAt s1 c.f.rid c.f.tag).st ≠ .live ∨ ∃ ix ∈ allIndices (s1.region c.f.rid),
        allocated (s1.region c.f.rid) (frameAt s1 c.f.rid c.f.tag) ix = true) →
      Faults (.ret n) s c 0x75 n .frameBusy (frameBits c.f.tag)))

/-- R209 (`call`), R52 (`fbcast`), R211 (`tagv`): the callee's new frame with its return arc and tag, and the arguments in it;
a slot in every copy of the frame; the firing's tag as a value. -/
def Obligations.CallBroadcastAndTag : Prop :=
  (∀ n s c callee a b s2 x y fr, Fires s c 0x74 → calleeOf s.base c = some callee → ReadsAB s c n a b s2 →
    asScalar a allTypes = .ok x → x.sc = false → asScalar b allTypes = .ok y → y.sc = false →
    framesUsed s2 callee (dieOf c.u.cl) < frameBudget (s2.region callee) → copyRoom s2 c.u.cl = true → fr < 4096 →
    (s2.frame callee (dieOf c.u.cl) fr).st = .free → (∀ k, k < fr → (s2.frame callee (dieOf c.u.cl) k).st ≠ .free) →
    let die := dieOf c.u.cl
    let back := Arc.absolute (AL.get 0 (s2.unit c.u).arcs (bits (AL.get 0 (s2.unit c.u).lits 13).toNat 2 0)) c.u.cl
    let s3 := newFrame s2 callee die fr c.u.cl 0 back c.f.tag c.f.rid
    let c' : Cur := ⟨c.u, { c.f with rid := callee, tag := Tag.mk die fr 0 }⟩
    DstOk s3 c' n.d (Tag.mk die fr 0) false → DstOk s3 c' n.e (Tag.mk die fr 0) false →
    ∃ s4 t, sendTo s3 c' n.d (.scal x) (Tag.mk die fr 0) = .ok s4 ∧
      (if n.e = n.d then t = s4 else sendTo s4 c' n.e (.scal y) (Tag.mk die fr 0) = .ok t) ∧ Ends (.call n) s c 0x74 t ∧
      let f := t.frame callee die fr
      f.st = .live ∧ f.join = 0 ∧ f.rettag = c.f.tag ∧ f.copies = [c.u.cl] ∧ f.retarc = back) ∧
  (∀ n s c, Fires s c 0x74 → calleeOf s.base c = none →
    Faults (.call n) s c 0x74 n .callTarget (bits (AL.get 0 (s.unit c.u).lits 13).toNat 31 16)) ∧
  (∀ n s c a s1 x, Fires s c 0x76 → ReadsA s c n a s1 → asScalar a allTypes = .ok x → x.sc = false →
    CopyOk s1 c.f.rid c.f.tag c.u.cl → (∀ s', broadcastSlot s1 c x.val = .ok s' → CanSay s' c n) →
    ∃ s' t, broadcastSlot s1 c x.val = .ok s' ∧ (∀ cl ∈ (frameAt s' c.f.rid c.f.tag).copies,
        AL.get 0 (frameAt s' c.f.rid c.f.tag).slots (cl, bits (AL.get 0 (s1.unit c.u).lits 12).toNat 6 0) = x.val) ∧
      c.u.cl ∈ (frameAt s' c.f.rid c.f.tag).copies ∧
      AL.find? (frameAt s' c.f.rid c.f.tag).bcast (bits (AL.get 0 (s1.unit c.u).lits 12).toNat 6 0) = some x.val ∧
      Says s' c n 0 .control t ∧ Ends (.fbcast n) s c 0x76 t) ∧
  ∀ n s c, Fires s c 0x77 → CanSay s.base c n → ∃ t, Says s.base c n c.f.tag.toNat .i64 t ∧ Ends (.tagv n) s c 0x77 t

/-! ### Memory ports -/

/-- R214, R215: a memory-port access that passes steps 1 to 4 of Table 08-1 takes an entry of the access queue, with its
address and operand; nothing else changes but that `ld.acq` drops the read buffers of its cluster (R136) and that an atomic
first makes its logged interval irrevocable (R252). -/
def Obligations.MemoryPortAccessTakesAQueueEntry : Prop :=
  (∀ (n : Nd) (sc : Scope) (b w : Bool) i m, (i, m) ∈ ([(.ldB n b sc, ⟨0x80, n, sc, .load 1 b⟩),
      (.ldH n b sc, ⟨0x81, n, sc, .load 2 b⟩), (.ldW n b sc, ⟨0x82, n, sc, .load 4 b⟩), (.ldD n b sc, ⟨0x83, n, sc, .load 8 b⟩),
      (.stB n sc, ⟨0x84, n, sc, .store 1⟩), (.stH n sc, ⟨0x85, n, sc, .store 2⟩), (.stW n sc, ⟨0x86, n, sc, .store 4⟩),
      (.stD n sc, ⟨0x87, n, sc, .store 8⟩), (.ldAcq n w sc, ⟨0x88, n, sc, .loadAcq w⟩),
      (.stRel n w sc, ⟨0x89, n, sc, .storeRel w⟩), (.ldl n sc, ⟨0x8A, n, sc, .loadLine⟩), (.stl n sc, ⟨0x8B, n, sc, .storeLine⟩),
      (.stlm n sc, ⟨0x8C, n, sc, .storeMasked⟩), (.ldd n sc, ⟨0x8D, n, sc, .loadDesc⟩), (.std n sc, ⟨0x8E, n, sc, .storeDesc⟩),
      (.pf n, ⟨0x8F, n, .elem, .prefetch⟩), (.aadd n w sc, ⟨0x90, n, sc, .atom .add w⟩),
      (.aand n w sc, ⟨0x91, n, sc, .atom .and w⟩), (.aor n w sc, ⟨0x92, n, sc, .atom .or w⟩),
      (.axor n w sc, ⟨0x93, n, sc, .atom .xor w⟩), (.amin n w sc, ⟨0x94, n, sc, .atom .min w⟩),
      (.amax n w sc, ⟨0x95, n, sc, .atom .max w⟩), (.aswp n w sc, ⟨0x96, n, sc, .atom .swap w⟩),
      (.acas n w sc, ⟨0x97, n, sc, .atom .cas w⟩), (.afadd n w sc, ⟨0x98, n, sc, .atom .fadd w⟩)] : List (Instr × MemForm)) →
    memForm i = some m) ∧
  ∀ i m s c s2 x y, memForm i = some m → m.kind ≠ .stream → Fires s c m.op → MemOperands s c m s2 x y →
    PointerOk s2 c m x.val.toNat → accessRoom (s2.unit c.u) = true →
    let s3 := if m.kind matches .atom _ _ then makeIrrevocable s2 c.f.rid else s2
    ∃ t, Ends i s c m.op t ∧
      (t.unit c.u).access = (s3.unit c.u).access ++
        [⟨s3.nextId, i, { c.f with l := some (.scal x), r := some y }, .queued, none, none, false, 0⟩] ∧
      SameDevice s3 t ∧ SameMemory s3 t ∧ t.net = s3.net ∧ t.frames = s3.frames ∧ t.clusters = s3.clusters ∧
      (∀ u, u ≠ c.u → { t.unit u with readBuf := [] } = { s3.unit u with readBuf := [] }) ∧
      { t.unit c.u with readBuf := [], access := [] } = { s3.unit c.u with readBuf := [], access := [] } ∧
      ∀ u, (t.unit u).readBuf =
        if (m.kind = .loadAcq true ∨ m.kind = .loadAcq false) ∧ u.cl = c.u.cl ∧ u.kind = .mp then [] else (s3.unit u).readBuf

/-- R214, Table 08-1, R102, R121, R103, R226: a pointer of no form is an address fault, a misaligned one an alignment fault,
and an aligned one beyond the scratchpad class an address fault, in this order, each with the pointer; a prefetch raises the
first alone. -/
def Obligations.PointerChecksFaultInOrder : Prop :=
  ∀ i m s c s2 x y, memForm i = some m → m.kind ≠ .stream → Fires s c m.op → MemOperands s c m s2 x y →
    let v := x.val.toNat
    (formOf s2 c.u.cl v = none → FaultsAt i s c m.op m.n .address v) ∧
    (m.kind ≠ .prefetch →
      (∀ a, formOf s2 c.u.cl v = some (.virt a) → a % m.kind.size ≠ 0 → FaultsAt i s c m.op m.n .alignment v) ∧
      (∀ cl off, formOf s2 c.u.cl v = some (.pool cl off) → off % m.kind.size ≠ 0 →
        FaultsAt i s c m.op m.n .alignment v) ∧
      ∀ cl off, formOf s2 c.u.cl v = some (.pool cl off) → off % m.kind.size = 0 → padSize s2 cl < off + m.kind.size →
        FaultsAt i s c m.op m.n .address v)

/-- R136, R230: `fence.pub` waits in the access queue for its drains, `fence.acq` drops the read buffers of its cluster and
sends its token; R231: `strm` takes a free stream context with its descriptor pointer. -/
def Obligations.FencesAndStreamsIssue : Prop :=
  (∀ n sc s c, Fires s c 0x99 → orderOk c.f.o = .ok () → accessRoom (s.unit c.u) = true →
    ∃ t, Ends (.fencePub n sc) s c 0x99 t ∧ (t.unit c.u).access = (s.unit c.u).access ++
      [⟨s.nextId, .fencePub n sc, c.f, .parking, none, none, false, 0⟩] ∧ SameDevice s t ∧ SameMemory s t ∧
      t.net = s.net ∧ t.clusters = s.clusters ∧ t.frames = s.frames) ∧
  (∀ n (sc : Scope) s c, Fires s c 0x9A → orderOk c.f.o = .ok () → CanSay (dropBuffers s.base c.u.cl) c n →
    ∃ s' t, (∀ u, (s'.unit u).readBuf = if u.cl = c.u.cl ∧ u.kind = .mp then [] else (s.unit u).readBuf) ∧
      s' = { s.base with units := s'.units } ∧ Says s' c n sc.code.toNat .marker t ∧ Ends (.fenceAcq n sc) s c 0x9A t) ∧
  ∀ n sc s c a s1 x g k, Fires s c 0x9B → ReadsA s c n a s1 → asScalar a [.u64, .i64] = .ok x → x.sc = false →
    orderOk c.f.o = .ok () → checkPointer s1 c.u c.f.rid x.val.toNat 64 64 = .ok g → LogRoom s1 c.f.rid c.u.cl →
    k < 4 → AL.find? (s1.unit c.u).streams k = none → (∀ j, j < k → AL.find? (s1.unit c.u).streams j ≠ none) →
    ∃ t, Ends (.strm n sc) s c 0x9B t ∧ SameDevice s1 t ∧ SameMemory s1 t ∧ t.net = s1.net ∧ t.frames = s1.frames ∧
      (∀ u, u ≠ c.u → t.unit u = s1.unit u) ∧ ∀ j, AL.find? (t.unit c.u).streams j =
        if j = k then some ⟨0, { c.f with l := some (.scal x) }, .strm n sc, 0, 0, false, none, false, []⟩
        else AL.find? (s1.unit c.u).streams j

/-- R219, R222, R225, R135, R136, Table 08-3: a queued load is performed: the bytes, line or descriptor that its cluster sees
at the target go to destination 0, the ordering token to destination 1, and memory is unchanged but for the stores that an
acquire load first brings to their point of visibility; a plain load may read a buffered line of its port instead. -/
def Obligations.LoadsSendWhatTheirClusterSees : Prop :=
  (∀ s u a m t, Performs s u a m t → logging s a.f.rid = false → Loads m.kind →
    ((∀ w, m.kind ≠ .loadAcq w) → buffered (atPort s u a) u t = none) →
    let acq := m.kind = .loadAcq true ∨ m.kind = .loadAcq false
    let s1 := if acq then drainAccepted (dropBuffers (atPort s u a) u.cl) u.cl t.line else atPort s u a
    let d := readDesc s1 .cluster a.f.rid u.cl t
    let s2 := if acq ∨ t.pool = true ∨ t.kind = .so then s1 else bufferLine s1 u t a.f.rid
    s.poison.contains t.line = false → formatOk d.fmt = true → CanEmit s ⟨u, a.f⟩ m.n (accessArg a) false →
    ∃ t', finishPair (dropAccess s2 u a.id) ⟨u, a.f⟩ m.n (accessArg a)
        (some (loadedToken m.kind (readTarget s1 .cluster a.f.rid u.cl t m.kind.size) d))
        (some (marker (certified t m.scope false) false)) = .ok t' ∧
      exec (.memoryAccessPerformed u a.id) s = .next t' ∧ t'.mem = s1.mem) ∧
  ∀ s u a m t e, Performs s u a m t → logging s a.f.rid = false → Loads m.kind → (∀ w, m.kind ≠ .loadAcq w) →
    buffered (atPort s u a) u t = some e → s.poison.contains t.line = false → formatOk e.desc.fmt = true →
    formatOk (readDesc s .cluster a.f.rid u.cl t).fmt = true → (∀ x ∈ (s.cluster u.cl).ilog, x.rid ≠ a.f.rid) →
    CanEmit s ⟨u, a.f⟩ m.n (accessArg a) false →
    let s1 : State := { atPort s u a with nonce := s.nonce + 1 }
    ∃ v d t', (v = (e.data.toNat / 2 ^ (8 * (t.key - t.line))) % 2 ^ (8 * m.kind.size) ∧ d = e.desc ∨
        v = readTarget s .cluster a.f.rid u.cl t m.kind.size ∧ d = readDesc s .cluster a.f.rid u.cl t) ∧
      finishPair (dropAccess s1 u a.id) ⟨u, a.f⟩ m.n (accessArg a) (some (loadedToken m.kind v d))
        (some (marker (certified t m.scope false) false)) = .ok t' ∧
      exec (.memoryAccessPerformed u a.id) s = .next t' ∧ t'.mem = s.mem

/-- Table 08-3, R219: how a scalar load extends and types its bytes. -/
def Obligations.ScalarLoadsExtendAndTypeTheirBytes : Prop :=
  ∀ (fmt v : Nat),
    (∀ n, n = 1 ∨ n = 2 ∨ n = 4 → loadToken (.load n true) fmt v = plain ((BitVec.ofNat (8 * n) v).signExtend 64) .i64) ∧
    (∀ n, n = 1 ∨ n = 2 → loadToken (.load n false) fmt v = plain (BitVec.ofNat 64 v) .i64) ∧
    loadToken (.load 4 false) fmt v = plain (BitVec.ofNat 64 v) (if fmt = 0x04 then .f32 else .i32) ∧
    loadToken (.load 8 true) fmt v = plain (BitVec.ofNat 64 v) .u64 ∧
    (∀ k, k = .load 8 false ∨ k = .loadAcq false → loadToken k fmt v = plain (BitVec.ofNat 64 v)
      (if fmt = 0x01 then .i8x8 else if fmt = 0x02 then .i16x4 else if fmt = 0x05 then .bf16x4 else if fmt = 0x07 then .e4x8
       else if fmt = 0x08 then .e5x8 else if fmt = 0x09 ∨ fmt = 0x10 then .qn4x16 else .i64)) ∧
    loadToken (.loadAcq true) fmt v = plain (BitVec.ofNat 64 v) (if fmt = 0x04 then .f32 else .i32)

/-- R220, R223 to R225, R129, R130, R131: a store that lies in the pool or on an SO page is performed at once: its bytes and
descriptor are in memory, every other byte is as before but for the stores that the clusters held, which drain first, and its
ordering token of scope system leaves. -/
def Obligations.PoolStoresWriteTheirBytesAndNoOthers : Prop :=
  ∀ s u a m t cells desc, s.MemOk → Performs s u a m t → logging s a.f.rid = false → t.pool = true ∨ t.kind = .so →
    Stores (atLine s u a t) u a m t cells desc → t.key + 64 ≤ 2 ^ 120 → CanEmit s ⟨u, a.f⟩ m.n (accessArg a) false →
    let s0 := drainedFor (atLine s u a t) t.line
    ∃ t', finish (dropAccess (buffersOnStore (landWrite s0 t.line cells desc (t.enc (keysOf s a.f.rid))) u t.line cells desc) u a.id)
        ⟨u, a.f⟩ m.n (accessArg a) (marker 4 false) = .ok t' ∧
      exec (.memoryAccessPerformed u a.id) s = .next t' ∧ Stored s0 t' t.line cells desc ∧ SameDevice s t' ∧
      (NoneHeld s t.line → translates s t.line = false → s0.mem = s.mem)

/-- R134, R131, R129, R124: a store to an RC or UN page enters its cluster's write queue once what other clusters hold for its
line has drained; it is in memory when it drains, after the stores to its line that were accepted before it, an RC one by
MEMORY_ACCESS_PERFORMED, a UN one by UN_STORE_DRAIN_TIMEOUT. R149, R343: with one that changes a table entry by which a port
has translated, every held store drains. That stores to one line drain in the order of their acceptance is the model's (log
44). -/
def Obligations.HbmStoresAreQueuedAndThenDrain : Prop :=
  (∀ s u a m t cells desc, Performs s u a m t → logging s a.f.rid = false → t.pool = false → t.kind ≠ .so →
    Stores (atLine s u a t) u a m t cells desc → CanEmit s ⟨u, a.f⟩ m.n (accessArg a) false →
    let un : Bool := t.kind == .un && !(m.kind == .storeRel true) && !(m.kind == .storeRel false)
    let e : HeldStore := ⟨s.nextId, a.f.rid, cells, t.line, desc, un, t.enc (keysOf s a.f.rid), u, a.id, s.clock⟩
    ∃ t', exec (.memoryAccessPerformed u a.id) s = .next t' ∧ t'.mem = (atLine s u a t).mem ∧
      (NoneHeld s t.line → t'.mem = s.mem) ∧
      (t'.cluster u.cl).writeQ = ((atLine s u a t).cluster u.cl).writeQ ++ [e] ∧
      (NoneHeld s t.line ∨ translates s t.line = false → (t'.cluster u.cl).writeQ = (s.cluster u.cl).writeQ ++ [e]) ∧
      (un = true → (t'.unit u).access.find? (·.id = a.id) = none) ∧
      (un = false → accessNo t' u a.id = some { a with st := .accepted, aux := s.nextId, woken := false })) ∧
  (∀ s u a m e, accessNo s u a.id = some a → memForm a.i = some m → a.st = .accepted → NoneEnding s →
    e ∈ (s.cluster u.cl).writeQ → e.id = a.aux → (∀ x ∈ (s.cluster u.cl).writeQ, x.id = e.id → x = e) →
    let s1 := dropAccess (drainStore s e) u a.id
    (1 < m.scope.code.toNat → CanEmit s ⟨u, a.f⟩ m.n (accessArg a) false) →
    ∃ t', exec (.memoryAccessPerformed u a.id) s = .next t' ∧
      if m.scope.code.toNat ≤ 1 then t' = s1
      else finish s1 ⟨u, a.f⟩ m.n (accessArg a) (marker m.scope.code.toNat false) = .ok t') ∧
  (∀ s cl e, e ∈ (s.cluster cl).writeQ → e.un = true → (∀ x ∈ (s.cluster cl).writeQ, x.id = e.id → x = e) →
    exec (.unStoreDrainTimeout cl e.id) s = .next (drainStore s e)) ∧
  (∀ s cl e, s.MemOk → e ∈ (s.cluster cl).writeQ → (∀ p ∈ e.bytes, p.1 < 2 ^ 120) → (e.bytes.map (·.1)).Nodup →
    (∀ p ∈ s.clusters, ∀ x ∈ p.2.writeQ, x.line = e.line → x = e ∨ e.id < x.id) → translates s e.line = false →
    Stored s (drainStore s e) e.line e.bytes e.desc ∧
      ∀ k, ((drainStore s e).cluster k).writeQ = (s.cluster k).writeQ.filter (· != e)) ∧
  ∀ s cl e, e ∈ (s.cluster cl).writeQ → translates s e.line = true → ∀ k, ((drainStore s e).cluster k).writeQ = []

/-- R227 to R229, R131, Table 08-4: an atomic reads the old value and writes the new one as one action, after every store that
was accepted for its line: the old value, of B's type, goes to destination 0, and every byte outside the operand is as
before. -/
def Obligations.AtomicsUpdateOneOperand : Prop :=
  ∀ s u a m t o w, s.MemOk → Performs s u a m t → logging s a.f.rid = false → m.kind = .atom o w →
    let n := if w then 4 else 8
    let s0 := drainLine (atLine s u a t) t.line fun _ _ => true
    let old := readTarget s0 .outside a.f.rid u.cl t n
    let b := (accessB a).1 % 2 ^ (8 * n)
    let x := (a.f.x.getD (plain 0 .i64)).clean.value.toNat % 2 ^ (8 * n)
    ∀ new, (match o with
      | .add => new = (old + b) % 2 ^ (8 * n)
      | .and => new = old &&& b
      | .or => new = old ||| b
      | .xor => new = old ^^^ b
      | .swap => new = b
      | .cas => new = if old = x then b else old
      | .min | .max =>
        let lt := if (accessB a).2 = .u64 then old < b else (BitVec.ofNat (8 * n) old).toInt < (BitVec.ofNat (8 * n) b).toInt
        (lt → new = if o = .min then old else b) ∧ (¬ lt → new = if o = .min then b else old)
      | .fadd => new = (lanes2 (if w then .f32 else .bf16) .ne false (FV.add .ne) old b).toNat) →
    Admits s0 .outside u a t → t.key + 64 ≤ 2 ^ 120 → CanEmit s ⟨u, a.f⟩ m.n (accessArg a) false →
    let cells := cellsOf t.key n new
    let s1 := drainedFor s0 t.line
    let s2 := buffersOnStore (landWrite s1 t.line cells none (t.enc (keysOf s a.f.rid))) u t.line cells none
    ∃ t', finishPair (dropAccess s2 u a.id) ⟨u, a.f⟩ m.n (accessArg a) (some (plain (BitVec.ofNat 64 old) (accessB a).2).clean)
        (some (marker (if t.pool = true ∨ t.kind = .so then 4 else m.scope.code.toNat) false)) = .ok t' ∧
      exec (.memoryAccessPerformed u a.id) s = .next t' ∧ Stored s1 t' t.line cells none ∧
      (NoneHeld s t.line → translates s t.line = false → s1.mem = s.mem)

/-- R146, R148, R361: a store of a revocable logged interval is held in its cluster's interval log, memory as before but for
the stores that other clusters held for its line, and its ordering token has the logged bit. R147, R124: an interval-commit
performs the held stores of every cluster of the region, in order, each where its page then lies (R149) and checked against
the descriptor that its line then has, one whose check fails being a format fault, and empties its logs. -/
def Obligations.LoggedStoresWaitForTheCommit : Prop :=
  (∀ s u a m t cells desc, Performs s u a m t → logging s a.f.rid = true → 2 ≤ ilogRoom s u.cl →
    (t.pool = true ∨ t.kind ≠ .so) → Stores (atLine s u a t) u a m t cells desc →
    CanEmit s ⟨u, a.f⟩ m.n (accessArg a) false →
    let e : LogStore := ⟨a.f.rid, cells, t.line, desc, t.enc (keysOf s a.f.rid), m.scope, storeAdmit s u a m,
      accessSite u a m.op false, pagedAt s a.f.rid t (accessAddr a)⟩
    let s1 := dropAccess ((atLine s u a t).modCluster u.cl fun c => { c with ilog := c.ilog ++ [e] }) u a.id
    ∃ t', finish s1 ⟨u, a.f⟩ m.n (accessArg a) (marker 0 true) = .ok t' ∧
      exec (.memoryAccessPerformed u a.id) s = .next t' ∧ t'.mem = (atLine s u a t).mem ∧
      (NoneHeld s t.line → t'.mem = s.mem) ∧ (t'.cluster u.cl).ilog = (s.cluster u.cl).ilog ++ [e]) ∧
  (∀ s rid cl, s.MemOk → (s.region rid).host = [cl] → ∀ e, (s.cluster cl).ilog = [e] → e.rid = rid → e.va = none → Quiet s e.line →
    (∀ p ∈ e.bytes, p.1 < 2 ^ 120) → (e.bytes.map (·.1)).Nodup →
    e.rule.holds (BitVec.ofNat 16 (Memory.readN s.mem (descKey e.line) 2)) = true →
    Stored s (commitLogs s rid) e.line e.bytes e.desc ∧ ((commitLogs s rid).cluster cl).ilog = []) ∧
  (∀ s cl e, Quiet s e.line → let d := BitVec.ofNat 16 (Memory.readN s.mem (descKey e.line) 2)
    e.rule.holds d = false → ∃ s1, s1.mem = s.mem ∧
      commitStore s cl e = takeFault s1 e.site ⟨.format, d.toNat, e.site.aval.toNat⟩) ∧
  (∀ s rid cl, (s.region rid).host = [cl] → commitLogs s rid =
    ((logOf s rid cl).foldl (fun s e => commitStore s cl e) s).modCluster cl fun c =>
      { c with ilog := c.ilog.filter (·.rid != rid), undo := c.undo.filter (·.1 != rid) }) ∧
  ∀ s rid cl e, e ∈ (s.cluster cl).ilog → e.rid = rid → ∃ d ∈ logOf s rid cl, d.site = e.site ∧
    (e.va = none → d = e) ∧ ∀ a size l lines (t : Target), e.va = some a → walk s rid a = .leaf size l lines →
      leafTarget s rid a size l = .at t → d.line = t.line ∧ d.desc = e.desc ∧ d.enc = t.enc (keysOf s rid) ∧
        d.bytes = e.bytes.map fun c => (c.1 - e.line + t.line, c.2)

/-! ### Steps of memory ports -/

/-- R340, R342, R345, R348, R135, R136: the walk of a waiting access ends with an entry of its TLB of 32, or the access is
held or waits for a migration; a held or migrating access is translated again once its line is written; a buffered line
expires; a fence leaves no UN store behind in the clusters it covers, and its token leaves. R234 to R237: a store whose page
is absent retires into the side log; a woken entry whose page is now resident leaves the log and its store is performed; a
store that waits for room in the log is tried again once there is room. R231 to R233, R303: a stream reads its descriptor,
then issues reads of lines ahead, which complete in any order, and, once what it sent before has been accepted, sends the next
line, if it has been read, and after the last its completion token. -/
def Obligations.MemoryPortWaitsEndAndStreamsStep : Prop :=
  ((∀ s u id a m v, accessNo s u id = some a → memForm a.i = some m → a.st = .walking → NoneEnding s →
    formOf s u.cl (accessAddr a) = some (.virt v) →
    (∀ size e lines, walk s a.f.rid v = .leaf size e lines → ∃ s1,
      ⟨(s.region a.f.rid).cx, v / size * size, size, e, lines⟩ ∈ (s1.unit u).tlb ∧
      ((s.unit u).tlb.length ≤ 32 → (s1.unit u).tlb.length ≤ 32) ∧ SameDevice s s1 ∧ s1.net = s.net ∧ s1.frames = s.frames ∧
      ((s.unit u).tlb.length < 32 → s1 = { s with units := s1.units }) ∧
      exec (.pageWalkComplete u id) s = .next (settle (accessFound s1 u a m (leafTarget s a.f.rid v size e)))) ∧
    (∀ line, walk s a.f.rid v = .migr line → m.kind ≠ .prefetch → a.id = id → ∃ t,
      exec (.pageWalkComplete u id) s = .next t ∧ t.mem = s.mem ∧
      accessNo t u id = some { a with st := .migrating, wline := some line, woken := false }) ∧
    (∀ level pte line, walk s a.f.rid v = .page level pte line → m.kind ≠ .prefetch → m.sideLogged = false → a.id = id →
      line ∈ s.pageRecs → leafEntry s a.f.rid level pte = true → ∃ t, exec (.pageWalkComplete u id) s = .next t ∧
      t.mem = s.mem ∧ accessNo t u id = some { a with st := .held, wline := some line, woken := false, aux := 1 })) ∧
  (∀ s u id a m v, accessNo s u id = some a → memForm a.i = some m → a.woken = true → NoneEnding s → a.id = id →
    formOf s u.cl (accessAddr a) = some (.virt v) → heapTarget s a.f.rid v = none →
    tlbFind (s.unit u) (s.region a.f.rid).cx v = none →
    tlbFind (s.unit u) (s.region a.f.rid).cx (accessAddr a) = none →
    (a.st = .held → ∃ t, exec (.heldAccessWake u id) s = .next t ∧ t.mem = s.mem ∧
      accessNo t u id = some { a with st := .walking, wline := none, woken := false }) ∧
    (a.st = .migrating → ∃ t, exec (.migrationWaitEnd u id) s = .next t ∧ t.mem = s.mem ∧
      accessNo t u id = some { a with st := .walking, wline := none, woken := false })) ∧
  (∀ s u id a, accessNo s u id = none → opNo s u id = some a → a.woken = true → a.id = id → NoneEnding s →
    (a.st = .held → ∃ t, exec (.heldAccessWake u id) s = .next t ∧ t.mem = s.mem ∧
      opNo t u id = some { a with st := .queued, wline := none, woken := true }) ∧
    (a.st = .migrating → ∃ t, exec (.migrationWaitEnd u id) s = .next t ∧ t.mem = s.mem ∧
      opNo t u id = some { a with st := .queued, wline := none, woken := false })) ∧
  (∀ s u line, (∃ e ∈ (s.unit u).readBuf, e.key = line) → ∃ t, exec (.readBufferExpiry u line) s = .next t ∧
    (t.unit u).readBuf = (s.unit u).readBuf.filter (·.key != line) ∧ t.mem = s.mem) ∧
  ∀ s u id a n sc, accessNo s u id = some a → a.i = .fencePub n sc →
    let s1 := dropAccess (drainUn s a.f.rid u.cl sc) u id
    CanSay s ⟨u, a.f⟩ n → ∃ t, Says s1 ⟨u, a.f⟩ n sc.code.toNat .marker t ∧
      exec (.fenceDrainComplete u id) s = .next (settle t) ∧
      (∀ k, (k = u.cl ∧ (sc = .elem ∨ sc = .clu) ∨ k ∈ (s.region a.f.rid).host ∧
          (sc = .part ∨ sc = .sys ∨ sc = .strip ∧ stripOf k = stripOf u.cl)) →
        ∀ e ∈ (s1.cluster k).writeQ, e.un = false)) ∧
  ((∀ s u id a m v level pte line, accessNo s u id = some a → memForm a.i = some m → a.st = .walking → NoneEnding s →
    a.id = id → formOf s u.cl (accessAddr a) = some (.virt v) → walk s a.f.rid v = .page level pte line →
    line ∈ s.pageRecs → leafEntry s a.f.rid level pte = true → m.sideLogged = true → (s.region a.f.rid).logged = false →
    ((s.unit u).sideLog.length < 256 → ∃ t, exec (.pageWalkComplete u id) s = .next t ∧ t.mem = s.mem ∧ t.net = s.net ∧
      accessNo t u id = none ∧ (t.unit u).sideLog = (s.unit u).sideLog ++ [⟨sideWord s u a m, a.i, a.f, line, false⟩]) ∧
    (256 ≤ (s.unit u).sideLog.length → ∃ t, exec (.pageWalkComplete u id) s = .next t ∧ t.mem = s.mem ∧ t.net = s.net ∧
      accessNo t u id = some { a with st := .sideWait, wline := some line, woken := false })) ∧
  (∀ s u pre e post m t s1 s3, firstWoken (s.unit u).sideLog = some (pre, e, post) → memForm e.i = some m →
    let a : Access := ⟨s.nextId, e.i, e.f, .queued, none, none, false, 1⟩
    findNow { s with nextId := s.nextId + 1 } u e.f.rid m.kind.size (accessAddr a) = (.at t, s1) →
    let s2 := s1.modUnit u fun h => { h with sideLog := pre ++ post, access := h.access ++ [a] }
    accessAt s2 u a m t = .ok s3 → exec (.sideLogReplay u) s = .next (settle s3)) ∧
  (∀ s u a m v, (s.unit u).access.find? (·.st = .sideWait) = some a → memForm a.i = some m → NoneEnding s →
    (s.unit u).sideLog.length < 256 → formOf s u.cl (accessAddr a) = some (.virt v) → heapTarget s a.f.rid v = none →
    tlbFind (s.unit u) (s.region a.f.rid).cx v = none → tlbFind (s.unit u) (s.region a.f.rid).cx (accessAddr a) = none →
    accessNo s u a.id = some a → ∃ t, exec (.sideLogWaitEnd u) s = .next t ∧ t.mem = s.mem ∧
      accessNo t u a.id = some { a with st := .walking, wline := none, woken := false }) ∧
  (∀ s u k x m j g t s1 d e s2, checkPointer s u x.f.rid (x.ptr j) 64 64 = .ok g →
    findNow s u x.f.rid 64 (x.ptr j) = (.at t, s1) →
    streamRead (if soIssues s1 (x.access j) m t = true then makeIrrevocable s1 x.f.rid else s1) u x j t (x.ptr j) =
      .ok (d, e, s2) → streamLoad s u k x j m = .ok (d, e, s2)) ∧
  ∀ s u k x m, AL.find? (s.unit u).streams k = some x → memForm x.i = some m → streamMayRun s x = true →
    (x.started = false → streamRoom (s.unit u) = true → ∀ d e s2, streamLoad s u k x 0 m = .ok (d, e, s2) →
      streamOk s2 u d = true →
      exec (.streamLine u k) s = .next (settle (setStream s2 u k (some { x with desc := d, started := true })))) ∧
    (x.started = true → streamClear s u x = false ∨ x.sentAll = false ∧ x.headRead = false →
      (x.more = true → streamRoom (s.unit u) = true → x.reading = [] →
        exec (.streamLine u k) s = .next (settle (({ s with nonce := s.nonce + 1 } : State).modUnit u fun h =>
          { h with streams := AL.set h.streams k { x with ahead := x.ahead ++ [none] } }))) ∧
      (x.more = false ∨ streamRoom (s.unit u) = false → x.reading ≠ [] →
        (∀ j ∈ x.reading, ∃ r, streamLoad { s with nonce := s.nonce + 2 } u k x j m = .ok r) →
        ∃ j ∈ x.reading, ∃ d e s2, streamLoad { s with nonce := s.nonce + 2 } u k x j m = .ok (d, e, s2) ∧
          exec (.streamLine u k) s = .next (settle (s2.modUnit u fun h =>
            { h with streams := AL.set h.streams k { x with ahead := x.ahead.set j (some (d, e)) } })))) ∧
    (x.started = true → streamClear s u x = true →
      (∀ d e l s1, x.sentAll = false → x.ahead = some (d, e) :: l → streamSend s u x m d e = .ok s1 →
        exec (.streamLine u k) s = .next (settle (setStream s1 u k (some { x with
          jpos := (x.jpos * StreamDesc.inner x.desc + x.ipos + 1) / StreamDesc.inner x.desc
          ipos := (x.jpos * StreamDesc.inner x.desc + x.ipos + 1) % StreamDesc.inner x.desc
          ahead := l })))) ∧
      (∀ s1 g, StreamDesc.outer x.desc ≤ x.jpos → tagOf s ⟨u, x.f⟩ m.n.t (plain 0 .i64) = .ok g →
        sendTo (setStream s u k none) ⟨u, x.f⟩ m.n.e (marker m.scope.code.toNat false) g = .ok s1 →
        exec (.streamLine u k) s = .next (settle s1))))

/-! ### Tokens, tiles, sluices -/

/-- R36 to R40: a token at a complete unit joins the tokens that wait for it under its tag as one firing, which enters the
ready queue in the order formed, or else takes an entry of the matching store or of the overflow class; without room for it
the token stays and its unit accepts no other. What the sending cluster of a token from another cluster still held has drained
(log 44). -/
def Obligations.TokensMeetInTheMatchingStore : Prop :=
  ∀ s i f k slot sd w rid, netFirst s i = some f → crosses s f = false → ukindOf f.kind = some k →
    (s.cluster f.cl).power = .on →
    let u : UId := ⟨f.cl, k, f.unit⟩
    let h := s.unit u
    let s0 := landSent s f
    h.complete = true → h.refused = none ∨ h.refused = some (f.src, f.arc) → (f.pay.isLine && buffersFull u h) = false →
    meantSlot h f.slot f.side = (slot, sd) → AL.find? h.words slot = some (w, rid) →
    (s.region rid).st ≠ .completed → (s.region rid).st ≠ .ending → (s.region rid).st ≠ .lost → watched s rid f = false →
    let need := needsOf w.toNat (bitAt h.flags.toNat (49 + slot) && decide (slot < 15))
    sd ∈ need.sides →
    (∀ found : List MatchEntry, need.any = false → (need.sides.filter (· != sd)).map (waiting h slot f.tag) = found.map some →
      waiting h slot f.tag sd = none → h.ready.length < 8 → h.formed = [] →
      ∃ t, exec (.tokenArrival i) s = .next t ∧ SameDevice s t ∧ SameMemory s0 t ∧ t.net = s.net.eraseIdx i ∧
        Joins { firingOf slot rid f.tag ((sd, f.pay) :: found.map fun e => (e.side, e.pay)) with formedAt := s.clock }
          h.ready (t.unit u).ready ∧
        (t.unit u).store = found.foldl (fun l e => l.erase e) h.store) ∧
    (need.any = true → h.ready.length < 8 → h.formed = [] →
      ∃ t, exec (.tokenArrival i) s = .next t ∧ t.net = s.net.eraseIdx i ∧ (t.unit u).store = h.store ∧
        Joins { firingOf slot rid f.tag [(sd, f.pay)] with formedAt := s.clock } h.ready (t.unit u).ready) ∧
    (need.any = false → ((∃ x ∈ need.sides, x ≠ sd ∧ waiting h slot f.tag x = none) ∨ waiting h slot f.tag sd ≠ none) →
      (∀ sp : Bool, (sp = false ∧ storeUsed h < 64 ∨ sp = true ∧ 64 ≤ storeUsed h ∧ overflowRoom s u = true) →
        ∃ t, exec (.tokenArrival i) s = .next t ∧ SameDevice s t ∧ SameMemory s0 t ∧ t.net = s.net.eraseIdx i ∧
          (t.unit u).ready = h.ready ∧ (t.unit u).store = h.store ++ [⟨slot, sd, f.tag, rid, f.pay, sp⟩]) ∧
      (64 ≤ storeUsed h → overflowRoom s u = false → h.refused = none →
        ∃ t, exec (.tokenArrival i) s = .next t ∧ SameDevice s t ∧ t.net = s.net ∧ (t.unit u).store = h.store ∧
          (t.unit u).ready = h.ready ∧ (t.unit u).refused = some (f.src, f.arc)))

/-- R58, R113, R317, R162: a token at the termination sink is counted for its activation, and the last one ends the region; a
line enters a tile that can take it, and a drained tile is empty; a flit at a closed sluice is consumed and counted, the first
one recorded; a flit of a reserved kind, which on the data plane is any but 0x4 to 0x6 and on the control plane any but 0x1,
is a link-error notice (the plane is named as log 64 says). -/
def Obligations.ArrivalsAtSinksTilesAndSluices : Prop :=
  (∀ s i f, netFirst s i = some f → f.kind = sinkKind → (s.region f.rid).st = .active →
    let n := sunkOf (s.region f.rid) f.tag
    ∃ t, exec (.sinkTokenArrival i) s = .next t ∧ sunkOf (t.region f.rid) f.tag = n + 1 ∧
      (n + 1 ≠ Rcb.term (s.region f.rid).rcb →
        (t.region f.rid).st = .active ∧ t.net = s.net.eraseIdx i ∧ SameMemory s t ∧ t.units = s.units ∧
        ∀ g : Tag, (g.die, g.frame) ≠ (f.tag.die, f.tag.frame) → sunkOf (t.region f.rid) g = sunkOf (s.region f.rid) g) ∧
      (n + 1 = Rcb.term (s.region f.rid).rcb → (t.region f.rid).st = .ending)) ∧
  (∀ s i f d e src tl, s.MemOk → netFirst s i = some f → f.kind = 5 → crosses s f = false →
    (s.cluster f.cl).power = .on → AL.find? (s.cluster f.cl).tiles f.unit = some tl → f.pay = .line d e src →
    tileAdmits tl e = true → tl.st = .empty ∨ tl.st = .filling → (∀ q ∈ (s.cluster f.cl).tileIn, q.1 ≠ f.unit) →
    logging s tl.rid = false → tileKey f.cl tl tl.arrived + 64 ≤ 2 ^ 120 →
    let key := tileKey f.cl tl tl.arrived
    ∃ t, exec (.tileLineArrival i) s = .next t ∧ SameDevice s t ∧
      Stored (drainedFor (landSent s f) key) t key (cellsOf key 64 d.toNat) (some e) ∧
      AL.find? (t.cluster f.cl).tiles f.unit = some { tl with
        arrived := tl.arrived + 1
        st := if tl.arrived + 1 = tl.lines then .ready else .filling
        left := if tl.arrived + 1 = tl.lines then tl.readers else tl.left }) ∧
  (∀ s cl k tl, AL.find? (s.cluster cl).tiles k = some tl → tl.st = .draining → tl.reading = 0 → logging s tl.rid = false →
    (∀ q ∈ (s.cluster cl).tileIn, q.1 ≠ k) →
    ∃ t, exec (.tileDrainEnd cl k) s = .next t ∧ t.mem = s.mem ∧ SameDevice s t ∧
      AL.find? (t.cluster cl).tiles k = some { tl with st := .empty, arrived := 0 }) ∧
  (∀ s i f, netFirst s i = some f → crosses s f = true → f.kind ≠ sinkKind →
    ∃ t, exec (.sluiceDrop i) s = .next t ∧ (∃ l, t.net = s.net.eraseIdx i ++ l) ∧
      let p := s.part (partOf s f.src.cl)
      let q := t.part (partOf s f.src.cl)
      q.sluiceCnt.toNat = (if p.sluiceCnt.toNat = 0xFFFFFFFF then 0xFFFFFFFF else (p.sluiceCnt + 1).toNat) ∧
      q.sluiceDrop.getLsbD 63 = true ∧ (p.sluiceDrop.getLsbD 63 = true → q.sluiceDrop = p.sluiceDrop)) ∧
  ∀ s k cl (hdr : BitVec 128), cl < 4096 →
    k = 0 ∧ bits hdr.toNat 127 124 ∉ [0x4, 0x5, 0x6] ∨ k = 1 ∧ bits hdr.toNat 127 124 ≠ 0x1 →
    exec (.reservedFkindFlit (4096 * k + cl) hdr) s = .next (takeFault s ⟨none, cl, 0, 0, 0, 0, 0, 0, 0, 0, none, 0⟩
      ⟨.linkError, bits hdr.toNat 127 95, 0⟩)

/-- R164, R165, R354: a good packet of an open part is written into its unit; a good seal makes the part complete; a bad one,
a packet that breaks its rules, or an uncorrectable word, opens the part again, which freezes its region, or where it is of a
supervisor region its partition (R352). R385, R386: a withheld firing halts its region. -/
def Obligations.ConfigurationLoadSteps : Prop :=
  (∀ s i p, cfgFirst s i = some p → Pk.pkind p.line.toNat ≠ 6 → (s.unit p.uid).part = p.rid →
    (s.unit p.uid).complete = false → packetOk p.line.toNat = true →
    ∃ t, exec (.configPacket i) s = .next t ∧ t.unit p.uid = putPacket p.rid p.line.toNat (s.unit p.uid) ∧
      t.cfgNet = s.cfgNet.eraseIdx i ∧ t.mem = s.mem ∧ t.net = s.net) ∧
  (∀ s i p, cfgFirst s i = some p → Pk.pkind p.line.toNat ≠ 6 → (s.unit p.uid).part = p.rid →
    packetOk p.line.toNat = false →
    ∃ t, exec (.configPacket i) s = .next t ∧ (t.unit p.uid).complete = false ∧ (t.unit p.uid).reload = true ∧
      (t.unit p.uid).fails = (s.unit p.uid).fails + 1) ∧
  (∀ s i p, cfgFirst s i = some p → Pk.pkind p.line.toNat = 6 → (s.unit p.uid).part = p.rid →
    (s.unit p.uid).complete = false →
    (packetOk p.line.toNat = true → sealOk p.line.toNat (s.region p.rid).sig.toNat (s.unit p.uid) = true →
      ∃ t, exec (.configSeal i) s = .next t ∧ (t.unit p.uid).complete = true ∧ (t.unit p.uid).fails = 0) ∧
    (sealOk p.line.toNat (s.region p.rid).sig.toNat (s.unit p.uid) = false →
      ∃ t, exec (.configSeal i) s = .next t ∧ (t.unit p.uid).complete = false ∧ (t.unit p.uid).reload = true ∧
        (t.unit p.uid).fails = (s.unit p.uid).fails + 1)) ∧
  (∀ s u, (s.unit u).complete = true → unitInRange (kindCode u.kind) u.num = true →
    (s.part (s.region (s.unit u).part).part).supRid ≠ some (s.unit u).part →
    ∃ t, exec (.configWordUncorrectable u) s = .next t ∧ (t.unit u).complete = false ∧ (t.unit u).reload = true ∧
      (t.unit u).words = [] ∧ (t.unit u).wordLost = true ∧ t.mem = s.mem) ∧
  (∀ s u, (s.unit u).complete = true → unitInRange (kindCode u.kind) u.num = true →
    let p := (s.region (s.unit u).part).part
    (s.part p).supRid = some (s.unit u).part →
    ∃ t, exec (.configWordUncorrectable u) s = .next t ∧ (t.part p).frozen = true ∧ t.units = s.units) ∧
  ∀ s rid, (s.region rid).halted = false → (s.region rid).yield = none → (∃ p ∈ s.units, ∃ w ∈ p.2.withheld, w.2.rid = rid) →
    ∃ t, exec (.breakpointHalt rid) s = .next t ∧ t.region rid = { s.region rid with halted := true } ∧
      t.units = s.units ∧ t.mem = s.mem ∧ t.net = s.net

/-- R51, R53, R54, R361: a stalled allocation that keeps what it was handed completes once its cluster has room; a returning
frame whose copies are released is free, and passes at once to the earliest stalled allocation of its region and die, which
completes, or keeps it while its cluster has no room for the copy: the frame is then not free. What the frame was goes into
the undo entries of a logged interval first. -/
def Obligations.FrameRoomAndRelease : Prop :=
  (∀ s cl w l t, (s.cluster cl).slotWait = w :: l → copyRoom s cl = true →
    stallDone (s.modCluster cl fun c => { c with slotWait := l }) w (w.f.stage - 1) = .ok t →
    exec (.frameCopyRoomFreed cl) s = .next t) ∧
  (∀ s rid die fr, (s.frame rid die fr).st = .returning → (∀ w ∈ (s.region rid).falloc, w.1 ≠ die) →
    let s1 := recorded s rid die fr
    (logging s rid = false → s1 = s) ∧
    ∃ t, exec (.lastCopyReleased rid die fr) s = .next t ∧ t.frame rid die fr = Frame.none ∧
      (∀ r d f, (r, d, f) ≠ (rid, die, fr) → t.frame r d f = s1.frame r d f) ∧ t = { s1 with frames := t.frames }) ∧
  ∀ s rid die fr st l l', (s.frame rid die fr).st = .returning → (s.region rid).falloc = l ++ (die, st) :: l' →
    (∀ w ∈ l, w.1 ≠ die) →
    let s0 := ((recorded s rid die fr).modRegion rid fun r => { r with falloc := r.falloc.erase (die, st) }).setFrame
      rid die fr Frame.none
    (copyRoom s0 st.u.cl = true → ∀ t, stallDone s0 st fr = .ok t → exec (.lastCopyReleased rid die fr) s = .next t) ∧
    (copyRoom s0 st.u.cl = true → ∀ n, st.i = .falloc n → st.f.rid = rid → dieOf st.u.cl = die →
      let s1 := newFrame s0 rid die fr st.u.cl 0 0 0 0
      CanSay s1 ⟨st.u, st.f⟩ n → ∃ t, Says s1 ⟨st.u, st.f⟩ n (die % 8 * 2 ^ 21 + fr % 4096 * 2 ^ 9) .tagix t ∧
        exec (.lastCopyReleased rid die fr) s = .next t) ∧
    (copyRoom s0 st.u.cl = false → ∃ t, exec (.lastCopyReleased rid die fr) s = .next t ∧ (t.frame rid die fr).st = .live ∧
      (t.cluster st.u.cl).slotWait = (s0.cluster st.u.cl).slotWait ++ [{ st with f := { st.f with stage := fr + 1 } }] ∧
      t.net = s0.net ∧ t.mem = s0.mem)

/-! ### Line units -/

/-- R253, R254, R355: a line token is one line; a handle of a declared tile of location 0 gives its lines, in order, where
they carry one format and none has an uncorrectable error, which is a pool error fault (what it names is log 55's choice); a
second operand is a line for every line, a tile line by line, a zero, or a scalar broadcast over the lanes, and a pair of
lines agrees in format and in signed-exponent scale. -/
def Obligations.LineOperandsAreLinesTilesAndScalars : Prop :=
  (∀ s cl d e t z, lineA s cl ⟨.line d e t, z⟩ = .ok ⟨[(d, e)], none⟩) ∧
  (∀ s cl x k t, x.ty = .handle → x.sc = false → x.val.toNat = 2 ^ 56 + k → k < 64 →
    AL.find? (s.cluster cl).tiles k = some t → t.om = true →
    let line := fun i => ((BitVec.ofNat 512 (Memory.readN s.mem (tileKey cl t i) 64),
      BitVec.ofNat 16 (Memory.readN s.mem (descKey (tileKey cl t i)) 2)) : Line)
    (∀ i, i < t.lines → s.poison.contains (tileKey cl t i) = true → (∀ j, j < i → s.poison.contains (tileKey cl t j) = false) →
      lineA s cl ⟨.scal x, false⟩ = flt .poolError (64 * (t.base + i)) (2 ^ 56 + k)) ∧
    ((∀ i, i < t.lines → s.poison.contains (tileKey cl t i) = false) →
      (∀ i, i < t.lines → (line i).2.fmt = (line 0).2.fmt) →
      ∃ x', lineA s cl ⟨.scal x, false⟩ = .ok x' ∧ x'.tile = some k ∧ x'.lines = (List.range t.lines).map line) ∧
    (∀ i, (∀ j, j < t.lines → s.poison.contains (tileKey cl t j) = false) → i < t.lines →
      (line i).2.fmt ≠ (line 0).2.fmt → (∀ j, j < i → (line j).2.fmt = (line 0).2.fmt) →
      lineA s cl ⟨.scal x, false⟩ = flt .format (line i).2.toNat)) ∧
  (∀ s cl (a : LineA) d e t, (∀ l ∈ a.lines, l.2.fmt = e.fmt ∧ (signedExp e.fmt = true → l.2.scale = e.scale)) →
    lineB s cl a false ⟨.line d e t, false⟩ = .ok (a.lines.map fun _ => (d, e))) ∧
  (∀ s cl (a : LineA) ex p, lineB s cl a ex ⟨.scal p, true⟩ = .ok (a.lines.map fun l => (0, l.2))) ∧
  (∀ s cl (l : Line) tile x, x.sc = false → x.ty ≠ .handle → (x.ty = .i64 ∨ declared x.ty = l.2.fmt) →
    ∃ r, lineB s cl ⟨[l], tile⟩ false ⟨.scal x, false⟩ = .ok [(r, l.2)] ∧
      (x.ty = .i64 → ∀ g, g < 8 → laneAt 64 g r.toNat = x.val.toNat) ∧
      (x.ty = .f32 ∨ x.ty = .i32 → ∀ g, g < 16 → laneAt 32 g r.toNat = x.val.toNat % 2 ^ 32)) ∧
  ∀ s cl (a : LineA) d e t, (∃ l ∈ a.lines, l.2.fmt ≠ e.fmt ∨ signedExp e.fmt = true ∧ l.2.scale ≠ e.scale) →
    lineB s cl a false ⟨.line d e t, false⟩ = flt .format e.toNat

/-- R258, R256, R194, Table 09-1: sum, difference, product, fused product and sum, minimum and maximum of the lanes of two
lines, and magnitude, negation and the four approximations of those of one: FP32 and BF16 lanes rounded once, integer lanes
cut to their low bits or clamped under `.sat`. -/
def Obligations.LineArithmeticActsOnEachLane : Prop :=
  ∀ (n : Nd) (x fz : Bool) (m : Rnd),
    let near := fun (g : FV → Near) (k p : Nat) =>
      ((if k = 0x04 then Fmt.p12 else .bf16).round m fz .arith (g (fvF fz k p)).1 (g (fvF fz k p)).2).1
    LineNode2 0xA0 (.vadd n x fz m) n false inFI resultDesc (fun _ _ k p q =>
      fiLane m fz x k (FV.add m (fvF fz k p) (fvF fz k q)) (intI k p + intI k q)) ∧
    LineNode2 0xA1 (.vsub n x fz m) n false inFI resultDesc (fun _ _ k p q =>
      fiLane m fz x k (FV.add m (fvF fz k p) (FV.neg (fvF fz k q))) (intI k p - intI k q)) ∧
    LineNode2 0xA2 (.vmul n x fz m) n false inFI resultDesc (fun _ _ k p q =>
      fiLane m fz x k (FV.mul (fvF fz k p) (fvF fz k q)) (intI k p * intI k q)) ∧
    LineNode2 0xA3 (.vfma n fz m) n false inF resultDesc (fun c s k p q =>
      ((fmtF k).round m fz .arith (FV.add m
        (FV.mul (fvF fz 0x04 ((AL.get 0 (s.unit c.u).lits 13).toNat % 2 ^ 32)) (fvF fz k p)) (fvF fz k q))).1) ∧
    LineNode2 0xA4 (.vmin n x fz m) n false inFI resultDesc (fun _ _ k p q =>
      fiLane .ne fz false k (minMax false x (fvF fz k p) (fvF fz k q)) (min (intI k p) (intI k q))) ∧
    LineNode2 0xA5 (.vmax n x fz m) n false inFI resultDesc (fun _ _ k p q =>
      fiLane .ne fz false k (minMax true x (fvF fz k p) (fvF fz k q)) (max (intI k p) (intI k q))) ∧
    LineNode1 0xA6 (.vabs n x fz m) n inFI (fun k p => fiLane .ne fz x k (FV.abs (fvF fz k p)) (intI k p).natAbs) ∧
    LineNode1 0xA7 (.vneg n x fz m) n inFI (fun k p => fiLane .ne fz x k (FV.neg (fvF fz k p)) (-(intI k p))) ∧
    LineNode1 0xA8 (.vexp2 n fz m) n inF (near fexp2) ∧ LineNode1 0xA9 (.vlog2 n fz m) n inF (near flog2) ∧
    LineNode1 0xAA (.vrcp n fz m) n inF (near frcp) ∧ LineNode1 0xAB (.vrsqrt n fz m) n inF (near frsqrt)

/-- R259, R258, Table 09-1: `vcmp` gives lanes of all ones where the condition holds, on a raw line; `vsel` and the bit
operations act on lanes as raw bits, the shifts on integer lanes, the count modulo the lane width. -/
def Obligations.LineComparisonSelectionAndBits : Prop :=
  ∀ (n : Nd) (k : Cond) (m : BitVec 3) (u : Bool),
    LineNode2 0xAC (.vcmp n k) n false inFI (fun _ => 0) (fun _ _ f p q =>
      if (if f = 0x04 ∨ f = 0x05 then floatCond k ((fmtF f).value p) ((fmtF f).value q) else intCond k (lineShape f).1 p q) = true
      then 2 ^ (lineShape f).1 - 1 else 0) ∧
    LineNode2 0xAD (.vsel n m) n true inX resultDesc (fun _ _ _ p q => if q = 0 then 0 else p) ∧
    LineNode2 0xAE (.vand n m) n true inX resultDesc (fun _ _ _ p q => p &&& q) ∧
    LineNode2 0xAF (.vor n m) n true inX resultDesc (fun _ _ _ p q => p ||| q) ∧
    LineNode2 0xB0 (.vxor n m) n true inX resultDesc (fun _ _ _ p q => p ^^^ q) ∧
    LineNode2 0xB1 (.vshl n m) n false inI resultDesc (fun _ _ f p q => p <<< (q % (lineShape f).1)) ∧
    LineNode2 0xB2 (.vshr n u m) n false inI resultDesc (fun _ _ f p q =>
      let w := (lineShape f).1
      if u then p >>> (q % w) else ((BitVec.ofNat w p).sshiftRight (q % w)).toNat)

/-- R260, R261: `vcvt` converts m lanes of each line under its conversion word, every other lane zero, with the overflow bits
on destination 1; `vscl` scales F lanes by 2^k and the scale byte of the signed-exponent formats by k, and any other sum or
format is a format fault. -/
def Obligations.LineConversionsAndScales : Prop :=
  (∀ (n : Nd) fz m s c a b s2 x y l, FiresLine s c n a b s2 → lineA s2 c.u.cl a = .ok x → asScalar b [.i64] = .ok y →
    y.sc = false → x.lines.mapM (cvtWord y.val.toNat fz m) = .ok l → CanEmit s2 c n b.pay false →
    ∃ t, l.foldlM (fun s z => cvtEmit s c n b z) s2 = .ok t ∧ Ends (.vcvt n fz m) s c 0xB3 t) ∧
  (∀ (w : Nat) fz m (l : Line) t x, let target := bits w 7 0
    let p := bits w 22 16
    let o := bits w 30 24
    cvtTarget target = some t → lineValues fz (bits w 63 32) l.1 l.2 = some x → bitAt w 23 = false → bitAt w 31 = false →
    ((target = 0x09 ∨ l.2.fmt = 0x09 ∨ l.2.fmt = 0x10) → superOk (bits w 63 32) = true) →
    p < (lineShape target).2 → o < x.length →
    let k := min (x.length - o) ((lineShape target).2 - p)
    let down : Int := if signedExp target = true then -(BitVec.ofNat 8 (bits w 15 8)).toInt else 0
    let lane := fun j => cvtLane t false fz m (lineScale (bits w 63 32) (bits w 15 8)) (.fv (FV.scale down (x.getD (o + j) .nan)))
    ∃ r ov, cvtWord w fz m l = .ok (r, ov) ∧
      r.2 = Desc.mk target (if target = 0x02 ∨ target = 0x03 ∨ target = 0x04 ∨ target = 0x05 then 0 else bits w 15 8) ∧
      LanesAre target (fun j => if p ≤ j ∧ j < p + k then (lane (j - p)).1 else 0) r ∧
      ov = (List.range k).map fun j => (lane j).2) ∧
  (∀ (n : Nd) fz m s c a b s2 x y l, FiresLine s c n a b s2 → lineA s2 c.u.cl a = .ok x → asScalar b [.i64] = .ok y →
    y.sc = false → x.lines.mapM (sclLine fz m y.val.toInt) = .ok l → CanEmit s2 c n b.pay false →
    ∃ t, emitLines s2 c n b l = .ok t ∧ Ends (.vscl n fz m) s c 0xB4 t) ∧
  (∀ fz m k (l : Line), inF l.2.fmt → ∃ r, sclLine fz m k l = .ok r ∧ r.2 = Desc.mk l.2.fmt 0 ∧
    (-4096 ≤ k ∧ k ≤ 4096 → LanesAre l.2.fmt (fun j =>
      ((fmtF l.2.fmt).round m fz .arith (FV.scale k (fvF fz l.2.fmt (lineLane l.2.fmt l j)))).1) r)) ∧
  ∀ fz m k (l : Line), ¬ inF l.2.fmt →
    let sum := (BitVec.ofNat 8 l.2.scale).toInt + k
    (signedExp l.2.fmt = true → -128 ≤ sum → sum ≤ 127 →
      sclLine fz m k l = .ok (l.1, Desc.mk l.2.fmt (BitVec.ofInt 8 sum).toNat)) ∧
    ((signedExp l.2.fmt = false ∨ sum < -128 ∨ 127 < sum) → sclLine fz m k l = flt .format l.2.toNat)

/-- R262: `vbcast` makes a line of the format that A's type declares, with scale byte 0; `vext` emits a lane as a scalar, an
index at or above the lane count being a lane fault; `vperm` gathers lanes of A by the bytes of B, an index beyond them giving
zero. -/
def Obligations.LaneMoves : Prop :=
  (∀ (n : Nd) m s c a b s2 x, s.cur = some c → ReadsAB s c n a b s2 → asScalar a allTypes = .ok x → x.sc = false →
    CanEmit s2 c n b.pay false →
    ∃ d t, finish s2 c n b.pay (.line d (Desc.mk (declared x.ty) 0) none) = .ok t ∧ Ends (.vbcast n m) s c 0xB5 t ∧
      (x.ty = .i64 ∨ x.ty = .u64 ∨ x.ty = .bf16x4 ∨ x.ty = .i16x4 ∨ x.ty = .i8x8 ∨ x.ty = .e4x8 ∨ x.ty = .e5x8 ∨
          x.ty = .qn4x16 ∨ x.ty = .tagix ∨ x.ty = .handle ∨ x.ty = .control ∨ x.ty = .marker →
        ∀ g, g < 8 → laneAt 64 g d.toNat = x.val.toNat) ∧
      (x.ty = .f32 ∨ x.ty = .i32 → ∀ g, g < 16 → laneAt 32 g d.toNat = x.val.toNat % 2 ^ 32)) ∧
  (∀ (n : Nd) m s c a b s2 x y k, FiresLine s c n a b s2 → lineA s2 c.u.cl a = .ok x →
    asScalar b [.i32, .i64] = .ok y → y.sc = false →
    k = (if y.ty = .i32 then (y.val.setWidth 32).toNat else y.val.toNat) →
    (∀ l ∈ x.lines, inX l.2.fmt) → CanEmit s2 c n b.pay false →
    ((∀ l ∈ x.lines, k < (lineShape l.2.fmt).2) →
      ∃ t l, Emits s2 c n b l t ∧ Ends (.vext n m) s c 0xB6 t ∧ l.length = x.lines.length ∧
        ∀ q ∈ List.zip l x.lines, let v := lineLane q.2.2.fmt q.2 k
          (inF q.2.2.fmt →
            q.1 = plain (BitVec.ofNat 64 (Fmt.f32.round .ne false .arith ((fmtF q.2.2.fmt).value v)).1) .f32) ∧
          (inI q.2.2.fmt ∨ q.2.2.fmt = 0x0A →
            q.1 = plain ((BitVec.ofNat (lineShape q.2.2.fmt).1 v).signExtend 64) .i64) ∧
          (q.2.2.fmt = 0x00 ∨ q.2.2.fmt = 0x07 ∨ q.2.2.fmt = 0x08 → q.1 = plain (BitVec.ofNat 64 v) .i64)) ∧
    (∀ l rest, x.lines = l :: rest → (lineShape l.2.fmt).2 ≤ k →
      LineFaults (.vext n m) s c 0xB6 n .lane (k % 16) 0)) ∧
  ∀ (n : Nd) m s c a b s2 x y, FiresLine s c n a b s2 → lineA s2 c.u.cl a = .ok x → lineB s2 c.u.cl x true b = .ok y →
    (∀ l ∈ x.lines, inX l.2.fmt) → CanEmit s2 c n b.pay false →
    ∃ l t, l.length = x.lines.length ∧ emitLines s2 c n b l = .ok t ∧ Ends (.vperm n m) s c 0xB7 t ∧
      ∀ p ∈ List.zip l (List.zip x.lines y), p.1.2 = resultDesc p.2.1.2 ∧
        let f := if p.2.1.2.fmt = 0x0A then 0x00 else p.2.1.2.fmt
        ∀ j, j < min 64 (lineShape f).2 → laneBv (lineShape f).1 j p.1.1.toNat =
          let ix := laneAt 8 j p.2.2.1.toNat
          BitVec.ofNat _ (if ix < (lineShape f).2 then lineLane f p.2.1 ix else 0)

/-- R263: `rsum` adds the tree sums of the lines in FP32, in order, or the integer lanes exactly; `rmin` and `rmax` give the
least and the greatest lane or, with `.abs`, magnitude, as R192 orders them, without rounding. -/
def Obligations.ReductionsGiveOneScalar : Prop :=
  ∀ (n : Nd) (nan ab : Bool) (m : BitVec 2) s c a b s2 x l rest, FiresLine s c n a b s2 → lineA s2 c.u.cl a = .ok x →
    x.lines = l :: rest → (∀ y ∈ x.lines, y.2.fmt = l.2.fmt) → CanEmit s2 c n b.pay false →
    let f := l.2.fmt
    let fv := fun (y : Line) => (List.range (lineShape f).2).map fun j => (fmtF f).value (lineLane f y j)
    let iv := x.lines.flatMap fun y => (List.range (lineShape f).2).map fun j => intI f (lineLane f y j)
    let mag := fun (v : FV) => if ab then FV.abs v else v
    let imag := fun (v : Int) => if ab then (v.natAbs : Int) else v
    let f32 := fun v => plain (BitVec.ofNat 64 (Fmt.f32.round .ne false .arith v).1) .f32
    let best := fun (more : Bool) => match (x.lines.flatMap fv).map mag with
      | v :: vs => vs.foldl (minMax more nan) v
      | [] => FV.nan
    (inF f → ∃ t, finish s2 c n b.pay (f32 ((rest.map fun y => treeSum (fv y)).foldl addF32 (treeSum (fv l)))) = .ok t ∧
      Ends (.rsum n m) s c 0xB8 t) ∧
    (inI f → ∃ t, finish s2 c n b.pay (plain (BitVec.ofInt 64 iv.sum) .i64) = .ok t ∧ Ends (.rsum n m) s c 0xB8 t) ∧
    (inF f → ∃ t, finish s2 c n b.pay (f32 (best false)) = .ok t ∧ Ends (.rmin n nan ab m) s c 0xB9 t) ∧
    (inF f → ∃ t, finish s2 c n b.pay (f32 (best true)) = .ok t ∧ Ends (.rmax n nan ab m) s c 0xBA t) ∧
    (inI f → ∃ v t, v ∈ iv.map imag ∧ (∀ w ∈ iv.map imag, v ≤ w) ∧
      finish s2 c n b.pay (plain (BitVec.ofInt 64 v) .i64) = .ok t ∧ Ends (.rmin n nan ab m) s c 0xB9 t) ∧
    (inI f → ∃ v t, v ∈ iv.map imag ∧ (∀ w ∈ iv.map imag, w ≤ v) ∧
      finish s2 c n b.pay (plain (BitVec.ofInt 64 v) .i64) = .ok t ∧ Ends (.rmax n nan ab m) s c 0xBA t)

/-- R264, R265: `racc` of a line adds its lanes into 16-lane FP32 accumulator lines, each rounded once to nearest, writes them
with descriptor 0x0400 and sends an ordering token of scope cluster; no other byte changes. Its interval is irrevocable. An
offset that is no i64, no multiple of 64 or beyond the class is an address fault. -/
def Obligations.AccumulationAddsIntoItsLines : Prop :=
  (∀ (n : Nd) fz m s c a b s2 l y, s.MemOk → FiresLine s c n a b s2 → lineA s2 c.u.cl a = .ok ⟨[l], none⟩ → inF l.2.fmt →
    asScalar b [.i64] = .ok y → y.sc = false → y.val.toNat % 64 = 0 →
    let w := (s2.cluster c.u.cl).pword
    let k := if l.2.fmt = 0x04 then 1 else 2
    y.val.toNat + 64 * k ≤ classSize w 2 → c.u.cl < 4096 →
    let base := poolKey c.u.cl (classBase w 2 + y.val.toNat)
    (∀ i, i < k → s2.poison.contains (base + 64 * i) = false) →
    let s3 := makeIrrevocable s2 c.f.rid
    (∀ i, i < k → Quiet s3 (base + 64 * i)) → CanEmit s3 c n b.pay false →
    ∃ t, Ends (.racc n fz m) s c 0xBB t ∧
      (∀ j, j < 16 * k → Memory.readN t.mem (base + 4 * j) 4 = (Fmt.f32.round .ne fz .arith (FV.add .ne
        (fvF fz 0x04 (Memory.readN s3.mem (base + 4 * j) 4)) (fvF fz l.2.fmt (lineLane l.2.fmt l j)))).1 % 2 ^ 32) ∧
      (∀ i, i < k → Memory.readN t.mem (descKey (base + 64 * i)) 2 = 0x0400) ∧
      (∀ q, (q < base ∨ base + 64 * k ≤ q) → (q < descKey base ∨ descKey base + 2 * k ≤ q) →
        Memory.read t.mem q = Memory.read s3.mem q) ∧
      ∃ s4, finish s4 c n b.pay (marker 1 false) = .ok t ∧ SameDevice s3 s4 ∧ s4.net = s3.net ∧ s4.frames = s3.frames) ∧
  (∀ (n : Nd) fz m s c a b s2 x e, FiresLine s c n a b s2 → lineA s2 c.u.cl a = .ok x → asScalar b [.i64] = .error e →
    LineFaults (.racc n fz m) s c 0xBB n .address 0 0) ∧
  ∀ (n : Nd) fz m s c a b s2 x y, FiresLine s c n a b s2 → lineA s2 c.u.cl a = .ok x → (∀ l ∈ x.lines, inF l.2.fmt) →
    asScalar b [.i64] = .ok y → y.sc = false →
    (y.val.toNat % 64 ≠ 0 ∨ classSize (s2.cluster c.u.cl).pword 2 <
      y.val.toNat + 64 * (x.lines.map fun l => if l.2.fmt = 0x04 then 1 else 2).sum) →
    LineFaults (.racc n fz m) s c 0xBB n .address 0 y.val.toNat

/-! ### The lookup matrix unit -/

/-- R269, R270, R281, R389: a claim of a free bank completes at once for its previous owner and clears it for another region;
a claim of a bank that is owned stalls in its list; a release frees the bank, and one by a region that does not own it is a
claim fault; `lm.stat` reports the unit, and a scaled trigger of it is a scale-mismatch fault; a gated bank loses its
entries. -/
def Obligations.LookupBanksAreClaimedAndReleased : Prop :=
  (∀ n s c a b s2 x k, Fires s c 0xC0 → ReadsAB s c n a b s2 → orderOk c.f.o = .ok () → asScalar a [.handle] = .ok x →
    x.sc = false → x.val.toNat = 2 * 2 ^ 56 + k → k < 2 →
    let B := bankOf s2 c.u.cl k
    (B.owner = some c.f.rid → CanSay s2 c n → ∃ t, Says s2 c n 0 .control t ∧ Ends (.lmClaim n) s c 0xC0 t) ∧
    (B.owner = none → B.claims = [] → B.last = some c.f.rid → B.gated = false →
      let s3 := setBank s2 c.u.cl k { B with owner := some c.f.rid }
      CanSay s3 c n → ∃ t, Says s3 c n 0 .control t ∧ Ends (.lmClaim n) s c 0xC0 t) ∧
    (B.owner = none → B.claims = [] → (B.last ≠ some c.f.rid ∨ B.gated = true) →
      Ends (.lmClaim n) s c 0xC0 (setBank s2 c.u.cl k { B with
        owner := some c.f.rid, last := some c.f.rid, clearing := true, valid := false, auto := false, filled := 0
        gated := false, claims := [(c.u, c.f)] })) ∧
    ((∃ r, B.owner = some r ∧ r ≠ c.f.rid) ∨ B.owner = none ∧ B.claims ≠ [] →
      Ends (.lmClaim n) s c 0xC0 (setBank s2 c.u.cl k { B with claims := B.claims ++ [(c.u, c.f)] }))) ∧
  (∀ n s c a b s2 x k, Fires s c 0xC1 → ReadsAB s c n a b s2 → orderOk c.f.o = .ok () → asScalar a [.handle] = .ok x →
    x.sc = false → x.val.toNat = 2 * 2 ^ 56 + k → k < 2 →
    ((bankOf s2 c.u.cl k).owner = some c.f.rid → lookUses s2 c.u.cl k = false → CanSay (releaseBank s2 c.u.cl k) c n →
      ∃ t, Says (releaseBank s2 c.u.cl k) c n 0 .control t ∧ Ends (.lmRelease n) s c 0xC1 t ∧
        ((bankOf s2 c.u.cl k).claims = [] → (bankOf t c.u.cl k).owner = none)) ∧
    ((bankOf s2 c.u.cl k).owner ≠ some c.f.rid → Faults (.lmRelease n) s c 0xC1 n .claim k)) ∧
  (∀ s cl b u f l, b < 2 → let B := bankOf s cl b
    B.claims = (u, f) :: l →
    (B.clearing = true → B.owner = some f.rid →
      let s1 := zeroTables (setBank s cl b { B with clearing := false, srcLines := 0, claims := l }) cl b
      CanSay s1 ⟨u, f⟩ (nodeForm s1 u f.slot) →
      ∃ t, Says s1 ⟨u, f⟩ (nodeForm s1 u f.slot) 0 .control t ∧ exec (.claimClearComplete cl b) s = .next (settle t) ∧
        ∀ q, tableKey cl b 0 0 ≤ q → q < tableKey cl b 0 0 + 2 ^ 16 → Memory.read s1.mem q = 0) ∧
    (B.clearing = false → B.owner = none → (B.last ≠ some f.rid ∨ B.gated = true) →
      exec (.claimClearComplete cl b) s = .next (settle (setBank s cl b { B with
        owner := some f.rid, last := some f.rid, clearing := true, valid := false, auto := false, filled := 0
        gated := false })))) ∧
  (∀ n s c a b s2, Fires s c 0xCA → ReadsAB s c n a b s2 → orderOk c.f.o = .ok () → a.pay.scaled = true →
    Faults (.lmStat n) s c 0xCA n .scaleMismatch 0) ∧
  (∀ n s c a b s2, Fires s c 0xCA → ReadsAB s c n a b s2 → orderOk c.f.o = .ok () → a.pay.scaled = false →
    CanEmit s2 c n b.pay false →
    let k := s2.cluster c.u.cl
    k.bankA.bcode < 8 → k.bankB.bcode < 8 → k.bankA.filled < 2 → k.bankB.filled < 2 →
    ∃ v t, finish s2 c n b.pay (plain v .i64) = .ok t ∧ Ends (.lmStat n) s c 0xCA t ∧
      (∀ j B, (j = 0 ∧ B = k.bankA ∨ j = 16 ∧ B = k.bankB) → v.getLsbD j = B.valid ∧ v.getLsbD (j + 1) = B.auto ∧
        v.getLsbD (j + 2) = B.planes ∧ bits v.toNat (j + 5) (j + 3) = B.bcode ∧ bits v.toNat (j + 6) (j + 6) = B.filled ∧
        v.getLsbD (j + 7) = B.owner.isSome ∧ v.getLsbD (j + 8) = decide (B.owner = some c.f.rid) ∧
        bits v.toNat (j + 15) (j + 9) = 0) ∧
      v.getLsbD 32 = k.pass.armed ∧ v.getLsbD 33 = k.pass.running ∧ bits v.toNat 47 34 = 0 ∧
      v.toNat / 2 ^ 48 = (k.pass.n - k.pass.u) % 2 ^ 16) ∧
  ∀ s cl b, s.MemOk → b < 2 → let B := bankOf s cl b
    B.owner = none → B.claims = [] → B.gated = false → B.clearing = false → B.since + 4096 ≤ s.clock →
    ∃ t, exec (.bankPowerGate cl b) s = .next t ∧ (bankOf t cl b).gated = true ∧ (bankOf t cl b).valid = false ∧
      ∀ q, Memory.read t.mem q =
        if tableKey cl b 0 0 ≤ q ∧ q < tableKey cl b 0 0 + 2 ^ 16 then 0 else Memory.read s.mem q

/-- R271, R98, R273, R145: a build starts with its bank invalid and, when it completes, has written in every table the BF16
rounding of the exact sum of its entry, the bank valid unless a write met the build; a fill writes one line of entries. -/
def Obligations.TablesAreBuiltAndFilled : Prop :=
  (∀ n auto s c a b s2 x y off k e l, Fires s c 0xC3 → ReadsAB s c n a b s2 → orderOk c.f.o = .ok () →
    asScalar a [.u64, .i64] = .ok x → x.sc = false → x.val.toNat = 0xFC * 2 ^ 56 + off → off < 2 ^ 19 → off % 64 = 0 →
    asScalar b [.handle] = .ok y → y.sc = false → y.val.toNat = 2 * 2 ^ 56 + k → k < 2 →
    (bankOf s2 c.u.cl k).owner = some c.f.rid → lookUses s2 c.u.cl k = false → (s2.cluster c.u.cl).build = none →
    let w := geometry s2 c.u.cl k
    let lines := (if bitAt w 3 then 512 else 256) / (lineShape e).2
    inF e → off + 64 * lines ≤ padSize s2 c.u.cl → padLines s2 c.u.cl off lines = l → (∀ z ∈ l, z.2.fmt = e) →
    (∀ i, i < lines → s2.poison.contains (poolKey c.u.cl (off + 64 * i)) = false) →
    let s3 := makeIrrevocable s2 c.f.rid
    ∃ t, Ends (.lmBuild n auto) s c 0xC3 t ∧ t.mem = s3.mem ∧ t.net = s3.net ∧ t.frames = s3.frames ∧
      (t.cluster c.u.cl).build = some ⟨.lmBuild n auto, { c.f with l := some a.pay, r := some b.pay }, 0,
        [c.u.cl, off, lines, k, auto.toNat], false, none, false⟩ ∧
      (bankOf t c.u.cl k).valid = false ∧ (bankOf t c.u.cl k).filled = 0 ∧ (bankOf t c.u.cl k).planes = bitAt w 3 ∧
      (bankOf t c.u.cl k).rows = 2 ^ bits w 2 0) ∧
  (∀ s cl x n s2, (s.cluster cl).build = some x → ((∃ auto, x.i = .lmBuild n auto) ∨ ∃ sc, x.i = .lmReload n sc) →
    NoneEnding s →
    finishBuild (s.modCluster cl fun c => { c with build := none }) cl x = .ok s2 →
    CanEmit s2 ⟨lmUnit cl, x.f⟩ n (x.f.r.getD (plain 0 .i64)) false →
    ∃ t, finish s2 ⟨lmUnit cl, x.f⟩ n (x.f.r.getD (plain 0 .i64)) (marker 1 false) = .ok t ∧
      exec (.lmBuildComplete cl) s = .next (settle t) ∧
      (bankOf s2 cl (x.aux.getD 3 0)).valid = !x.dirty ∧ (bankOf s2 cl (x.aux.getD 3 0)).filled = 0) ∧
  (∀ s cl x s2 b off fmt l, s.MemOk → cl < 4096 → b < 2 → x.aux.getD 3 0 = b → x.aux.getD 1 0 = off →
    buildRun s cl off (bankOf s cl b).planes = .ok (fmt, l) → finishBuild s cl x = .ok s2 →
    let k := bankOf s cl b
    let an := if k.planes then 512 else 256
    ∀ r g e, r < k.b → g < k.g → e < (if k.planes then 16 else 256) →
      Memory.readN s2.mem (tableKey cl b (g * k.b + r) e) 2 = (Fmt.bf16.round .ne false .arith
        (entrySum k.planes (activations fmt l) (r * (an / k.b) + an / 128 * g) e)).1 % 2 ^ 16) ∧
  ∀ n s c a b s2 d e src y x k, s2.MemOk → Fires s c 0xC2 → ReadsAB s c n a b s2 → orderOk c.f.o = .ok () →
    asLine a = .ok (.line d e src) → e.fmt = 0x05 → asScalar b [.i64] = .ok y → y.sc = false →
    y.val.toNat = x + 2 ^ 11 * k → k < 2 → (bankOf s2 c.u.cl k).owner = some c.f.rid → lookUses s2 c.u.cl k = false →
    buildBank s2 c.u.cl ≠ some k → let w := geometry s2 c.u.cl k
    x < (if bitAt w 3 then 64 else 1024) → CanEmit s2 c n b.pay false →
    ∃ t, Ends (.lmFill n) s c 0xC2 t ∧ (bankOf t c.u.cl k).valid = true ∧ (bankOf t c.u.cl k).auto = false ∧
      (bankOf t c.u.cl k).filled = 1 ∧ (bankOf t c.u.cl k).planes = bitAt w 3 ∧
      (bitAt w 3 = false → Memory.readN t.mem (tableKey c.u.cl k (x / 8) (32 * (x % 8))) 64 = d.toNat) ∧
      (bitAt w 3 = true → Memory.readN t.mem (tableKey c.u.cl k (2 * x) 0) 32 = d.toNat % 2 ^ 256 ∧
        Memory.readN t.mem (tableKey c.u.cl k (2 * x + 1) 0) 32 = d.toNat / 2 ^ 256)

/-- R274 to R277: `lm.arm` opens a pass; `lm.look` and `lm.direct` start it with their tiles ready, and one that finds none
armed is a pass fault; each use of a tile accumulates, and a bank found invalid without auto ends the pass with a table-stale
fault. -/
def Obligations.PassesAreArmedAndRun : Prop :=
  (∀ n ld clr s c a b s2 x y, Fires s c 0xC4 → ReadsAB s c n a b s2 → orderOk c.f.o = .ok () → asScalar a [.i64] = .ok x →
    x.sc = false → asScalar b [.i64] = .ok y → y.sc = false → (s2.cluster c.u.cl).pass.armed = false →
    (s2.cluster c.u.cl).pass.running = false →
    let ok := 1 ≤ x.val.toNat ∧ x.val.toNat ≤ 65535 ∧ (if ld then y.val.toNat % 64 = 0 else y.val.toNat = 0)
    (¬ ok → Faults (.lmArm n ld clr) s c 0xC4 n .pass 0) ∧
    (ok → let s3 := s2.modCluster c.u.cl fun k => { k with
        pass := ⟨true, false, x.val.toNat, 0, 0, 0, if ld then 2 + y.val.toNat else clr.toNat, c.f.rid⟩ }
      CanEmit s3 c n b.pay false →
      ∃ t, finish s3 c n b.pay (plain x.val .control) = .ok t ∧ Ends (.lmArm n ld clr) s c 0xC4 t)) ∧
  (∀ n k p4 s c a b s2 x h y tn tl, Fires s c 0xC5 → ReadsAB s c n a b s2 → orderOk c.f.o = .ok () →
    asScalar a [.handle] = .ok x → x.sc = false → x.val.toNat = 2 * 2 ^ 56 + h → h < 2 → asScalar b [.handle] = .ok y →
    y.sc = false → y.val.toNat = 2 ^ 56 + tn → tn < 64 → AL.find? (s2.cluster c.u.cl).tiles tn = some tl → tl.st = .ready →
    (s2.cluster c.u.cl).look = none → buildBank s2 c.u.cl ≠ some h → reloadsBank s2 c.u.cl h = false →
      (bankOf s2 c.u.cl h).owner = some c.f.rid →
    let ps := (s2.cluster c.u.cl).pass
    let B := bankOf s2 c.u.cl h
    let q := if p4 then B.g / 8 * (k.toNat + 1) else B.g / 4
    let cols := ps.n * (16 * (tl.lines / q))
    (ps.armed = false → Faults (.lmLook n k p4) s c 0xC5 n .pass 0) ∧
    (ps.armed = true → tl.lines % q = 0 → B.b * cols ≤ 16384 → ps.pick ≤ 1 →
      let s3 := makeIrrevocable s2 c.f.rid
      ∃ t, Ends (.lmLook n k p4) s c 0xC5 t ∧ t.net = s3.net ∧ t.frames = s3.frames ∧
        (t.cluster c.u.cl).look =
          some ⟨.lmLook n k p4, { c.f with l := some a.pay, r := some b.pay }, 0, [h, tn], false, none, false⟩ ∧
        (t.cluster c.u.cl).pass = { ps with armed := false, running := true, u := 0, rows := B.b, cols := cols } ∧
        (ps.pick = 1 → ∀ j, j < 4 * (B.b * cols) → Memory.read t.mem (accKey c.u.cl 0 + j) = 0))) ∧
  (∀ n f s c a b s2 x an ta y wn tw, Fires s c 0xC6 → ReadsAB s c n a b s2 → orderOk c.f.o = .ok () →
    asScalar a [.handle] = .ok x → x.sc = false → x.val.toNat = 2 ^ 56 + an → an < 64 → asScalar b [.handle] = .ok y →
    y.sc = false → y.val.toNat = 2 ^ 56 + wn → wn < 64 → AL.find? (s2.cluster c.u.cl).tiles an = some ta →
    AL.find? (s2.cluster c.u.cl).tiles wn = some tw → ta.st = .ready → tw.st = .ready → (s2.cluster c.u.cl).look = none →
    let ps := (s2.cluster c.u.cl).pass
    let fmt := directFmt f
    let word := (AL.get 0 (s2.unit c.u).lits 14).toNat
    let K := bits word 15 0
    let rows := 2 ^ bits word 18 16
    let per := K / (lineShape fmt).2
    let cols := tw.lines / per
    (ps.armed = false → Faults (.lmDirect n f) s c 0xC6 n .pass 0) ∧
    (ps.armed = true → word < 2 ^ 19 → 0 < K → K % (lineShape fmt).2 = 0 → rows ≤ 16 → ta.lines = rows * per →
      tw.lines % per = 0 → 0 < cols → cols % 16 = 0 → rows * (ps.n * cols) ≤ 16384 → ps.pick ≤ 1 →
      (∀ i, i < ta.lines → s2.poison.contains (tileKey c.u.cl ta i) = false) →
      (∀ l ∈ tileLines s2 c.u.cl an, l.2.fmt = fmt) →
      let s3 := makeIrrevocable s2 c.f.rid
      LogRoom s3 ta.rid c.u.cl → ∃ t, Ends (.lmDirect n f) s c 0xC6 t ∧ t.net = s3.net ∧ t.frames = s3.frames ∧
        (t.cluster c.u.cl).look =
          some ⟨.lmDirect n f, { c.f with l := some a.pay, r := some b.pay }, 0, [an, wn, per, cols], false, none, false⟩ ∧
        (t.cluster c.u.cl).pass = { ps with armed := false, running := true, u := 0, rows := rows, cols := ps.n * cols })) ∧
  (∀ s cl r n k p4 tl, (s.cluster cl).look = some r → r.i = .lmLook n k p4 → (s.cluster cl).build = none →
    (s.region r.f.rid).gated = false → ((s.region r.f.rid).halted = false ∨ r.f.seq ∈ (s.region r.f.rid).stepped) →
    AL.find? (s.cluster cl).tiles (r.aux.getD 1 0) = some tl → tl.st = .ready → NoneEnding s → logging s tl.rid = false →
    let B := bankOf s cl (r.aux.getD 0 0)
    let lines := tileLines s cl (r.aux.getD 1 0)
    lookLines s cl (r.aux.getD 1 0) p4 tl lines = .ok () →
    (B.valid = false → B.auto = false → exec (.passTileUse cl) s =
      .next (settle (takeFault (stopPass s cl r) (runSite (lmUnit cl) r) ⟨.tableStale, r.aux.getD 0 0, 0⟩))) ∧
    (B.valid = false → B.auto = true → B.srcLines ≠ 0 → ∃ t, exec (.passTileUse cl) s = .next t ∧
      (t.cluster cl).build.isSome = true ∧ (t.unit (lmUnit cl)).rebuilds = (s.unit (lmUnit cl)).rebuilds + 1 ∧
      t.mem = s.mem ∧ (t.cluster cl).pass = (s.cluster cl).pass) ∧
    (B.valid = true → badCode B p4 lines = none → (s.cluster cl).pass.u + 1 ≠ (s.cluster cl).pass.n →
      ∃ t, exec (.passTileUse cl) s = .next t ∧ t.mem = (lookUse s cl (r.aux.getD 0 0) B p4 (k.toNat + 1) tl lines).mem ∧
        (t.cluster cl).pass = { (s.cluster cl).pass with u := (s.cluster cl).pass.u + 1 } ∧ t.net = s.net)) ∧
  ∀ s cl i v, s.MemOk → (accumulate s cl i v).MemOk ∧
    Memory.readN (accumulate s cl i v).mem (accKey cl i) 4 = (Fmt.f32.round .ne false .arith
      (FV.add .ne (Fmt.f32.value (Memory.readN s.mem (accKey cl i) 4)) v)).1 % 2 ^ 32 ∧
    ∀ q, (q < accKey cl i ∨ accKey cl i + 4 ≤ q) → Memory.read (accumulate s cl i v).mem q = Memory.read s.mem q

/-- R278 to R280: `lm.drain` takes the first route that its rule finds, a route that is none being a route fault and a row
group that is no i64 or above 15 a pass fault; `lm.spill` and `lm.reload` start with their bank; a drain into the accumulator
class writes one line of 16 values at each step with descriptor 0x0400, clears them under `.clr`, and ends with its marker. -/
def Obligations.DrainsSpillsAndReloads : Prop :=
  (∀ n clr sc s c a b s2 x y k, Fires s c 0xC7 → ReadsAB s c n a b s2 → orderOk c.f.o = .ok () →
    asScalar a [.i32, .i64, .control] = .ok x → x.sc = false →
    (∀ e, asScalar b [.i64] = .error e → Faults (.lmDrain n clr sc) s c 0xC7 n .pass 0) ∧ (asScalar b [.i64] = .ok y →
      y.sc = false →
    k = (if x.ty = .i32 then (x.val.setWidth 32).toNat else x.val.toNat) →
    let m := y.val.toNat
    let ps := (s2.cluster c.u.cl).pass
    let lit := (AL.get 0 (s2.unit c.u).lits k).toNat
    let go := fun (t : State) route base => Ends (.lmDrain n clr sc) s c 0xC7 t ∧
      t.net = (makeIrrevocable s2 c.f.rid).net ∧
      (t.cluster c.u.cl).drains = (s2.cluster c.u.cl).drains ++
        [⟨.lmDrain n clr sc, { c.f with l := some a.pay, r := some b.pay }, 0, [route, base, m], false, none, false⟩]
    (16 ≤ m → Faults (.lmDrain n clr sc) s c 0xC7 n .pass 0) ∧
    (m < 16 → (ps.running = true → ps.rows * ps.cols ≤ 1024 * m) →
      (k < 8 → litType (s2.unit c.u) k = .u64 → lit ≠ 0 → ∃ t, go t 1 (lit + 4096 * m)) ∧
      (k < 8 → litType (s2.unit c.u) k = .i64 →
        let w := (s2.cluster c.u.cl).pword
        (lit + 4096 * m + 4096 ≤ classSize w 2 → lit % 64 = 0 → ∃ t, go t 2 (classBase w 2 + lit + 4096 * m)) ∧
        (classSize w 2 < lit + 4096 * m + 4096 → FaultsAt (.lmDrain n clr sc) s c 0xC7 n .address lit)) ∧
      (k < 8 → ¬ (litType (s2.unit c.u) k = .u64 ∧ lit ≠ 0) → litType (s2.unit c.u) k ≠ .i64 →
        Arc.valid (AL.get 0 (s2.unit c.u).arcs k) = true → ∃ t, go t 3 k) ∧
      ((8 ≤ k ∨ ¬ (litType (s2.unit c.u) k = .u64 ∧ lit ≠ 0) ∧ litType (s2.unit c.u) k ≠ .i64 ∧
          Arc.valid (AL.get 0 (s2.unit c.u).arcs k) = false) →
        Faults (.lmDrain n clr sc) s c 0xC7 n .route k)))) ∧
  (∀ n sc s c a b s2 x y k g, ReadsAB s c n a b s2 → orderOk c.f.o = .ok () → asScalar a [.u64, .i64] = .ok x → x.sc = false →
    asScalar b [.handle] = .ok y → y.sc = false → y.val.toNat = 2 * 2 ^ 56 + k → k < 2 →
    checkPointer s2 c.u c.f.rid x.val.toNat 64 64 = .ok g → (bankOf s2 c.u.cl k).owner = some c.f.rid →
    buildBank s2 c.u.cl ≠ some k →
    let f : Firing := { c.f with l := some a.pay, r := some b.pay }
    (Fires s c 0xC8 → ∃ t h, Ends (.lmSpill n sc) s c 0xC8 t ∧ t.mem = s2.mem ∧ t.net = s2.net ∧
      (t.cluster c.u.cl).drains = (s2.cluster c.u.cl).drains ++
        [⟨.lmSpill n sc, f, 0, [k, (bankOf s2 c.u.cl k).filled, h], false, none, false⟩]) ∧
    (Fires s c 0xC9 → lookUses s2 c.u.cl k = false → ∃ t, Ends (.lmReload n sc) s c 0xC9 t ∧
      t.net = (makeIrrevocable s2 c.f.rid).net ∧
      (t.cluster c.u.cl).drains = (s2.cluster c.u.cl).drains ++ [⟨.lmReload n sc, f, 0, [k], false, none, false⟩])) ∧
  ∀ s cl r l n clr sc base m, s.MemOk → cl < 4096 → m < 16 → base + 4096 ≤ 2 ^ 19 → base % 64 = 0 → NoneEnding s →
    (s.cluster cl).drains = r :: l → r.i = .lmDrain n clr sc → r.aux = [2, base, m] → r.pos < 64 → r.wline = none →
    Quiet s (poolKey cl (base + 64 * r.pos)) → LogRoom s r.f.rid cl →
      CanEmit s ⟨lmUnit cl, r.f⟩ n (r.f.r.getD (plain 0 .i64)) false →
    ∃ t, exec (.lmDrainLine cl) s = .next t ∧
      Memory.readN t.mem (poolKey cl (base + 64 * r.pos)) 64 = Memory.readN s.mem (accKey cl (1024 * m + 16 * r.pos)) 64 ∧
      Memory.readN t.mem (descKey (poolKey cl (base + 64 * r.pos))) 2 = 0x0400 ∧
      (clr = true → Memory.readN t.mem (accKey cl (1024 * m + 16 * r.pos)) 64 = 0) ∧
      (r.pos < 63 → (t.cluster cl).drains = { r with pos := r.pos + 1, held := false } :: l ∧ t.net = s.net) ∧
      (r.pos = 63 → (t.cluster cl).drains = l)

/-! ### Engine ports -/

/-- R238, R252, R284, R290, R291, R363, R382, R403: an engine-port node whose operands pass their checks takes an entry of the
queue of 16, an irrevocable one after its interval is committed; a command line, and a value with a range, that break their
rules are a command fault, and a misaligned remote offset an alignment fault. -/
def Obligations.EngineOperationsAreQueued : Prop :=
  (∀ (n : Nd) (p x nm : Bool) (sc : Scope) op i ta tb, (op, i, ta, tb) ∈ ([
      (0xEC, .spawn n, [.u64, .i64], allTypes), (0xED, .suspend n, [.u64, .i64], [.u64, .i64]),
      (0xEE, .jinit n sc, [.u64, .i64], [.u64, .i64]), (0xEF, .jarrive n sc, [.u64, .i64], allTypes),
      (0xF0, .barArrive n sc, [.u64, .i64], allTypes), (0xF1, .barWait n sc, [.u64, .i64], [.i64]),
      (0xF2, .qPush n sc, [.u64, .i64], allTypes), (0xF3, .qPop n p sc, [.u64, .i64], allTypes),
      (0xF4, .launch n sc, [.u64, .i64], [.u64, .i64]), (0xF5, .cut n, allTypes, allTypes),
      (0xEA, .cvOpen n x nm, [.i64], if nm then [.i64] else allTypes), (0xFF, .gateSrcClose n, [.i64], [.u64, .i64]),
      (0xFF, .gateSrcOpen n, [.i64], if n.b = .zero then allTypes else [.u64, .i64]),
      (0xFF, .gateSrcFreeze n, [.i64], allTypes), (0xFF, .gateSrcEvict n, [.i64], allTypes)] :
        List (Nat × Instr × List TType × List TType)) →
    ∀ s c a b s2 xa yb, Fires s c op → ReadsAB s c n a b s2 → asScalar a ta = .ok xa → xa.sc = false →
      asScalar b tb = .ok yb → yb.sc = false → orderOk c.f.o = .ok () → opRoom s2 c.u = true →
      Queues op i s c (if op = 0xF5 then s2 else makeIrrevocable s2 c.f.rid) (.scal xa) (.scal yb)) ∧
  (∀ (n : Nd) op i ta tb (ok : Nat → Nat → Prop), (op, i, ta, tb, ok) ∈ ([
      (0xFC, .publish n, [.u64, .i64], [.i64], fun _ y => 1 ≤ y ∧ y ≤ 2 ^ 20),
      (0xFE, .scrubZero n, [.u64, .i64], [.i64], fun _ y => 1 ≤ y ∧ y ≤ 65536),
      (0xFE, .scrubWait n, allTypes, allTypes, fun _ _ => True),
      (0xFD, .hgTake n, [.i64], allTypes, fun v _ => v < 64),
      (0xFD, .hgPost n, [.i64], allTypes, fun v _ => v < 2 ^ 26 ∧ bits v 15 8 = 0),
      (0xFD, .hgQuote n, [.u64, .i64], [.u64, .i64], fun v w => v / 2 ^ 56 = 0xFC ∧ w < 2 ^ 56)] :
        List (Nat × Instr × List TType × List TType × (Nat → Nat → Prop))) →
    ∀ s c a b s2 xa yb, Fires s c op → ReadsAB s c n a b s2 → asScalar a ta = .ok xa → xa.sc = false →
      asScalar b tb = .ok yb → yb.sc = false → orderOk c.f.o = .ok () →
      (ok xa.val.toNat yb.val.toNat → opRoom s2 c.u = true →
        Queues op i s c (makeIrrevocable s2 c.f.rid) (.scal xa) (.scal yb)) ∧
      (¬ ok xa.val.toNat yb.val.toNat → Faults i s c op n .command 0)) ∧
  (∀ (n : Nd) (sc : Scope) op i (nm usesX : Bool), (op, i, nm, usesX) ∈ ([(0xE0, .cp n sc, false, true),
      (0xE1, .nmAdd n sc, true, true), (0xE2, .nmAxpy n sc, true, true), (0xE3, .nmScl n sc, true, false),
      (0xE4, .nmCvt n sc, true, true)] : List (Nat × Instr × Bool × Bool)) →
    ∀ s c a b s2 xa yb g d e s4, Fires s c op → ReadsAB s c n a b s2 → asScalar a [.u64, .i64] = .ok xa → xa.sc = false →
      asScalar b allTypes = .ok yb → yb.sc = false → orderOk c.f.o = .ok () →
      checkPointer s2 c.u c.f.rid xa.val.toNat 64 64 = .ok g → opRoom s2 c.u = true →
      engLine (makeIrrevocable s2 c.f.rid) c.u c.f.rid xa.val.toNat c.f.o.isSome = .ok (d, e, s4) →
      let v := d.toNat
      let ok := v < 2 ^ 352 ∧ bits v 255 202 = 0 ∧ 1 ≤ Cmdl.count v ∧ Cmdl.count v ≤ 1048576 ∧
        (nm = true → (Cmdl.fmt v = 0x04 ∨ Cmdl.fmt v = 0x05) ∧ (usesX = false → Cmdl.src v = 0))
      (¬ ok → Faults i s c op n .command 0) ∧
      (ok → (nm = true → Cmdl.dst v < 2 ^ 52 ∧ Cmdl.src v < 2 ^ 52) →
        Queues op i s c s4 (.line d e none) (.scal yb))) ∧
  (∀ (n : Nd) op i tb, (op, i, tb) ∈ ([(0xE8, .cvIn n, if n.b = .zero then allTypes else [.u64, .i64]),
      (0xE9, .cvOut n, allTypes)] : List (Nat × Instr × List TType)) →
    ∀ s c a b s2 xa yb g d e s4 h oid, Fires s c op → ReadsAB s c n a b s2 → asScalar a [.u64, .i64] = .ok xa →
      xa.sc = false → asScalar b tb = .ok yb → yb.sc = false → orderOk c.f.o = .ok () →
      checkPointer s2 c.u c.f.rid xa.val.toNat 64 64 = .ok g → opRoom s2 c.u = true →
      engLine (makeIrrevocable s2 c.f.rid) c.u c.f.rid xa.val.toNat c.f.o.isSome = .ok (d, e, s4) →
      let v := d.toNat
      v < 2 ^ 352 → bits v 255 202 = 0 → 1 ≤ Cmdl.count v → Cmdl.count v ≤ 65536 → Cmdl.src v = 0 →
      Cmdl.dst v < 2 ^ 52 → Cmdl.dst v % 4096 = 0 → Cmdl.handle v = 0x04 * 2 ^ 56 + h → h < 2 ^ 32 →
      AL.find? s4.out.handles ((s4.region c.f.rid).cx, h) = some oid → Queues op i s c s4 (.line d e none) (.scal yb)) ∧
  (∀ n x s c a s1 xa h oid, Fires s c 0xEB → ReadsA s c n a s1 → asScalar a [.handle] = .ok xa → xa.sc = false →
    orderOk c.f.o = .ok () → xa.val.toNat = 0x04 * 2 ^ 56 + h → h < 2 ^ 32 → opRoom s1 c.u = true →
    AL.find? s1.out.handles ((s1.region c.f.rid).cx, h) = some oid →
    Queues 0xEB (.cvClose n x) s c (makeIrrevocable s1 c.f.rid) (.scal xa) (plain 0 .i64)) ∧
  ∀ (n : Nd) (k l w : Bool) (o : BitVec 3) op i size, (op, i, size) ∈ ([(0xE5, .xrGet n k l, if l then 64 else 8),
      (0xE6, .xrPut n l, if l then 64 else 8), (0xE7, .xrAmo n w o, if w then 4 else 8)] : List (Nat × Instr × Nat)) →
    ∀ s c a b s2 xa y, Fires s c op → ReadsAB s c n a b s2 → asScalar a [.handle, .i64] = .ok xa → xa.sc = false →
      xa.val.toNat / 2 ^ 56 = 0x03 →
      (Rp.off xa.val.toNat % size ≠ 0 → FaultsAt i s c op n .alignment xa.val.toNat) ∧
      (Rp.off xa.val.toNat % size = 0 → orderOk c.f.o = .ok () → opRoom s2 c.u = true →
        (if op = 0xE6 ∧ l = true then asLine b = .ok y else ∃ yb, y = .scal yb ∧ yb.sc = false ∧
          asScalar b (if op = 0xE5 ∧ k = true then [.u64, .i64] else if op = 0xE7 then (amoOp o.toNat).types w else allTypes) =
            .ok yb) →
        Queues op i s c (makeIrrevocable s2 c.f.rid) (.scal xa) y)

/-- R239 to R243, R246 to R249, R65: when its turn comes, `jinit` writes its counter, `jarrive` counts it down and enqueues
the parent at zero, after the stores that its input may depend on and, at an activation's end, once its frame is free (R66),
`bar.arrive` counts up and opens the next generation, `bar.wait` goes on or watches, a queue that keeps R248 takes the entry
at its tail unless it is full, and gives the one at its head unless it is empty (R249), `spawn` and `suspend` enqueue or park
their record; a counter at zero and a counter with a parent are faults. -/
def Obligations.TaskOperationsTakeEffect : Prop :=
  (∀ s u a n sc blk t s1, OpReady s u a → a.i = .jinit n sc → OpBlock s u a (opA a) 16 blk t s1 →
    (2 ^ 64 ≤ blk → OpFaults s u a .joinBusy 0) ∧
    (blk < 2 ^ 64 → OpSays s u a n (blockWrite s1 a t 0 16 (opB a)) (marker sc.code.toNat false))) ∧
  (∀ s u a n sc, OpReady s u a → a.i = .jarrive n sc → a.f.stage = 1 → (frameAt s a.f.rid a.f.tag).st = .returning →
    exec (.engineOperationComplete u a.id) s = .refused (.notEnabled "ENGINE_OPERATION_COMPLETE")) ∧
  (∀ s u a n sc blk t s1, OpReady s u a → a.i = .jarrive n sc → a.aux = 0 →
    (a.f.stage = 1 → (frameAt s a.f.rid a.f.tag).st ≠ .returning) →
    OpBlock (release s u a.f.rid) u a (opA a) 16 blk t s1 →
    let count := blk % 2 ^ 64
    let parent := blk / 2 ^ 64
    let s2 := blockWrite s1 a t 0 8 (count - 1)
    let mk := marker sc.code.toNat false
    (count = 0 → OpFaults s u a .joinUnderflow 0) ∧
    (2 ≤ count ∨ count = 1 ∧ parent = 0 → OpSays s u a n s2 mk) ∧
    (count = 1 → parent ≠ 0 → CanEmit s2 ⟨u, a.f⟩ n (accessArg a) false →
      (findParked s2 (s2.region a.f.rid).cx parent = none → OpSays s u a n (blockWrite s2 a t 8 8 0) mk) ∧
      ∀ cl r s3, findParked s2 (s2.region a.f.rid).cx parent = some (cl, r) → recordError s2 cl r = none →
        enqueueParked s2 cl r id = some s3 →
        OpSays s u a n (blockWrite s3 a t 8 8 0) mk)) ∧
  (∀ s u a n sc blk t s1, OpReady s u a → a.i = .barArrive n sc →
    OpBlock (release s u a.f.rid) u a (opA a) 16 blk t s1 →
    let expected := bits blk 31 0
    let arrived := bits blk 63 32
    let gen := bits blk 127 64
    let p := some (plain (BitVec.ofNat 64 gen) .i64)
    let q := some (marker sc.code.toNat false)
    (expected = 0 ∨ expected ≤ arrived → OpFaults s u a .barrier 0) ∧
    (arrived + 1 < expected → OpSaysPair s u a n (blockWrite s1 a t 4 4 (arrived + 1)) p q) ∧
    (arrived + 1 = expected → OpSaysPair s u a n
      (wakeWatchers (blockWrite s1 a t 4 12 ((gen + 1) % 2 ^ 64 * 2 ^ 32)) a.f.rid t.key) p q)) ∧
  (∀ s u a n sc t s0 blk e s1, OpReady s u a → a.i = .barWait n sc →
    engAt s u a.f.rid (opA a) 16 16 true false a.f.o.isSome = .ok (t, s0) →
    engRead s u a.f.rid (opA a) 16 16 a.f.o.isSome = .ok (blk, e, s1) →
    (blk / 2 ^ 64 ≠ opB a → OpSaysPair s u a n (dropBuffers s1 u.cl) (some (plain 1 .control))
      (some (marker sc.code.toNat false))) ∧
    (blk / 2 ^ 64 = opB a → (s1.unit u).watchers.length < 16 → OpEnds s u a (s1.modUnit u fun h =>
      { h with watchers := h.watchers ++ [{ a with aux := t.key, woken := false }] }))) ∧
  (∀ s u a n sc x hd t s1, OpReady s u a → a.i = .qPush n sc → a.f.r = some (.scal x) →
    OpBlock (release s u a.f.rid) u a (opA a) 32 hd t s1 →
    let full := (QHead.tail hd + 2 ^ 32 - QHead.head hd) % 2 ^ 32 = 2 ^ QHead.lgcap hd
    (¬ QueueOk s1 u.cl hd → OpFaults s u a .queue 0) ∧
    (QueueOk s1 u.cl hd → full → OpSaysPair s u a n s none (some (.scal x))) ∧
    ∀ e s2, QueueOk s1 u.cl hd → ¬ full →
      engAt s1 u a.f.rid (QHead.base hd + 8 * (QHead.tail hd % 2 ^ QHead.lgcap hd)) 8 8 false true a.f.o.isSome = .ok (e, s2) →
      s2.poison.contains e.line = false →
      let s3 := drainLine s2 e.line fun _ _ => true
      formatOk (readDesc s3 .outside a.f.rid u.cl e).fmt = true →
      formatAdmits (readDesc s3 .outside a.f.rid u.cl e).fmt (declared x.ty) = true →
      OpSaysPair s u a n (blockWrite (blockWrite s3 a e 0 8 x.val.toNat) a t 4 4 ((QHead.tail hd + 1) % 2 ^ 32))
        (some (marker sc.code.toNat false)) none) ∧
  (∀ s u a n p sc hd t s1, OpReady s u a → a.i = .qPop n p sc → OpBlock s u a (opA a) 32 hd t s1 →
    (¬ QueueOk s1 u.cl hd → OpFaults s u a .queue 0) ∧
    (QueueOk s1 u.cl hd → QHead.head hd = QHead.tail hd → OpSaysPair s u a n s1 none (some (plain 0 .control))) ∧
    ∀ v d s2, QueueOk s1 u.cl hd → QHead.head hd ≠ QHead.tail hd →
      engRead s1 u a.f.rid (QHead.base hd + 8 * (QHead.head hd % 2 ^ QHead.lgcap hd)) 8 8 a.f.o.isSome = .ok (v, d, s2) →
      OpSaysPair s u a n (dropBuffers (blockWrite s2 a t 0 4 ((QHead.head hd + 1) % 2 ^ 32)) u.cl)
        (some (loadToken (.load 8 p) d.fmt v)) none) ∧
  (∀ s u a n img s1 r s2, OpReady s u a → a.i = .spawn n → engImage s u a.f.rid (opA a) a.f.o.isSome = .ok (img, s1) →
    checkRecord s1 a.f.rid img = .ok r → (RecImg.newf img = false → (frameAt s1 r (RecImg.tag img)).st = .live) →
    enqueueRecord s1 ⟨0, liveImage img 0, r, false, false, none, 0, none⟩ = some s2 → OpSays s u a n s2 (marker 1 false)) ∧
  ∀ s u a n img s1 r blk t s2, OpReady s u a → a.i = .suspend n → opA a < 2 ^ 56 →
    engImage s u a.f.rid (opA a) a.f.o.isSome = .ok (img, s1) → checkRecord s1 a.f.rid img = .ok r →
    OpBlock s1 u a (opB a) 16 blk t s2 →
    let rec' : Rec := ⟨opA a, liveImage img 1, r, false, false, none, 0, none⟩
    (2 ^ 64 ≤ blk → OpFaults s u a .joinBusy 0) ∧
    (∀ s3, blk = 0 → enqueueRecord s2 { rec' with img := liveImage img 0 } = some s3 → OpSays s u a n s3 (marker 1 false)) ∧
    ∀ s3, 0 < blk → blk < 2 ^ 64 → parkRecord s2 u.cl rec' = some s3 →
      OpSays s u a n (blockWrite s3 a t 8 8 (opA a)) (marker 1 false)

/-- R286, R139, R287, R288, R290, R289, R292, R245: a copy moves a line with its descriptor in each step, in any order but
that of lines on SO pages, and ends with its marker after the last one; a near-memory command rounds each lane once; a remote
answer ends its operation, and a refused one is a remote fault; a peer's request is served through an open window or changes
nothing; a Culvert page that is bad is a Culvert fault, and the last good one ends the transfer; a launch ends once its child
has begun. -/
def Obligations.TransfersEndWithTheirTokens : Prop :=
  (∀ s u a n sc d e src, OpReady s u a → a.i = .cp n sc → a.f.l = some (.line d e src) →
    let s0 : State := { s with nonce := s.nonce + 1 }
    let left := copyLeft a d.toNat
    (∀ i t so, left = [i] → copyLine s0 u a d.toNat i = .ok (t, so) →
      OpSays s u a n t (marker (if so = true ∨ a.aux % 2 = 1 then 4 else sc.code.toNat) false)) ∧
    (2 ≤ left.length → ∃ i ∈ left, (copyFree s0 u a d.toNat i = false → ∀ j ∈ left, j < i → copyFree s0 u a d.toNat j = true) ∧
      ∀ t so, copyLine s0 u a d.toNat i = .ok (t, so) → exec (.engineOperationComplete u a.id) s = .next (settle (setOp t u { a with
        st := .queued, wline := none, woken := false
        aux := a.aux / 2 * 2 + (so || a.aux % 2 == 1).toNat + 2 ^ (i + 1) })))) ∧
  (∀ s u a v i t so, copyLine s u a v i = .ok (t, so) → ∃ ts s0 d e s1 td s2 td' s3,
    let ord := a.f.o.isSome
    engAt s u a.f.rid (Cmdl.src v + 64 * i) 64 64 true false ord = .ok (ts, s0) ∧
      engLine s0 u a.f.rid (Cmdl.src v + 64 * i) ord = .ok (d, e, s1) ∧
      engAt s1 u a.f.rid (Cmdl.dst v + 64 * i) 64 64 false true ord = .ok (td, s2) ∧
      engAt s2 u a.f.rid (Cmdl.dst v + 64 * i) 64 64 false true ord = .ok (td', s3) ∧ formatOk e.fmt = true ∧
      t = visibleWrite s3 td'.line (cellsOf td'.key 64 d.toNat) (some e) (td'.enc (keysOf s3 a.f.rid)) ∧
      (so = true ↔ (ts.pool = false ∧ ts.kind = .so ∨ td.pool = false ∧ td.kind = .so))) ∧
  (∀ n sc i o, (i, o) ∈ ([(.nmAdd n sc, .add), (.nmAxpy n sc, .axpy), (.nmScl n sc, .scl), (.nmCvt n sc, .cvt)] :
      List (Instr × NmOp)) → ∀ s u a d e src t, OpReady s u a → a.i = i → a.f.l = some (.line d e src) →
    a.aux + 1 = Cmdl.count d.toNat →
    (if o = .cvt then nmConvert s u a d.toNat a.aux else nmArith s u a o d.toNat a.aux) = .ok t →
    OpSays s u a n t (marker (max sc.code.toNat 3) false)) ∧
  (∀ o f m alpha (x y : List Nat), x.length = y.length → (nmLanes o f m alpha x y).length = x.length ∧
    ∀ j (hx : j < x.length) (hy : j < y.length), (nmLanes o f m alpha x y)[j]? = some ((f.round m false .arith (match o with
      | .add => FV.add m (f.value y[j]) (f.value x[j])
      | .axpy => FV.add m (FV.mul alpha (f.value x[j])) (f.value y[j])
      | .scl | .cvt => FV.mul alpha (f.value y[j]))).1)) ∧
  (∀ s u a n ans, opNo s u a.id = some a → a.st = .flight → a.woken = false → NoneEnding s →
    (∀ l, a.i = .xrGet n false l → ans.ok = true → CanEmit s ⟨u, a.f⟩ n (accessArg a) false →
      ∃ t, finishPair s ⟨u, { a.f with x := some (.line ans.data ans.desc none) }⟩ n (accessArg a)
          (some (if l then .line ans.data ans.desc none else plain (ans.data.extractLsb' 0 64) .i64))
          (some (marker 4 false)) = .ok t ∧ exec (.xrGetReturn u a.id ans) s = .next (settle (dropOp t u a.id))) ∧
    (∀ l, a.i = .xrPut n l → ans.ok = true → CanEmit s ⟨u, a.f⟩ n (accessArg a) false →
      ∃ t, finish s ⟨u, { a.f with x := some (.line ans.data ans.desc none) }⟩ n (accessArg a) (marker 4 false) = .ok t ∧
        exec (.xrGetReturn u a.id ans) s = .next (settle (dropOp t u a.id))) ∧
    (∀ l, (a.i = .xrGet n false l ∨ a.i = .xrPut n l ∨ ∃ o, a.i = .xrAmo n l o) → ans.ok = false →
      ∃ w, exec (.xrGetReturn u a.id ans) s = .next (settle (takeFault (dropOp s u a.id) w ⟨.remote, Rp.dev (opA a), 0⟩)))) ∧
  (∀ s (r : RemoteReq), windowWaits s r.win r.off = false →
    serveWindow s r.win r.off false r.peer r.op r.data r.desc r.ord = none → exec (.remoteRequestArrival r) s = .next s) ∧
  (∀ s (r : RemoteReq) x t, s.MemOk → AL.find? s.hg.windows r.win = some x → x.kind = 1 →
    (r.peer &&& x.pmask) = (x.peer &&& x.pmask) → r.off + 64 ≤ x.size → x.wr = true → r.op = .put true →
    ctxTarget s (ctxRid x.cx) (x.base + r.off) = .at t → t.w = true → t.ident = 0 →
    (t.pool = false → t.kind = .so → r.ord = true) → formatOk r.desc.fmt = true → t.key + 64 ≤ 2 ^ 120 →
    ∃ t', exec (.remoteRequestArrival r) s = .next t' ∧
      Stored (drainedFor (drainLine s t.line fun _ _ => true) t.line) t' t.line (cellsOf t.key 64 r.data.toNat) (some r.desc)) ∧
  (∀ s u a n d e src oid o, opNo s u a.id = some a → a.i = .cvIn n → a.st = .flight → a.f.l = some (.line d e src) →
    NoneEnding s → a.aux ≠ 0 → a.aux = Cmdl.count d.toNat →
    cvObject s a.f.rid d.toNat (fun o oid => sessionOk (flashPage s oid 0) && o.written.contains 0) = .ok (oid, o) →
    let page := Cmdl.objpage d.toNat + (a.aux - 1)
    ((o.written.contains page = false ∨ o.bad.contains page = true) → exec (.cvInComplete u a.id) s =
      .next (settle (takeFault (dropOp s u a.id) (opSite u a) ⟨.culvert, page, 0⟩))) ∧
    ∀ t1, o.written.contains page = true → o.bad.contains page = false →
      storePage s u a.f.rid (Cmdl.dst d.toNat + 4096 * (a.aux - 1)) a.f.o.isSome (flashPage s oid page) = .ok t1 →
      waitingRecord t1 u a.id = none → CanEmit t1 ⟨u, a.f⟩ n (accessArg a) false →
      ∃ t2, finish t1 ⟨u, a.f⟩ n (accessArg a) (marker 4 false) = .ok t2 ∧
        exec (.cvInComplete u a.id) s = .next (settle (dropOp t2 u a.id))) ∧
  ∀ s u a n sc, opNo s u a.id = some a → a.i = .launch n sc → a.st = .flight → NoneEnding s →
    (s.region a.aux).begun = true → OpSays s u a n s (marker sc.code.toNat false)

/-- R61 to R63, R142, R147, R247, R250, R357, R60: the record at the head of a dispatcher queue that fits is dispatched with
its frame and its tokens; a later one that fits is counted; a spilled record enters a queue with room; a wait for room ends
or, at 600,000 clocks, is a fault; a cut commits, keeps its record and goes on; a watcher reads its barrier again. -/
def Obligations.RecordsCutsAndWatchersGoOn : Prop :=
  (∀ s cl h l, (s.cluster cl).disp.filter (mayDispatch s) = h :: l → fits s cl h = true →
    (∀ p ∈ s.regions, p.2.spill = []) → RecImg.newf h.img = true → LogRoom s h.rid cl →
    let fr := lowestFree s h.rid (dieOf cl)
    ∃ t, exec (.recordDispatch cl) s = .next t ∧ (t.cluster cl).disp = (s.cluster cl).disp.erase h ∧
      (t.cluster cl).skip = 0 ∧ (t.cluster cl).drain = false ∧
      t.net = s.net ++ entryTokens cl h (Tag.mk (dieOf cl) fr 0) s.issued ∧ (t.region h.rid).begun = true ∧
      (t.frame h.rid (dieOf cl) fr).st = .live ∧ (t.frame h.rid (dieOf cl) fr).copies = [cl] ∧
      (t.frame h.rid (dieOf cl) fr).join = BitVec.ofNat 64 (RecImg.join h.img) ∧
      (∀ u, (t.unit u).readBuf =
        if u.kind = .mp ∧ (u.cl = cl ∨ (s.region h.rid).begun = false ∧ u.cl ∈ (s.region h.rid).host) then []
        else (s.unit u).readBuf) ∧ t.mem = s.mem) ∧
  (∀ s cl h l r, (s.cluster cl).disp.filter (mayDispatch s) = h :: l → fits s cl h = false →
    ((s.cluster cl).skipOf = some h → (s.cluster cl).drain = false) →
    l.find? (fits s cl) = some r → (∀ p ∈ s.regions, p.2.spill = []) → RecImg.newf r.img = true → LogRoom s r.rid cl →
    let skip := if (s.cluster cl).skipOf = some h then (s.cluster cl).skip else 0
    ∃ t, exec (.recordDispatch cl) s = .next t ∧ (t.cluster cl).disp = (s.cluster cl).disp.erase r ∧
      (t.cluster cl).skip = skip + 1 ∧ (t.cluster cl).drain = decide (64 ≤ skip + 1) ∧ (t.cluster cl).skipOf = some h ∧
      t.net = s.net ++ entryTokens cl r (Tag.mk (dieOf cl) (lowestFree s r.rid (dieOf cl)) 0) s.issued) ∧
  (∀ s rid r l cl, (s.region rid).spill = r :: l → dispatcherFor s rid (RecImg.entry r.img) = some cl →
    (s.cluster cl).disp.length < queueSize → NoneEnding s →
    ∃ t, exec (.spillRoomFreed rid) s = .next t ∧ (t.region rid).spill = l ∧
      (t.cluster cl).disp = (s.cluster cl).disp ++ [r.inQueue] ∧ t.mem = s.mem ∧ t.net = s.net) ∧
  (∀ s rid since u h a, (s.region rid).spillSince = some since → (s.region rid).spillArmed = true → since + 600000 ≤ s.clock →
    (u, h) ∈ s.units → a ∈ h.ops → a.f.rid = rid → a.st = .spill →
    ∃ w, exec (.spillWatchdog rid) s =
      .next (takeFault (s.modRegion rid fun r => { r with spillArmed := false }) w ⟨.spillExhausted, 0, 0⟩)) ∧
  (∀ s u a n t, (s.unit u).ops.find? (fun a => a.st == .spill && parks a) = some a → a.i = .suspend n →
    let b : Access := { a with st := .queued }
    opEnd u (performSuspend (setOp s u b) u b n) = some t → opNo t u a.id = none →
    exec (.parkWaitEnd u) s = .next (settle (endSpillWatch t a.f.rid))) ∧
  (∀ s u a n, opNo s u a.id = some a → a.i = .cut n → (s.region a.f.rid).yield = none →
    (logging s a.f.rid = false ∨ logMigrates s a.f.rid = false) →
    let s1 := dropOp (commitLogs s a.f.rid) u a.id
    let s2 := s1.modRegion a.f.rid fun r =>
      { r with cutRec := some (cutImage s1 u a n 5), irrevocable := false, errLine := none }
    let p := a.f.l.getD (plain 0 .i64)
    DstOk s2 ⟨u, a.f⟩ n.d a.f.tag p.scaled → DstOk s2 ⟨u, a.f⟩ n.e a.f.tag false →
    ∃ t1 t, sendTo s2 ⟨u, a.f⟩ n.d p a.f.tag = .ok t1 ∧ (n.e = n.d → t = t1) ∧
      (n.e ≠ n.d → sendTo t1 ⟨u, a.f⟩ n.e (marker 3 false) a.f.tag = .ok t) ∧
      exec (.intervalCommitComplete u a.id) s = .next (settle t)) ∧
  ∀ s cl k w n sc t s0 blk e s1, let u : UId := ⟨cl, .eng, 0⟩
    (s.unit u).watchers.find? (fun w => w.aux == k && w.woken) = some w → w.i = .barWait n sc → NoneEnding s →
    let a : Access := { w with aux := 0, woken := false, st := .queued }
    let s' := s.modUnit u fun h => { h with watchers := h.watchers.erase w, ops := h.ops ++ [a] }
    engAt s' u a.f.rid (opA a) 16 16 true false a.f.o.isSome = .ok (t, s0) →
    engRead s' u a.f.rid (opA a) 16 16 a.f.o.isSome = .ok (blk, e, s1) → blk / 2 ^ 64 ≠ opB a →
    CanEmit (dropBuffers s1 cl) ⟨u, a.f⟩ n (accessArg a) false →
    ∃ t', finishPair (dropBuffers s1 cl) ⟨u, a.f⟩ n (accessArg a) (some (plain 1 .control))
        (some (marker sc.code.toNat false)) = .ok t' ∧ exec (.barrierEvent cl k) s = .next (settle (dropOp t' u w.id))

/-! ### System instructions, privileged registers and faults -/

/-- R297, R298, R299: `trap` takes its fault with its code and emits nothing; `brk` emits its operand, of any type and a line
too, or is withheld for the debugger where the policy permits debug and its region does not yield (R387); `rdctr` emits the
counter it names, as u64. R315, R316, R9, R118, R322, R325, R326, R328: `csr.rd` emits the value of a register of Table 12-2,
a staged slot entry where one is staged; `csr.wr` changes it under its layout with status 0, or refuses with status 1 and
changes nothing; every other number is a CSR fault. The register write of the device stores rings, slot control and the event
queue. -/
def Obligations.SystemInstructionsAndPrivilegedRegisters : Prop :=
  ((∀ n k s c a s1, Fires s c 0xF8 → ReadsA s c n a s1 →
    Faults (.trap n k) s c 0xF8 n .trap k.toNat) ∧
  (∀ n s c a s1, Fires s c 0xF9 → ReadsA s c n a s1 →
    let debug := ∃ v, vdOf s1 (s1.region c.f.rid).vd = some v ∧ (policyField v 62 61 = 1 ∨ policyField v 62 61 = 2)
    (¬ debug ∨ c.f.stage ≠ 0 ∨ (s1.region c.f.rid).yield ≠ none → CanEmit s1 c n (plain 0 .i64) a.pay.scaled →
      ∃ t, finish s1 c n (plain 0 .i64) a.pay = .ok t ∧ Ends (.brk n) s c 0xF9 t) ∧
    (debug → c.f.stage = 0 → (s1.region c.f.rid).yield = none → Ends (.brk n) s c 0xF9 { s1 with
      nextId := s1.nextId + 1
      units := AL.set s1.units c.u { s1.unit c.u with
        withheld := (s1.unit c.u).withheld ++ [(s1.nextId, { c.f with stage := 1 })] } })) ∧
  ∀ n (k : BitVec 4) (v : Nat) s c, (k, v) ∈ ([(0, s.clock), (1, (s.unit c.u).fired), (2, (s.unit c.u).ovDiscard),
      (3, spillUse (s.unit c.u)), (4, (s.unit c.u).grantWait), (5, (s.unit c.u).rebuilds),
      (6, (s.part (partOf s c.u.cl)).ptime + s.clock * 5 / 3)] : List (BitVec 4 × Nat)) →
    Fires s c 0xFA → CanSay s.base c n → ∃ t, Says s.base c n v .u64 t ∧ Ends (.rdctr n k) s c 0xFA t) ∧
  ((∀ n s c a s1 x, Fires s c 0xFB → ReadsA s c n a s1 → asScalar a [.i64, .u64] = .ok x → x.sc = false →
    let num := x.val.toNat
    let p := partOf s1 c.u.cl
    let q := s1.part p
    let gives := fun (v : Nat) => CanSay s1 c n → ∃ t, Says s1 c n v .u64 t ∧ Ends (.csrRd n) s c 0xFB t
    (2 ^ 12 ≤ num → Faults (.csrRd n) s c 0xFB n .csr (num % 2 ^ 12)) ∧
    (orderOk c.f.o = .ok () →
      (∀ v, (num, v) ∈ ([(0x000, q.cfg.toNat), (0x001, s1.partMap.toNat), (0x010, q.sluiceDrop.toNat),
          (0x011, q.sluiceCnt.toNat), (0x020, s1.edgeCal.toNat % 2 ^ 64), (0x021, s1.edgeCal.toNat / 2 ^ 64 % 2 ^ 64),
          (0x040, q.slotCtl.toNat), (0x050, q.evtQueue.toNat), (0x051, q.evtLost), (0x060, q.qpendBase.toNat),
          (0x070, grantUse s1 p), (0x300, q.retired.toNat), (0x310, scrubWord s1 p)] : List (Nat × Nat)) → gives v) ∧
      (∀ k, k < 5 → num = 0x030 + k → gives (q.hashMask.getD k 0).toNat) ∧
      (∀ k e, k < 64 → num = 0x100 + k → q.slotStaged.getD k none = some e → gives e.toNat) ∧
      (∀ k, k < 64 → num = 0x100 + k → q.slotStaged.getD k none = none → gives (q.slotEnt.getD k 0).toNat) ∧
      (∀ k, k < 64 → num = 0x200 + k → gives (q.qslot.getD k 0).toNat) ∧
      (num < 2 ^ 12 → num ∉ [0x000, 0x001, 0x010, 0x011, 0x020, 0x021, 0x040, 0x050, 0x051, 0x060, 0x070, 0x300, 0x310] →
        ¬ (0x030 ≤ num ∧ num ≤ 0x034) → ¬ (0x100 ≤ num ∧ num ≤ 0x13F) → ¬ (0x200 ≤ num ∧ num ≤ 0x23F) →
        Faults (.csrRd n) s c 0xFB n .csr num))) ∧
  (∀ n s c a b s2 x y, Fires s c 0xFB → ReadsAB s c n a b s2 → asScalar a [.i64, .u64] = .ok x → x.sc = false →
    asScalar b [.i64, .u64] = .ok y → y.sc = false →
    let num := x.val.toNat
    let v := y.val
    let p := partOf s2 c.u.cl
    let s3 := makeIrrevocable s2 c.f.rid
    let q := s3.part p
    let ends := fun (t' : State) (st : Nat) => CanEmit t' c n b.pay false →
      ∃ t, finish t' c n b.pay (plain (BitVec.ofNat 64 st) .i64) = .ok t ∧ Ends (.csrWr n) s c 0xFB t
    (2 ^ 12 ≤ num → Faults (.csrWr n) s c 0xFB n .csr (num % 2 ^ 12)) ∧
    (orderOk c.f.o = .ok () →
      (num = 0x010 → ends (if bitAt v.toNat 63 then s3 else s3.modPart p fun q => { q with sluiceDrop := 0 }) 0) ∧
      (num = 0x011 → ends (s3.modPart p fun q => { q with sluiceCnt := 0 }) 0) ∧
      (∀ k, k < 5 → num = 0x030 + k → if residentIn s3 p = true then ends s3 1 else
        ends (s3.modPart p fun q => { q with hashMask := q.hashMask.set k (BitVec.ofNat 64 (bits v.toNat 51 12 * 2 ^ 12)) }) 0) ∧
      (num = 0x040 → ends (s3.modPart p fun q => { q with slotCtl := slotCtlWord (bitAt v.toNat 63) (curSlot q) (holder q) }) 0) ∧
      (num = 0x050 → ends (s3.modPart p fun q => { q with evtQueue := v }) 0) ∧
      (num = 0x051 → ends (s3.modPart p fun q => { q with evtLost := 0 }) 0) ∧
      (num = 0x060 → (∃ w ∈ q.qslot, Qs.valid w = true) → ends s3 1) ∧
      (num = 0x060 → (∀ w ∈ q.qslot, Qs.valid w = false) → v.toNat / 2 ^ 56 = 0xFC →
        ends (s3.modPart p fun q => { q with qpendBase := v }) 0) ∧
      (∀ k, k < 64 → num = 0x100 + k → ends (s3.modPart p fun q => { q with
        slotStaged := q.slotStaged.set k (some (BitVec.ofNat 64 ((bitAt v.toNat 15).toNat * 2 ^ 15 + v.toNat % 2 ^ 10))) }) 0) ∧
      (∀ k, k < 64 → num = 0x200 + k → q.qslot.length = 64 →
        (Qs.valid v = true → (∃ j, j < 64 ∧ j ≠ k ∧ Qs.valid (q.qslot.getD j 0) = true ∧ Qs.qid (q.qslot.getD j 0) = Qs.qid v) →
          Faults (.csrWr n) s c 0xFB n .csr num) ∧
        ((Qs.valid v = true → ∀ j, j < 64 → j ≠ k → Qs.valid (q.qslot.getD j 0) = true → Qs.qid (q.qslot.getD j 0) ≠ Qs.qid v) →
          let t' := writeQslot s3 p k v
          let old := q.qslot.getD k 0
          let w := (t'.part p).qslot.getD k 0
          ends t' 0 ∧ Qs.valid w = Qs.valid v ∧ Qs.pre w = Qs.pre v ∧ Qs.qid w = Qs.qid v ∧
            (Qs.valid old = true → Qs.valid v = true → Qs.qid old = Qs.qid v →
              Qs.pend w = Qs.pend v ∧ Qs.run w = Qs.run old ∧ t'.mem = s3.mem) ∧
            (Qs.valid old = false → Qs.valid v = true →
              Qs.pend w = (Qs.pend v || pendBit s3 p (Qs.qid v)) ∧ Qs.run w = queueRuns s3 p (Qs.qid v)))) ∧
      (num = 0x300 → ends (s3.modPart p fun q => { q with retired := 0 }) 0) ∧
      (num < 2 ^ 12 → num ∉ [0x010, 0x011, 0x040, 0x050, 0x051, 0x060, 0x300] → ¬ (0x030 ≤ num ∧ num ≤ 0x034) →
        ¬ (0x100 ≤ num ∧ num ≤ 0x13F) → ¬ (0x200 ≤ num ∧ num ≤ 0x23F) → Faults (.csrWr n) s c 0xFB n .csr num))) ∧
  ∀ p v s, exec (.registerWrite p 0x040 v) s = .next (s.modPart p fun q => { q with
        slotCtl := slotCtlWord (bitAt v 63) (curSlot q) (holder q) }) ∧
    exec (.registerWrite p 0x050 v) s = .next (s.modPart p fun q => { q with evtQueue := BitVec.ofNat 64 v }) ∧
    exec (.registerWrite 0 0x1208 v) s = .next { s with hg := { s.hg with recoveryLen := BitVec.ofNat 32 v } } ∧
    ∀ num (g : FnRegs → FnRegs), (num, g) ∈ ([
        (0x1000, fun r => { r with cmdring := BitVec.ofNat 64 (v % 2 ^ 64 / 4096 * 4096 + v % 16) }),
        (0x1010, fun r => { r with cplring := BitVec.ofNat 64 (v % 2 ^ 64 / 4096 * 4096 + v % 16) }),
        (0x1018, fun r => { r with cplhead := BitVec.ofNat 64 v })] : List (Nat × (FnRegs → FnRegs))) →
      exec (.registerWrite p num v) s = .next (modFn s p g))

/-- R349, R350, R351, R352: a fault's record has the fields of Table 13-4; it is written into the ring with its descriptor and
its pointer goes to the fault entry with the tail advanced; with the ring full it waits for room; a fault of the supervisor
region, or before the fault entry is ready, freezes the partition and is told to the physical function. -/
def Obligations.FaultsAreRecorded : Prop :=
  (∀ s (w : FaultSite) f, let d := (faultRecord s w f).toNat
    let r := s.region w.rid
    bits d 511 448 = s.clock % 2 ^ 64 ∧ bits d 447 384 = w.bval.toNat ∧ bits d 383 320 = w.aval.toNat ∧
      bits d 319 256 = f.addr % 2 ^ 64 ∧ bits d 255 192 = f.detail % 2 ^ 64 ∧ bits d 191 176 = bits r.rcb.toNat 47 32 ∧
      bits d 175 160 = r.num % 2 ^ 16 ∧ bits d 159 150 = r.vd % 2 ^ 10 ∧ bits d 149 148 = w.cls.getD f.cause.cls % 4 ∧
      bits d 147 140 = f.cause.code ∧ bits d 139 132 = w.opcode % 2 ^ 8 ∧ bits d 131 128 = w.btype % 2 ^ 4 ∧
      bits d 127 124 = w.atype % 2 ^ 4 ∧ bits d 123 100 = w.tag.toNat ∧ bits d 99 94 = w.cl % 64 ∧
      bits d 93 88 = w.cl / 64 % 64 ∧ bits d 71 0 = 0 ∧ (∀ u, w.u = some u → bits d 87 85 = kindCode u.kind ∧
        bits d 84 77 = u.num % 2 ^ 8) ∧ (w.u = none → bits d 87 85 = 7) ∧ bits d 76 72 = w.slot % 2 ^ 5) ∧
  (∀ (k : Cause) code cls, (k, code, cls) ∈ ([(.type, 0x01, 1), (.scaleMismatch, 0x02, 1), (.featureMasked, 0x03, 1),
      (.deadSlot, 0x04, 1), (.lane, 0x05, 1), (.trap, 0x06, 1), (.tagRange, 0x07, 1), (.tagDoubleFree, 0x08, 1),
      (.tagBusy, 0x09, 1), (.frameExhausted, 0x0A, 1), (.frameBusy, 0x0B, 1), (.callTarget, 0x0C, 1),
      (.contFormat, 0x0D, 1), (.joinUnderflow, 0x0E, 1), (.joinBusy, 0x0F, 1), (.barrier, 0x10, 1), (.queue, 0x11, 1),
      (.launch, 0x12, 1), (.csr, 0x13, 1), (.gate, 0x14, 1), (.address, 0x18, 1), (.alignment, 0x19, 1),
      (.permission, 0x1A, 1), (.identity, 0x1B, 1), (.order, 0x1C, 1), (.format, 0x1D, 1), (.handle, 0x1E, 1),
      (.stream, 0x1F, 1), (.page, 0x20, 0), (.unmappable, 0x21, 1), (.pageTable, 0x22, 1), (.claim, 0x28, 1),
      (.pass, 0x29, 1), (.tableStale, 0x2A, 1), (.indexRange, 0x2B, 1), (.route, 0x2C, 1), (.bankImage, 0x2D, 1),
      (.command, 0x30, 1), (.remote, 0x31, 1), (.culvert, 0x32, 1), (.memError, 0x38, 1), (.poolError, 0x39, 1),
      (.configLoad, 0x3A, 1), (.spillExhausted, 0x3B, 1), (.linkError, 0x3C, 2), (.configReloaded, 0x3D, 2),
      (.preemptionLoss, 0x3E, 1)] : List (Cause × Nat × Nat)) → k.code = code ∧ k.cls = cls) ∧
  (∀ s (w : FaultSite) f, (s.region w.rid).host ≠ [] → let pn := (s.region w.rid).part
    let p := s.part pn
    let ready := (s.unit ⟨p.supCluster, .el, 255⟩).complete = true ∧
      (∃ n, AL.find? (s.unit ⟨p.supCluster, .el, 255⟩).words 15 = some n) ∧
      ∃ r, p.supRid = some r ∧ (s.frame r (dieOf p.supCluster) 0).st = .live
    (p.supRid = some w.rid ∨ ¬ ready → takeFault s w f =
      postCpl (s.modPart pn fun q => { q with cfg := q.cfg ||| BitVec.ofNat 64 (2 ^ 62) }) 0 0x20 pn 0xFFFF 0) ∧
    (∀ t, ready → p.supRid ≠ some w.rid → ((s.region w.rid).launchTag = none ∨ w.cls.getD f.cause.cls ≠ 1 → t = s) →
      (∀ fn h, (s.region w.rid).launchTag = some (fn, h) → w.cls.getD f.cause.cls = 1 → t = postCpl s fn 0x11 0 0xFFFF h) →
      (ringUsed t p = 255 → takeFault s w f =
        t.modPart pn fun q => { q with faultWait := q.faultWait ++ [(w.u, w.rid, faultRecord s w f)] }) ∧
      (ringUsed t p ≠ 255 → takeFault s w f = ringWrite t p (faultRecord s w f)))) ∧
  (∀ s (p : Part) d, s.MemOk → let sc := p.supCluster
    let tail := Memory.readN s.mem (poolKey sc 0) 4
    let off := 0x40 + 64 * (tail % 255)
    let t := ringWrite s p d
    Quiet s (poolKey sc off) → Quiet s (poolKey sc 0) →
    Memory.readN t.mem (poolKey sc off) 64 = d.toNat ∧ Memory.readN t.mem (descKey (poolKey sc off)) 2 = 0 ∧
      Memory.readN t.mem (poolKey sc 0) 4 = (tail + 1) % 2 ^ 32 ∧
      (∀ k, ¬ (poolKey sc off ≤ k ∧ k < poolKey sc off + 64) → ¬ (poolKey sc 0 ≤ k ∧ k < poolKey sc 0 + 4) →
        k ≠ descKey (poolKey sc off) → k ≠ descKey (poolKey sc off) + 1 → Memory.read t.mem k = Memory.read s.mem k) ∧
      ∃ f, t.net = s.net ++ [f] ∧ f.cl = sc ∧ f.kind = 0 ∧ f.unit = 255 ∧ f.slot = 15 ∧ f.side = false ∧
        f.pay = .scal ⟨BitVec.ofNat 64 (0xFC * 2 ^ 56 + off), .u64, false⟩ ∧ f.tag = Tag.mk (dieOf sc) 0 0 ∧ f.seq = s.issued) ∧
  ∀ s p w l, (s.part p).faultWait = w :: l → ringUsed s (s.part p) ≠ 255 →
    exec (.faultRingRoom p) s = .next (ringWrite (s.modPart p fun q => { q with faultWait := l }) (s.part p) w.2.2)

/-! ### Slots, yields, saves and scrubs -/

/-- R322, R323, R332, R359 to R362, R364, R390: an idle grant returns and passes to the unit that waits first; a slot boundary
makes staged entries active at slot 0 and asks the holder to yield to another owner; a region at a phase boundary or quiescent
is saved and has no token left; at the end of the grace a logged interval is rolled back and saved, and another free-form
region is lost; a rollback applies the undo entries newest first, so that a frame or stream is as before the first change of
it and a frame made since is free again, and leaves no token, held store or record but the cut record (R361, R362); a lost
region keeps its memory, records and frames and no token (R359); at the change of holder, which needs the slot table enabled,
SRAM is zero and the owner holds the fabric. -/
def Obligations.SlotsYieldsAndSavesTakeEffect : Prop :=
  (∀ s u rid, (s.unit u).grant = some rid → unitBusy s u = false → (s.unit u).grantIdle + 64 ≤ s.clock →
    let s1 := s.modUnit u fun h => { h with grant := none, returned := some (rid, s.clock) }
    ((s.region rid).grantQueue = [] → exec (.grantIdleReturn u) s = .next s1) ∧
    ∀ v l, (s.region rid).grantQueue = v :: l → grantsOf s1 rid < Rcb.grants (s.region rid).rcb →
      ∃ t, exec (.grantIdleReturn u) s = .next t ∧ (t.unit v).grant = some rid ∧ (t.region rid).grantQueue = l ∧
        (v ≠ u → (t.unit u).grant = none) ∧ t.mem = s.mem ∧ t.net = s.net) ∧
  (∀ s p, (s.part p).valid = true → partTime s p % 1024000 / 16000 ≠ curSlot (s.part p) →
    (s.part p).slotEnt.length = 64 → (s.part p).slotStaged.length = 64 →
    let q := s.part p
    let i := (curSlot q + 1) % 64
    let ent := fun (k : Nat) => if i = 0 then (q.slotStaged.getD k none).getD (q.slotEnt.getD k 0) else q.slotEnt.getD k 0
    let en := bitAt q.slotCtl.toNat 63
    let own := bitAt (ent i).toNat 15
    let owner := bits (ent i).toNat 9 0
    ∃ t, exec (.slotBoundary p) s = .next t ∧ curSlot (t.part p) = i ∧ bitAt (t.part p).slotCtl.toNat 63 = en ∧
      holder (t.part p) = holder q ∧ (∀ k, k < 64 → (t.part p).slotEnt.getD k 0 = ent k) ∧
      (i = 0 → ∀ k, k < 64 → (t.part p).slotStaged.getD k none = none) ∧
      (i ≠ 0 → (t.part p).slotStaged = q.slotStaged) ∧ t.mem = s.mem ∧ t.net = s.net ∧
      (en = false ∨ own = false → (t.part p).yielding = q.yielding ∧ t.regions = s.regions ∧ t.units = s.units) ∧
      (holder q = some owner → q.yielding = none → (t.part p).yielding = none ∧ t.regions = s.regions ∧ t.units = s.units) ∧
      (en = true → own = true → holder q ≠ some owner → q.yielding = none →
        (t.part p).yielding = some ⟨owner, i, partTime s p / 16000 * 16000, false⟩ ∧
        ∀ h rid, holder q = some h → rid ∈ regionsOf s p h → (s.region rid).st = .active → (s.region rid).yield = none →
          (t.region rid).yield = some ⟨.slot, partTime s p / 16000 * 16000, (s.region rid).halted, false⟩ ∧
          (t.region rid).halted = false ∧ (t.region rid).gated = (s.region rid).streamForm)) ∧
  (∀ s p rid, overdue s p = [rid] → (s.region rid).streamForm = false →
    ((s.part p).yielding = none ∨ ∃ y, (s.part p).yielding = some y ∧ y.forced = true) →
    let free := logging s rid = false ∨ logMigrates s rid = false
    let boundary := (s.region rid).st = .active ∧ anyToken s rid = false ∧ free
    (mayFinish s rid = true → exec (.forcedPreemption p) s = .next (finishRegion s rid)) ∧
    (mayFinish s rid = false → boundary → exec (.forcedPreemption p) s = .next (saveRegion s rid)) ∧
    (mayFinish s rid = false → ¬ boundary → logging s rid = true →
      exec (.forcedPreemption p) s = .next (saveRegion (rollback s rid) rid)) ∧
    (mayFinish s rid = false → ¬ boundary → logging s rid = false →
      exec (.forcedPreemption p) s = .next (loseRegion s rid (if (s.region rid).logged = true then 1 else 2) true))) ∧
  (∀ s rid, let t := rollback s rid
    let undo := undoOf s rid
    undo.Pairwise (fun a b => b.1 ≤ a.1) ∧ (∀ f ∈ t.net, f.rid ≠ rid) ∧
      (∀ cl, ∀ e ∈ (t.cluster cl).ilog, e.rid ≠ rid) ∧ (∀ cl, ∀ e ∈ (t.cluster cl).undo, e.1 ≠ rid) ∧
      (∀ u, (∀ e ∈ (t.unit u).store, e.rid ≠ rid) ∧ (∀ f ∈ (t.unit u).ready, f.rid ≠ rid) ∧
        (∀ a ∈ (t.unit u).access, a.f.rid ≠ rid) ∧ (t.unit u).fired = (s.unit u).fired ∧
        (t.unit u).ovDiscard = (s.unit u).ovDiscard ∧ (t.unit u).rebuilds = (s.unit u).rebuilds) ∧
      (∀ pre post k die fr old, undo = pre ++ (k, .frame die fr old) :: post → (∀ e ∈ post, ∀ x, e.2 ≠ .frame die fr x) →
        t.frame rid die fr = { old with talloc := [] }) ∧
      (∀ pre post k u j old, undo = pre ++ (k, .stream u j old) :: post → (∀ e ∈ post, ∀ x, e.2 ≠ .stream u j x) →
        (old = none → AL.find? (t.unit u).streams j = none) ∧
        ∀ x, old = some x → ∃ y, AL.find? (t.unit u).streams j = some y ∧ y.ipos = x.ipos ∧ y.jpos = x.jpos ∧ y.ahead = []) ∧
      ∀ cl, (∀ r ∈ (t.cluster cl).parked, r.rid ≠ rid) ∧ ∀ r ∈ (t.cluster cl).disp, r.rid = rid →
        ∃ img, (s.region rid).cutRec = some img ∧ r.img = RecImg.set img 115 1 0) ∧
  (∀ s rid reason, let t := loseRegion s rid reason false
    loseRegion s rid reason true = takeFault t ⟨none, (s.region rid).host.headD 0, 0, rid, 0, 0, 0, 0, 0, 0, none, 0⟩
        ⟨.preemptionLoss, reason, 0⟩ ∧
      ((∀ p ∈ s.clusters, p.2.bankA.claims = [] ∧ p.2.bankB.claims = []) → (s.region rid).launchTag = none →
        (t.region rid).st = .lost ∧ (t.region rid).yield = none ∧ t.net = s.net.filter (·.rid != rid) ∧
          t.mem = (drainWhere s fun _ e => e.rid == rid).mem ∧ (t.region rid).spill = (s.region rid).spill ∧
          (∀ cl, (t.cluster cl).parked = (s.cluster cl).parked ∧ (t.cluster cl).disp = (s.cluster cl).disp) ∧
          ∀ die fr, t.frame rid die fr = { s.frame rid die fr with talloc := [] })) ∧
  (∀ s p y h, (s.part p).yielding = some y → y.forced = false → y.since + 64000 ≤ partTime s p →
    bitAt (s.part p).slotCtl.toNat 63 = true → holder (s.part p) = some h →
    (∃ rid ∈ regionsOf s p h, running s rid = true) → exec (.forcedPreemption p) s =
      .next ((overdue s p).foldl forceRegion ((postEvent s p 0x04 (h + y.slot % 64 * 2 ^ 16)).modPart p fun q =>
        { q with yielding := some { y with forced := true } }))) ∧
  (∀ s rid, (s.region rid).st = .active → (s.region rid).yield.isSome = true →
    (logging s rid = false ∨ logMigrates s rid = false) →
    ((s.region rid).streamForm = false → anyToken s rid = false →
      exec (.phaseBoundarySave rid) s = .next (saveRegion s rid)) ∧
    ((s.region rid).gated = true → quiescent s rid = true →
      exec (.quiescenceReport rid) s = .next (saveRegion s rid))) ∧
  (∀ s rid, let t := saveRegion s rid
    (t.region rid).st = .saved ∧ (t.region rid).yield = none ∧ (∀ f ∈ t.net, f.rid ≠ rid) ∧
      ∃ g, lastImage t rid = some g ∧ g.rid = rid ∧ g.cx = (s.region rid).cx ∧ g.region.rcb = (s.region rid).rcb) ∧
  (∀ s p, bitAt (s.part p).slotCtl.toNat 63 = false →
    exec (.holderChange p) s = .refused (.notEnabled "HOLDER_CHANGE")) ∧
  ∀ s p y, (s.part p).yielding = some y → bitAt (s.part p).slotCtl.toNat 63 = true → (s.part p).evtQueue = 0 →
    y.owner < 2 ^ 10 →
    (∀ h rid, holder (s.part p) = some h → rid ∈ regionsOf s p h → running s rid = false) →
    (∀ rid ∈ regionsOf s p y.owner, (s.region rid).st ≠ .saved) →
    ∃ t, exec (.holderChange p) s = .next t ∧ holder (t.part p) = some y.owner ∧ (t.part p).yielding = none ∧
      curSlot (t.part p) = curSlot (s.part p) ∧
      ∀ k cl, sramCluster k = some cl → partOf s cl = p → cl ≠ (s.part p).supCluster → Memory.read t.mem k = 0

/-- R326, R409, R411, Table 14-9: a notify sets pend in its queue's slot, or its bit and an event where the queue is not
mapped; a scrub zeroes its next cluster or its next 64 KiB unit of HBM, and with its last one its context is free, its Culvert
objects are gone, and the mark is cleared when no scrub is left. -/
def Obligations.NotifiesAndScrubsTakeEffect : Prop :=
  (∀ s p qid, (p, qid) ∈ s.hg.notifies → (s.part p).qslot.length = 64 →
    let s1 : State := { s with hg := { s.hg with notifies := s.hg.notifies.erase (p, qid) } }
    (∀ i, i < 64 → Qs.valid ((s.part p).qslot.getD i 0) = true → Qs.qid ((s.part p).qslot.getD i 0) = qid →
      (∀ j, j < i → ¬ (Qs.valid ((s.part p).qslot.getD j 0) = true ∧ Qs.qid ((s.part p).qslot.getD j 0) = qid)) →
      exec (.queueNotify p qid) s = .next (s1.modPart p fun q =>
        { q with qslot := q.qslot.set i (q.qslot.getD i 0 ||| BitVec.ofNat 64 (2 ^ 61)) })) ∧
    ((∀ w ∈ (s.part p).qslot, Qs.valid w = true → Qs.qid w ≠ qid) →
      ((∃ w ∈ (s.part p).qslot, Qs.valid w = false ∨ Qs.pre w = true) →
        exec (.queueNotify p qid) s = .next (postEvent (setPendBit s1 p qid true) p 0x01 qid)) ∧
      ((∀ w ∈ (s.part p).qslot, Qs.valid w = true ∧ Qs.pre w = false) →
        exec (.queueNotify p qid) s = .next (postEvent (setPendBit s1 p qid true) p 0x02 qid)))) ∧
  (∀ s p x l cl rest, (s.part p).scrubs = x :: l → x.clusters = cl :: rest → x.ranges = [] → rest ≠ [] →
    ∃ t, exec (.scrubUnitDone p) s = .next t ∧ (t.part p).scrubs = { x with clusters := rest } :: l ∧
      ∀ k, sramCluster k = some cl → Memory.read t.mem k = 0) ∧
  (∀ s p x l r m, (s.part p).scrubs = x :: l → x.clusters = [] → x.ranges = r :: m →
    (∀ q ∈ r :: m, q.1 < q.2) → (r :: m).Pairwise (fun a b => a.2 ≤ b.1) → (cutUnit (r.1 / 65536) (r :: m)).2 ≠ [] →
    (∀ w ∈ (s.part p).hashMask, bits w.toNat 11 0 = 0) →
    ∃ t, exec (.scrubUnitDone p) s = .next t ∧
      (t.part p).scrubs = { x with ranges := (cutUnit (r.1 / 65536) (r :: m)).2 } :: l ∧
      ∀ q ∈ r :: m, ∀ a, q.1 ≤ a → a < q.2 → a / 65536 = r.1 / 65536 →
        Memory.read t.mem (physKey s p a) = 0 ∧ ∃ z ∈ t.zeroed, z.1 ≤ physKey s p a ∧ physKey s p a < z.2) ∧
  ∀ s p x l cl cx k, (s.part p).scrubs = x :: l → x.clusters = [cl] → x.ranges = [] → x.cx = some cx →
    AL.find? s.hg.ctxs cx = some k → (fnRegs s 0).pending = none →
    ∃ t, exec (.scrubUnitDone p) s = .next t ∧ (t.part p).scrubs = l ∧ AL.find? t.hg.ctxs cx = some { k with st := .free } ∧
      AL.find? t.hg.slots k.slot = none ∧ (∀ m, sramCluster m = some cl → Memory.read t.mem m = 0) ∧
      (∀ o ∈ t.out.objects, o.2.cx = cx → o.2.deleting = false) ∧
      ((∀ q ∈ t.parts, q.2.scrubs = []) → (∀ y ∈ t.hg.ctxs, y.2.st ≠ .zeroing true) → t.hg.scrubPending = false)

/-! ### Power, boot, links and drives -/

/-- R388, R389, R392, R379, R384, R393, R410, R418: a cluster that is power-gated loses its SRAM and keeps its comparators; a
flit wakes it, and after 2,400 clocks its SRAM is zero, loads that waited are made and its buffered flits are delivered; boot
ends in ROM recovery where a step fails, else with the reset values, every SRAM zero, HBM as it was, and the boot scrub where
the mark survived; a reset keeps HBM, the image slot and the mark. That SRAM reads zero from the gating on, that flits which
cannot be accepted at the end of a wake stay on their way, and what else a reset keeps are the model's choices (log 33). -/
def Obligations.PowerBootAndResetTakeEffect : Prop :=
  (∀ s cl, mayGate s cl = true → ∃ t, exec (.clusterPowerGate cl) s = .next t ∧ (t.cluster cl).power = .gated ∧
    (t.cluster cl).comps = (s.cluster cl).comps ∧ (∀ k, sramCluster k = some cl → Memory.read t.mem k = 0) ∧ t.net = s.net) ∧
  (∀ s cl, mayGate s cl = true → (s.part (partOf s cl)).powerEn = true ∧ (s.part (partOf s cl)).supCluster ≠ cl ∧
    (s.cluster cl).power = .on ∧ (s.cluster cl).lastFlit + 6000 ≤ s.clock ∧ (∀ f ∈ s.net, f.cl = cl → f.kind = sinkKind) ∧
    (∀ c ∈ s.cfgNet, c.cl ≠ cl) ∧ ∀ h rid, holder (s.part (partOf s cl)) = some h →
      rid ∈ regionsOf s (partOf s cl) h → (running s rid = true ∨ (s.region rid).st = .saved) →
      Rcb.holds (s.region rid).rcb cl = false) ∧
  (∀ s cl, (s.part (partOf s cl)).powerEn = true → (s.part (partOf s cl)).supCluster ≠ cl → (s.cluster cl).power = .on →
    (s.cluster cl).lastFlit + 6000 ≤ s.clock → (∀ f ∈ s.net, f.cl = cl → f.kind = sinkKind) → (∀ c ∈ s.cfgNet, c.cl ≠ cl) →
    (∀ h rid, holder (s.part (partOf s cl)) = some h → rid ∈ regionsOf s (partOf s cl) h →
      running s rid = true ∨ (s.region rid).st = .saved → Rcb.holds (s.region rid).rcb cl = false) →
    ∃ t, exec (.clusterPowerGate cl) s = .next t ∧ (t.cluster cl).power = .gated ∧
      ∀ k, k < 2 ^ 40 → Memory.read t.mem k = Memory.read (drainWhere s fun c _ => c == cl).mem k) ∧
  (∀ s cl, (s.cluster cl).power = .gated → ((∃ f ∈ s.net, f.cl = cl ∧ f.kind ≠ sinkKind ∧ crosses s f = false) ∨
      (∃ c ∈ s.cfgNet, c.cl = cl) ∨
      ∃ u h a, (u, h) ∈ s.units ∧ (a ∈ h.access ∨ a ∈ h.ops) ∧ reaches s u cl a = true) → exec (.clusterWakeStart cl) s =
    .next (s.modCluster cl fun c => { c with power := .waking, lastFlit := s.clock })) ∧
  (∀ s cl, (s.cluster cl).power = .waking → (s.cluster cl).lastFlit + 2400 ≤ s.clock →
    let s1 := (zeroSram s (· == cl)).modCluster cl fun c => { c with power := .on, wakeBuf := [], lastFlit := s.clock }
    let s2 := loadWoken s1 cl
    let x := (s.cluster cl).wakeBuf.foldl wakeDeliver (s2, [])
    exec (.clusterWakeEnd cl) s = .next { x.1 with net := x.2 ++ x.1.net } ∧ (s2.cluster cl).power = .on ∧
      (∀ k, sramCluster k = some cl → Memory.read s1.mem k = 0) ∧
      ((s.cluster cl).onWake = [] → s2.mem = s1.mem ∧ s2.units = s1.units ∧ s2.net = s1.net) ∧ ((s.cluster cl).wakeBuf = [] → x = (s2, []))) ∧
  (∀ img, let part := fun (k : Nat) => Config.firmwarePart k img
    let fresh := Config.fuseVersion ≤ Config.firmwareVersion img
    let keys := sha3 (part 1) = Config.fuseKeyHash 1 ∧ sha3 (part 2) = Config.fuseKeyHash 2
    let rsa := Config.sigGood 1 (part 1) (part 0) (part 3) = true
    let slh := Config.sigGood 2 (part 2) (part 0) (part 4) = true
    (¬ fresh → firmwareFailure img = 1) ∧ (fresh → ¬ keys → firmwareFailure img = 2) ∧
      (fresh → keys → ¬ rsa → firmwareFailure img = 3) ∧ (fresh → keys → rsa → ¬ slh → firmwareFailure img = 4) ∧
      (fresh → keys → rsa → slh → firmwareFailure img = 0)) ∧
  (∀ s, s.hg.booting = true →
    let good := firmwareFailure s.hg.fwImage = 0 ∧ ∀ k, (k = 1 ∨ 3 ≤ k ∧ k ≤ 7) → Config.bootStep s.hg.boots k = true
    (¬ good → exec .powerGood s = .next { s with hg := { s.hg with inRom := true } }) ∧
    (good → ∃ t, exec .powerGood s = .next t ∧ t.hg.booting = false ∧ t.hg.inRom = false ∧
      t.partMap = 0xFEDCBA9876543210 ∧ t.edgeCal.toNat = 0xFEDCBA9876543210FEDCBA9876543210 ∧
      (∀ k, k < 2 ^ 40 → Memory.read t.mem k = Memory.read s.mem k) ∧
      ((∀ k cl, sramCluster k = some cl → Memory.read s.mem k = 0) →
        ∀ k cl, sramCluster k = some cl → Memory.read t.mem k = 0) ∧
      t.hg.fwVersion = Config.firmwareVersion s.hg.fwImage ∧
      (Config.firmwareVersion s.hg.fwImage = 0x00010000 → t.hg.retiredMask = 0) ∧
      ∀ p, p < 16 → (t.part p).cfg.toNat = 2 ^ 8 + p ∧ (t.part p).slotCtl = 2 ^ 10 ∧
        (s.hg.scrubPending = false → (t.part p).scrubs = []) ∧
        (s.hg.scrubPending = true → ∃ x, (t.part p).scrubs = [x] ∧ x.cx = none ∧ (∀ cl, cl ∈ x.clusters ↔ cl < 4096 ∧
          stripOf cl = p)))) ∧
  (∀ s, s.MemOk → ∃ t, exec .reset s = .next t ∧ t.MemOk ∧ t.hg.booting = true ∧ t.hg.fwImage = s.hg.fwImage ∧
    t.hg.scrubPending = s.hg.scrubPending ∧ t.hg.vds = [] ∧ t.hg.ctxs = [] ∧ t.hg.slots = [] ∧ t.hg.windows = [] ∧
    t.out.handles = [] ∧ t.out.objects = s.out.objects ∧ t.units = [] ∧ t.regions = [] ∧ t.net = [] ∧
    t.enc = (s.enc.map fun e => (e.1, if e.2 = .any then .lost else e.2)) ∧ t.zeroed = [] ∧
    t.out.badDrives = s.out.badDrives ∧
    (∀ k, k < 2 ^ 40 → Memory.read t.mem k = Memory.read s.mem k) ∧
    ∀ k cl, sramCluster k = some cl → Memory.read t.mem k = 0) ∧
  (∀ s (v : Word) (len : BitVec 32), bits v.toNat 11 10 = 1 → 4096 ≤ len.toNat → len.toNat ≤ 2 ^ 26 →
    (s.hg.inRom = true ∨ ∀ x ∈ s.hg.ctxs, x.2.st = .free) → exec (.hgRecoveryWrite v len) s = .next { s with hg := { s.hg with
      recovery := BitVec.ofNat 64 (bits v.toNat 63 12 * 2 ^ 12 + 2 * 2 ^ 10), recoveryLen := len, inRom := true } }) ∧
  (∀ s (v : Word) (len : BitVec 32), (s.hg.inRom = false ∧ (∃ x ∈ s.hg.ctxs, x.2.st ≠ .free) ∨ bits v.toNat 11 10 ≠ 1 ∨
    len.toNat < 4096 ∨ 2 ^ 26 < len.toNat) → exec (.hgRecoveryWrite v len) s = .next s) ∧
  ∀ s (e : Bool), bits s.hg.recovery.toNat 11 10 = 2 →
    let addr := bits s.hg.recovery.toNat 63 12 * 4096
    let img := hostBytes s addr s.hg.recoveryLen.toNat
    (e = false → firmwareFailure img = 0 →
      exec (.recoveryFetchDone e) s = .next (resetDevice { s with hg := { s.hg with fwImage := img } })) ∧
    ∀ r, (e = true ∧ r = 5 ∨ e = false ∧ r = firmwareFailure img ∧ r ≠ 0) →
      ∃ t, exec (.recoveryFetchDone e) s = .next t ∧ t.hg.fwImage = s.hg.fwImage ∧
        t.hg.recovery = BitVec.ofNat 64 (addr + 3 * 2 ^ 10 + r) ∧ t.mem = s.mem ∧ t.regions = s.regions

/-- R395, R396, R397, R399, R291: the link registers take a write only while no partition is valid; the sixteenth flit that
fails authentication within 1 ms takes its link down; a synchronisation message steers partition time, and a second without
one is told to the devices that span devices; the pages of a failed drive are bad; a deleted object is gone. -/
def Obligations.LinksClocksAndDrivesTakeEffect : Prop :=
  (∀ s v, (∃ p ∈ s.parts, p.2.valid = true) → exec (.knDevnumWrite v) s = .next s ∧
    ∀ k, k < 16 → exec (.knRouteWrite k v) s = .next s) ∧
  (∀ s (v : Word), (∀ p ∈ s.parts, p.2.valid = false) →
    exec (.knDevnumWrite v) s = .next { s with out := { s.out with devnum := BitVec.ofNat 64 (bits v.toNat 18 0) } } ∧
    ∀ k, k < 16 → exec (.knRouteWrite k v) s = .next { s with out := { s.out with
      routes := s.out.routes.set k (BitVec.ofNat 64 (bits v.toNat 50 32 * 2 ^ 32 + bits v.toNat 18 0)) } }) ∧
  (∀ s port, port < 16 → let old := s.out.drops.filter fun d => decide (s.clock < d.2 + 600000)
    let mine := (old.filter fun d => d.1 == port).length
    (mine < 15 → ∃ t, exec (.knanoloFlitAuthFailure port) s = .next t ∧ t.out.linksUp = s.out.linksUp ∧
      t.out.drops = (port, s.clock) :: old ∧ t.mem = s.mem ∧ t.net = s.net) ∧
    (15 ≤ mine → ∃ t, exec (.knanoloFlitAuthFailure port) s = .next t ∧
      t.out.linksUp = s.out.linksUp.set port false ∧ t.mem = s.mem ∧ t.net = s.net)) ∧
  (∀ s time p, time < 2 ^ 64 → (∃ q, AL.find? s.parts p = some q) → ∃ t, exec (.syncMessage time) s = .next t ∧
    partTime t p = time ∧ t.out.timeAt = s.clock ∧ t.out.timeLost = false ∧ t.mem = s.mem ∧ t.regions = s.regions) ∧
  (∀ s, s.out.timeLost = false → s.out.timeAt + 600000000 ≤ s.clock →
    let s1 : State := { s with out := { s.out with timeLost := true } }
    ((∀ v ∈ s.hg.vds, policyField v.2 65 65 ≠ 1) → exec .timeSyncLoss s = .next s1) ∧
    ∀ k v, s.hg.vds = [(k, v)] → policyField v 65 65 = 1 → exec .timeSyncLoss s = .next (postCpl s1 v.fn 0x21 0x20 0xFFFF 0)) ∧
  (∀ s d, ∃ t, exec (.driveFailure d) s = .next t ∧ d ∈ t.out.badDrives ∧ t.mem = s.mem ∧
    ∀ oid o, AL.find? s.out.objects oid = some o → ∃ o', AL.find? t.out.objects oid = some o' ∧ o'.written = o.written ∧
      ∀ p, p ∈ o'.bad ↔ p ∈ o.bad ∨ p ∈ o.written ∧ Config.driveOf oid p = d) ∧
  ∀ s oid o, AL.find? s.out.objects oid = some o → o.deleting = true →
    ∃ t, exec (.culvertDeletionComplete oid) s = .next t ∧ AL.find? t.out.objects oid = none ∧
      ∀ k, flashKey oid 0 0 ≤ k → k < flashKey oid 0 0 + 2 ^ 50 → Memory.read t.mem k = 0

/-! ### The Headgate -/

/-- R370, R371, R372, R384, R394: a command completes with its status, detail, tag and result in the next entry of its ring
and in `HG_CMDSTAT`; a function that is not bound, a boot scrub, a reserved field, a function that may not issue it and a
policy that does not permit it are refusals that change nothing else; a code of no command has status 0x01. A window is read
by lines, written by whole lines, and a failed access reads 0xFF and sets werr. The places of a command's arguments are the
model's (log 7). -/
def Obligations.CommandsCompleteInOrder : Prop :=
  (∀ s fn v, ∃ t, exec (.hgCmdtailWrite fn v) s = .next t ∧ (fnRegs t fn).cmdtail = v ∧ t.mem = s.mem ∧
    ∀ k, k ≠ fn → fnRegs t k = fnRegs s k) ∧
  (∀ s fn, ∃ t v, exec (.hgCmdstatRead fn) s = .next t ∧ t.out.hostRead = toBytes v 8 ∧ v < 2 ^ 64 ∧
    (bitAt v 63 = true ↔ s.hg.booting = true ∨ s.hg.inRom = true ∨ (fnRegs s fn).pending.isSome = true) ∧
    bits v 62 16 = bits (fnRegs s fn).cmdstat.toNat 62 16 ∧ bits v 15 0 = (fnRegs s fn).taken % 2 ^ 16 ∧
    (fnRegs t fn).cmdstat.toNat = (fnRegs s fn).cmdstat.toNat % 2 ^ 62 ∧ t.mem = s.mem) ∧
  (∀ s c status detail result, s.MemOk → status < 2 ^ 8 → detail < 2 ^ 8 → result < 2 ^ 64 → c.tag < 2 ^ 16 →
    let r := fnRegs s c.fn
    let t := completeCmd s c status detail result
    let k := bits r.cplring.toNat 3 0
    let e := Memory.readN t.mem (hostKey (r.cplring.toNat / 4096 * 4096 + 16 * (r.cpl % 2 ^ k))) 16
    let w := (fnRegs t c.fn).cmdstat.toNat
    (fnRegs t c.fn).pending = none ∧ (fnRegs t c.fn).cpl = r.cpl + 1 ∧ bitAt e 0 = (r.cpl / 2 ^ k % 2 == 0) ∧
      bits e 31 16 = c.tag ∧ bits e 39 32 = status ∧ bits e 47 40 = detail ∧ bits e 127 64 = result ∧
      bitAt w 62 = bitAt r.cmdstat.toNat 62 ∧ bits w 47 40 = status ∧ bits w 39 32 = detail ∧ bits w 31 16 = c.tag ∧
      bits w 15 0 = r.taken % 2 ^ 16) ∧
  (∀ (c : Cmd) i code pf, (i, code, pf) ∈ ([(.partSet c, 0x01, true), (.calSet c, 0x02, true), (.vdCreate c, 0x03, true),
      (.vdDestroy c, 0x04, true), (.ctxCreate c, 0x05, false), (.codeLoad c, 0x06, false), (.sched c, 0x07, false),
      (.launchCmd c, 0x08, false), (.pause c, 0x09, false), (.resume c, 0x0A, false), (.evict c, 0x0B, false),
      (.restore c, 0x0C, false), (.teardown c, 0x0D, false), (.winOpen c, 0x0E, false), (.winClose c, 0x0F, false),
      (.attest c, 0x10, false), (.debugSet c, 0x111, false), (.debugClear c, 0x211, false), (.debugStep c, 0x311, false),
      (.debugResume c, 0x411, false), (.debugHalt c, 0x511, false), (.debugRead c, 0x611, false),
      (.debugRelease c, 0x711, false), (.power c, 0x12, true)] : List (Instr × Nat × Bool)) →
    ∀ s, nextCommand s c.fn = some c → cmdCode c = code →
    let bound := c.fn = 0 ∨ ∃ v, boundVd s c.fn = some v
    let scrubs := bootScrub s = true ∧ c.code ≠ 0x10
    (¬ bound → Completes i s c 0x02 0 0 (takeCmd s c)) ∧
    (bound → scrubs → Completes i s c 0x06 0 0 (takeCmd s c)) ∧
    (bound → ¬ scrubs → c.rsvd ≠ 0 → Completes i s c 0x01 0 0 (takeCmd s c)) ∧
    (bound → ¬ scrubs → c.rsvd = 0 → c.fn ≠ 0 → pf = true → Completes i s c 0x02 0 0 (takeCmd s c))) ∧
  (∀ (c : Cmd) i code, (i, code) ∈ ([(.ctxCreate c, 0x05), (.sched c, 0x07), (.pause c, 0x09), (.resume c, 0x0A),
      (.evict c, 0x0B), (.restore c, 0x0C)] : List (Instr × Nat)) → ∀ s, Taken s c code false →
    (vdHandle s c.handle = none → Completes i s c 0x03 0 0 (takeCmd s c)) ∧
    ∀ k v, vdHandle s c.handle = some (k, v) → (s.part v.part).frozen = false → ¬ Permits s c v →
      Completes i s c 0x04 (code - 5) 0 (takeCmd s c)) ∧
  (∀ s c, nextCommand s c.fn = some c → cmdCode c ∉ assignedCodes →
    let bound := c.fn = 0 ∨ ∃ v, boundVd s c.fn = some v
    let debug := c.code = 0x11 ∧ bootScrub s = true
    (¬ bound → Completes (.unassignedCommand c) s c 0x02 0 0 (takeCmd s c)) ∧
    (bound → debug → Completes (.unassignedCommand c) s c 0x06 0 0 (takeCmd s c)) ∧
    (bound → ¬ debug → Completes (.unassignedCommand c) s c 0x01 0 0 (takeCmd s c))) ∧
  (∀ s fn off len, (∀ l, windowRead s fn off len = some l →
      exec (.hostWindowRead fn off len) s = .next { s with out := { s.out with hostRead := l } } ∧ l.length = len ∧
      ∀ j b, l[j]? = some b → ∃ w o x v, hostWindow s fn off = some (w, o, x) ∧
        windowLine s w ((o + j) / 64 * 64) x = some v ∧ b = BitVec.ofNat 8 (v / 2 ^ (8 * ((o + j) % 64)))) ∧
    (windowRead s fn off len = none → ∃ t, exec (.hostWindowRead fn off len) s = .next t ∧
      t.out.hostRead = List.replicate len 0xFF ∧ bitAt (fnRegs t fn).cmdstat.toNat 62 = true ∧ t.mem = s.mem)) ∧
  (∀ s w line (x : Window) t v k, x.rd = true → line + 64 ≤ x.size → ctxTarget s (ctxRid x.cx) (x.base + line) = .at t →
    t.r = true → t.ident = 0 → s.poison.contains t.line = false → vdOf s x.vd = some v → AL.find? s.hg.ctxs x.cx = some k →
    let d := readTarget s .outside (ctxRid x.cx) 0 t 64
    (protected' v = false → windowLine s w line x = some d) ∧ (protected' v = true →
      windowLine s w line x = some (Config.windowSeal (windowKeys s k.slot) (windowTweak w line) d % 2 ^ 512))) ∧
  (∀ s fn off data, windowWrite s fn off data = none → ∃ t, exec (.hostWindowWrite fn off data) s = .next t ∧
    t.mem = s.mem ∧ bitAt (fnRegs t fn).cmdstat.toNat 62 = true) ∧
  ∀ s fn off (data : List Byte) w o x t, s.MemOk → hostWindow s fn off = some (w, o, x) → data.length = 64 → o % 64 = 0 →
    x.wr = true → o + 64 ≤ x.size → ctxTarget s (ctxRid x.cx) (x.base + o) = .at t → t.w = true → t.ident = 0 →
    windowKey s x = none → t.key + 64 ≤ 2 ^ 120 → x.fmt < 2 ^ 8 →
    ∃ t', exec (.hostWindowWrite fn off data) s = .next t' ∧
      Stored (drainedFor s t.line) t' t.line (cellsOf t.key 64 (ofBytes data)) (some (Desc.mk x.fmt 0))

/-- R313, R314, R319, R351, R373, R374, R375, R330, R403, R325, R326, R363: what partition, device, context, code, queue and
pause commands do. The places of their arguments and the order of their checks where the spec gives none are the model's (log
7). -/
def Obligations.PartitionAndContextCommands : Prop :=
  (∀ s (c : Cmd), Taken s c 0x01 true → let cfg := cfgMask (bits c.args 63 0)
    let map := bits c.args 127 64
    let p := bits cfg 3 0
    let n := bits cfg 12 8
    let s1 := takeCmd s c
    (cfgOk cfg = false ∨ mapOk s p n map (bitAt cfg 63) = false → Completes (.partSet c) s c 0x01 0 0 s1) ∧
    (cfgOk cfg = true → mapOk s p n map (bitAt cfg 63) = true → bits cfg 47 32 + grantsElse s p ≤ 7168 →
      tearing s p = false → residentOn s p n map none = false →
      (bitAt cfg 63 = false → (s.part p).frozen = false → Completes (.partSet c) s c 0 0 0 (clearPart s1 p cfg map)) ∧
      ∀ slot, bitAt cfg 63 = true → freeSlot s = some slot →
        let ring := classSize (BitVec.ofNat 64 (Rcb.pword (BitVec.ofNat 2048 (Config.supervisorBlock s.hg.fwVersion p)))) 0
        let fits := supervisorOk s p { s.part p with cfg := BitVec.ofNat 64 cfg }
        (ring < 16384 → Completes (.partSet c) s c 0x01 0 0 s1) ∧
        (16384 ≤ ring → fits = false → Completes (.partSet c) s c 0x08 0 0 s1) ∧ (16384 ≤ ring → fits = true →
        ∃ t, Completes (.partSet c) s c 0 0 0 t ∧ (t.part p).cfg = BitVec.ofNat 64 cfg ∧
          partitionBlockOk (t.part p) (t.part p).block = true ∧ t.partMap = BitVec.ofNat 64 map ∧
          (∃ r, (t.part p).supRid = some r ∧
            ((∀ d ∈ Config.supervisorDescs s.hg.fwVersion (t.part p).supCluster, formatOk d.fmt = true) →
              (t.region r).st = .active)) ∧
          ∃ k, AL.find? t.hg.slots slot = some k ∧ k.st = .bound ∧ k.vd = 1024)) ∧
    (∀ cx x v, cfgOk cfg = true → mapOk s p n map false = true → residentOn s p n map (some p) = false →
      bitAt cfg 63 = false → (s.part p).frozen = true → s.hg.ctxs = [(cx, x)] → x.st = .active → vdOf s x.vd = some v →
      v.part = p →
      exec (.partSet c) s = .next (modFn (teardown s1 cx x) 0 fun r => { r with pending := some c }))) ∧
  (∀ s (c : Cmd), (fnRegs s 0).pending = some c → c.fn = 0 → c.code = 0x01 → let p := bits c.args 3 0
    tearing s p = false → Completes (.partSet c) s c 0 0 0 (clearPart s p (cfgMask (bits c.args 63 0)) (bits c.args 127 64))) ∧
  (∀ s p cfg map, (s.part p).supRid = none → let t := clearPart s p cfg map
    t.partMap = BitVec.ofNat 64 map ∧ (t.part p).cfg = BitVec.ofNat 64 cfg ∧ t.regions = s.regions ∧ t.mem = s.mem) ∧
  (∀ s (c : Cmd), Taken s c 0x02 true →
    ((∀ p, p < 16 → residentIn s p = false) →
      Completes (.calSet c) s c 0 0 0 { takeCmd s c with edgeCal := BitVec.ofNat 128 c.args }) ∧
    ((∃ p, p < 16 ∧ residentIn s p = true) → Completes (.calSet c) s c 0x06 0 0 (takeCmd s c))) ∧
  (∀ s (c : Cmd), Taken s c 0x03 true → policyBytes ≤ c.buflen → let blob := hostBytes s c.buf policyBytes
    let h := ofBytes (blob.take 256)
    let p := bits c.args 3 0
    let fn := bits c.args 18 8
    let rsa := Config.sigGood 1 ((blob.drop 256).take 384) (blob.take 688) ((blob.drop 688).take 384)
    let slh := Config.sigGood 2 ((blob.drop 640).take 48) (blob.take 688) (blob.drop 1072)
    let s1 := takeCmd s c
    policyOk h = true → 1 ≤ fn → fn ≤ 1024 →
    (rsa = false → Completes (.vdCreate c) s c 0x05 1 0 s1) ∧
    (rsa = true → slh = false → Completes (.vdCreate c) s c 0x05 2 0 s1) ∧
    (rsa = true → slh = true → s.hg.fwVersion < bits h 191 160 → Completes (.vdCreate c) s c 0x04 0 0 s1) ∧
    ∀ num, rsa = true → slh = true → bits h 191 160 ≤ s.hg.fwVersion → (s.part p).valid = true → (s.part p).frozen = false →
      boundVd s fn = none → (s.part p).strips ≤ bits h 78 74 → num < 1024 → vdOf s num = none →
      (∀ k, k < num → vdOf s k ≠ none) →
      ∃ key t, Completes (.vdCreate c) s c 0 0 (handleOf t .vd key) t ∧ t.mem = s.mem ∧
        ∃ b, AL.find? t.hg.vds key = some ⟨num, p, fn, blob, b⟩ ∧
        (partitionBlockOk (s.part p) (s.part p).block = true →
          chainBlockOk 2 b (belowPartition (s.part p).block) (s.part p).supCluster = true)) ∧
  (∀ s (c : Cmd) key v, Taken s c 0x04 true → vdHandle s c.handle = some (key, v) → (s.part v.part).frozen = false →
    ((∀ x ∈ s.hg.ctxs, x.2.vd = v.num → x.2.st = .free) → ∃ t, Completes (.vdDestroy c) s c 0 0 0 t ∧
      AL.find? t.hg.vds key = none ∧ (∀ x ∈ t.hg.ctxs, x.2.vd ≠ v.num) ∧ t.mem = s.mem) ∧
    ((∃ x ∈ s.hg.ctxs, x.2.vd = v.num ∧ x.2.st ≠ .free) → Completes (.vdDestroy c) s c 0x0A 0 0 (takeCmd s c))) ∧
  (∀ s (c : Cmd) v slot, Taken s c 0x05 false → NamesVd s c v → 1800 ≤ c.buflen → tearing s v.part = false →
    let keys := Config.unwrapKeys s.hg.boots (tenantId v) (hostBytes s c.buf 1800)
    (keys = none → Completes (.ctxCreate c) s c 0x05 3 0 (takeCmd s c)) ∧
    let blk : BitVec 2048 := BitVec.ofNat 2048 (Memory.readN s.mem (hostKey (bits c.args 63 0)) 256)
    ∀ l, (keys = some l → contextBlockOk s v blk = true →
      (List.filter (fun (x : Nat × Ctx) => x.2.vd = v.num && x.2.st != .free) s.hg.ctxs).length < policyField v 89 79 →
      freeSlot s = some slot →
      ∃ cx t, Completes (.ctxCreate c) s c 0 0 (handleOf t .ctx cx) t ∧ AL.find? t.hg.ctxs cx = some ⟨v.num, slot, .active, false⟩ ∧
        (∃ k, AL.find? t.hg.slots slot = some k ∧ k.st = .bound ∧ k.vd = v.num ∧ ∀ j, j < 7 → k.keys.getD j 0 = l.getD j 0) ∧ (t.region (ctxRid cx)).cx = cx ∧
        (t.region (ctxRid cx)).rcb = contextBlock s blk slot v ∧ t.mem = s.mem)) ∧
  (∀ s (blk : BitVec 2048) slot v, slot < 1024 → let e := contextBlock s blk slot v
    let d := deviceEffective s v
    Rcb.keyslot e = slot ∧ Rcb.fmask e = (Rcb.fmask blk ||| Rcb.fmask d) ∧
      Rcb.fmask d = (policyField v 73 66 ||| (if bitAt (policyField v 65 65) 0 = true then 0 else 8) ||| Rcb.fmask v.block) ∧
      ∀ g ∈ groupRanges, g.1 ≠ 12 → bits e.toNat g.2.1 g.2.2 =
        if bitAt (Rcb.inherit' blk) g.1 = true then bits blk.toNat g.2.1 g.2.2 else bits d.toNat g.2.1 g.2.2) ∧
  (∀ s (c : Cmd) cx x v st t, Taken s c 0x06 false → NamesCtx s c cx x v → 66 ≤ c.buflen →
    let l := bufferLines (bufferOf s x.slot c.buf c.buflen) (c.buflen / 66)
    sealWaits s cx l (c.buflen / 66) = none → sealCode (takeCmd s c) cx l (c.buflen / 66) = (st, t) →
    (st = 0 → Completes (.codeLoad c) s c 0 0 (handleOf t .code (t.nextId - 1)) t) ∧
    (st ≠ 0 → Completes (.codeLoad c) s c 0x08 st 0 t)) ∧
  (∀ s (c : Cmd) v, Taken s c 0x07 false → NamesVd s c v → (s.part v.part).slotStaged.length = 64 →
    ∃ t, Completes (.sched c) s c 0 0 0 t ∧ ∀ k, k < 64 → (t.part v.part).slotStaged.getD k none =
      if bitAt c.args k = true then some (BitVec.ofNat 64 (2 ^ 15 + v.num % 2 ^ 10)) else (s.part v.part).slotStaged.getD k none) ∧
  (∀ s (c : Cmd) cx x v, Taken s c 0x08 false → NamesCtx s c cx x v → 64 ≤ c.buflen →
    let l := ofBytes (bufferOf s x.slot c.buf 64)
    let q := bits c.args 3 0
    ∃ t id, Completes (.launchCmd c) s c 0 0 (handleOf t .launch id) t ∧
      t.hg.launches = s.hg.launches ++ [⟨id, v.num, q, cx, l % 2 ^ 64, l / 2 ^ 64 % 2 ^ 64, v.fn, c.tag⟩] ∧
      t.hg.notifies = s.hg.notifies ++ [(v.part, 16 * v.num + q)] ∧ t.mem = s.mem) ∧
  ∀ s (c : Cmd) v, NamesVd s c v →
    (Taken s c 0x09 false → ∃ t, Completes (.pause c) s c 0 0 0 t ∧ ∀ rid ∈ regionsOf s v.part v.num,
      ((s.region rid).st = .active → (s.region rid).yield = none → (t.region rid).st = .frozen) ∧
      ∀ y, (s.region rid).yield = some y → (t.region rid).yield = some { y with frozen := true }) ∧
    (Taken s c 0x0A false → ∃ t, Completes (.resume c) s c 0 0 0 t ∧ ∀ rid ∈ regionsOf s v.part v.num,
      ((s.region rid).st = .frozen → (s.region rid).yield = none → (t.region rid).st = .active) ∧
      ∀ y, (s.region rid).yield = some y → (t.region rid).yield = some { y with frozen := false })

/-- R364, R365, R377, R383, R410, R378, R398, R380, R385, R386, R387, R391, R388: what evicting, restoring, tearing down,
window, attestation, debug and power commands do. Which open context a window opens onto, what a debug read returns of each
unit and the image's sections are the model's (logs 7 and 11). -/
def Obligations.TenantAndDebugCommands : Prop :=
  (∀ s (c : Cmd) k v, cmdCode c = 0x0B → vdHandle s c.handle = some (k, v) →
    (Taken s c 0x0B false → Permits s c v → (fnRegs s c.fn).pending = none →
      ∃ t, exec (.evict c) s = .next t ∧ (fnRegs t c.fn).pending = some c ∧ t.mem = s.mem ∧
        ∀ rid ∈ regionsOf s v.part v.num, (s.region rid).st = .active → (s.region rid).yield = none →
          ∃ y, (t.region rid).yield = some y ∧ y.dest = .evict c.fn) ∧
    ((fnRegs s c.fn).pending = some c → (∀ rid ∈ regionsOf s v.part v.num, running s rid = false) →
      let s1 := (newNonce s).2
      let l := sealedImage s1 v (newNonce s).1 (savedImages s1 v)
      (l.length ≤ c.buflen → Completes (.evict c) s c 0 0 0 (writeHost s1 c.buf l)) ∧
      (c.buflen < l.length → Completes (.evict c) s c 0x0C 0 0 s1))) ∧
  (∀ s (c : Cmd) v, Taken s c 0x0C false → NamesVd s c v → tearing s v.part = false → 128 ≤ c.buflen →
    let bytes := hostBytes s c.buf c.buflen
    let nonce := ofBytes (bytes.take 12)
    let l := savedImages s v
    let img := sealedImage s v nonce l
    let own := img = bytes.take img.length ∧ l ≠ []
    let opened := Config.imageOpen (imageKey s v) nonce (bytes.drop 20)
    let restores := fun (l : List (Nat × Image)) =>
      ((∀ g ∈ l, restoreStatus s v.part g.2 = 0) →
        Completes (.restore c) s c 0 0 0 (l.foldl (fun s g => restoreOnto s v.part g.2) (takeCmd s c))) ∧
      ∀ pre g post, l = pre ++ g :: post → (∀ h ∈ pre, restoreStatus s v.part h.2 = 0) → restoreStatus s v.part g.2 ≠ 0 →
        Completes (.restore c) s c 0x09 (restoreStatus s v.part g.2) 0 (takeCmd s c)
    (own → restores l) ∧
    (¬ own → opened = none → Completes (.restore c) s c 0x05 4 0 (takeCmd s c)) ∧
    ∀ body, ¬ own → opened = some body → let bad := headerStatus (ofBytes (body.take 64))
      let m := readImages s v ((List.range (body.length / 64)).map fun i =>
        BitVec.ofNat 512 (ofBytes ((body.drop (64 * i)).take 64)))
      (bad ≠ 0 → Completes (.restore c) s c 0x09 bad 0 (takeCmd s c)) ∧
      (bad = 0 → m = [] → Completes (.restore c) s c 0x09 0x40 0 (takeCmd s c)) ∧ (bad = 0 → m ≠ [] → restores m)) ∧
  (∀ s (c : Cmd) cx x v, Taken s c 0x0D false → ctxHandle s c.handle = some (cx, x) → vdOf s x.vd = some v → Permits s c v →
    (x.st ≠ .active → Completes (.teardown c) s c 0x0A 0 0 (takeCmd s c)) ∧
    (x.st = .active → ∃ t, exec (.teardown c) s = .next t ∧ (fnRegs t c.fn).pending = some c ∧
      AL.find? t.hg.ctxs cx = some { x with st := .zeroing false } ∧ t.hg.scrubPending = s.hg.scrubPending ∧
      (∀ w ∈ t.hg.windows, w.2.cx ≠ cx) ∧ (∀ l ∈ t.hg.launches, l.cx ≠ cx) ∧ (∀ h ∈ t.out.handles, h.1.1 ≠ cx) ∧
      ∀ o ∈ t.out.objects, o.2.cx = cx → o.2.deleting = true)) ∧
  (∀ s (c : Cmd) cx x, (fnRegs s c.fn).pending = some c → cmdCode c = 0x0D → ctxHandle s c.handle = some (cx, x) →
    let p := (s.region (ctxRid cx)).part
    (x.st = .zeroing false → exec (.teardown c) s = .next { s with hg := { s.hg with
      ctxs := AL.set s.hg.ctxs cx { x with st := .zeroing true }, scrubPending := true } }) ∧
    (x.st = .zeroing true → ∃ t, Completes (.teardown c) s c 0 0 0 t ∧ AL.find? t.hg.ctxs cx = some { x with st := .scrubbing } ∧
      (∃ k, AL.find? t.hg.slots x.slot = some k ∧ k.st = .zeroed ∧ ∀ j, k.keys.getD j 0 = 0) ∧
      (∀ g ∈ t.hg.images, g.2.cx ≠ cx) ∧ (∀ k ∈ t.hg.codes, k.2.cx ≠ cx) ∧
      ∃ k, (t.part p).scrubs = (s.part p).scrubs ++ [⟨some cx, x.vd, x.slot, k, scrubRanges s cx p⟩])) ∧
  (∀ s (c : Cmd) cx x v, Taken s c 0x0E false → windowCtx s c.fn = some (cx, x) → vdOf s x.vd = some v → Permits s c v →
    c.handle / 2 ^ 9 = 0 → bits c.handle 6 5 ≠ 3 → c.args / 2 ^ 211 = 0 → bits c.args 172 128 = 0 → bits c.args 63 8 = 0 →
    let w := bits c.handle 4 0
    let size := bits c.args 127 64
    size % 64 = 0 → size ≤ 2 ^ 30 → formatOk (bits c.args 7 0) = true → c.buf % 64 = 0 →
    (AL.find? s.hg.windows w ≠ none → Completes (.winOpen c) s c 0x0A 0 0 (takeCmd s c)) ∧
    (AL.find? s.hg.windows w = none →
      (List.filter (fun (y : Nat × Window) => y.2.vd = v.num) s.hg.windows).length < policyField v 95 90 →
      ∃ t, Completes (.winOpen c) s c 0 0 w t ∧ t.mem = s.mem ∧ AL.find? t.hg.windows w = some ⟨cx, v.num, bits c.handle 6 5,
        c.buf, size, bitAt c.handle 7, bitAt c.handle 8, bits c.args 7 0, bits c.args 210 192, bits c.args 191 173⟩)) ∧
  (∀ s (c : Cmd) x v, Taken s c 0x0F false → c.handle < 32 → AL.find? s.hg.windows c.handle = some x →
    vdOf s x.vd = some v → Permits s c v → ∃ t, Completes (.winClose c) s c 0 0 0 t ∧ AL.find? t.hg.windows c.handle = none ∧
      (∀ k, k ≠ c.handle → AL.find? t.hg.windows k = AL.find? s.hg.windows k) ∧ t.mem = s.mem) ∧
  (∀ s (c : Cmd), Taken s c 0x10 false → let nonce := ofBytes (hostBytes s c.buf 64)
    let (salt, s1) := (takeCmd s c).free
    let permitted := c.fn = 0 ∨ ∃ v, boundVd s c.fn = some v ∧ Permits s c v.2
    (c.handle = 0 → permitted → 17120 ≤ c.buflen →
      Completes (.attest c) s c 0 0 0 (writeHost s1 c.buf (report s1 salt nonce none))) ∧
    (c.handle = 0 → permitted → c.buflen < 17120 → Completes (.attest c) s c 0x0C 0 0 (takeCmd s c)) ∧
    (c.handle ≠ 0 → ctxHandle s c.handle = none → Completes (.attest c) s c 0x03 0 0 (takeCmd s c)) ∧
    ∀ x v, c.handle ≠ 0 → ctxHandle s c.handle = some x → x.2.st ≠ .free → vdOf s x.2.vd = some v → Permits s c v →
      17120 ≤ c.buflen → Completes (.attest c) s c 0 0 0 (writeHost s1 c.buf (report s1 salt nonce (some x)))) ∧
  (∀ s salt nonce x, (report s salt nonce x).length = 17120) ∧
  (∀ s (c : Cmd) v, DebugOf s c v → Dbg.num c < 8 → let cl := Dbg.cl c
    let old := compsOf s v cl
    (Taken s c 0x111 false → bits (Dbg.word c).toNat 22 20 ≤ 4 →
      ∃ t w, Completes (.debugSet c) s c 0 0 0 t ∧ compsOf t v cl = old.set (Dbg.num c) w ∧ t.mem = s.mem ∧
        bits w.toNat 63 23 = 0 ∧ bits w.toNat 5 1 = 0 ∧ bits w.toNat 255 64 = bits (Dbg.word c).toNat 255 64 ∧
        bits w.toNat 22 6 = bits (Dbg.word c).toNat 22 6 ∧ bitAt w.toNat 0 = bitAt (Dbg.word c).toNat 0) ∧
    (Taken s c 0x211 false → ∃ t, Completes (.debugClear c) s c 0 0 0 t ∧
      compsOf t v cl = old.set (Dbg.num c) (old.getD (Dbg.num c) 0 &&& ~~~ 1) ∧ t.mem = s.mem)) ∧
  (∀ s (c : Cmd) v rid, DebugOf s c v → DebugRegion s c v rid →
    (Taken s c 0x511 false →
      ((s.region rid).yield = none →
        Completes (.debugHalt c) s c 0 0 0 ((takeCmd s c).modRegion rid fun r => { r with halted := true })) ∧
      ∀ y, (s.region rid).yield = some y → Completes (.debugHalt c) s c 0 0 0
        ((takeCmd s c).modRegion rid fun r => { r with yield := some { y with halt := true } })) ∧
    (Taken s c 0x411 false → (s.region rid).halted = true → ∃ t, Completes (.debugResume c) s c 0 0 0 t ∧
      (t.region rid).halted = false ∧ t.mem = s.mem ∧ ∀ u, (∀ x ∈ (s.unit u).withheld, x.2.rid = rid) → (s.unit u).formed = [] →
        (s.unit u).ready.length + (s.unit u).withheld.length ≤ 8 →
        (t.unit u).withheld = [] ∧ (t.unit u).ready = (s.unit u).ready ++ (s.unit u).withheld.map (·.2)) ∧
    (∀ u, Taken s c 0x311 false → DebugUnit c u → (s.region rid).halted = true → ∃ t, Completes (.debugStep c) s c 0 0 0 t ∧
      (t.region rid).permits = (s.region rid).permits ++ [u] ∧ (t.region rid).halted = true ∧ t.mem = s.mem ∧
      ((∀ x ∈ (s.unit u).withheld, x.2.rid ≠ rid) → t.unit u = s.unit u) ∧
      ∀ x l, (s.unit u).withheld = x :: l → x.2.rid = rid →
        (t.unit u).ready = x.2 :: (s.unit u).ready ∧ (t.unit u).withheld = l) ∧
    (∀ u, Taken s c 0x611 false → DebugUnit c u → (s.cluster (Dbg.cl c)).power ≠ .waking → Dbg.what c ≤ 5 →
      let body := toBytes (debugValue s c u rid) 64
      (protected' v = false → 64 ≤ c.buflen → Completes (.debugRead c) s c 0 0 0 (writeHost (takeCmd s c) c.buf body)) ∧
      (protected' v = true → 92 ≤ c.buflen → ∃ nonce, nonce < 2 ^ 96 ∧ ∃ t, t.mem = s.mem ∧ Completes (.debugRead c) s c 0 0 0
        (writeHost t c.buf (toBytes nonce 12 ++ gcmSeal (deviceKeyOf s v 6) nonce (cmdBytes c) body)))) ∧
    (Taken s c 0x711 false → ∃ t, Completes (.debugRelease c) s c 0 0 0 t ∧ t.mem = s.mem ∧
      (∀ cl r, r ∈ (t.cluster cl).disp → r.rid = rid → r.held = false) ∧
      ∀ cl, (t.cluster cl).disp.length = (s.cluster cl).disp.length)) ∧
  (∀ (c : Cmd) i code, (i, code) ∈ ([(.debugSet c, 0x111), (.debugClear c, 0x211), (.debugStep c, 0x311),
      (.debugResume c, 0x411), (.debugHalt c, 0x511), (.debugRead c, 0x611), (.debugRelease c, 0x711)] : List (Instr × Nat)) →
    ∀ s v, Taken s c code false → NamesVd s c v → policyField v 62 61 = 0 →
      Completes i s c 0x0B 0 0 (takeCmd s c)) ∧
  ∀ s (c : Cmd), Taken s c 0x12 true → let p := bits c.args 7 4
    ((s.part p).valid = true → (s.part p).frozen = false →
      Completes (.power c) s c 0 0 0 ((takeCmd s c).modPart p fun q => { q with powerEn := bitAt c.args 0 })) ∧
    ((s.part p).valid = false → Completes (.power c) s c 0x0A 0 0 (takeCmd s c))

/-! ### The whole machine -/

/-- R150, R152, R153, R181: the word of every well-formed instruction decodes to that instruction, with every operand at every
value. -/
def Obligations.EncodedInstructionsDecode : Prop :=
  ∀ i, Sys2Proof.Laws.Encoding.Statement i

/-- R150, R166, R181: a word that decodes is the word of the instruction it decodes to, which is well formed: no bit of it is
dropped. -/
def Obligations.DecodedWordsEncodeBack : Prop :=
  ∀ w i, decode w = .ok i → i.WellFormed ∧ encode i = some w

/-- R150, R152 to R154: words written out in the spec's programs decode to the instructions they stand for. -/
def Obligations.WordsOfTheSpecDecode : Prop :=
  decode 0x00001010 = .ok (.add ⟨.keep, .left, .right, .arc 0, .arc 1⟩ false false .i32) ∧
  decode 0x1C201021 = .ok (.bfi ⟨.into, .left, .right, .zero, .arc 0⟩ true) ∧
  decode 0x711320F0 = .ok (.tfree ⟨.up, .ix, .zero, .arc 0, .none⟩) ∧
  decode 0x900010FC = .ok (.aadd ⟨.keep, .left, .right, .arc 0, .none⟩ true .sys) ∧
  decode 0xC70CEEF1 = .ok (.lmDrain ⟨.keep, .lit 4, .lit 6, .term, .none⟩ false .clu) ∧
  decode 0xE20921F3 = .ok (.nmAxpy ⟨.keep, .lit 1, .zero, .arc 1, .none⟩ .part) ∧
  decode 0xFB001EF8 = .ok (.csrWr ⟨.keep, .left, .right, .term, .none⟩)

/-- R40, R31, R322, R323, R332, R150: the step at a unit's head firing runs the instruction that the word of its slot decodes
to, once the firing has left its queue, if each destination its word names can accept a token; one that waits changes nothing;
a heavy unit without a grant is given one first. An event at the head of the agenda is its instruction's. That inputs and
choices stand in an agenda is the model's (log 13). -/
def Obligations.AStepRunsTheDecodedInstruction : Prop :=
  (∀ s u l f rest i, s.agenda = .issue u :: l → (pullReady (s.unit u)).ready = f :: rest → mayIssue s u f.rid = true →
    destsAccept s u f (slotWord s u f.slot).toNat = true → decode (slotWord s u f.slot) = .ok i →
    let s0 : State := { s with agenda := l }
    let s1 := takeHead (s0.modUnit u pullReady) u f rest
    (heavy u.kind = true → (s.unit u).grant = some f.rid) → s1.cur = some ⟨u, { f with seq := s.issued + 1 }⟩ ∧
      (s1.unit u).fired = (s.unit u).fired + (if f.stage = 0 then 1 else 0) ∧ s1.issued = s.issued + 1 ∧ s1.mem = s.mem ∧
        s1.net = s.net ∧
      (∀ t, exec i s1 = .next t → t.cur = none → step s = .next t) ∧
      (∀ t, exec i s1 = .next t → t.cur ≠ none → step s = .next s0) ∧
      (∀ e, exec i s1 = .fault e → step s = .fault e) ∧ (∀ e, exec i s1 = .refused e → step s = .refused e)) ∧
  (∀ s u l f rest, s.agenda = .issue u :: l → (pullReady (s.unit u)).ready = f :: rest → heavy u.kind = true →
    let s0 : State := { s with agenda := l }
    ((s.unit u).grant = none → (s.region f.rid).st = .active → (s.region f.rid).grantQueue = [] →
      grantsOf s f.rid < Rcb.grants (s.region f.rid).rcb → step s = .next (s0.modUnit u fun h =>
        { h with grant := some f.rid, grantIdle := s.clock, grantWait := h.grantWait + waitedElse h f })) ∧
    ∀ r, (s.unit u).grant = some r → r ≠ f.rid → step s = .next s0) ∧
  (∀ s i l, s.agenda = .event i :: l → step s = exec i { s with agenda := l }) ∧
  (∀ s u l f rest, s.agenda = .issue u :: l → (pullReady (s.unit u)).ready = f :: rest →
    (heavy u.kind = true → (s.unit u).grant = some f.rid) →
    mayIssue s u f.rid = false ∨ destsAccept s u f (slotWord s u f.slot).toNat = false → step s = .next { s with agenda := l }) ∧
  ∀ s, s.agenda = [] → (∀ i, dueMove s = some (.event i) → step s = exec i s) ∧ (dueMove s = none →
    ((dueMove (tick s) <|> ownMove (tick s)) = none → step s = .next (tick s)) ∧
    ∀ i, (dueMove (tick s) <|> ownMove (tick s)) = some (.event i) → step s = exec i (tick s))

/-- R13, R92, R93, R91, R178, R355, R361: an element instruction of Tables 07-1 to 07-10 but `fcomp` changes nothing but the
tokens it sends, slots and copies of frames of its region, its cluster's undo entries, its overflow counter and the retired-
opcode counter; the firing waits, or its fault is taken, with no such effect, or an uncorrectable error that it met in a
revocable logged interval rolls the interval back (R355). -/
def Obligations.ElementInstructionsChangeNothingElse : Prop :=
  ∀ i w s c t, encode i = some w → w.toNat / 2 ^ 24 < 0x68 → w.toNat / 2 ^ 24 ≠ 0x65 → s.cur = some c →
    LogRoom s c.f.rid c.u.cl → exec i s = .next t →
    t = s ∨ (∃ p f, t = takeFault s.base p f ∨ t = takeFault (countRetired s.base c (w.toNat / 2 ^ 24)) p f ∨
        (f.cause = .poolError ∨ f.cause = .memError) ∧ logging s c.f.rid = true ∧
          t = faultOrRollback (countRetired s.base c (w.toNat / 2 ^ 24)) p f) ∨
      NodeFrame (w.toNat / 2 ^ 24) s.base c t

/-- R129, R220, R221: every step keeps memory in its canonical form, so that equal memories are equal. -/
def Obligations.EveryStepKeepsMemoryCanonical : Prop :=
  ∀ s t, s.MemOk → step s = .next t → t.MemOk

/-- R392, R313, R319, R322, R118, R328, Tables 12-1 to 12-5, 13-1 and 14-2: the registers hold their reset values. That every
other register and memory byte reads zero, and that no scrub mark survives, is the model's choice (logs 1 and 8). -/
def Obligations.ResetLeavesTheStatedValues : Prop :=
  State.reset.MemOk ∧ State.reset.partMap = 0xFEDCBA9876543210 ∧
  State.reset.edgeCal.toNat = 0xFEDCBA9876543210FEDCBA9876543210 ∧
  (∀ p, p < 16 → (State.reset.part p).cfg.toNat = 2 ^ 8 + p ∧ (State.reset.part p).valid = false ∧
    (State.reset.part p).frozen = false ∧ (State.reset.part p).sluiceDrop = 0 ∧ (State.reset.part p).sluiceCnt = 0 ∧
    (∀ k, k < 5 → (State.reset.part p).hashMask[k]? = some 0) ∧ holder (State.reset.part p) = none ∧
    bitAt (State.reset.part p).slotCtl.toNat 63 = false ∧ curSlot (State.reset.part p) = 0 ∧
    (∀ k, k < 64 → (State.reset.part p).slotEnt[k]? = some 0 ∧ (State.reset.part p).qslot[k]? = some 0) ∧
    (State.reset.part p).evtQueue = 0 ∧ (State.reset.part p).scrubs = [] ∧ (State.reset.part p).supRid = none) ∧
  (∀ fn, (fnRegs State.reset fn).cmdstat = 0) ∧ (∀ cl, (State.reset.cluster cl).comps = List.replicate 8 0) ∧
  State.reset.hg.recovery = 0 ∧ (∀ r ∈ State.reset.out.routes, r = 0) ∧ State.reset.regions = [] ∧ State.reset.net = [] ∧
  ∀ k, Memory.read State.reset.mem k = 0
end

