-- ==== Sys2Proof/Laws/Send.lean ====
section
/-! SUPPORT. Reading a scalar operand and sending tokens: what the shared operations answer, once for each. -/

namespace Sys2Proof.Laws

open Sys2Proof Sys2Proof.Machine

/-- A scalar operand is a zero of its node's type, or a token of one of the types the node accepts. -/
theorem asScalar_ok {o : Opd} {ts : List TType} {x : Scalar} (h : asScalar o ts = .ok x) :
    (o.zero = true ∧ x.sc = false ∧ x.val = 0) ∨ (o.zero = false ∧ o.pay = .scal x ∧ ts.contains x.ty = true) := by
  unfold asScalar at h
  cases hp : o.pay with
  | line d e t => rw [hp] at h; simp [flt] at h
  | scal y =>
    rw [hp] at h
    cases hz : o.zero with
    | true =>
      left
      simp only [hz, if_true, Except.ok.injEq] at h
      subst h
      exact ⟨rfl, rfl, rfl⟩
    | false =>
      right
      cases hc : ts.contains y.ty with
      | true =>
        simp only [hz, hc, if_true, Except.ok.injEq, Bool.false_eq_true, if_false] at h
        subst h
        exact ⟨rfl, rfl, hc⟩
      | false => simp only [hz, hc, Bool.false_eq_true, if_false, flt, reduceCtorEq] at h

/-! ### Keyed lists -/

theorem find_map {α β : Type} [DecidableEq α] (g : α × β → β) (l : AL α β) (k : α) :
    AL.find? (l.map fun p => (p.1, g p)) k = (AL.find? l k).map fun b => g (k, b) := by
  induction l with
  | nil => rfl
  | cons p l ih =>
    simp only [List.map_cons, AL.find?]
    by_cases h : p.1 = k
    · subst h; simp
    · simp [h, ih]

theorem find_set {α β : Type} [DecidableEq α] (l : AL α β) (k j : α) (v : β) :
    AL.find? (AL.set l k v) j = if k = j then some v else AL.find? l j := by
  induction l with
  | nil => simp [AL.set, AL.find?]
  | cons p l ih =>
    obtain ⟨a, b⟩ := p
    simp only [AL.set]
    by_cases h : a = k
    · subst h; simp only [if_true, AL.find?]; split <;> simp_all
    · simp only [h, if_false, AL.find?, ih]
      by_cases hj : a = j
      · subst hj; simp [Ne.symm h]
      · simp [hj]

theorem get_set {α β : Type} [DecidableEq α] (d : β) (l : AL α β) (k j : α) (v : β) :
    AL.get d (AL.set l k v) j = if k = j then v else AL.get d l j := by
  unfold AL.get
  rw [find_set]
  split <;> rfl

/-! ### The arcs of units and frames stay while a token is sent -/

/-- The arc tables of all units, and the return arcs of all frames, are the same. -/
def SameArcs (s t : State) : Prop :=
  (∀ u, (t.unit u).arcs = (s.unit u).arcs) ∧ ∀ rid g, (frameAt t rid g).retarc = (frameAt s rid g).retarc

theorem SameArcs.refl (s : State) : SameArcs s s := ⟨fun _ => rfl, fun _ _ => rfl⟩

theorem SameArcs.trans {s t v : State} (h : SameArcs s t) (g : SameArcs t v) : SameArcs s v :=
  ⟨fun u => (g.1 u).trans (h.1 u), fun r k => (g.2 r k).trans (h.2 r k)⟩

theorem sameArcs_units {s t : State} (h : t.units = s.units) (f : t.frames = s.frames) : SameArcs s t :=
  ⟨fun u => by simp only [State.unit, h], fun r k => by simp only [frameAt, State.frame, f]⟩

/-- Setting a frame with the return arc that it had. -/
theorem sameArcs_setFrame {s : State} {rid : Nat} {t : Tag} {f : Frame} (h : f.retarc = (frameAt s rid t).retarc) :
    SameArcs s (s.setFrame rid t.die t.frame f) := by
  refine ⟨fun _ => rfl, fun r k => ?_⟩
  simp only [frameAt, State.frame, State.setFrame, get_set]
  split
  · rename_i hk
    simp only [Prod.mk.injEq] at hk
    obtain ⟨h1, h2, h3⟩ := hk
    simpa only [frameAt, State.frame, h1, h2, h3] using h
  · rfl

theorem sameArcs_map {s t : State} (g : UId × HwUnit → HwUnit) (hg : ∀ p, (g p).arcs = p.2.arcs)
    (h : t.units = s.units.map fun p => (p.1, g p)) (f : t.frames = s.frames) : SameArcs s t := by
  refine ⟨fun u => ?_, fun r k => by simp only [frameAt, State.frame, f]⟩
  simp only [State.unit, AL.get, h, find_map]
  cases hf : AL.find? s.units u with
  | none => rfl
  | some b => simp [hg]

theorem sameArcs_foldl {α : Type} (g : State → α → State) (hg : ∀ s a, SameArcs s (g s a)) (l : List α) :
    ∀ s, SameArcs s (l.foldl g s) := by
  induction l with
  | nil => exact SameArcs.refl
  | cons a l ih => exact fun s => (hg s a).trans (ih _)

theorem sameArcs_landWrite (s : State) (line : Nat) (cells : List Host.Cell) (d : Option Desc) (t : Option EncTag) :
    SameArcs s (landWrite s line cells d t) := by
  by_cases h : isHbm line = true
  · refine sameArcs_map (fun p => wakeOn line p.2) (fun p => rfl) ?_ ?_
    · simp [landWrite, h]
    · rfl
  · exact sameArcs_units (by simp [landWrite, h]) rfl

theorem sameArcs_landHeld (s : State) (line : Nat) (p : Nat → HeldStore → Bool) : SameArcs s (landHeld s line p) :=
  (sameArcs_foldl _ (fun s (e : HeldStore) => sameArcs_landWrite s e.line e.bytes e.desc e.enc) _ s).trans (sameArcs_units rfl rfl)

theorem sameArcs_landAll (s : State) : SameArcs s (landAll s) := sameArcs_foldl _ (fun s _ => sameArcs_landHeld s _ _) _ s

theorem sameArcs_drainLine (s : State) (line : Nat) (p : Nat → HeldStore → Bool) : SameArcs s (drainLine s line p) := by
  refine (sameArcs_landHeld s line p).trans ?_
  simp only [drainLine]
  split
  · exact sameArcs_landAll _
  · exact SameArcs.refl _

theorem sameArcs_drainWhere (s : State) (p : Nat → HeldStore → Bool) : SameArcs s (drainWhere s p) :=
  sameArcs_foldl _ (fun s _ => sameArcs_drainLine s _ _) _ s

theorem sameArcs_visibleWrite (s : State) (line : Nat) (cells : List Host.Cell) (d : Option Desc) (t : Option EncTag) :
    SameArcs s (visibleWrite s line cells d t) := by
  unfold visibleWrite
  refine SameArcs.trans ?_ (sameArcs_landWrite _ _ _ _ _)
  split
  · exact sameArcs_drainWhere _ _
  · exact sameArcs_drainLine _ _ _

theorem sameArcs_dropLine (s : State) (cl line : Nat) : SameArcs s (dropLine s cl line) :=
  sameArcs_map (fun p => if p.1.cl = cl ∧ p.1.kind = .mp then { p.2 with readBuf := p.2.readBuf.filter (·.key != line) } else p.2)
    (fun p => by simp only; split <;> rfl)
    (by simp only [dropLine]; congr 1; funext p; split <;> rfl) rfl

theorem sameArcs_post (s : State) (f : Flit) : SameArcs s (Machine.post s f) :=
  sameArcs_units (by unfold Machine.post; split <;> rfl) (by unfold Machine.post; split <;> rfl)

theorem sameArcs_postCpl (s : State) (fn a b c d : Nat) : SameArcs s (postCpl s fn a b c d) :=
  sameArcs_units (by unfold postCpl; simp only) (by unfold postCpl; simp only)

theorem sameArcs_tellLaunch (s : State) (rid cls : Nat) : SameArcs s (tellLaunch s rid cls) := by
  unfold tellLaunch
  repeat' split
  · exact sameArcs_postCpl _ _ _ _ _ _
  · exact SameArcs.refl s
  · exact SameArcs.refl s

theorem sameArcs_ringWrite (s : State) (p : Part) (r : BitVec 512) : SameArcs s (ringWrite s p r) :=
  ((sameArcs_visibleWrite _ _ _ _ _).trans (sameArcs_visibleWrite _ _ _ _ _)).trans (sameArcs_post _ _)

/-- Taking a fault leaves the arc tables. -/
theorem sameArcs_takeFault (s : State) (w : FaultSite) (f : Flt) : SameArcs s (takeFault s w f) := by
  unfold takeFault
  simp only
  generalize hpn : (if (s.region w.rid).host = [] then partOf s w.cl else (s.region w.rid).part) = pn
  split
  · exact sameArcs_postCpl _ _ _ _ _ _
  · refine (sameArcs_tellLaunch s w.rid (w.cls.getD f.cause.cls)).trans ?_
    split
    · exact sameArcs_units rfl rfl
    · exact sameArcs_ringWrite _ _ _

theorem sameArcs_modCluster (s : State) (c : Nat) (g : Cluster → Cluster) : SameArcs s (s.modCluster c g) :=
  sameArcs_units rfl rfl

theorem sameArcs_commitStore (s : State) (cl : Nat) (e : LogStore) : SameArcs s (commitStore s cl e) := by
  unfold commitStore
  simp only
  refine SameArcs.trans (t := dropLine (if translates s e.line then landAll s else drainLine s e.line fun _ _ => true) cl e.line) ?_ ?_
  · refine SameArcs.trans ?_ (sameArcs_dropLine _ cl e.line)
    split
    · exact sameArcs_landAll s
    · exact sameArcs_drainLine s _ _
  · generalize dropLine (if translates s e.line then landAll s else drainLine s e.line fun _ _ => true) cl e.line = t
    split
    · exact sameArcs_landWrite _ _ _ _ _
    · exact sameArcs_takeFault _ _ _

theorem sameArcs_commitCluster (s : State) (rid cl : Nat) : SameArcs s (commitCluster s rid cl) :=
  (sameArcs_foldl _ (fun s e => sameArcs_commitStore s cl e) _ s).trans (sameArcs_modCluster _ _ _)

theorem sameArcs_makeIrrevocable (s : State) (rid : Nat) : SameArcs s (makeIrrevocable s rid) := by
  unfold makeIrrevocable
  split
  · exact (sameArcs_foldl _ (fun s cl => sameArcs_commitCluster s rid cl) _ s).trans (sameArcs_units rfl rfl)
  · exact SameArcs.refl s

theorem sameArcs_logUndo (s : State) (rid cl : Nat) (u : Undo) : SameArcs s (logUndo s rid cl u) := by
  unfold logUndo
  repeat' split
  · exact sameArcs_makeIrrevocable s rid
  · exact sameArcs_modCluster _ _ _
  · exact SameArcs.refl s

theorem sameArcs_changeFrame {s : State} {rid cl : Nat} {t : Tag} {f : Frame} (h : f.retarc = (frameAt s rid t).retarc) :
    SameArcs s (changeFrame s rid cl t f) := by
  have hu := sameArcs_logUndo s rid cl (.frame t.die t.frame (frameAt s rid t))
  exact hu.trans (sameArcs_setFrame (h.trans (hu.2 rid t).symm))

/-! ### A frame slot -/

theorem needLive_ok {s : State} {rid : Nat} {t : Tag} (h : (frameAt s rid t).st = .live) : needLive s rid t = .ok () := by
  simp [needLive, need, h]

/-- A word of a copy whose line has no error is read. -/
theorem copyClean_ok {s : State} {rid : Nat} {t : Tag} {cl off : Nat}
    (h : s.poison.contains (frameLine s rid t cl off) = false) : copyClean s rid t cl off = .ok () := by
  simp only [copyClean, need, h, Bool.not_false, if_true]

/-- A new copy has no line in error (R51, R355). -/
theorem cleanCopy_good (s : State) (rid : Nat) (t : Tag) (cl i : Nat) (hi : i < 260) :
    (cleanCopy s rid t cl).poison.contains (frameLine s rid t cl (8 * i)) = false := by
  rw [Bool.eq_false_iff]
  intro h
  simp only [cleanCopy, List.contains_iff_mem, List.mem_filter, Bool.not_eq_true', List.any_eq_false, List.mem_range,
    beq_iff_eq] at h
  exact h.2 i hi rfl

/-- A cluster comes to hold a copy of a frame, all of whose lines can be read. -/
theorem ensureCopy_ok {s : State} {rid : Nat} {t : Tag} {cl : Nat}
    (h : (frameAt s rid t).copies.contains cl = true ∨ copyRoom s cl = true) (g : CopyGood s rid t cl) :
    ∃ s', ensureCopy s rid t cl = .ok s' ∧ SameArcs s s' ∧
      ∀ i, i < 260 → s'.poison.contains (frameLine s' rid t cl (8 * i)) = false := by
  unfold ensureCopy
  cases hk : (frameAt s rid t).copies.contains cl with
  | true => exact ⟨s, by simp only [hk, if_true], SameArcs.refl s, g hk⟩
  | false =>
    have hr : copyRoom s cl = true := h.resolve_left (by rw [hk]; exact Bool.false_ne_true)
    simp only [hk, hr, if_true, Bool.false_eq_true, if_false]
    exact ⟨_, rfl, (sameArcs_units rfl rfl : SameArcs s (cleanCopy s rid t cl)).trans (sameArcs_setFrame rfl),
      fun i hi => cleanCopy_good s rid t cl i hi⟩

/-- A frame slot of a cluster that can hold it is written. -/
theorem writeSlot_ok {s : State} {rid : Nat} {t : Tag} {cl slot : Nat} (h : SlotOk s rid t cl) (hs : slot < 256) (v : Word)
    (seq : Nat) : ∃ s', writeSlot s rid t cl slot v seq = .ok s' ∧ SameArcs s s' := by
  obtain ⟨s1, h1, a1, g1⟩ := ensureCopy_ok h.1.2 h.2
  have hc : copyClean s1 rid t cl (32 + 8 * slot) = .ok () := by
    have he : 32 + 8 * slot = 8 * (4 + slot) := by omega
    exact he ▸ copyClean_ok (g1 _ (by omega))
  refine ⟨_, by simp only [writeSlot, needLive_ok h.1.1, h1, bind, Except.bind, hc]; rfl, a1.trans ?_⟩
  split
  · exact sameArcs_changeFrame rfl
  · exact SameArcs.refl s1

/-! ### Destinations -/

/-- A destination that can take a token is sent it. -/
theorem sendTo_ok {s : State} {c : Cur} {d : Dst} {p : Payload} {t : Tag} (h : DstOk s c d t p.scaled) :
    ∃ s', sendTo s c d p t = .ok s' ∧ SameArcs s s' := by
  cases d with
  | arc k =>
    simp only [sendTo, sendArc]
    split
    · rename_i hv
      split
      · rename_i h6
        simp only [Bool.and_eq_true, beq_iff_eq] at h6
        exact absurd (h hv h6.1) (by simp [h6.2])
      · exact ⟨_, rfl, sameArcs_post _ _⟩
    · exact ⟨s, rfl, SameArcs.refl s⟩
  | slot =>
    have h0 : p.scaled = false := h.1
    simp only [sendTo, h0, Bool.false_eq_true, if_false]
    exact writeSlot_ok h.2 (Nat.lt_trans (Nat.mod_lt _ (by decide)) (by decide : 128 < 256)) _ _
  | ret =>
    simp only [sendTo]
    split
    · rename_i hv
      split
      · rename_i h6
        simp only [Bool.and_eq_true, beq_iff_eq] at h6
        exact absurd (h hv h6.1) (by simp [h6.2])
      · exact ⟨_, rfl, sameArcs_post _ _⟩
    · exact ⟨s, rfl, SameArcs.refl s⟩
  | term => exact ⟨_, rfl, sameArcs_post _ _⟩
  | none => exact ⟨s, rfl, SameArcs.refl s⟩

theorem dstOk_same {s s' : State} {c : Cur} {d : Dst} {t : Tag} {sc : Bool} (h : DstOk s c d t sc) (g : SameArcs s s')
    (hd : d ≠ .slot) : DstOk s' c d t sc := by
  cases d with
  | arc k =>
    intro hv h6
    rw [g.1 c.u] at hv h6
    exact h hv h6
  | slot => exact absurd rfl hd
  | ret =>
    intro hv h6
    rw [g.2] at hv h6
    exact h hv h6
  | term => trivial
  | none => trivial

/-- A frame slot that a cluster can hold is still so after a token on an arc. -/
theorem slotOk_net {s s' : State} {rid : Nat} {t : Tag} {cl : Nat} (hf : s'.frames = s.frames)
    (hc : s'.clusters = s.clusters) (hp : s'.poison = s.poison) (h : SlotOk s rid t cl) : SlotOk s' rid t cl := by
  obtain ⟨⟨h1, h2⟩, h3⟩ := h
  refine ⟨⟨by simpa [frameAt, State.frame, hf] using h1, ?_⟩, ?_⟩
  · simpa [frameAt, State.frame, copyRoom, frameUsed, recordsIn, State.cluster, hf, hc] using h2
  · simpa [CopyGood, frameLine, copyOffset, frameClassAt, frameAt, State.frame, State.cluster, hf, hc, hp] using h3

theorem post_frames (s : State) (f : Flit) :
    (Machine.post s f).frames = s.frames ∧ (Machine.post s f).clusters = s.clusters ∧ (Machine.post s f).poison = s.poison := by
  unfold Machine.post
  split <;> exact ⟨rfl, rfl, rfl⟩

/-- Only a frame slot's write touches frames or clusters. -/
theorem sendTo_frames {s s' : State} {c : Cur} {d : Dst} {p : Payload} {t : Tag} (h : sendTo s c d p t = .ok s')
    (hd : d ≠ .slot) : s'.frames = s.frames ∧ s'.clusters = s.clusters ∧ s'.poison = s.poison := by
  cases d with
  | arc k =>
    simp only [sendTo, sendArc] at h
    split at h
    · split at h
      · simp [flt] at h
      · simp only [Except.ok.injEq] at h; subst h; exact post_frames _ _
    · simp only [Except.ok.injEq] at h; subst h; exact ⟨rfl, rfl, rfl⟩
  | slot => exact absurd rfl hd
  | ret =>
    simp only [sendTo] at h
    split at h
    · split at h
      · simp [flt] at h
      · simp only [Except.ok.injEq] at h; subst h; exact post_frames _ _
    · simp only [Except.ok.injEq] at h; subst h; exact ⟨rfl, rfl, rfl⟩
  | term => simp only [sendTo, Except.ok.injEq] at h; subst h; exact post_frames _ _
  | none => simp only [sendTo, Except.ok.injEq] at h; subst h; exact ⟨rfl, rfl, rfl⟩

/-- Both destinations are sent a token that they can take. -/
theorem sendBoth_ok {s : State} {c : Cur} {d e : Dst} {p : Payload} {t : Tag} (hd : DstOk s c d t p.scaled)
    (he : DstOk s c e t p.scaled) : ∃ s', sendBoth s c d e p t = .ok s' := by
  obtain ⟨s1, h1, a1⟩ := sendTo_ok hd
  rw [sendBoth, h1]
  by_cases hde : e = d
  · exact ⟨s1, if_pos hde⟩
  · have he1 : DstOk s1 c e t p.scaled := by
      by_cases hs : e = .slot
      · subst hs
        have hf := sendTo_frames h1 (fun h => hde h.symm)
        exact ⟨he.1, slotOk_net hf.1 hf.2.1 hf.2.2 he.2⟩
      · exact dstOk_same he a1 hs
    obtain ⟨s2, h2, _⟩ := sendTo_ok he1
    exact ⟨s2, (if_neg hde).trans h2⟩

theorem tagOf_ok {s : State} {c : Cur} {t : TagAct} {b : Payload} (h : TagOk t b) : ∃ g, tagOf s c t b = .ok g := by
  cases t with
  | into =>
    have h0 : b.value.toNat / 512 = 0 := Nat.div_eq_of_lt (h rfl)
    exact ⟨_, if_pos h0⟩
  | _ => exact ⟨_, rfl⟩

theorem outForm_scaled {t : TagAct} {p : Payload} {sc : Bool} (h : p.scaled = sc) :
    (outForm t p).scaled = false ∨ (outForm t p).scaled = sc := by
  cases t with
  | repl => cases p <;> exact Or.inl rfl
  | _ => exact Or.inr h

theorem dstOk_weaken {s : State} {c : Cur} {d : Dst} {t : Tag} {sc sc' : Bool} (h : DstOk s c d t sc)
    (hs : sc' = false ∨ sc' = sc) : DstOk s c d t sc' := by
  cases hs with
  | inr h' => exact h' ▸ h
  | inl h' =>
    subst h'
    cases d with
    | arc k => exact fun _ _ => rfl
    | slot => exact ⟨rfl, h.2⟩
    | ret => exact fun _ _ => rfl
    | term => trivial
    | none => trivial

/-- A node whose destinations can take its token sends it. -/
theorem finish_ok {s : State} {c : Cur} {n : Nd} {b p : Payload} (h : CanEmit s c n b p.scaled) :
    ∃ t, finish s c n b p = .ok t := by
  obtain ⟨g, hg⟩ := tagOf_ok (s := s) (c := c) h.1
  have hs := outForm_scaled (t := n.t) (p := p) rfl
  obtain ⟨t, ht⟩ := sendBoth_ok (p := outForm n.t p) (dstOk_weaken (h.2 g hg).1 hs) (dstOk_weaken (h.2 g hg).2 hs)
  exact ⟨t, by rw [finish, hg]; exact ht⟩

/-- The same for a three-operand form. -/
theorem finish3_ok {s : State} {c : Cur} {n : N3} {b p : Payload} (h : CanEmit3 s c n b p.scaled) :
    ∃ t, finish3 s c n b p = .ok t := by
  obtain ⟨g, hg⟩ := tagOf_ok (s := s) (c := c) h.1
  have hs := outForm_scaled (t := n.t) (p := p) rfl
  obtain ⟨t, ht, _⟩ := sendTo_ok (p := outForm n.t p) (dstOk_weaken (h.2 g hg) hs)
  exact ⟨t, by rw [finish3, hg]; exact ht⟩

/-! ### Running a node -/

theorem featureCheck_ok {s : State} {c : Cur} {op : Nat} (h : Unmasked s c op) : featureCheck s c op = .ok () := by
  unfold featureCheck
  split
  · rename_i g hg
    simp [need, h g hg]
  · rfl

/-- A node whose meaning answers a state completes with it (R13, R40). -/
theorem runNode_ok {op : Nat} {a b : Src} {s : State} {c : Cur} {body : State → Cur → Res State} {t : State}
    (hc : s.cur = some c) (hm : Unmasked s c op) (h : body s.base c = .ok t) :
    runNode op a b s body = .next (countRetired t c op) := by
  unfold runNode
  rw [hc]
  simp only [featureCheck_ok hm]
  show (match body s.base c with | .ok t => _ | .error (.fault f) => _ | .error .wait => _) = _
  rw [h]

/-- A node of two operands whose result is `r` completes with it. -/
theorem node2_ok {op : Nat} {n : Nd} {s s1 s2 : State} {c : Cur} {g : Opd → Opd → Res Scalar} {a b : Opd} {r : Scalar}
    (hc : s.cur = some c) (hm : Unmasked s c op) (ha : readSrc s.base c n.a = .ok (a, s1))
    (hb : readSrc s1 c n.b = .ok (b, s2)) (hg : g a b = .ok r) (he : CanEmit s2 c n b.pay r.sc) :
    ∃ t, finish s2 c n b.pay (.scal r) = .ok t ∧ node2 op n s g = .next (countRetired t c op) := by
  obtain ⟨t, ht⟩ := finish_ok (p := .scal r) he
  refine ⟨t, ht, ?_⟩
  unfold node2
  exact runNode_ok hc hm (by simp only [bind, Except.bind, ha, hb, hg]; exact ht)

/-- A three-operand form whose result is `r` completes with it. -/
theorem node3_ok {op : Nat} {n : N3} {s s1 s2 s3 : State} {c : Cur} {g : Opd → Opd → Opd → Res Scalar} {a b d : Opd}
    {r : Scalar} (hc : s.cur = some c) (hm : Unmasked s c op) (ha : readSrc s.base c n.a = .ok (a, s1))
    (hb : readSrc s1 c n.b = .ok (b, s2)) (hd : readSrc s2 c n.c = .ok (d, s3)) (hg : g a b d = .ok r)
    (he : CanEmit3 s3 c n b.pay r.sc) :
    ∃ t, finish3 s3 c n b.pay (.scal r) = .ok t ∧ node3 op n s g = .next (countRetired t c op) := by
  obtain ⟨t, ht⟩ := finish3_ok (p := .scal r) he
  refine ⟨t, ht, ?_⟩
  unfold node3
  exact runNode_ok hc hm (by simp only [bind, Except.bind, ha, hb, hd, hg]; exact ht)

end Sys2Proof.Laws
end

