-- ==== Sys2Proof/Laws/Lanes.lean ====
section
/-! SUPPORT. Lanes: each lane of a joined value, and the results of integer nodes lane by lane (R74, R183). -/

namespace Sys2Proof.Laws

open Sys2Proof Sys2Proof.Machine

theorem joinLanes_lt (k : Nat) (l : List Nat) : joinLanes k l < 2 ^ (k * l.length) := by
  induction l with
  | nil => simp [joinLanes]
  | cons x l ih =>
    have h1 : x % 2 ^ k < 2 ^ k := Nat.mod_lt _ (Nat.two_pow_pos k)
    have h2 : 2 ^ (k * (l.length + 1)) = 2 ^ k * 2 ^ (k * l.length) := by rw [Nat.mul_succ, Nat.pow_add, Nat.mul_comm]
    simp only [joinLanes, List.length_cons, h2]
    have h3 : 2 ^ k * (joinLanes k l + 1) ≤ 2 ^ k * 2 ^ (k * l.length) := Nat.mul_le_mul_left _ ih
    rw [Nat.mul_add] at h3
    omega

/-- A lane of a joined value is the member of the list, in the lane's bits (R74). -/
theorem laneAt_joinLanes (k : Nat) : ∀ (l : List Nat) (j : Nat) (h : j < l.length),
    laneAt k j (joinLanes k l) = l[j] % 2 ^ k := by
  intro l
  induction l with
  | nil => intro j h; simp at h
  | cons x l ih =>
    intro j h
    cases j with
    | zero =>
      simp only [laneAt, joinLanes, Nat.mul_zero, Nat.pow_zero, Nat.div_one, List.getElem_cons_zero]
      rw [Nat.add_mul_mod_self_left, Nat.mod_mod]
    | succ j =>
      have hj : j < l.length := by simpa using h
      have hdiv : (x % 2 ^ k + 2 ^ k * joinLanes k l) / 2 ^ (k * (j + 1)) = joinLanes k l / 2 ^ (k * j) := by
        rw [Nat.mul_succ, Nat.pow_add, Nat.mul_comm (2 ^ (k * j)), ← Nat.div_div_eq_div_mul,
          Nat.add_mul_div_left _ _ (Nat.two_pow_pos k), Nat.div_eq_of_lt (Nat.mod_lt _ (Nat.two_pow_pos k)), Nat.zero_add]
      simp only [laneAt, joinLanes, hdiv, List.getElem_cons_succ]
      exact ih j hj

theorem lanesOf_length (k n v : Nat) : (lanesOf k n v).length = n := by
  induction n generalizing v with
  | zero => rfl
  | succ n ih => simp [lanesOf, ih]

/-- A member of the lanes of a value is that lane (R74). -/
theorem lanesOf_get (k n v j : Nat) (h : j < (lanesOf k n v).length) : (lanesOf k n v)[j] = laneAt k j v := by
  induction n generalizing v j with
  | zero => simp [lanesOf] at h
  | succ n ih =>
    cases j with
    | zero => simp [lanesOf, laneAt]
    | succ j =>
      simp only [lanesOf, List.getElem_cons_succ]
      rw [ih]
      simp only [laneAt, Nat.mul_succ, Nat.div_div_eq_div_mul]
      rw [Nat.pow_add, Nat.mul_comm (2 ^ k)]

/-- The lanes of a value formed lane by lane from two others. -/
theorem laneAt_mapLanes2 (w : Width) (g : Nat → Nat → Nat) (a b j : Nat) (hj : j < (Width.shape w).2) :
    laneAt (Width.shape w).1 j (mapLanes2 w g a b) =
      g (laneAt (Width.shape w).1 j a) (laneAt (Width.shape w).1 j b) % 2 ^ (Width.shape w).1 := by
  have hl : j < (List.zipWith g (lanesOf (Width.shape w).1 (Width.shape w).2 a)
      (lanesOf (Width.shape w).1 (Width.shape w).2 b)).length := by simp [lanesOf_length, hj]
  simp only [mapLanes2]
  rw [laneAt_joinLanes _ _ _ hl, List.getElem_zipWith, lanesOf_get, lanesOf_get]

theorem mapLanes2_lt (w : Width) (g : Nat → Nat → Nat) (a b : Nat) :
    mapLanes2 w g a b < 2 ^ ((Width.shape w).1 * (Width.shape w).2) := by
  simp only [mapLanes2]
  refine Nat.lt_of_lt_of_le (joinLanes_lt _ _) ?_
  simp [lanesOf_length]

/-- The lanes of a value formed lane by lane from another. -/
theorem laneAt_mapLanes1 (w : Width) (g : Nat → Nat) (a j : Nat) (hj : j < (Width.shape w).2) :
    laneAt (Width.shape w).1 j (mapLanes1 w g a) = g (laneAt (Width.shape w).1 j a) % 2 ^ (Width.shape w).1 := by
  have hl : j < ((lanesOf (Width.shape w).1 (Width.shape w).2 a).map g).length := by simp [lanesOf_length, hj]
  simp only [mapLanes1]
  rw [laneAt_joinLanes _ _ _ hl, List.getElem_map, lanesOf_get]

theorem mapLanes1_lt (w : Width) (g : Nat → Nat) (a : Nat) :
    mapLanes1 w g a < 2 ^ ((Width.shape w).1 * (Width.shape w).2) := by
  simp only [mapLanes1]
  refine Nat.lt_of_lt_of_le (joinLanes_lt _ _) ?_
  simp [lanesOf_length]

theorem shape_bits (w : Width) : (Width.shape w).1 * (Width.shape w).2 ≤ 64 := by cases w <;> decide

theorem intLanes_ofNat {w : Width} {ty : TType} {v : Nat} {lane : Nat → Nat} (h : v < 2 ^ ((Width.shape w).1 * (Width.shape w).2))
    (hl : ∀ j, j < (Width.shape w).2 → laneAt (Width.shape w).1 j v = lane j % 2 ^ (Width.shape w).1) :
    IntLanes w ty (fun j => BitVec.ofNat _ (lane j)) ⟨BitVec.ofNat 64 v, intResult w ty, false⟩ := by
  have h64 : 2 ^ ((Width.shape w).1 * (Width.shape w).2) ≤ 2 ^ 64 := Nat.pow_le_pow_right (by decide) (shape_bits w)
  have hv : (BitVec.ofNat 64 v).toNat = v := by rw [BitVec.toNat_ofNat, Nat.mod_eq_of_lt (Nat.lt_of_lt_of_le h h64)]
  refine ⟨rfl, rfl, ?_, ?_⟩
  · show (BitVec.ofNat 64 v).toNat < _
    rw [hv]; exact h
  · intro j hj
    show BitVec.ofNat _ (laneAt _ j (BitVec.ofNat 64 v).toNat) = _
    rw [hv, hl j hj]
    apply BitVec.eq_of_toNat_eq
    simp

/-- What an integer node of two operands answers, lane by lane (R183, R184, R187). -/
theorem intResult2_ok {w : Width} {u : Bool} {g : Nat → Nat → Nat} {a b : Opd} {x y : Scalar} (hx : IntOpd w a x)
    (hy : IntOpd w b y) : ∃ r, intResult2 w u g a b = .ok r ∧
      IntLanes w x.ty (fun j => BitVec.ofNat _ (g (laneAt (Width.shape w).1 j (intRead w u x))
        (laneAt (Width.shape w).1 j (intRead w u y)))) r :=
  ⟨_, by simp only [intResult2, hx.1, hy.1, bind, Except.bind, need, hx.2, hy.2]; rfl,
    intLanes_ofNat (mapLanes2_lt w g _ _) fun j hj => laneAt_mapLanes2 w g _ _ j hj⟩

/-- What an integer node of one operand answers, lane by lane (R183, R184, R187). -/
theorem intResult1_ok {w : Width} {g : Nat → Nat} {a : Opd} {x : Scalar} (hx : IntOpd w a x) :
    ∃ r, intResult1 w g a = .ok r ∧
      IntLanes w x.ty (fun j => BitVec.ofNat _ (g (laneAt (Width.shape w).1 j (intRead w false x)))) r :=
  ⟨_, by simp only [intResult1, scalarU, clearOf, hx.1, bind, Except.bind, need, hx.2]; rfl,
    intLanes_ofNat (mapLanes1_lt w g _) fun j hj => laneAt_mapLanes1 w g _ j hj⟩

/-! ### Lane arithmetic as that of bit vectors -/

theorem laneAt_lt (k j v : Nat) : laneAt k j v < 2 ^ k := Nat.mod_lt _ (Nat.two_pow_pos k)

theorem toSigned_eq {k : Nat} (hk : 0 < k) (p : Nat) : toSigned k p = (BitVec.ofNat k p).toInt := by
  obtain ⟨m, rfl⟩ : ∃ m, k = m + 1 := ⟨k - 1, by omega⟩
  have h2 : 2 ^ (m + 1) = 2 * 2 ^ m := by rw [Nat.pow_succ, Nat.mul_comm]
  rw [toSigned, BitVec.toInt_eq_toNat_cond, BitVec.toNat_ofNat]
  simp only [Nat.add_sub_cancel, h2]
  split <;> split <;> omega

theorem laneInt_eq {k : Nat} (hk : 0 < k) (u : Bool) (p : Nat) : laneInt k u p = laneVal u (BitVec.ofNat k p) := by
  unfold laneInt laneVal
  split
  · rw [BitVec.toNat_ofNat]
  · exact toSigned_eq hk p

theorem truncInt_eq (k : Nat) (x : Int) : BitVec.ofNat k (truncInt k x) = BitVec.ofInt k x := by
  apply BitVec.eq_of_toNat_eq
  rw [BitVec.toNat_ofNat, BitVec.toNat_ofInt, truncInt]
  exact Nat.mod_eq_of_lt (by
    have := Int.emod_lt_of_pos x (show (0 : Int) < (2 ^ k : Nat) by have := Nat.two_pow_pos k; omega)
    have := Int.emod_nonneg x (show ((2 ^ k : Nat) : Int) ≠ 0 by have := Nat.two_pow_pos k; omega)
    omega)

theorem laneFit_eq (k : Nat) (u sat : Bool) (x : Int) : BitVec.ofNat k (laneFit k u sat x) = laneOf k u sat x := by
  rw [laneFit, truncInt_eq, laneOf]
  have hp : (0 : Int) < (2 : Int) ^ (k - 1) := Int.pow_pos (by decide)
  have hq : (0 : Int) < (2 : Int) ^ k := Int.pow_pos (by decide)
  cases sat with
  | false => rfl
  | true =>
    simp only [if_true, clampInt, Int.natCast_pow, Int.cast_ofNat_Int]
    congr 1
    cases u with
    | false =>
      simp only [Bool.false_eq_true, if_false]
      repeat' split
      all_goals (simp only; omega)
    | true =>
      simp only [if_true]
      repeat' split
      all_goals (simp only; omega)

end Sys2Proof.Laws
end

