-- ==== Sys2Proof/Laws/Nodes.lean ====
section
/-! SUPPORT. From what a node's result function answers to what the node does. -/

namespace Sys2Proof.Laws

open Sys2Proof Sys2Proof.Machine

/-- A node of two operands does what its result function says. -/
theorem node2_of {op : Nat} {i : Instr} {n : Nd} {g : Opd → Opd → Res Scalar} {good : Opd → Opd → Prop}
    {val : Opd → Opd → Scalar → Prop} (he : ∀ s, exec i s = node2 op n s g)
    (hg : ∀ a b, good a b → ∃ r, g a b = .ok r ∧ val a b r) : Node2 op i n good val := by
  intro s c a b s1 s2 hc hm ha hb hgood hemit
  obtain ⟨r, h1, h2⟩ := hg a b hgood
  obtain ⟨t, ht, hn⟩ := node2_ok hc hm ha hb h1 (hemit r h2)
  exact ⟨r, t, h2, ht, (he s).trans hn⟩

/-- A three-operand form does what its result function says. -/
theorem node3_of {op : Nat} {i : Instr} {n : N3} {g : Opd → Opd → Opd → Res Scalar} {good : Opd → Opd → Opd → Prop}
    {val : Opd → Opd → Opd → Scalar → Prop} (he : ∀ s, exec i s = node3 op n s g)
    (hg : ∀ a b d, good a b d → ∃ r, g a b d = .ok r ∧ val a b d r) : Node3 op i n good val := by
  intro s c a b d s1 s2 s3 hc hm ha hb hd hgood hemit
  obtain ⟨r, h1, h2⟩ := hg a b d hgood
  obtain ⟨t, ht, hn⟩ := node3_ok hc hm ha hb hd h1 (hemit r h2)
  exact ⟨r, t, h2, ht, (he s).trans hn⟩

/-- An integer node of two operands gives the lanes that its lane function says. -/
theorem intNode2_of {op : Nat} {i : Instr} {n : Nd} {w : Width} {u : Bool} {g : Nat → Nat → Nat}
    {rel : BitVec (Width.shape w).1 → BitVec (Width.shape w).1 → BitVec (Width.shape w).1 → Prop}
    (he : ∀ s, exec i s = node2 op n s (intResult2 w u g))
    (hr : ∀ p q : BitVec (Width.shape w).1, rel p q (BitVec.ofNat _ (g p.toNat q.toNat))) : IntNode2 op i n w u rel := by
  refine node2_of he ?_
  rintro a b ⟨x, y, hx, hy⟩
  obtain ⟨r, h1, h2⟩ := intResult2_ok (u := u) (g := g) hx hy
  refine ⟨r, h1, x, y, _, hx, hy, ?_, h2⟩
  intro j hj
  have := hr (laneBv (Width.shape w).1 j (intRead w u x)) (laneBv (Width.shape w).1 j (intRead w u y))
  rwa [BitVec.toNat_ofNat, BitVec.toNat_ofNat, Nat.mod_eq_of_lt (laneAt_lt _ _ _), Nat.mod_eq_of_lt (laneAt_lt _ _ _)] at this

/-- An integer node of one operand gives the lanes that its lane function says. -/
theorem intNode1_of {op : Nat} {i : Instr} {n : Nd} {w : Width} {g : Nat → Nat}
    {rel : BitVec (Width.shape w).1 → BitVec (Width.shape w).1 → Prop}
    (he : ∀ s, exec i s = node2 op n s fun a _ => intResult1 w g a)
    (hr : ∀ p : BitVec (Width.shape w).1, rel p (BitVec.ofNat _ (g p.toNat))) : IntNode1 op i n w rel := by
  refine node2_of he ?_
  rintro a b ⟨x, hx⟩
  obtain ⟨r, h1, h2⟩ := intResult1_ok (g := g) hx
  refine ⟨r, h1, x, _, hx, ?_, h2⟩
  intro j hj
  have := hr (laneBv (Width.shape w).1 j (intRead w false x))
  rwa [BitVec.toNat_ofNat, Nat.mod_eq_of_lt (laneAt_lt _ _ _)] at this

theorem shape_pos (w : Width) : 0 < (Width.shape w).1 := by cases w <;> decide

end Sys2Proof.Laws
end

