-- ==== Sys2Proof/Laws/FloatLanes.lean ====
section
/-! SUPPORT. The lanes of a packed floating result, and the values of the lanes of an operand. -/

namespace Sys2Proof.Laws

open Sys2Proof Sys2Proof.Machine

/-- A format whose lanes fill at most a token's 64 bits. -/
def Fits (f : LaneFmt) : Prop := f.w * f.n ≤ 64

theorem fits_f32 : Fits .f32 := by unfold Fits; decide
theorem fits_bf16 : Fits .bf16 := by unfold Fits; decide
theorem fits_e4 : Fits .e4 := by unfold Fits; decide
theorem fits_e5 : Fits .e5 := by unfold Fits; decide

/-- A packed list of codes has them as its lanes. -/
theorem floatLanes_pack {f : LaneFmt} (hf : Fits f) {l : List Nat} (hl : l.length = f.n) (sc : Bool) :
    FloatLanes f sc (fun j => l.getD j 0) ⟨f.pack l, f.ty, sc⟩ := by
  have hlt : joinLanes f.w l < 2 ^ (f.w * f.n) := hl ▸ joinLanes_lt f.w l
  have h64 : joinLanes f.w l < 2 ^ 64 := Nat.lt_of_lt_of_le hlt (Nat.pow_le_pow_right (by decide) hf)
  have hv : (f.pack l).toNat = joinLanes f.w l := by
    rw [LaneFmt.pack, BitVec.toNat_ofNat, Nat.mod_eq_of_lt h64]
  refine ⟨rfl, rfl, ?_, ?_⟩
  · show (f.pack l).toNat < _
    rw [hv]; exact hlt
  · intro j hj
    have hj' : j < l.length := hl ▸ hj
    show BitVec.ofNat _ (laneAt f.w j (f.pack l).toNat) = _
    rw [hv, laneAt_joinLanes _ _ _ hj']
    show _ = BitVec.ofNat _ (l.getD j 0)
    rw [List.getD_eq_getElem?_getD, List.getElem?_eq_getElem hj', Option.getD_some]
    apply BitVec.eq_of_toNat_eq
    simp

/-- The list of the lanes' values. -/
theorem values_eq (f : LaneFmt) (fz : Bool) (x : Scalar) :
    f.values fz x.val.toNat = (List.range f.n).map (laneFV f fz x) := by
  apply List.ext_getElem
  · simp [LaneFmt.values, LaneFmt.codes, lanesOf_length]
  · intro j h1 h2
    simp only [LaneFmt.values, LaneFmt.codes, List.getElem_map, lanesOf_get, List.getElem_range, laneFV]

theorem codes_eq (f : LaneFmt) (x : Scalar) :
    f.codes x.val.toNat = (List.range f.n).map fun j => laneAt f.w j x.val.toNat := by
  apply List.ext_getElem
  · simp [LaneFmt.codes, lanesOf_length]
  · intro j h1 h2
    simp only [LaneFmt.codes, lanesOf_get, List.getElem_map, List.getElem_range]

theorem zipWith_range {α β γ : Type} (g : α → β → γ) (p : Nat → α) (q : Nat → β) (n : Nat) :
    List.zipWith g ((List.range n).map p) ((List.range n).map q) = (List.range n).map fun j => g (p j) (q j) := by
  apply List.ext_getElem <;> simp

/-- A packed list given by a function of the lane number. -/
theorem floatLanes_range {f : LaneFmt} (hf : Fits f) (sc : Bool) (code : Nat → Nat) :
    FloatLanes f sc code ⟨f.pack ((List.range f.n).map code), f.ty, sc⟩ := by
  obtain ⟨h1, h2, h3, h4⟩ := floatLanes_pack hf (l := (List.range f.n).map code) (by simp) sc
  refine ⟨h1, h2, h3, fun j hj => (h4 j hj).trans ?_⟩
  simp [hj]

/-- The lanes of a rounded result. -/
theorem floatLanes_round {f : LaneFmt} (hf : Fits f) (mode : Rnd) (fz sc : Bool) (v : Nat → FV) :
    FloatLanes f sc (fun j => codeOf f mode fz (v j)) ⟨f.round mode fz ((List.range f.n).map v), f.ty, sc⟩ := by
  simp only [LaneFmt.round, List.map_map]
  exact floatLanes_range hf sc fun j => codeOf f mode fz (v j)

theorem floatE_of {op : Nat} {i : Instr} {n : Nd} {f : LaneFmt} {g : Nat → Nat → Word} {code : Scalar → Scalar → Nat → Nat}
    (he : ∀ s, exec i s = node2 op n s (floatE f g))
    (hg : ∀ x y : Scalar, x.sc = y.sc → FloatLanes f x.sc (code x y) ⟨g x.val.toNat y.val.toNat, f.ty, x.sc⟩) :
    FloatNodeE op i n f code := by
  refine node2_of he ?_
  rintro a b ⟨x, y, hx, hy, h⟩
  exact ⟨_, by simp only [floatE, FloatOpd] at *; simp [hx, hy, bind, Except.bind, need, h, pure, Except.pure], x, y, hx, hy, hg x y h⟩

theorem floatM_of {op : Nat} {i : Instr} {n : Nd} {f : LaneFmt} {g : Nat → Nat → Word} {code : Scalar → Scalar → Nat → Nat}
    (he : ∀ s, exec i s = node2 op n s (floatM f g))
    (hg : ∀ x y : Scalar, FloatLanes f (x.sc || y.sc) (code x y) ⟨g x.val.toNat y.val.toNat, f.ty, x.sc || y.sc⟩) :
    FloatNodeM op i n f code := by
  refine node2_of he ?_
  rintro a b ⟨x, y, hx, hy, h⟩
  refine ⟨_, ?_, x, y, hx, hy, hg x y⟩
  simp only [floatM, FloatOpd] at *
  cases hs : x.sc <;> cases ht : y.sc <;> simp_all [bind, Except.bind, need] <;> rfl

end Sys2Proof.Laws
end

