-- ==== Sys2Proof/Laws/Memory.lean ====
section
/-! SUPPORT. Memory: every operation keeps the canonical form, and a read gives what was last written. -/

namespace Sys2Proof.Laws

open Sys2Proof Sys2Proof.Machine

/-! ### The canonical form -/

theorem above_mono {m : Memory} : ∀ {k j : Nat}, j ≤ k → m.above k = true → m.above j = true := by
  induction m with
  | nil => intros; rfl
  | cons c m ih =>
    obtain ⟨a, b⟩ := c
    intro k j hj h
    simp only [Memory.above, Bool.and_eq_true, decide_eq_true_eq] at h ⊢
    exact ⟨⟨by omega, h.1.2⟩, h.2⟩

theorem wf_of_above {m : Memory} {k : Nat} (h : m.above k = true) : m.wf = true := by
  cases m with
  | nil => rfl
  | cons c m =>
    obtain ⟨a, b⟩ := c
    simp only [Memory.above, Memory.wf, Bool.and_eq_true] at h ⊢
    exact ⟨h.1.2, h.2⟩

theorem write_above {m : Memory} : ∀ {k a : Nat} {v : Byte}, m.above k = true → k < a → (m.write a v).above k = true := by
  induction m with
  | nil =>
    intro k a v _ ha
    unfold Memory.write
    split
    · rfl
    · simp only [Memory.above, Bool.and_true, Bool.and_eq_true, decide_eq_true_eq]
      exact ⟨ha, by assumption⟩
  | cons c m ih =>
    obtain ⟨x, y⟩ := c
    intro k a v h ha
    simp only [Memory.above, Bool.and_eq_true, decide_eq_true_eq] at h
    unfold Memory.write
    split
    · split
      · simp only [Memory.above, Bool.and_eq_true, decide_eq_true_eq]; exact h
      · simp only [Memory.above, Bool.and_eq_true, decide_eq_true_eq]
        exact ⟨⟨ha, by assumption⟩, ⟨by assumption, h.1.2⟩, h.2⟩
    · split
      · split
        · exact above_mono (by omega) h.2
        · simp only [Memory.above, Bool.and_eq_true, decide_eq_true_eq]
          exact ⟨⟨ha, by assumption⟩, above_mono (by omega) h.2⟩
      · simp only [Memory.above, Bool.and_eq_true, decide_eq_true_eq]
        exact ⟨h.1, ih h.2 (by omega)⟩

/-- Writing a byte keeps the canonical form. -/
theorem write_wf {m : Memory} (a : Nat) (v : Byte) (h : m.wf = true) : (m.write a v).wf = true := by
  cases m with
  | nil =>
    unfold Memory.write
    split
    · rfl
    · simp only [Memory.wf, Memory.above, Bool.and_true, decide_eq_true_eq]; assumption
  | cons c m =>
    obtain ⟨x, y⟩ := c
    simp only [Memory.wf, Bool.and_eq_true, decide_eq_true_eq] at h
    unfold Memory.write
    split
    · split
      · simp only [Memory.wf, Bool.and_eq_true, decide_eq_true_eq]; exact h
      · simp only [Memory.wf, Memory.above, Bool.and_eq_true, decide_eq_true_eq]
        exact ⟨by assumption, ⟨by assumption, h.1⟩, h.2⟩
    · split
      · split
        · exact wf_of_above h.2
        · simp only [Memory.wf, Bool.and_eq_true, decide_eq_true_eq]
          exact ⟨by assumption, above_mono (by omega) h.2⟩
      · simp only [Memory.wf, Bool.and_eq_true, decide_eq_true_eq]
        exact ⟨h.1, write_above h.2 (by omega)⟩

theorem writeN_wf {m : Memory} (k n v : Nat) (h : m.wf = true) : (m.writeN k n v).wf = true := by
  induction n generalizing m k v with
  | zero => exact h
  | succ n ih => exact ih _ _ (write_wf _ _ h)

theorem writeCells_wf {m : Memory} (l : List Host.Cell) (h : m.wf = true) : (m.writeCells l).wf = true := by
  induction l generalizing m with
  | nil => exact h
  | cons c l ih => exact ih (write_wf _ _ h)

theorem above_filter {m : Memory} (p : Host.Cell → Bool) : ∀ {k : Nat}, m.above k = true → Memory.above (m.filter p) k = true := by
  induction m with
  | nil => intros; rfl
  | cons c m ih =>
    obtain ⟨a, b⟩ := c
    intro k h
    simp only [Memory.above, Bool.and_eq_true, decide_eq_true_eq] at h
    simp only [List.filter_cons]
    split
    · simp only [Memory.above, Bool.and_eq_true, decide_eq_true_eq]
      exact ⟨h.1, ih h.2⟩
    · exact above_mono (by omega) (ih h.2)

/-- Dropping cells keeps the canonical form. -/
theorem filter_wf {m : Memory} (p : Host.Cell → Bool) (h : m.wf = true) : Memory.wf (m.filter p) = true := by
  cases m with
  | nil => rfl
  | cons c m =>
    obtain ⟨a, b⟩ := c
    simp only [Memory.wf, Bool.and_eq_true, decide_eq_true_eq] at h
    simp only [List.filter_cons]
    split
    · simp only [Memory.wf, Bool.and_eq_true, decide_eq_true_eq]
      exact ⟨h.1, above_filter p h.2⟩
    · exact wf_of_above (above_filter p h.2)

/-! ### Reading after writing -/

theorem read_above {m : Memory} : ∀ {k : Nat}, m.above k = true → m.read k = 0 := by
  cases m with
  | nil => intros; rfl
  | cons c m =>
    obtain ⟨a, b⟩ := c
    intro k h
    simp only [Memory.above, Bool.and_eq_true, decide_eq_true_eq] at h
    unfold Memory.read
    rw [if_neg (by omega), if_pos h.1.1]

theorem read_below {m : Memory} : ∀ {k j : Nat}, m.above k = true → j ≤ k → m.read j = 0 :=
  fun h hj => read_above (above_mono hj h)

theorem read_write_above {m : Memory} : ∀ {k a : Nat} {v : Byte} (j : Nat), m.above k = true → k < a →
    (m.write a v).read j = if j = a then v else m.read j := by
  induction m with
  | nil =>
    intro k a v j _ _
    unfold Memory.write
    split
    · next hv => subst hv; simp [Memory.read]
    · simp only [Memory.read]
      by_cases h : j = a
      · simp [h]
      · rw [if_neg (Ne.symm h), if_neg h]; split <;> rfl
  | cons c m ih =>
    obtain ⟨x, y⟩ := c
    intro k a v j h ha
    simp only [Memory.above, Bool.and_eq_true, decide_eq_true_eq] at h
    unfold Memory.write
    split
    · next hax =>
      split
      · next hv =>
        by_cases hj : j = a
        · rw [if_pos hj, hv]
          unfold Memory.read
          rw [if_neg (by omega), if_pos (by omega)]
        · rw [if_neg hj]
      · by_cases hj : j = a
        · subst hj; simp [Memory.read]
        · conv => lhs; unfold Memory.read
          rw [if_neg hj, if_neg (Ne.symm hj)]
          split
          · next h1 =>
            unfold Memory.read
            rw [if_neg (by omega), if_pos (by omega)]
          · rfl
    · next hax =>
      split
      · next hak =>
        subst hak
        split
        · next hv =>
          by_cases hj : j = a
          · subst hj; rw [if_pos rfl, hv]; exact read_above h.2
          · rw [if_neg hj]
            conv => rhs; unfold Memory.read
            rw [if_neg (Ne.symm hj)]
            split
            · exact read_below h.2 (by omega)
            · rfl
        · by_cases hj : j = a
          · subst hj; simp [Memory.read]
          · simp only [Memory.read, if_neg (Ne.symm hj), if_neg hj]
      · next hne =>
        by_cases hj : x = j
        · subst hj
          rw [if_neg (Ne.symm hne)]
          simp [Memory.read]
        · simp only [Memory.read, if_neg hj]
          by_cases hjx : j < x
          · rw [if_pos hjx, if_neg (by omega), if_pos hjx]
          · rw [if_neg hjx, if_neg hjx]
            exact ih j h.2 (by omega)

/-- A byte written is read back, and every other byte is what it was. -/
theorem read_write {m : Memory} (a j : Nat) (v : Byte) (h : m.wf = true) :
    (m.write a v).read j = if j = a then v else m.read j := by
  cases m with
  | nil =>
    unfold Memory.write
    split
    · next hv => subst hv; simp [Memory.read]
    · simp only [Memory.read]
      by_cases h : j = a
      · simp [h]
      · rw [if_neg (Ne.symm h), if_neg h]; split <;> rfl
  | cons c m =>
    obtain ⟨x, y⟩ := c
    simp only [Memory.wf, Bool.and_eq_true, decide_eq_true_eq] at h
    cases x with
    | succ x =>
      cases a with
      | succ a =>
        exact read_write_above (k := 0) j (by
          simp only [Memory.above, Bool.and_eq_true, decide_eq_true_eq]; exact ⟨⟨by omega, h.1⟩, h.2⟩) (by omega)
      | zero =>
        unfold Memory.write
        rw [if_pos (by omega)]
        split
        · next hv =>
          subst hv
          by_cases hj : j = 0
          · subst hj; rw [if_pos rfl]; unfold Memory.read; rw [if_neg (by omega), if_pos (by omega)]
          · rw [if_neg hj]
        · by_cases hj : j = 0
          · subst hj; simp [Memory.read]
          · rw [if_neg hj]
            conv => lhs; unfold Memory.read
            rw [if_neg (Ne.symm hj), if_neg (by omega)]
    | zero =>
      unfold Memory.write
      rw [if_neg (by omega)]
      split
      · next ha =>
        subst ha
        split
        · next hv =>
          subst hv
          by_cases hj : j = 0
          · subst hj; rw [if_pos rfl]; exact read_above h.2
          · rw [if_neg hj]
            conv => rhs; unfold Memory.read
            rw [if_neg (Ne.symm hj), if_neg (by omega)]
        · by_cases hj : j = 0
          · subst hj; simp [Memory.read]
          · simp only [Memory.read, if_neg (Ne.symm hj), if_neg hj]
      · next hne =>
        by_cases hj : 0 = j
        · subst hj; rw [if_neg (by omega)]; simp [Memory.read]
        · simp only [Memory.read, if_neg hj, Nat.not_lt_zero, if_false]
          exact read_write_above j h.2 (by omega)

/-- Memory that several cells are written into reads as before outside them. -/
theorem read_writeCells {m : Memory} (l : List Host.Cell) (j : Nat) (h : m.wf = true) (hj : ∀ c ∈ l, c.1 ≠ j) :
    (m.writeCells l).read j = m.read j := by
  induction l generalizing m with
  | nil => rfl
  | cons c l ih =>
    obtain ⟨a, b⟩ := c
    rw [Memory.writeCells, ih (write_wf _ _ h) (fun c hc => hj c (List.mem_cons_of_mem _ hc)), read_write _ _ _ h,
      if_neg (Ne.symm (hj (a, b) List.mem_cons_self))]

theorem read_writeN {m : Memory} (k n v j : Nat) (h : m.wf = true) (hj : j < k ∨ k + n ≤ j) :
    (m.writeN k n v).read j = m.read j := by
  induction n generalizing m k v with
  | zero => rfl
  | succ n ih => rw [Memory.writeN, ih _ _ (write_wf _ _ h) (by omega), read_write _ _ _ h, if_neg (by omega)]

/-- What `writeN` wrote is read back (R5). -/
theorem readN_writeN {m : Memory} (k n v : Nat) (h : m.wf = true) : (m.writeN k n v).readN k n = v % 2 ^ (8 * n) := by
  induction n generalizing m k v with
  | zero => simp [Memory.readN, Nat.mod_one]
  | succ n ih =>
    have hw := write_wf k (BitVec.ofNat 8 v) h
    rw [Memory.readN, Memory.writeN, ih (k + 1) (v / 256) hw, read_writeN _ _ _ _ hw (by omega), read_write _ _ _ h, if_pos rfl]
    simp only [BitVec.toNat_ofNat]
    have h8 : 2 ^ (8 * (n + 1)) = 256 * 2 ^ (8 * n) := by rw [show 8 * (n + 1) = 8 + 8 * n by omega, Nat.pow_add]
    rw [h8, Nat.mod_mul]

theorem cellsOf_mem {k n v : Nat} {c : Host.Cell} (h : c ∈ cellsOf k n v) : k ≤ c.1 ∧ c.1 < k + n := by
  induction n generalizing k v with
  | zero => simp [cellsOf] at h
  | succ n ih =>
    simp only [cellsOf, List.mem_cons] at h
    cases h with
    | inl h => subst h; constructor <;> simp only <;> omega
    | inr h => have := ih h; omega

theorem writeCells_cellsOf (m : Memory) (k n v : Nat) : m.writeCells (cellsOf k n v) = m.writeN k n v := by
  induction n generalizing m k v with
  | zero => rfl
  | succ n ih => exact ih _ _ _

/-! ### Writes of the state -/

/-- Bytes that reach memory leave it canonical. -/
theorem landWrite_wf {s : State} (line : Nat) (cells : List Host.Cell) (d : Option Desc) (t : Option EncTag)
    (h : s.MemOk) : (landWrite s line cells d t).MemOk := by
  have h1 := writeCells_wf cells h
  cases d with
  | none => exact h1
  | some d => exact writeN_wf _ _ _ h1

/-- Bytes that reach memory leave every byte outside them and outside their line's descriptor as it was. -/
theorem landWrite_read {s : State} (line : Nat) (cells : List Host.Cell) (d : Option Desc) (t : Option EncTag) (j : Nat)
    (h : s.MemOk) (hj : ∀ c ∈ cells, c.1 ≠ j) (hd : d = none ∨ j < descKey line ∨ descKey line + 2 ≤ j) :
    Memory.read (landWrite s line cells d t).mem j = Memory.read s.mem j := by
  have h1 := writeCells_wf cells h
  cases d with
  | none => exact read_writeCells cells j h hj
  | some d =>
    have hd' : j < descKey line ∨ descKey line + 2 ≤ j := hd.resolve_left (by simp)
    exact (read_writeN _ _ _ _ h1 hd').trans (read_writeCells cells j h hj)

theorem foldl_wf {α : Type} (g : State → α → State) (hg : ∀ s a, s.MemOk → (g s a).MemOk) (l : List α) :
    ∀ s : State, s.MemOk → (l.foldl g s).MemOk := by
  induction l with
  | nil => exact fun _ h => h
  | cons a l ih => exact fun s h => ih _ (hg s a h)

/-- Held stores that land keep memory canonical. -/
theorem landHeld_wf {s : State} (line : Nat) (p : Nat → HeldStore → Bool) (h : s.MemOk) : (landHeld s line p).MemOk :=
  foldl_wf (fun (s : State) (e : HeldStore) => landWrite s e.line e.bytes e.desc e.enc)
    (fun _ _ h => landWrite_wf _ _ _ _ h) _ s h

theorem landAll_wf {s : State} (h : s.MemOk) : (landAll s).MemOk :=
  foldl_wf (fun (s : State) (e : HeldStore) => landHeld s e.line fun _ d => d.id ≤ e.id)
    (fun _ _ h => landHeld_wf _ _ h) _ s h

/-- Draining keeps memory canonical. -/
theorem drainLine_wf {s : State} (line : Nat) (p : Nat → HeldStore → Bool) (h : s.MemOk) : (drainLine s line p).MemOk := by
  unfold drainLine
  simp only
  split
  · exact landAll_wf (landHeld_wf _ _ h)
  · exact landHeld_wf _ _ h

theorem drainWhere_wf {s : State} (p : Nat → HeldStore → Bool) (h : s.MemOk) : (drainWhere s p).MemOk :=
  foldl_wf drainStore (fun _ _ h => drainLine_wf _ _ h) _ s h

/-- A write that becomes visible keeps memory canonical. -/
theorem visibleWrite_wf {s : State} (line : Nat) (cells : List Host.Cell) (d : Option Desc) (t : Option EncTag)
    (h : s.MemOk) : (visibleWrite s line cells d t).MemOk := by
  refine landWrite_wf _ _ _ _ ?_
  split
  · exact drainWhere_wf _ h
  · exact drainLine_wf _ _ h

/-- Where no store to a line is held, draining it changes nothing but empty queues. -/
theorem drainLine_none {s : State} (line : Nat) (p : Nat → HeldStore → Bool) (h : heldTo s line p = []) :
    (drainLine s line p).mem = s.mem := by
  simp [drainLine, landHeld, h]

/-- A write that becomes visible leaves every byte outside its cells and its descriptor as it was, where nothing drains
before it. -/
theorem visibleWrite_read {s : State} (line : Nat) (cells : List Host.Cell) (d : Option Desc) (t : Option EncTag) (j : Nat)
    (h : s.MemOk) (hq : heldTo s line (fun _ _ => true) = []) (ht : translates s line = false)
    (hj : ∀ c ∈ cells, c.1 ≠ j) (hd : d = none ∨ j < descKey line ∨ descKey line + 2 ≤ j) :
    Memory.read (visibleWrite s line cells d t).mem j = Memory.read s.mem j := by
  have hm : Memory.read (drainLine s line fun _ _ => true).mem j = Memory.read s.mem j := by rw [drainLine_none _ _ hq]
  unfold visibleWrite
  simp only [ht, Bool.false_eq_true, if_false]
  exact (landWrite_read line cells d t j (drainLine_wf _ _ h) hj hd).trans hm

/-- A frame copy is made without touching memory. -/
theorem ensureCopy_mem {s s' : State} {rid : Nat} {t : Tag} {cl : Nat} (h : ensureCopy s rid t cl = .ok s') :
    s'.mem = s.mem := by
  unfold ensureCopy at h
  simp only at h
  split at h
  · simp only [Except.ok.injEq] at h; rw [← h]
  · split at h
    · simp only [Except.ok.injEq] at h; rw [← h]; rfl
    · simp at h

theorem postCpl_wf {s : State} (fn a b c d : Nat) (h : s.MemOk) : (postCpl s fn a b c d).MemOk := writeN_wf _ _ _ h

theorem post_wf {s : State} (f : Flit) (h : s.MemOk) : (Machine.post s f).MemOk := by
  unfold Machine.post
  split <;> exact h

theorem ringWrite_wf {s : State} (p : Part) (r : BitVec 512) (h : s.MemOk) : (ringWrite s p r).MemOk := by
  unfold ringWrite
  exact post_wf _ (visibleWrite_wf _ _ _ _ (visibleWrite_wf _ _ _ _ h))

/-- Taking a fault keeps memory canonical. -/
theorem takeFault_wf {s : State} (w : FaultSite) (f : Flt) (h : s.MemOk) : (takeFault s w f).MemOk := by
  have htl : (tellLaunch s w.rid (w.cls.getD f.cause.cls)).MemOk := by
    unfold tellLaunch
    repeat' split
    · exact postCpl_wf _ _ _ _ _ h
    · exact h
    · exact h
  unfold takeFault
  simp only
  generalize hpn : (if (s.region w.rid).host = [] then partOf s w.cl else (s.region w.rid).part) = pn
  split
  · exact postCpl_wf _ _ _ _ _ h
  · split
    · exact htl
    · exact ringWrite_wf _ _ htl

theorem commitStore_wf {s : State} (cl : Nat) (e : LogStore) (h : s.MemOk) : (commitStore s cl e).MemOk := by
  have hd : (dropLine (if translates s e.line then landAll s else drainLine s e.line fun _ _ => true) cl e.line).MemOk := by
    split
    · exact landAll_wf h
    · exact drainLine_wf _ _ h
  unfold commitStore
  simp only
  generalize dropLine _ cl e.line = t at hd ⊢
  split
  · exact landWrite_wf _ _ _ _ hd
  · exact takeFault_wf _ _ hd

theorem commitCluster_wf {s : State} (rid cl : Nat) (h : s.MemOk) : (commitCluster s rid cl).MemOk :=
  foldl_wf (fun (s : State) (e : LogStore) => commitStore s cl e) (fun _ _ h => commitStore_wf cl _ h) _ s h

theorem commitLogs_wf {s : State} (rid : Nat) (h : s.MemOk) : (commitLogs s rid).MemOk := by
  unfold commitLogs
  exact foldl_wf _ (fun s a h => commitCluster_wf rid a h) _ s h

theorem makeIrrevocable_wf {s : State} (rid : Nat) (h : s.MemOk) : (makeIrrevocable s rid).MemOk := by
  unfold makeIrrevocable
  split
  · exact commitLogs_wf rid h
  · exact h

theorem logUndo_wf {s : State} (rid cl : Nat) (u : Undo) (h : s.MemOk) : (logUndo s rid cl u).MemOk := by
  unfold logUndo
  repeat' split
  · exact makeIrrevocable_wf rid h
  · exact h
  · exact h

theorem changeFrame_wf {s : State} (rid cl : Nat) (t : Tag) (f : Frame) (h : s.MemOk) : (changeFrame s rid cl t f).MemOk :=
  logUndo_wf rid cl _ h

end Sys2Proof.Laws
end

