-- ==== Sys2Proof/Laws/State.lean ====
section
/-! SUPPORT. One lemma for each field of the state under each of its updates, and what a changed part reads as. -/

namespace Sys2Proof.Laws

open Sys2Proof Sys2Proof.Machine

@[simp] theorem modUnit_clock (s : State) (u : UId) (g : HwUnit → HwUnit) : (s.modUnit u g).clock = s.clock := rfl
@[simp] theorem modUnit_nonce (s : State) (u : UId) (g : HwUnit → HwUnit) : (s.modUnit u g).nonce = s.nonce := rfl
@[simp] theorem modUnit_issued (s : State) (u : UId) (g : HwUnit → HwUnit) : (s.modUnit u g).issued = s.issued := rfl
@[simp] theorem modUnit_nextId (s : State) (u : UId) (g : HwUnit → HwUnit) : (s.modUnit u g).nextId = s.nextId := rfl
@[simp] theorem modUnit_agenda (s : State) (u : UId) (g : HwUnit → HwUnit) : (s.modUnit u g).agenda = s.agenda := rfl
@[simp] theorem modUnit_cur (s : State) (u : UId) (g : HwUnit → HwUnit) : (s.modUnit u g).cur = s.cur := rfl
@[simp] theorem modUnit_mem (s : State) (u : UId) (g : HwUnit → HwUnit) : (s.modUnit u g).mem = s.mem := rfl
@[simp] theorem modUnit_enc (s : State) (u : UId) (g : HwUnit → HwUnit) : (s.modUnit u g).enc = s.enc := rfl
@[simp] theorem modUnit_zeroed (s : State) (u : UId) (g : HwUnit → HwUnit) : (s.modUnit u g).zeroed = s.zeroed := rfl
@[simp] theorem modUnit_poison (s : State) (u : UId) (g : HwUnit → HwUnit) : (s.modUnit u g).poison = s.poison := rfl
@[simp] theorem modUnit_pageRecs (s : State) (u : UId) (g : HwUnit → HwUnit) : (s.modUnit u g).pageRecs = s.pageRecs := rfl
@[simp] theorem modUnit_clusters (s : State) (u : UId) (g : HwUnit → HwUnit) : (s.modUnit u g).clusters = s.clusters := rfl
@[simp] theorem modUnit_frames (s : State) (u : UId) (g : HwUnit → HwUnit) : (s.modUnit u g).frames = s.frames := rfl
@[simp] theorem modUnit_regions (s : State) (u : UId) (g : HwUnit → HwUnit) : (s.modUnit u g).regions = s.regions := rfl
@[simp] theorem modUnit_net (s : State) (u : UId) (g : HwUnit → HwUnit) : (s.modUnit u g).net = s.net := rfl
@[simp] theorem modUnit_cfgNet (s : State) (u : UId) (g : HwUnit → HwUnit) : (s.modUnit u g).cfgNet = s.cfgNet := rfl
@[simp] theorem modUnit_parts (s : State) (u : UId) (g : HwUnit → HwUnit) : (s.modUnit u g).parts = s.parts := rfl
@[simp] theorem modUnit_partMap (s : State) (u : UId) (g : HwUnit → HwUnit) : (s.modUnit u g).partMap = s.partMap := rfl
@[simp] theorem modUnit_edgeCal (s : State) (u : UId) (g : HwUnit → HwUnit) : (s.modUnit u g).edgeCal = s.edgeCal := rfl
@[simp] theorem modUnit_hg (s : State) (u : UId) (g : HwUnit → HwUnit) : (s.modUnit u g).hg = s.hg := rfl
@[simp] theorem modUnit_out (s : State) (u : UId) (g : HwUnit → HwUnit) : (s.modUnit u g).out = s.out := rfl

@[simp] theorem modCluster_clock (s : State) (c : Nat) (g : Cluster → Cluster) : (s.modCluster c g).clock = s.clock := rfl
@[simp] theorem modCluster_nonce (s : State) (c : Nat) (g : Cluster → Cluster) : (s.modCluster c g).nonce = s.nonce := rfl
@[simp] theorem modCluster_issued (s : State) (c : Nat) (g : Cluster → Cluster) : (s.modCluster c g).issued = s.issued := rfl
@[simp] theorem modCluster_nextId (s : State) (c : Nat) (g : Cluster → Cluster) : (s.modCluster c g).nextId = s.nextId := rfl
@[simp] theorem modCluster_agenda (s : State) (c : Nat) (g : Cluster → Cluster) : (s.modCluster c g).agenda = s.agenda := rfl
@[simp] theorem modCluster_cur (s : State) (c : Nat) (g : Cluster → Cluster) : (s.modCluster c g).cur = s.cur := rfl
@[simp] theorem modCluster_mem (s : State) (c : Nat) (g : Cluster → Cluster) : (s.modCluster c g).mem = s.mem := rfl
@[simp] theorem modCluster_enc (s : State) (c : Nat) (g : Cluster → Cluster) : (s.modCluster c g).enc = s.enc := rfl
@[simp] theorem modCluster_zeroed (s : State) (c : Nat) (g : Cluster → Cluster) : (s.modCluster c g).zeroed = s.zeroed := rfl
@[simp] theorem modCluster_poison (s : State) (c : Nat) (g : Cluster → Cluster) : (s.modCluster c g).poison = s.poison := rfl
@[simp] theorem modCluster_pageRecs (s : State) (c : Nat) (g : Cluster → Cluster) : (s.modCluster c g).pageRecs = s.pageRecs := rfl
@[simp] theorem modCluster_units (s : State) (c : Nat) (g : Cluster → Cluster) : (s.modCluster c g).units = s.units := rfl
@[simp] theorem modCluster_frames (s : State) (c : Nat) (g : Cluster → Cluster) : (s.modCluster c g).frames = s.frames := rfl
@[simp] theorem modCluster_regions (s : State) (c : Nat) (g : Cluster → Cluster) : (s.modCluster c g).regions = s.regions := rfl
@[simp] theorem modCluster_net (s : State) (c : Nat) (g : Cluster → Cluster) : (s.modCluster c g).net = s.net := rfl
@[simp] theorem modCluster_cfgNet (s : State) (c : Nat) (g : Cluster → Cluster) : (s.modCluster c g).cfgNet = s.cfgNet := rfl
@[simp] theorem modCluster_parts (s : State) (c : Nat) (g : Cluster → Cluster) : (s.modCluster c g).parts = s.parts := rfl
@[simp] theorem modCluster_partMap (s : State) (c : Nat) (g : Cluster → Cluster) : (s.modCluster c g).partMap = s.partMap := rfl
@[simp] theorem modCluster_edgeCal (s : State) (c : Nat) (g : Cluster → Cluster) : (s.modCluster c g).edgeCal = s.edgeCal := rfl
@[simp] theorem modCluster_hg (s : State) (c : Nat) (g : Cluster → Cluster) : (s.modCluster c g).hg = s.hg := rfl
@[simp] theorem modCluster_out (s : State) (c : Nat) (g : Cluster → Cluster) : (s.modCluster c g).out = s.out := rfl

@[simp] theorem modRegion_clock (s : State) (r : Nat) (g : Region → Region) : (s.modRegion r g).clock = s.clock := rfl
@[simp] theorem modRegion_nonce (s : State) (r : Nat) (g : Region → Region) : (s.modRegion r g).nonce = s.nonce := rfl
@[simp] theorem modRegion_issued (s : State) (r : Nat) (g : Region → Region) : (s.modRegion r g).issued = s.issued := rfl
@[simp] theorem modRegion_nextId (s : State) (r : Nat) (g : Region → Region) : (s.modRegion r g).nextId = s.nextId := rfl
@[simp] theorem modRegion_agenda (s : State) (r : Nat) (g : Region → Region) : (s.modRegion r g).agenda = s.agenda := rfl
@[simp] theorem modRegion_cur (s : State) (r : Nat) (g : Region → Region) : (s.modRegion r g).cur = s.cur := rfl
@[simp] theorem modRegion_mem (s : State) (r : Nat) (g : Region → Region) : (s.modRegion r g).mem = s.mem := rfl
@[simp] theorem modRegion_enc (s : State) (r : Nat) (g : Region → Region) : (s.modRegion r g).enc = s.enc := rfl
@[simp] theorem modRegion_zeroed (s : State) (r : Nat) (g : Region → Region) : (s.modRegion r g).zeroed = s.zeroed := rfl
@[simp] theorem modRegion_poison (s : State) (r : Nat) (g : Region → Region) : (s.modRegion r g).poison = s.poison := rfl
@[simp] theorem modRegion_pageRecs (s : State) (r : Nat) (g : Region → Region) : (s.modRegion r g).pageRecs = s.pageRecs := rfl
@[simp] theorem modRegion_units (s : State) (r : Nat) (g : Region → Region) : (s.modRegion r g).units = s.units := rfl
@[simp] theorem modRegion_clusters (s : State) (r : Nat) (g : Region → Region) : (s.modRegion r g).clusters = s.clusters := rfl
@[simp] theorem modRegion_frames (s : State) (r : Nat) (g : Region → Region) : (s.modRegion r g).frames = s.frames := rfl
@[simp] theorem modRegion_net (s : State) (r : Nat) (g : Region → Region) : (s.modRegion r g).net = s.net := rfl
@[simp] theorem modRegion_cfgNet (s : State) (r : Nat) (g : Region → Region) : (s.modRegion r g).cfgNet = s.cfgNet := rfl
@[simp] theorem modRegion_parts (s : State) (r : Nat) (g : Region → Region) : (s.modRegion r g).parts = s.parts := rfl
@[simp] theorem modRegion_partMap (s : State) (r : Nat) (g : Region → Region) : (s.modRegion r g).partMap = s.partMap := rfl
@[simp] theorem modRegion_edgeCal (s : State) (r : Nat) (g : Region → Region) : (s.modRegion r g).edgeCal = s.edgeCal := rfl
@[simp] theorem modRegion_hg (s : State) (r : Nat) (g : Region → Region) : (s.modRegion r g).hg = s.hg := rfl
@[simp] theorem modRegion_out (s : State) (r : Nat) (g : Region → Region) : (s.modRegion r g).out = s.out := rfl

@[simp] theorem modPart_clock (s : State) (p : Nat) (g : Part → Part) : (s.modPart p g).clock = s.clock := rfl
@[simp] theorem modPart_nonce (s : State) (p : Nat) (g : Part → Part) : (s.modPart p g).nonce = s.nonce := rfl
@[simp] theorem modPart_issued (s : State) (p : Nat) (g : Part → Part) : (s.modPart p g).issued = s.issued := rfl
@[simp] theorem modPart_nextId (s : State) (p : Nat) (g : Part → Part) : (s.modPart p g).nextId = s.nextId := rfl
@[simp] theorem modPart_agenda (s : State) (p : Nat) (g : Part → Part) : (s.modPart p g).agenda = s.agenda := rfl
@[simp] theorem modPart_cur (s : State) (p : Nat) (g : Part → Part) : (s.modPart p g).cur = s.cur := rfl
@[simp] theorem modPart_mem (s : State) (p : Nat) (g : Part → Part) : (s.modPart p g).mem = s.mem := rfl
@[simp] theorem modPart_enc (s : State) (p : Nat) (g : Part → Part) : (s.modPart p g).enc = s.enc := rfl
@[simp] theorem modPart_zeroed (s : State) (p : Nat) (g : Part → Part) : (s.modPart p g).zeroed = s.zeroed := rfl
@[simp] theorem modPart_poison (s : State) (p : Nat) (g : Part → Part) : (s.modPart p g).poison = s.poison := rfl
@[simp] theorem modPart_pageRecs (s : State) (p : Nat) (g : Part → Part) : (s.modPart p g).pageRecs = s.pageRecs := rfl
@[simp] theorem modPart_units (s : State) (p : Nat) (g : Part → Part) : (s.modPart p g).units = s.units := rfl
@[simp] theorem modPart_clusters (s : State) (p : Nat) (g : Part → Part) : (s.modPart p g).clusters = s.clusters := rfl
@[simp] theorem modPart_frames (s : State) (p : Nat) (g : Part → Part) : (s.modPart p g).frames = s.frames := rfl
@[simp] theorem modPart_regions (s : State) (p : Nat) (g : Part → Part) : (s.modPart p g).regions = s.regions := rfl
@[simp] theorem modPart_net (s : State) (p : Nat) (g : Part → Part) : (s.modPart p g).net = s.net := rfl
@[simp] theorem modPart_cfgNet (s : State) (p : Nat) (g : Part → Part) : (s.modPart p g).cfgNet = s.cfgNet := rfl
@[simp] theorem modPart_partMap (s : State) (p : Nat) (g : Part → Part) : (s.modPart p g).partMap = s.partMap := rfl
@[simp] theorem modPart_edgeCal (s : State) (p : Nat) (g : Part → Part) : (s.modPart p g).edgeCal = s.edgeCal := rfl
@[simp] theorem modPart_hg (s : State) (p : Nat) (g : Part → Part) : (s.modPart p g).hg = s.hg := rfl
@[simp] theorem modPart_out (s : State) (p : Nat) (g : Part → Part) : (s.modPart p g).out = s.out := rfl

@[simp] theorem setFrame_clock (s : State) (r die fr : Nat) (f : Frame) : (s.setFrame r die fr f).clock = s.clock := rfl
@[simp] theorem setFrame_nonce (s : State) (r die fr : Nat) (f : Frame) : (s.setFrame r die fr f).nonce = s.nonce := rfl
@[simp] theorem setFrame_issued (s : State) (r die fr : Nat) (f : Frame) : (s.setFrame r die fr f).issued = s.issued := rfl
@[simp] theorem setFrame_nextId (s : State) (r die fr : Nat) (f : Frame) : (s.setFrame r die fr f).nextId = s.nextId := rfl
@[simp] theorem setFrame_agenda (s : State) (r die fr : Nat) (f : Frame) : (s.setFrame r die fr f).agenda = s.agenda := rfl
@[simp] theorem setFrame_cur (s : State) (r die fr : Nat) (f : Frame) : (s.setFrame r die fr f).cur = s.cur := rfl
@[simp] theorem setFrame_mem (s : State) (r die fr : Nat) (f : Frame) : (s.setFrame r die fr f).mem = s.mem := rfl
@[simp] theorem setFrame_enc (s : State) (r die fr : Nat) (f : Frame) : (s.setFrame r die fr f).enc = s.enc := rfl
@[simp] theorem setFrame_zeroed (s : State) (r die fr : Nat) (f : Frame) : (s.setFrame r die fr f).zeroed = s.zeroed := rfl
@[simp] theorem setFrame_poison (s : State) (r die fr : Nat) (f : Frame) : (s.setFrame r die fr f).poison = s.poison := rfl
@[simp] theorem setFrame_pageRecs (s : State) (r die fr : Nat) (f : Frame) : (s.setFrame r die fr f).pageRecs = s.pageRecs := rfl
@[simp] theorem setFrame_units (s : State) (r die fr : Nat) (f : Frame) : (s.setFrame r die fr f).units = s.units := rfl
@[simp] theorem setFrame_clusters (s : State) (r die fr : Nat) (f : Frame) : (s.setFrame r die fr f).clusters = s.clusters := rfl
@[simp] theorem setFrame_regions (s : State) (r die fr : Nat) (f : Frame) : (s.setFrame r die fr f).regions = s.regions := rfl
@[simp] theorem setFrame_net (s : State) (r die fr : Nat) (f : Frame) : (s.setFrame r die fr f).net = s.net := rfl
@[simp] theorem setFrame_cfgNet (s : State) (r die fr : Nat) (f : Frame) : (s.setFrame r die fr f).cfgNet = s.cfgNet := rfl
@[simp] theorem setFrame_parts (s : State) (r die fr : Nat) (f : Frame) : (s.setFrame r die fr f).parts = s.parts := rfl
@[simp] theorem setFrame_partMap (s : State) (r die fr : Nat) (f : Frame) : (s.setFrame r die fr f).partMap = s.partMap := rfl
@[simp] theorem setFrame_edgeCal (s : State) (r die fr : Nat) (f : Frame) : (s.setFrame r die fr f).edgeCal = s.edgeCal := rfl
@[simp] theorem setFrame_hg (s : State) (r die fr : Nat) (f : Frame) : (s.setFrame r die fr f).hg = s.hg := rfl
@[simp] theorem setFrame_out (s : State) (r die fr : Nat) (f : Frame) : (s.setFrame r die fr f).out = s.out := rfl

@[simp] theorem fresh_clock (s : State) : s.fresh.2.clock = s.clock := rfl
@[simp] theorem fresh_nonce (s : State) : s.fresh.2.nonce = s.nonce := rfl
@[simp] theorem fresh_issued (s : State) : s.fresh.2.issued = s.issued := rfl
@[simp] theorem fresh_agenda (s : State) : s.fresh.2.agenda = s.agenda := rfl
@[simp] theorem fresh_cur (s : State) : s.fresh.2.cur = s.cur := rfl
@[simp] theorem fresh_mem (s : State) : s.fresh.2.mem = s.mem := rfl
@[simp] theorem fresh_enc (s : State) : s.fresh.2.enc = s.enc := rfl
@[simp] theorem fresh_zeroed (s : State) : s.fresh.2.zeroed = s.zeroed := rfl
@[simp] theorem fresh_poison (s : State) : s.fresh.2.poison = s.poison := rfl
@[simp] theorem fresh_pageRecs (s : State) : s.fresh.2.pageRecs = s.pageRecs := rfl
@[simp] theorem fresh_units (s : State) : s.fresh.2.units = s.units := rfl
@[simp] theorem fresh_clusters (s : State) : s.fresh.2.clusters = s.clusters := rfl
@[simp] theorem fresh_frames (s : State) : s.fresh.2.frames = s.frames := rfl
@[simp] theorem fresh_regions (s : State) : s.fresh.2.regions = s.regions := rfl
@[simp] theorem fresh_net (s : State) : s.fresh.2.net = s.net := rfl
@[simp] theorem fresh_cfgNet (s : State) : s.fresh.2.cfgNet = s.cfgNet := rfl
@[simp] theorem fresh_parts (s : State) : s.fresh.2.parts = s.parts := rfl
@[simp] theorem fresh_partMap (s : State) : s.fresh.2.partMap = s.partMap := rfl
@[simp] theorem fresh_edgeCal (s : State) : s.fresh.2.edgeCal = s.edgeCal := rfl
@[simp] theorem fresh_hg (s : State) : s.fresh.2.hg = s.hg := rfl
@[simp] theorem fresh_out (s : State) : s.fresh.2.out = s.out := rfl
@[simp] theorem fresh_fst (s : State) : s.fresh.1 = s.nextId := rfl
@[simp] theorem fresh_nextId (s : State) : s.fresh.2.nextId = s.nextId + 1 := rfl

@[simp] theorem free_clock (s : State) : s.free.2.clock = s.clock := rfl
@[simp] theorem free_issued (s : State) : s.free.2.issued = s.issued := rfl
@[simp] theorem free_nextId (s : State) : s.free.2.nextId = s.nextId := rfl
@[simp] theorem free_agenda (s : State) : s.free.2.agenda = s.agenda := rfl
@[simp] theorem free_cur (s : State) : s.free.2.cur = s.cur := rfl
@[simp] theorem free_mem (s : State) : s.free.2.mem = s.mem := rfl
@[simp] theorem free_enc (s : State) : s.free.2.enc = s.enc := rfl
@[simp] theorem free_zeroed (s : State) : s.free.2.zeroed = s.zeroed := rfl
@[simp] theorem free_poison (s : State) : s.free.2.poison = s.poison := rfl
@[simp] theorem free_pageRecs (s : State) : s.free.2.pageRecs = s.pageRecs := rfl
@[simp] theorem free_units (s : State) : s.free.2.units = s.units := rfl
@[simp] theorem free_clusters (s : State) : s.free.2.clusters = s.clusters := rfl
@[simp] theorem free_frames (s : State) : s.free.2.frames = s.frames := rfl
@[simp] theorem free_regions (s : State) : s.free.2.regions = s.regions := rfl
@[simp] theorem free_net (s : State) : s.free.2.net = s.net := rfl
@[simp] theorem free_cfgNet (s : State) : s.free.2.cfgNet = s.cfgNet := rfl
@[simp] theorem free_parts (s : State) : s.free.2.parts = s.parts := rfl
@[simp] theorem free_partMap (s : State) : s.free.2.partMap = s.partMap := rfl
@[simp] theorem free_edgeCal (s : State) : s.free.2.edgeCal = s.edgeCal := rfl
@[simp] theorem free_hg (s : State) : s.free.2.hg = s.hg := rfl
@[simp] theorem free_out (s : State) : s.free.2.out = s.out := rfl

/-! ### What a changed part reads as -/

@[simp] theorem unit_modUnit (s : State) (u v : UId) (g : HwUnit → HwUnit) :
    (s.modUnit u g).unit v = if u = v then g (s.unit u) else s.unit v := get_set _ _ _ _ _

@[simp] theorem cluster_modCluster (s : State) (c d : Nat) (g : Cluster → Cluster) :
    (s.modCluster c g).cluster d = if c = d then g (s.cluster c) else s.cluster d := get_set _ _ _ _ _

@[simp] theorem region_modRegion (s : State) (r q : Nat) (g : Region → Region) :
    (s.modRegion r g).region q = if r = q then g (s.region r) else s.region q := get_set _ _ _ _ _

@[simp] theorem part_modPart (s : State) (p : Nat) (g : Part → Part) : (s.modPart p g).part p = g (s.part p) := by
  simp only [State.part, State.modPart, get_set, if_true]

@[simp] theorem frame_setFrame (s : State) (r die fr r' die' fr' : Nat) (f : Frame) :
    (s.setFrame r die fr f).frame r' die' fr' = if (r, die, fr) = (r', die', fr') then f else s.frame r' die' fr' :=
  get_set _ _ _ _ _

@[simp] theorem cluster_modUnit (s : State) (u : UId) (g : HwUnit → HwUnit) (d : Nat) : (s.modUnit u g).cluster d = s.cluster d := rfl
@[simp] theorem region_modUnit (s : State) (u : UId) (g : HwUnit → HwUnit) (q : Nat) : (s.modUnit u g).region q = s.region q := rfl
@[simp] theorem part_modUnit (s : State) (u : UId) (g : HwUnit → HwUnit) (q : Nat) : (s.modUnit u g).part q = s.part q := rfl
@[simp] theorem frame_modUnit (s : State) (u : UId) (g : HwUnit → HwUnit) (i j k : Nat) : (s.modUnit u g).frame i j k = s.frame i j k := rfl
@[simp] theorem unit_modCluster (s : State) (c : Nat) (g : Cluster → Cluster) (v : UId) : (s.modCluster c g).unit v = s.unit v := rfl
@[simp] theorem region_modCluster (s : State) (c : Nat) (g : Cluster → Cluster) (q : Nat) : (s.modCluster c g).region q = s.region q := rfl
@[simp] theorem part_modCluster (s : State) (c : Nat) (g : Cluster → Cluster) (q : Nat) : (s.modCluster c g).part q = s.part q := rfl
@[simp] theorem frame_modCluster (s : State) (c : Nat) (g : Cluster → Cluster) (i j k : Nat) : (s.modCluster c g).frame i j k = s.frame i j k := rfl
@[simp] theorem unit_modRegion (s : State) (r : Nat) (g : Region → Region) (v : UId) : (s.modRegion r g).unit v = s.unit v := rfl
@[simp] theorem cluster_modRegion (s : State) (r : Nat) (g : Region → Region) (d : Nat) : (s.modRegion r g).cluster d = s.cluster d := rfl
@[simp] theorem part_modRegion (s : State) (r : Nat) (g : Region → Region) (q : Nat) : (s.modRegion r g).part q = s.part q := rfl
@[simp] theorem frame_modRegion (s : State) (r : Nat) (g : Region → Region) (i j k : Nat) : (s.modRegion r g).frame i j k = s.frame i j k := rfl
@[simp] theorem unit_modPart (s : State) (p : Nat) (g : Part → Part) (v : UId) : (s.modPart p g).unit v = s.unit v := rfl
@[simp] theorem cluster_modPart (s : State) (p : Nat) (g : Part → Part) (d : Nat) : (s.modPart p g).cluster d = s.cluster d := rfl
@[simp] theorem region_modPart (s : State) (p : Nat) (g : Part → Part) (q : Nat) : (s.modPart p g).region q = s.region q := rfl
@[simp] theorem frame_modPart (s : State) (p : Nat) (g : Part → Part) (i j k : Nat) : (s.modPart p g).frame i j k = s.frame i j k := rfl
@[simp] theorem unit_setFrame (s : State) (r die fr : Nat) (f : Frame) (v : UId) : (s.setFrame r die fr f).unit v = s.unit v := rfl
@[simp] theorem cluster_setFrame (s : State) (r die fr : Nat) (f : Frame) (d : Nat) : (s.setFrame r die fr f).cluster d = s.cluster d := rfl
@[simp] theorem region_setFrame (s : State) (r die fr : Nat) (f : Frame) (q : Nat) : (s.setFrame r die fr f).region q = s.region q := rfl
@[simp] theorem part_setFrame (s : State) (r die fr : Nat) (f : Frame) (q : Nat) : (s.setFrame r die fr f).part q = s.part q := rfl

end Sys2Proof.Laws
end

