-- ==== Sys2Proof/Tests/Slice0.lean ====
section
/-! SUPPORT. Small tests: words that decode and words that are refused, states that meet the hypotheses of the statements,
and single steps whose results the spec gives. -/

namespace Sys2Proof.Tests

open Sys2Proof Sys2Proof.Machine

set_option Elab.async false

/-! ### Well-formed instructions -/

/-- A node with no operand on a side, no destination, or everything at its first code. -/
def bare : Nd := ⟨.keep, .left, .right, .arc 0, .none⟩

/-- One ill-formed instruction for each check (R27, R151, R154, R161, R176, R181), with the status of Table 06-14. -/
theorem test_ill_formed :
    (Instr.add ⟨.keep, .left, .right, .ret, .none⟩ false false .i32).check = some .reservedSelect ∧
    (Instr.add ⟨.repl, .left, .right, .slot, .none⟩ false false .i32).check = some .replicate ∧
    (Instr.ldB ⟨.repl, .left, .zero, .arc 0, .none⟩ false .elem).check = some .replicate ∧
    (Instr.sel ⟨.keep, .left, .right, .zero, .ret⟩).check = some .reservedSelect ∧
    (Instr.sel ⟨.repl, .left, .right, .zero, .slot⟩).check = some .replicate ∧
    (Instr.abs bare false .i32).check = some .reservedSelect ∧
    (Instr.scl ⟨.keep, .zero, .right, .arc 0, .none⟩ false .ne).check = some .reservedSelect ∧
    (Instr.pack ⟨.keep, .zero, .zero, .arc 0, .none⟩ 1).check = some .reservedSelect ∧
    (Instr.merge ⟨.keep, .right, .right, .arc 0, .none⟩).check = some .reservedSelect ∧
    (Instr.sink bare).check = some .reservedSelect ∧
    (Instr.fcomp ⟨.up, .left, .right, .arc 0, .none⟩).check = some .reservedTagAction ∧
    (Instr.talloc bare).check = some .reservedSelect ∧
    (Instr.call ⟨.up, .left, .right, .arc 0, .none⟩).check = some .reservedTagAction ∧
    (Instr.ret bare).check = some .reservedTagAction ∧
    (Instr.lmArm bare true true).check = some .reservedModifier ∧
    (Instr.lmLook bare 1 false).check = some .reservedModifier ∧
    (Instr.xrGet bare true true).check = some .reservedModifier ∧
    (Instr.xrAmo bare false 7).check = some .reservedModifier ∧
    (Instr.cvOpen bare true false).check = some .reservedModifier ∧
    (Instr.trap ⟨.keep, .left, .zero, .arc 0, .none⟩ 0).check = some .reservedSelect ∧
    (Instr.cvtI64 bare true false .ne).check = some .reservedSelect ∧
    (Instr.cvtE4x8 bare true false .ne).check = some .reservedSelect ∧
    (Instr.cvtQn4x16 ⟨.keep, .zero, .right, .arc 0, .none⟩ true false .ne).check = some .reservedSelect ∧
    (Instr.rdctr ⟨.keep, .zero, .zero, .arc 0, .none⟩ 7).check = some .reservedModifier := by decide

/-! ### Decoding -/

/-- Every word of a list decodes to the instruction beside it. -/
def decodesAll (l : List (BitVec 32 × Instr)) : Bool :=
  l.all fun p => match decode p.1 with | .ok i => i == p.2 | .error _ => false

/-- Tag action 1, operands `ix` and `lit1`, destinations `a2` and `a5`. -/
def nAB : Nd := ⟨.up, .ix, .lit 1, .arc 2, .arc 5⟩
/-- The same with no operand B. -/
def nA : Nd := ⟨.up, .ix, .zero, .arc 2, .arc 5⟩
/-- A three-operand form with `lit4` as its third. -/
def nABC : N3 := ⟨.up, .ix, .lit 1, .lit 4, .arc 2⟩

/-! One word for each encoded row of the opcode table: its opcode, 0001 in 23:20, 0011 in 19:16, 1001 in 15:12, 0010 in
11:8, 0101 (or 1100) in 7:4, and the modifiers of Tables 06-5, 06-6, 03-3 and 05-1, where the row has these fields. -/

theorem test_decode_integer : decodesAll [
    (0x0013925E, .add nAB true true .i16x4), (0x0113925E, .sub nAB true true .i16x4), (0x0213925E, .mul nAB true true .i16x4),
    (0x0313925A, .mulhi nAB true .i16x4), (0x0413925E, .div nAB true true .i16x4), (0x0513925A, .rem nAB true .i16x4),
    (0x0613925A, .min nAB true .i16x4), (0x0713925A, .max nAB true .i16x4), (0x08132256, .abs nA true .i16x4), (0x09132256,
    .neg nA true .i16x4), (0x0A139251, .lea nAB 1), (0x0B132252, .mov nA .i16x4), (0x10139252, .and nAB .i16x4), (0x11139252,
    .or nAB .i16x4), (0x12139252, .xor nAB .i16x4), (0x13139252, .andn nAB .i16x4), (0x14132252, .not nA .i16x4), (0x15139252,
    .shl nAB .i16x4), (0x16139252, .shr nAB .i16x4), (0x17139252, .sar nAB .i16x4), (0x18139252, .rotl nAB .i16x4),
    (0x19132252, .clz nA .i16x4), (0x1A132252, .popc nA .i16x4), (0x1B139259, .bfx nAB true true), (0x1C1392C1, .bfi nABC
    true), (0x1D13925D, .cmp nAB true .ge), (0x1E1392C0, .sel nABC)] = true := by decide +kernel

theorem test_decode_float : decodesAll [
    (0x20139257, .faddF32 nAB true .dn), (0x21139257, .fsubF32 nAB true .dn), (0x22139257, .fmulF32 nAB true .dn),
    (0x231392C7, .fmaF32 nABC true .dn), (0x2413925C, .fminF32 nAB true true), (0x2513925C, .fmaxF32 nAB true true),
    (0x26132254, .fnegF32 nA true), (0x27132254, .fabsF32 nA true), (0x28139255, .fcmpF32 nAB .ge), (0x29132257, .frcpF32 nA
    true .dn), (0x2A132257, .fsqrtF32 nA true .dn), (0x2B132257, .fexp2F32 nA true .dn), (0x2C132257, .flog2F32 nA true .dn),
    (0x30139257, .faddBf16x4 nAB true .dn), (0x31139257, .fsubBf16x4 nAB true .dn), (0x32139257, .fmulBf16x4 nAB true .dn),
    (0x331392C7, .fmaBf16x4 nABC true .dn), (0x3413925C, .fminBf16x4 nAB true true), (0x3513925C, .fmaxBf16x4 nAB true true),
    (0x36132254, .fnegBf16x4 nA true), (0x37132254, .fabsBf16x4 nA true), (0x38139255, .fcmpBf16x4 nAB .ge), (0x39132257,
    .frcpBf16x4 nA true .dn), (0x3A132257, .fsqrtBf16x4 nA true .dn), (0x3B132257, .fexp2Bf16x4 nA true .dn), (0x3C132257,
    .flog2Bf16x4 nA true .dn), (0x3D1392C4, .dotBf16 nABC true), (0x40139257, .faddE4x8 nAB true .dn), (0x41139257, .fsubE4x8
    nAB true .dn), (0x42139257, .fmulE4x8 nAB true .dn), (0x4313925C, .fminE4x8 nAB true true), (0x4413925C, .fmaxE4x8 nAB
    true true), (0x45139255, .fcmpE4x8 nAB .ge), (0x461392C4, .dotE4x8 nABC true), (0x48139257, .faddE5x8 nAB true .dn),
    (0x49139257, .fsubE5x8 nAB true .dn), (0x4A139257, .fmulE5x8 nAB true .dn), (0x4B13925C, .fminE5x8 nAB true true),
    (0x4C13925C, .fmaxE5x8 nAB true true), (0x4D139255, .fcmpE5x8 nAB .ge), (0x4E1392C4, .dotE5x8 nABC true)] = true := by decide +kernel

theorem test_decode_convert : decodesAll [
    (0x5013225F, .cvtI64 nA true true .dn), (0x5113225F, .cvtI32 nA true true .dn), (0x5213225F, .cvtI16x4 nA true true
    .dn), (0x5313225F, .cvtI8x8 nA true true .dn), (0x5413925F, .cvtF32 nAB true true .dn), (0x5513925F, .cvtBf16x4 nAB true
    true .dn), (0x5613225F, .cvtE4x8 nA true true .dn), (0x5713225F, .cvtE5x8 nA true true .dn), (0x5813925F, .cvtQn4x16 nAB
    true true .dn), (0x59139257, .scl nAB true .dn), (0x5A139257, .uscl nAB true .dn), (0x5B139255, .pack nAB 5), (0x5C132255,
    .unpk nA 5)] = true := by decide +kernel

theorem test_decode_graph : decodesAll [
    (0x60139250, .switch nAB), (0x61101250, .merge ⟨.up, .left, .right, .arc 2, .arc 5⟩), (0x62132250, .dup nA), (0x63139250,
    .gate nAB), (0x64139FF0, .sink ⟨.up, .ix, .lit 1, .none, .none⟩), (0x65039250, .fcomp ⟨.keep, .ix, .lit 1, .arc 2, .arc
    5⟩), (0x661392F0, .steer ⟨.up, .ix, .lit 1, .arc 2, .none⟩), (0x67139250, .ojoin nAB), (0x70122250, .talloc ⟨.up, .zero,
    .zero, .arc 2, .arc 5⟩), (0x71132250, .tfree nA), (0x72122250, .falloc ⟨.up, .zero, .zero, .arc 2, .arc 5⟩), (0x73132250,
    .ffree nA), (0x74039250, .call ⟨.keep, .ix, .lit 1, .arc 2, .arc 5⟩), (0x754329F0, .ret ⟨.ret, .ix, .zero, .ret, .none⟩),
    (0x76132250, .fbcast nA), (0x77122250, .tagv ⟨.up, .zero, .zero, .arc 2, .arc 5⟩)] = true := by decide +kernel

theorem test_decode_memory_port : decodesAll [
    (0x8013225B, .ldB nA true .part), (0x8113225B, .ldH nA true .part), (0x8213225B, .ldW nA true .part), (0x8313225B, .ldD nA
    true .part), (0x84139253, .stB nAB .part), (0x85139253, .stH nAB .part), (0x86139253, .stW nAB .part), (0x87139253, .stD
    nAB .part), (0x8813225B, .ldAcq nA true .part), (0x8913925B, .stRel nAB true .part), (0x8A132253, .ldl nA .part),
    (0x8B139253, .stl nAB .part), (0x8C139253, .stlm nAB .part), (0x8D132253, .ldd nA .part), (0x8E139253, .std nAB .part),
    (0x8F132250, .pf nA), (0x9013925B, .aadd nAB true .part), (0x9113925B, .aand nAB true .part), (0x9213925B, .aor nAB true
    .part), (0x9313925B, .axor nAB true .part), (0x9413925B, .amin nAB true .part), (0x9513925B, .amax nAB true .part),
    (0x9613925B, .aswp nAB true .part), (0x9713925B, .acas nAB true .part), (0x9813925B, .afadd nAB true .part), (0x99122253,
    .fencePub ⟨.up, .zero, .zero, .arc 2, .arc 5⟩ .part), (0x9A122253, .fenceAcq ⟨.up, .zero, .zero, .arc 2, .arc 5⟩ .part),
    (0x9B132253, .strm nA .part)] = true := by decide +kernel

theorem test_decode_line : decodesAll [
    (0xA013925F, .vadd nAB true true .dn), (0xA113925F, .vsub nAB true true .dn), (0xA213925F, .vmul nAB true true .dn),
    (0xA3139257, .vfma nAB true .dn), (0xA413925F, .vmin nAB true true .dn), (0xA513925F, .vmax nAB true true .dn),
    (0xA613225F, .vabs nA true true .dn), (0xA713225F, .vneg nA true true .dn), (0xA8132257, .vexp2 nA true .dn), (0xA9132257,
    .vlog2 nA true .dn), (0xAA132257, .vrcp nA true .dn), (0xAB132257, .vrsqrt nA true .dn), (0xAC139255, .vcmp nAB .ge),
    (0xAD139255, .vsel nAB 5), (0xAE139255, .vand nAB 5), (0xAF139255, .vor nAB 5), (0xB0139255, .vxor nAB 5), (0xB1139255,
    .vshl nAB 5), (0xB213925D, .vshr nAB true 5), (0xB3139257, .vcvt nAB true .dn), (0xB4139257, .vscl nAB true .dn),
    (0xB5132255, .vbcast nA 5), (0xB6139255, .vext nAB 5), (0xB7139255, .vperm nAB 5), (0xB8132251, .rsum nA 1), (0xB913225D,
    .rmin nA true true 1), (0xBA13225D, .rmax nA true true 1), (0xBB139257, .racc nAB true .dn)] = true := by decide +kernel

theorem test_decode_lookup : decodesAll [
    (0xC0132250, .lmClaim nA), (0xC1132250, .lmRelease nA), (0xC2139250, .lmFill nAB), (0xC3139251, .lmBuild nAB true),
    (0xC4139252, .lmArm nAB true false), (0xC513925B, .lmLook nAB 5 true), (0xC6139251, .lmDirect nAB 1), (0xC713925B,
    .lmDrain nAB true .part), (0xC8139253, .lmSpill nAB .part), (0xC9139253, .lmReload nAB .part), (0xCA132250, .lmStat nA)] = true := by decide +kernel

theorem test_decode_engine : decodesAll [
    (0xE0132253, .cp nA .part), (0xE1132253, .nmAdd nA .part), (0xE2132253, .nmAxpy nA .part), (0xE3132253, .nmScl nA .part),
    (0xE4132253, .nmCvt nA .part), (0xE5139258, .xrGet nAB true false), (0xE6139251, .xrPut nAB true), (0xE713925D, .xrAmo nAB
    true 5), (0xE8139250, .cvIn nAB), (0xE9132250, .cvOut nA), (0xEA139253, .cvOpen nAB true true), (0xEB132251, .cvClose nA
    true)] = true := by decide +kernel

theorem test_decode_task : decodesAll [
    (0xEC132250, .spawn nA), (0xED139250, .suspend nAB), (0xEE139253, .jinit nAB .part), (0xEF132253, .jarrive nA .part),
    (0xF0132253, .barArrive nA .part), (0xF1139253, .barWait nAB .part), (0xF2139253, .qPush nAB .part), (0xF313225B, .qPop nA
    true .part), (0xF4139253, .launch nAB .part), (0xF5132250, .cut nA)] = true := by decide +kernel

theorem test_decode_system : decodesAll [
    (0xF8132FF5, .trap ⟨.up, .ix, .zero, .none, .none⟩ 5), (0xF9132250, .brk nA), (0xFA122255, .rdctr ⟨.up, .zero, .zero, .arc
    2, .arc 5⟩ 5), (0xFB132250, .csrRd nA), (0xFB139258, .csrWr nAB), (0xFC139250, .publish nAB), (0xFD132250, .hgTake nA),
    (0xFD132251, .hgPost nA), (0xFD139252, .hgQuote nAB), (0xFE139250, .scrubZero nAB), (0xFE122251, .scrubWait ⟨.up, .zero,
    .zero, .arc 2, .arc 5⟩), (0xFF139250, .gateSrcClose nAB), (0xFF139251, .gateSrcOpen nAB), (0xFF132252, .gateSrcFreeze nA),
    (0xFF132253, .gateSrcEvict nA)] = true := by decide +kernel

/-- Words that the worked programs of the spec write out. -/
theorem test_decode_programs : decodesAll [
    (0x020080F7, .mul ⟨.keep, .left, .lit 0, .arc 0, .none⟩ false true .i8x8),
    (0x0B002EF0, .mov ⟨.keep, .left, .zero, .term, .none⟩ .i32), (0x56002010, .cvtE4x8 ⟨.keep, .left, .zero, .arc 0, .arc 1⟩ false false .ne),
    (0x60001120, .switch ⟨.keep, .left, .right, .arc 1, .arc 2⟩), (0x870890F1, .stD ⟨.keep, .lit 0, .lit 1, .arc 0, .none⟩ .clu),
    (0x8C0010F2, .stlm ⟨.keep, .left, .right, .arc 0, .none⟩ .strip), (0x9A022013, .fenceAcq ⟨.keep, .zero, .zero, .arc 0, .arc 1⟩ .part),
    (0x9B082014, .strm ⟨.keep, .lit 0, .zero, .arc 0, .arc 1⟩ .sys), (0xB80820F0, .rsum ⟨.keep, .lit 0, .zero, .arc 0, .none⟩ 0),
    (0xE80CDFF0, .cvIn ⟨.keep, .lit 4, .lit 5, .none, .none⟩), (0xED0E8FF0, .suspend ⟨.keep, .lit 6, .lit 0, .none, .none⟩),
    (0xEF082FF4, .jarrive ⟨.keep, .lit 0, .zero, .none, .none⟩ .sys), (0xFE0220F1, .scrubWait ⟨.keep, .zero, .zero, .arc 0, .none⟩)]
    = true := by decide +kernel

/-- A word is refused with a status. -/
def refusedAs (w : BitVec 32) (e : LoadStatus) : Bool := match decode w with | .ok _ => false | .error x => x == e

/-- Reserved opcodes, selects, tag actions and modifiers are refused with their own status (R166, Table 06-14). -/
theorem test_decode_refused :
    refusedAs 0x0C000010 .reservedOpcode = true ∧ refusedAs 0x00001A10 .reservedSelect = true ∧
    refusedAs 0x00701010 .reservedTagAction = true ∧ refusedAs 0x0B00201C .reservedModifier = true ∧
    refusedAs 0x80002015 .reservedModifier = true ∧ refusedAs 0xFA022017 .reservedModifier = true := by decide +kernel

/-! ### States for one node

The hypotheses of each statement are met by a small device: region 5 on cluster 0, one unit, one firing in hand. -/

/-- An active region of cluster 0. -/
def reg : Region := { Region.none with num := 1, st := .active, host := [0] }

/-- A firing of slot 0 of unit 0 of a kind in cluster 0. -/
def fire (k : UKind) (l r : Payload) : Cur := ⟨⟨0, k, 0⟩, ⟨0, 5, 0, some l, some r, none, none, 0, 0, 0⟩⟩

/-- A device with a firing in hand; `g` says what else it holds. -/
def hand (c : Cur) (g : State → State) : State :=
  { g { State.reset with nextId := 6, regions := [(5, reg)] } with cur := some c }

/-- A node on both sides whose token goes to the termination sink. -/
def n2 : Nd := ⟨.keep, .left, .right, .term, .none⟩

/-- The same for a three-operand form, with `lit0` as its third. -/
def n3 : N3 := ⟨.keep, .left, .right, .lit 0, .term⟩

/-- `lit0` and its type code, in a unit of cluster 0. -/
def withLit (k : UKind) (v : Word) (ty : Nat) (s : State) : State :=
  s.modUnit ⟨0, k, 0⟩ fun h => { h with lits := [(0, v)], flags := BitVec.ofNat 64 ty }

theorem unmasked_of_zero (s : State) (c : Cur) (op : Nat) (h : (s.region c.f.rid).rcb = 0) : Unmasked s c op := by
  intro g _
  rw [h, show (0 : BitVec 2048).toNat = 0 from BitVec.toNat_zero]
  simp [bitAt]

theorem emits_n2 (s : State) (c : Cur) (b : Payload) (sc : Bool) : CanEmit s c n2 b sc :=
  ⟨fun h => by simp [n2] at h, fun _ _ => ⟨trivial, trivial⟩⟩

theorem emits_n3 (s : State) (c : Cur) (b : Payload) (sc : Bool) : CanEmit3 s c n3 b sc :=
  ⟨fun h => by simp [n3] at h, fun _ _ => trivial⟩

/-- The hypotheses of a statement of the form `Node2` are met together. -/
def Met2 (op : Nat) (good : Opd → Opd → Prop) : Prop :=
  ∃ s c a b s1 s2, s.cur = some c ∧ Unmasked s c op ∧ readSrc s.base c n2.a = .ok (a, s1) ∧ readSrc s1 c n2.b = .ok (b, s2) ∧
    good a b ∧ ∀ sc, CanEmit s2 c n2 b.pay sc

/-- The hypotheses of a statement of the form `Node3` are met together. -/
def Met3 (op : Nat) (good : Opd → Opd → Opd → Prop) : Prop :=
  ∃ s c a b d s1 s2 s3, s.cur = some c ∧ Unmasked s c op ∧ readSrc s.base c n3.a = .ok (a, s1) ∧
    readSrc s1 c n3.b = .ok (b, s2) ∧ readSrc s2 c n3.c = .ok (d, s3) ∧ good a b d ∧ ∀ sc, CanEmit3 s3 c n3 b.pay sc

theorem met2 (op : Nat) (good : Opd → Opd → Prop) (l r : Payload) (h : good ⟨l.clean, false⟩ ⟨r.clean, false⟩) : Met2 op good :=
  ⟨hand (fire .el l r) id, fire .el l r, _, _, _, _, rfl, unmasked_of_zero _ _ _ rfl, rfl, rfl, h, emits_n2 _ _ _⟩

theorem met3 (op : Nat) (good : Opd → Opd → Opd → Prop) (l r : Payload) (v : Word) (ty : Nat)
    (h : good ⟨l.clean, false⟩ ⟨r.clean, false⟩ ⟨(plain v ((TType.ofCode? ty).getD .i64)).clean, false⟩) (ht : ty < 16) : Met3 op good := by
  refine ⟨hand (fire .el l r) (withLit .el v ty), fire .el l r, _, _, _, _, _, _, rfl, unmasked_of_zero _ _ _ rfl, rfl, rfl,
    rfl, ?_, emits_n3 _ _ _⟩
  have e : litType ((hand (fire .el l r) (withLit .el v ty)).base.unit (fire .el l r).u) (0 : BitVec 3).toNat =
      (TType.ofCode? ty).getD .i64 := by
    show (TType.ofCode? (bits (BitVec.ofNat 64 ty).toNat 3 0)).getD .i64 = _
    rw [BitVec.toNat_ofNat, Nat.mod_eq_of_lt (by omega)]
    simp [bits, Nat.mod_eq_of_lt ht]
  rw [e]
  exact h

/-! ### Element nodes -/

/-- The least lane of a width, in a type it takes. -/
def least : Width → Payload
  | .i32 => plain 0x80000000 .i32
  | .i64 => plain 0x8000000000000000 .i64
  | .i16x4 => plain 0x8000800080008000 .i16x4
  | .i8x8 => plain 0x8080808080808080 .i8x8

/-- Integer nodes of two operands and of one, and the bit operations: the least lane, against itself. -/
theorem witness_integer (w : Width) : Met2 0x04 (fun a b => ∃ x y, IntOpd w a x ∧ IntOpd w b y) ∧
    Met2 0x08 (fun a _ => ∃ x, IntOpd w a x) := by
  refine ⟨met2 _ _ (least w) (least w) ?_, met2 _ _ (least w) (least w) ?_⟩ <;> cases w
  any_goals exact ⟨_, _, ⟨rfl, rfl⟩, ⟨rfl, rfl⟩⟩
  all_goals exact ⟨_, ⟨rfl, rfl⟩⟩

/-- `bfx`, `bfi`, `cmp`, `sel` on either side of its condition, `lea` and `mov`. -/
theorem witness_fields (wd : Bool) :
    Met2 0x1B (fun a b => ∃ x y, IntOpd (wide wd) a x ∧ IntOpd (wide wd) b y) ∧
    Met3 0x1C (fun a b d => ∃ x y z, IntOpd (wide wd) a x ∧ IntOpd (wide wd) b y ∧ IntOpd (wide wd) d z) ∧
    Met2 0x1D (fun a b => ∃ x y, asScalar a (intTypes (wide wd)) = .ok x ∧ asScalar b (intTypes (wide wd)) = .ok y ∧ x.sc = y.sc) ∧
    (∀ v, v = 0 ∨ v = 1 → Met3 0x1E (fun a b d => (∃ x, asScalar a condTypes = .ok x ∧ x.sc = false ∧ x.val = v) ∧
      (∃ y, asScalar b allTypes = .ok y) ∧ ∃ z, asScalar d allTypes = .ok z)) ∧
    Met2 0x0A (fun a b => ∃ x y, asScalar a [.u64, .i64] = .ok x ∧ asScalar b [.i64, .u64, .i32, .tagix] = .ok y ∧
      x.sc = false ∧ y.sc = false) ∧ Met2 0x0B (fun a _ => ∃ x, asScalar a allTypes = .ok x) := by
  refine ⟨?_, ?_, ?_, ?_, met2 _ _ (plain 0 .u64) (plain 0x80000000 .i32) ⟨_, _, rfl, rfl, rfl, rfl⟩,
    met2 _ _ (plain 0 .marker) (plain 0 .i64) ⟨_, rfl⟩⟩
  · refine met2 _ _ (least (wide wd)) (least (wide wd)) ?_
    cases wd <;> exact ⟨_, _, ⟨rfl, rfl⟩, ⟨rfl, rfl⟩⟩
  · cases wd
    · exact met3 _ _ (least .i32) (least .i32) 0x3F 1 ⟨_, _, _, ⟨rfl, rfl⟩, ⟨rfl, rfl⟩, ⟨rfl, rfl⟩⟩ (by omega)
    · exact met3 _ _ (least .i64) (least .i64) 0x403F 0 ⟨_, _, _, ⟨rfl, rfl⟩, ⟨rfl, rfl⟩, ⟨rfl, rfl⟩⟩ (by omega)
  · refine met2 _ _ (least (wide wd)) (least (wide wd)) ?_
    cases wd <;> exact ⟨_, _, rfl, rfl, rfl⟩
  · intro v _
    exact met3 _ _ (plain v .control) (least .i64) 0 0 ⟨⟨_, rfl, rfl, rfl⟩, ⟨_, rfl⟩, ⟨_, rfl⟩⟩ (by omega)

/-- Floating nodes of every class on every format: NaN and zero in one operand, and the scaled bits that class E and M admit. -/
theorem witness_float (f : LaneFmt) :
    Met2 0x20 (fun a b => ∃ x y, FloatOpd f a x ∧ FloatOpd f b y ∧ x.sc = y.sc) ∧
    Met2 0x22 (fun a b => ∃ x y, FloatOpd f a x ∧ FloatOpd f b y ∧ ¬ (x.sc = true ∧ y.sc = true)) ∧
    Met2 0x26 (fun a _ => ∃ x, FloatOpd f a x) ∧ Met2 0x29 (fun a _ => ∃ x, FloatOpd f a x ∧ x.sc = false) ∧
    (∀ cf ty, (cf, ty) ∈ [(LaneFmt.f32, 3), (.bf16, 4)] →
      Met3 0x23 (fun a b d => ∃ x y z, FloatOpd f a x ∧ FloatOpd f b y ∧ FloatOpd cf d z ∧ ¬ (x.sc = true ∧ y.sc = true) ∧
        z.sc = (x.sc || y.sc))) := by
  let nan : Payload := .scal ⟨0x7FFFFFFF7FFFFFFF, f.ty, true⟩
  let nan' : Payload := plain 0x7FFFFFFF7FFFFFFF f.ty
  have ok : ∀ v sc, ∃ x, FloatOpd f ⟨(Payload.scal ⟨v, f.ty, sc⟩).clean, false⟩ x ∧ x.sc = sc := by
    intro v sc
    by_cases hf : f.ty = .i32 ∨ f.ty = .f32
    · exact ⟨⟨v &&& 0xFFFFFFFF, f.ty, sc⟩, by simp [FloatOpd, asScalar, Payload.clean, hf], rfl⟩
    · exact ⟨⟨v, f.ty, sc⟩, by simp [FloatOpd, asScalar, Payload.clean, hf], rfl⟩
  obtain ⟨x, hx, cx⟩ := ok 0x7FFFFFFF7FFFFFFF true
  obtain ⟨y, hy, cy⟩ := ok 0x7FFFFFFF7FFFFFFF false
  refine ⟨met2 _ _ nan nan ⟨_, _, hx, hx, rfl⟩, met2 _ _ nan nan' ⟨_, _, hx, hy, by simp [cy]⟩,
    met2 _ _ nan nan ⟨_, hx⟩, met2 _ _ nan' nan ⟨_, hy, cy⟩, fun cf ty hc => ?_⟩
  simp only [List.mem_cons, List.not_mem_nil, or_false, Prod.mk.injEq] at hc
  obtain ⟨rfl, rfl⟩ | ⟨rfl, rfl⟩ := hc
  · exact met3 _ _ nan' nan' 0 3 ⟨_, _, _, hy, hy, rfl, by simp [cy], by simp [cy]⟩ (by omega)
  · exact met3 _ _ nan' nan' 0 4 ⟨_, _, _, hy, hy, rfl, by simp [cy], by simp [cy]⟩ (by omega)

/-- A conversion whose lane overflows (infinity to `i64`), and one from QN4, which reads its scale in B. -/
theorem witness_conversion :
    (∃ s c a b s1 s2 x l ls, s.cur = some c ∧ Unmasked s c 0x50 ∧ readSrc s.base c n2.a = .ok (a, s1) ∧
      readSrc s1 c n2.b = .ok (b, s2) ∧ asScalar a cvtTypes = .ok x ∧ x.sc = false ∧ inLanes false false x = some l ∧
      cvtAllowed (.int .i64 64 1) l = true ∧ (cvtReadsB (.int .i64 64 1) x = true → ∃ y, asScalar b [.i64] = .ok y ∧
        y.sc = false ∧ scaleWord y.val.toNat = .ok ls) ∧ CanEmit s2 c n2 b.pay false) ∧
    (∃ s c a b s1 s2 x l ls, s.cur = some c ∧ Unmasked s c 0x55 ∧ readSrc s.base c n2.a = .ok (a, s1) ∧
      readSrc s1 c n2.b = .ok (b, s2) ∧ asScalar a cvtTypes = .ok x ∧ x.sc = false ∧ inLanes false false x = some l ∧
      cvtAllowed (.float .bf16) l = true ∧ cvtReadsB (.float .bf16) x = true ∧ (∃ y, asScalar b [.i64] = .ok y ∧
        y.sc = false ∧ scaleWord y.val.toNat = .ok ls) ∧ CanEmit s2 c n2 b.pay false) := by
  refine ⟨⟨hand (fire .el (plain 0x7F800000 .f32) (plain 0 .i64)) id, fire .el (plain 0x7F800000 .f32) (plain 0 .i64), _, _, _, _,
    _, _, .nan, rfl, unmasked_of_zero _ _ _ rfl, rfl, rfl, rfl, rfl, rfl, by decide +kernel, ?_, emits_n2 _ _ _ _⟩,
    ⟨hand (fire .el (plain 0xFEDC .qn4x16) (plain 0xFF3F800000 .i64)) id, fire .el (plain 0xFEDC .qn4x16)
      (plain 0xFF3F800000 .i64), _, _, _, _, _, _, lineScale 0x3F800000 255, rfl, unmasked_of_zero _ _ _ rfl, rfl, rfl, rfl, rfl, rfl,
    by decide +kernel, by decide +kernel, ⟨_, rfl, rfl, rfl⟩, emits_n2 _ _ _ _⟩⟩
  intro h
  simp [cvtReadsB] at h

/-- `scl` and `uscl`; `pack` of lanes with k at its largest value, with a zero on a side; `unpk`. -/
theorem witness_scale_and_pack :
    (∀ set, Met2 (if set then 0x59 else 0x5A) (fun a b => ∃ x y, asScalar a [.f32, .bf16x4, .e4x8, .e5x8] = .ok x ∧
      FloatOpd .f32 b y ∧ x.sc = !set ∧ y.sc = false)) ∧
    Met2 0x5B (fun a b => ∃ x y, PackPair a b x y ∧ x.ty = y.ty ∧ x.sc = y.sc ∧ (15 : BitVec 4).toNat < (packedShape x.ty).2) ∧
    Met2 0x5C (fun a _ => ∃ x, asScalar a packedTypes = .ok x ∧ (15 : BitVec 4).toNat < (packedShape x.ty).2) := by
  refine ⟨fun set => met2 _ _ (.scal ⟨0x38, .e4x8, !set⟩) (plain 0x3F800000 .f32) ⟨_, _, rfl, rfl, rfl, rfl⟩,
    met2 _ _ (plain 0xFEDC .qn4x16) (plain 0x1234 .qn4x16) ⟨_, _, ⟨nofun, fun _ => rfl, nofun, fun _ => rfl⟩, rfl, rfl, by decide⟩,
    met2 _ _ (plain 0xFEDC .qn4x16) (plain 0 .i64) ⟨_, rfl, by decide⟩⟩


theorem all_mem {α : Type} {P : α → Prop} [DecidablePred P] {l : List α} (h : (l.all fun z => decide (P z)) = true) : ∀ z ∈ l, P z :=
  fun z m => of_decide_eq_true (List.all_eq_true.1 h z m)
/-! ### Graph control, tags and frames

From here on a witness applies a statement to a state: its proof meets every hypothesis of the clause, and what is left is
that the instruction gives a next state there. -/

/-- The instruction gives a next state. -/
abbrev Runs (i : Instr) (s : State) : Prop := ∃ t, exec i s = .next t

theorem fires (c : Cur) (g : State → State) (op : Nat) (h : ((hand c g).region c.f.rid).rcb = 0) : Fires (hand c g) c op :=
  ⟨rfl, unmasked_of_zero _ _ _ h⟩

theorem reads (k : UKind) (l r : Payload) (g : State → State) :
    ReadsAB (hand (fire k l r) g) (fire k l r) n2 ⟨l.clean, false⟩ ⟨r.clean, false⟩ (hand (fire k l r) g).base := ⟨_, rfl, rfl⟩

theorem dstOk_clear (s : State) (c : Cur) (d : Dst) (t : Tag) (h : d ≠ .slot) : DstOk s c d t false := by
  cases d <;> first | exact trivial | exact fun _ _ => rfl | exact absurd rfl h

/-- The true and the false side of `switch`, both inputs of `merge`, `dup`, `gate`, `sink`, and `steer` with the last arc
number and the first number above it. -/
theorem witness_graph_control (h : Obligations.GraphControlRoutesTokens) :
    (∀ v : Word, v = 0 ∨ v = 1 → Runs (.switch n2) (hand (fire .el (plain v .control) (least .i64)) id)) ∧
    (let c := fire .el (least .i64) (least .i64)
     Runs (.merge n2) (hand { c with f := { c.f with r := none } } id) ∧ Runs (.merge n2) (hand { c with f := { c.f with l := none } } id) ∧
      Runs (.dup n2) (hand c id) ∧ Runs (.gate n2) (hand c id) ∧ Runs (.sink n2) (hand c id)) ∧
    (∀ v : Word, v = 7 ∨ v = 8 → Runs (.steer n2) (hand (fire .el (plain v .i64) (least .i64)) id)) := by
  let c := fire .el (least .i64) (least .i64)
  let c1 : Cur := { c with f := { c.f with r := none } }
  let c2 : Cur := { c with f := { c.f with l := none } }
  have R := reads .el (least .i64) (least .i64) id
  refine ⟨fun v hv => ?_, ⟨?_, ?_, ?_, ?_, ?_⟩, fun v _ => ?_⟩
  · obtain ⟨g, t, -, -, -, e⟩ := h.1 n2 _ _ _ _ _ _ _ (fires (fire .el (plain v .control) (least .i64)) id 0x60 rfl)
      (reads .el (plain v .control) (least .i64) id) ⟨rfl, rfl⟩ rfl nofun fun t _ => ⟨fun _ => trivial, fun _ => trivial⟩
    exact ⟨_, e⟩
  · obtain ⟨t, -, e⟩ := h.2.1 n2 _ _ _ (fires c1 id 0x61 rfl) (.inl rfl) (emits_n2 _ _ _ _)
    exact ⟨_, e⟩
  · obtain ⟨t, -, e⟩ := h.2.1 n2 _ _ _ (fires c2 id 0x61 rfl) (.inr ⟨rfl, rfl⟩) (emits_n2 _ _ _ _)
    exact ⟨_, e⟩
  · obtain ⟨g, t1, t, -, -, -, e⟩ := h.2.2.1 n2 _ _ _ _ _ (fires c id 0x62 rfl) rfl rfl nofun (by
      intro d hd t _
      have : dupArcs (hand (fire .el (least .i64) (least .i64)) id) (fire .el (least .i64) (least .i64)) n2 = [] := by decide +kernel
      rw [this] at hd
      simp only [n2, List.mem_cons, List.not_mem_nil, or_false] at hd
      obtain rfl | rfl := hd <;> exact trivial)
    exact ⟨_, e⟩
  · obtain ⟨r, t, -, -, e⟩ := h.2.2.2.1 n2 (hand c id) c _ _ _ _ rfl (unmasked_of_zero _ _ _ rfl) rfl rfl ⟨⟨_, rfl, rfl⟩, _, rfl⟩
      fun _ _ => emits_n2 _ _ _ _
    exact ⟨_, e⟩
  · exact ⟨_, h.2.2.2.2.1 n2 _ _ _ _ _ (fires c id 0x64 rfl) R⟩
  · obtain ⟨g, t, -, -, e⟩ := h.2.2.2.2.2 n2 _ _ _ _ _ _ _ (fires (fire .el (plain v .i64) (least .i64)) id 0x66 rfl)
      (reads .el (plain v .i64) (least .i64) id) rfl rfl rfl nofun fun t _ => dstOk_clear _ _ _ _ (by
        dsimp only
        repeat' split
        all_goals simp [n2])
    exact ⟨_, e⟩

/-- Two ordering tokens, another type on a side, and a set scaled bit. -/
theorem witness_ojoin (h : Obligations.OrderingTokensAreJoined) :
    Runs (.ojoin n2) (hand (fire .el (marker 0 false) (marker 4 true)) id) ∧
    Runs (.ojoin n2) (hand (fire .el (marker 0 false) (plain 0 .control)) id) ∧
    Runs (.ojoin n2) (hand (fire .el (marker 0 false) (.scal ⟨4, .marker, true⟩)) id) := by
  refine ⟨?_, ?_, ?_⟩
  · obtain ⟨r, t, -, -, e⟩ := h.1 n2 (hand (fire .el (marker 0 false) (marker 4 true)) id) _ _ _ _ _ rfl
      (unmasked_of_zero _ _ _ rfl) rfl rfl ⟨_, _, rfl, rfl, rfl, rfl⟩
      fun _ _ => emits_n2 _ _ _ _
    exact ⟨_, e⟩
  · exact ⟨_, h.2.1 n2 _ _ _ _ _ _ _ (fires (fire .el (marker 0 false) (plain 0 .control)) id 0x67 rfl)
      (reads .el _ _ id) rfl rfl (.inr nofun)⟩
  · exact ⟨_, h.2.2 n2 _ _ _ _ _ _ _ (fires (fire .el (marker 0 false) (.scal ⟨4, .marker, true⟩)) id 0x67 rfl)
      (reads .el _ _ id) rfl rfl rfl rfl (.inr rfl)⟩

/-- A frame with a copy at cluster 0. -/
def liveFrame : Frame := { Frame.none with st := .live, copies := [0] }

/-- Frame 0 of region 5 on die 0. -/
def withFrame (f : Frame) (s : State) : State := s.setFrame 5 0 0 f

/-- Two tag spaces, the second a child of the first. -/
def spaces : List Space := [⟨0, 2, 2, 0⟩, ⟨2, 1, 2, 1⟩]

/-- Region 5 with the spaces, `lit13` naming the first, and its frame. -/
def tagged (f : Frame) (s : State) : State :=
  (withFrame f { s with regions := [(5, { reg with spaces := spaces })] }).modUnit ⟨0, .el, 0⟩ fun h =>
    { h with lits := [(13, 1)] }

theorem sayNear_n2 (s : State) (c : Cur) : CanSayNear s c n2 := fun _ _ => ⟨nofun, nofun⟩

/-- Region 5 with a second tag space that no parent of a firing of ix 3 is in, and `lit13` naming it. -/
def strayed (s : State) : State :=
  { (tagged liveFrame s).modUnit ⟨0, .el, 0⟩ fun h => { h with lits := [(13, 2)] } with
    regions := [(5, { reg with spaces := [⟨0, 2, 2, 0⟩, ⟨4, 1, 2, 1⟩] })] }

/-- `talloc` and `fcomp` with a free index and with none, `fcomp` of a false predicate, and the faults of a firing outside the
parent space and of a frame that is not live. -/
theorem witness_allocation (h : Obligations.IndicesAreAllocatedAndFreed) :
    let c := fun v => fire .el (plain v .control) (least .i64)
    let full : Frame := { liveFrame with runs := [((1, 0), [])] }
    let far : Cur := { c 1 with f := { (c 1).f with tag := 3 } }
    Runs (.talloc n2) (hand (c 1) (tagged liveFrame)) ∧ Runs (.fcomp n2) (hand (c 1) (tagged liveFrame)) ∧
    Runs (.fcomp n2) (hand (c 1) (tagged full)) ∧ Runs (.fcomp n2) (hand (c 0) (tagged liveFrame)) ∧
    Runs (.talloc n2) (hand (c 1) (tagged full)) ∧ Runs (.talloc n2) (hand far strayed) ∧
    Runs (.fcomp n2) (hand far strayed) ∧ Runs (.talloc n2) (hand (c 1) (tagged Frame.none)) := by
  intro c full far
  have C := fun g e => h.1.2.1 n2 (hand (c 1) (tagged g)) _ _ _ _ _ _ ⟨0, 2, 2, 0⟩ 0 (fires (c 1) (tagged g) 0x65 e)
    (reads .el _ _ _) ⟨rfl, rfl⟩ rfl
  refine ⟨?_, ?_, ?_, ?_, ?_, ⟨_, h.1.2.2.2.1 n2 (hand far strayed) _ ⟨4, 1, 2, 1⟩ (fires far strayed 0x70 rfl)
    ⟨by decide +kernel, .inl (by decide +kernel)⟩
    (by decide +kernel)
    (by decide +kernel)⟩, ⟨_, h.1.2.2.2.2.1 n2 (hand far strayed) _ _ _ _ _ _ ⟨4, 1, 2, 1⟩ (fires far strayed 0x65 rfl) ⟨_, rfl, rfl⟩
    ⟨rfl, rfl⟩ rfl (by decide +kernel) (by decide +kernel)⟩,
    ⟨_, h.1.2.2.2.2.2 n2 _ _ (fires (c 1) (tagged Frame.none) 0x70 rfl) (by decide +kernel)⟩⟩
  · obtain ⟨_, _, -, -, -, -, e⟩ := h.1.1 n2 _ _ ⟨0, 2, 2, 0⟩ 0 0 [1] (fires (c 1) (tagged liveFrame) 0x70 rfl)
      ⟨by decide +kernel, .inl (by decide +kernel)⟩ (by decide +kernel) (by decide +kernel) (by decide +kernel) (sayNear_n2 _ _)
    exact ⟨_, e⟩
  · obtain ⟨_, _, -, -, -, -, e⟩ := (C liveFrame rfl (by decide +kernel) (by decide +kernel)).1 0 [1] (by simp [Truth]) ⟨by decide +kernel, .inl (by decide +kernel)⟩ (by decide +kernel) trivial
    exact ⟨_, e⟩
  · obtain ⟨_, e, -⟩ := (C full rfl (by decide +kernel) (by decide +kernel)).2.1 (by simp [Truth]) ⟨by decide +kernel, .inl (by decide +kernel)⟩ (by decide +kernel)
    exact ⟨_, e⟩
  · obtain ⟨_, -, e⟩ := (h.1.2.1 n2 _ _ _ _ _ _ _ ⟨0, 2, 2, 0⟩ 0 (fires (c 0) (tagged liveFrame) 0x65 rfl) (reads .el _ _ _)
      ⟨rfl, rfl⟩ rfl (by decide +kernel) (by decide +kernel)).2.2 (by simp [Truth]) trivial
    exact ⟨_, e⟩
  · obtain ⟨_, e, -⟩ := h.1.2.2.1 n2 _ _ ⟨0, 2, 2, 0⟩ 0 (fires (c 1) (tagged full) 0x70 rfl) ⟨by decide +kernel, .inl (by decide +kernel)⟩ (by decide +kernel) (by decide +kernel) (by decide +kernel)
    exact ⟨_, e⟩

/-- `tfree` of an index above every space, in a frame that is not live, of the last one outside the spaces, of a free one, of
one whose child is allocated, of an allocated one, and of one that a stalled allocation waits for. -/
theorem witness_tfree (h : Obligations.IndicesAreAllocatedAndFreed) :
    let c := fun (v : Word) => fire .el (plain v .i64) (least .i64)
    let f : Frame := { liveFrame with runs := [((1, 0), [1])] }
    Runs (.tfree n2) (hand (c 512) (tagged f)) ∧ Runs (.tfree n2) (hand (c 0) (tagged Frame.none)) ∧
    Runs (.tfree n2) (hand (c 511) (tagged f)) ∧ Runs (.tfree n2) (hand (c 1) (tagged f)) ∧
    Runs (.tfree n2) (hand (c 0) (tagged { f with runs := [((1, 0), [1]), ((2, 0), [])] })) ∧
    Runs (.tfree n2) (hand (c 0) (tagged f)) ∧
    Runs (.tfree n2) (hand (c 0) (tagged { f with talloc := [(1, 0, ⟨⟨0, .el, 0⟩, .talloc n2, (c 0).f⟩)] })) := by
  have T := fun (v : Word) (f : Frame) => h.2 n2 _ _ _ _ _ v.toNat
    (fires (fire .el (plain v .i64) (least .i64)) (tagged f) 0x71 rfl) rfl rfl rfl rfl
  intro c f
  let g : Frame := { f with runs := [((1, 0), [1]), ((2, 0), [])] }
  let w : Frame := { f with talloc := [(1, 0, ⟨⟨0, .el, 0⟩, .talloc n2, (c 0).f⟩)] }
  refine ⟨⟨_, (T 512 f).1 (by decide +kernel)⟩, ⟨_, (T 0 Frame.none).2.1 (by decide +kernel) (by decide +kernel)⟩,
    ⟨_, (T 511 f).2.2.1 (by decide +kernel) ⟨rfl, .inl rfl⟩ (by decide +kernel)⟩,
    ⟨_, ((T 1 f).2.2.2 1 ⟨0, 2, 2, 0⟩ 0 (by decide +kernel) ⟨rfl, .inl rfl⟩ rfl).1 (by decide +kernel)⟩,
    ⟨_, ((T 0 g).2.2.2 1 ⟨0, 2, 2, 0⟩ 0 (by decide +kernel) ⟨rfl, .inl rfl⟩ rfl).2.1
      (by decide +kernel) 2 (by decide +kernel)⟩, ?_, ?_⟩
  · obtain ⟨_, _, -, -, -, e⟩ := ((T 0 f).2.2.2 1 ⟨0, 2, 2, 0⟩ 0 (by decide +kernel) ⟨rfl, .inl rfl⟩ rfl).2.2.1 (by decide +kernel)
      (by decide +kernel) (fun _ hw => absurd hw List.not_mem_nil) (sayNear_n2 _ _)
    exact ⟨_, e⟩
  · obtain ⟨_, -, -, e⟩ := ((T 0 w).2.2.2 1 ⟨0, 2, 2, 0⟩ 0 (by decide +kernel) ⟨rfl, .inl rfl⟩ rfl).2.2.2 (by decide +kernel)
      (by decide +kernel) _ [] [] _ _ rfl rfl rfl (fun _ hw => absurd hw List.not_mem_nil) rfl (.inl rfl) (emits_n2 _ _ _ _)
    exact ⟨_, e⟩

theorem fires_plain (c : Cur) (g : State → State) (op : Nat) (h : featureGroup op = none) : Fires (hand c g) c op :=
  ⟨rfl, fun x hx => by rw [h] at hx; cases hx⟩

/-- A budget of one frame on each die for region 5, and one page of frame class in cluster 0. -/
def framed (recur : Bool) (s : State) : State :=
  { s with regions := [(5, { reg with rcb := BitVec.ofNat 2048 (2 ^ 256), recursive := recur })]
           clusters := [(0, { Cluster.empty with pword := 1 })] }

/-- `falloc` with the budget open, and used up in a recursive and in another region. -/
theorem witness_falloc (h : Obligations.FramesAreAllocatedFreedAndReturned) :
    let c := fire .el (least .i64) (least .i64)
    Runs (.falloc n2) (hand c (framed false)) ∧ Runs (.falloc n2) (hand c fun s => withFrame liveFrame (framed true s)) ∧
    Runs (.falloc n2) (hand c fun s => withFrame liveFrame (framed false s)) := by
  intro c
  refine ⟨?_, ?_, ?_⟩
  · obtain ⟨_, -, -, -, -, -, e⟩ := (h.1 n2 _ _ (fires_plain c (framed false) 0x72 rfl) rfl).1 0 (by decide +kernel)
      (by decide +kernel) (by decide) rfl (fun k hk => absurd hk (Nat.not_lt_zero k)) (emits_n2 _ _ _ _)
    exact ⟨_, e⟩
  · exact ⟨_, (h.1 n2 _ _ (fires_plain c (fun s => withFrame liveFrame (framed true s)) 0x72 rfl) rfl).2.1 (by decide +kernel) rfl⟩
  · obtain ⟨_, e, -⟩ := (h.1 n2 _ _ (fires_plain c (fun s => withFrame liveFrame (framed false s)) 0x72 rfl) rfl).2.2
      (by decide +kernel) rfl
    exact ⟨_, e⟩

/-- `ffree` and `ret` of a live frame with no index allocated, of a frame that is not live, and of one with an index out; the
return arc of the live one is valid. -/
theorem witness_ffree_ret (h : Obligations.FramesAreAllocatedFreedAndReturned) :
    let c := fire .el (plain 0 .tagix) (least .i64)
    let out : Frame := { liveFrame with runs := [((1, 0), [1])] }
    let back : Frame := { liveFrame with retarc := 0x80000000 }
    (∀ f ∈ [back, Frame.none, out], Runs (.ffree n2) (hand c (tagged f))) ∧
    ∀ f ∈ [back, Frame.none, out], Runs (.ret n2) (hand c (tagged f)) := by
  intro c out back
  have A := fun f => h.2.1 n2 _ _ _ _ 0 (fires c (tagged f) 0x73 rfl) rfl rfl
  have B := fun f => h.2.2 n2 _ _ _ _ _ (fires c (tagged f) 0x75 rfl) rfl rfl rfl
  simp only [List.mem_cons, List.not_mem_nil, or_false, forall_eq_or_imp, forall_eq]
  refine ⟨⟨?_, ⟨_, (A Frame.none).2 (.inl (by decide +kernel))⟩, ⟨_, (A out).2 (.inr ⟨0, by decide +kernel, by decide +kernel⟩)⟩⟩,
    ?_, ⟨_, (B Frame.none).2 (.inl (by decide +kernel))⟩, ⟨_, (B out).2 (.inr ⟨0, by decide +kernel, by decide +kernel⟩)⟩⟩
  · obtain ⟨_, _, -, -, -, e⟩ := (A back).1 rfl (by decide +kernel) (.inl rfl) fun _ _ => emits_n2 _ _ _ _
    exact ⟨_, e⟩
  · obtain ⟨_, -, e, -⟩ := (B back).1 (by decide +kernel) (by decide +kernel) (.inl (by decide +kernel))
    exact ⟨_, e⟩

/-- `call` of its own region and of a code object that is not loaded; `fbcast`; `tagv`. -/
theorem witness_call (h : Obligations.CallBroadcastAndTag) :
    let c := fire .el (least .i64) (least .i64)
    Runs (.call n2) (hand c (framed false)) ∧
    Runs (.call n2) (hand c fun s => s.modUnit ⟨0, .el, 0⟩ fun h => { h with lits := [(13, 0xFFFF0000)] }) ∧
    Runs (.fbcast n2) (hand c (tagged liveFrame)) ∧ Runs (.tagv n2) (hand c id) := by
  intro c
  refine ⟨?_, ⟨_, h.2.1 n2 _ _ (fires c (fun s => s.modUnit ⟨0, .el, 0⟩ fun h => { h with lits := [(13, 0xFFFF0000)] }) 0x74 rfl)
    (by decide +kernel)⟩, ?_, ?_⟩
  · obtain ⟨_, _, -, -, e, -⟩ := h.1 n2 _ _ 5 _ _ _ _ _ 0 (fires_plain c (framed false) 0x74 rfl) (by decide +kernel) (reads .el _ _ _)
      rfl rfl rfl rfl (by decide +kernel) (by decide +kernel) (by decide) rfl (fun k hk => absurd hk (Nat.not_lt_zero k))
      trivial trivial
    exact ⟨_, e⟩
  · obtain ⟨_, _, -, -, -, -, -, e⟩ := h.2.2.1 n2 _ _ _ _ _ (fires c (tagged liveFrame) 0x76 rfl) rfl rfl rfl
      ⟨by decide +kernel, .inl (by decide +kernel)⟩
      fun _ _ => emits_n2 _ _ _ _
    exact ⟨_, e⟩
  · obtain ⟨_, -, e⟩ := h.2.2.2 n2 _ _ (fires c id 0x77 rfl) (emits_n2 _ _ _ _)
    exact ⟨_, e⟩

/-! ### Memory ports -/

/-- A pointer into the cluster's pool. -/
def poolPtr (off : Nat) : Payload := plain (BitVec.ofNat 64 (0xFC * 2 ^ 56 + off)) .u64

/-- Region 5 whose heap window is the first 2^20 bytes of its partition's HBM, readable and writable, of a kind. -/
def heaped (kind : Nat) (s : State) : State :=
  { s with regions := [(5, { reg with rcb := BitVec.ofNat 2048 (2 ^ 20 * 2 ^ 640 + (kind * 4 + 3) * 2 ^ 768) })] }

theorem witness_access (h : Obligations.MemoryPortAccessTakesAQueueEntry) (i : Instr) (m : MemForm) (c : Cur) (x : Scalar)
    (y : Payload) (hu : c.u = ⟨0, .mp, 0⟩) (hm : memForm i = some m) (hk : m.kind ≠ .stream) (hr : c.f.rid = 5)
    (ho : MemOperands (hand c id) c m (hand c id).base x y) (hp : PointerOk (hand c id).base c m x.val.toNat) :
    Runs i (hand c id) := by
  obtain ⟨t, e, -⟩ := h.2 i m _ c _ x y hm hk (fires c id m.op (by rw [hr]; rfl)) ho hp (by
    rw [hu]
    exact (by decide +kernel : accessRoom (State.unit (hand (fire .el (least .i64) (least .i64)) id).base ⟨0, .mp, 0⟩) = true))
  exact ⟨_, e⟩

/-- Accesses at the last place of the pool class that they fit in: bytes, words, lines, descriptors, atomics with and without
an expected value; and a prefetch, which is not held to the class. -/
theorem witness_accesses (h : Obligations.MemoryPortAccessTakesAQueueEntry) :
    let c := fun (off : Nat) (r : Payload) => fire .mp (poolPtr off) r
    let line : Payload := .line 0 0x0400 none
    let cx : Cur := { c 0x7FFF8 (least .i64) with f := { (c 0x7FFF8 (least .i64)).f with x := some (least .i64) } }
    Runs (.ldB n2 true .elem) (hand (c 0x7FFFF (least .i64)) id) ∧ Runs (.stD n2 .clu) (hand (c 0x7FFF8 (least .i8x8)) id) ∧
    Runs (.ldAcq n2 true .sys) (hand (c 0x7FFFC (least .i64)) id) ∧ Runs (.stRel n2 false .sys) (hand (c 0x7FFF8 (least .i64)) id) ∧
    Runs (.ldl n2 .clu) (hand (c 0x7FFC0 (least .i64)) id) ∧ Runs (.stl n2 .clu) (hand (c 0x7FFC0 line) id) ∧
    Runs (.stlm n2 .clu) (hand (c 0x7FFC0 line) id) ∧ Runs (.ldd n2 .clu) (hand (c 0x7FFC0 (least .i64)) id) ∧
    Runs (.std n2 .clu) (hand (c 0x7FFC0 (least .i64)) id) ∧ Runs (.pf n2) (hand (c 0x7FFFF (least .i64)) id) ∧
    Runs (.aadd n2 false .clu) (hand (c 0x7FFF8 (least .i64)) id) ∧ Runs (.acas n2 false .clu) (hand cx id) := by
  have W := fun i m c x y => witness_access h i m c x y
  refine ⟨W _ _ _ _ _ rfl rfl nofun rfl ⟨_, _, _, rfl, rfl, rfl, rfl, rfl, rfl, rfl⟩ ⟨_, rfl⟩,
    W _ _ _ _ _ rfl rfl nofun rfl ⟨_, _, _, rfl, rfl, rfl, rfl, rfl, rfl, rfl⟩ ⟨_, rfl⟩,
    W _ _ _ _ _ rfl rfl nofun rfl ⟨_, _, _, rfl, rfl, rfl, rfl, rfl, rfl, rfl⟩ ⟨_, rfl⟩,
    W _ _ _ _ _ rfl rfl nofun rfl ⟨_, _, _, rfl, rfl, rfl, rfl, rfl, rfl, rfl⟩ ⟨_, rfl⟩,
    W _ _ _ _ _ rfl rfl nofun rfl ⟨_, _, _, rfl, rfl, rfl, rfl, rfl, rfl, rfl⟩ ⟨_, rfl⟩,
    W _ _ _ _ _ rfl rfl nofun rfl ⟨_, _, _, rfl, rfl, rfl, rfl, rfl, rfl, rfl⟩ ⟨_, rfl⟩,
    W _ _ _ _ _ rfl rfl nofun rfl ⟨_, _, _, rfl, rfl, rfl, rfl, rfl, rfl, rfl⟩ ⟨_, rfl⟩,
    W _ _ _ _ _ rfl rfl nofun rfl ⟨_, _, _, rfl, rfl, rfl, rfl, rfl, rfl, rfl⟩ ⟨_, rfl⟩,
    W _ _ _ _ _ rfl rfl nofun rfl ⟨_, _, _, rfl, rfl, rfl, rfl, rfl, rfl, rfl⟩ ⟨_, rfl⟩,
    W _ _ _ _ _ rfl rfl nofun rfl ⟨_, _, _, rfl, rfl, rfl, rfl, rfl, rfl, rfl⟩ (by
      rw [PointerOk, if_pos rfl]
      rfl),
    W _ _ _ _ _ rfl rfl nofun rfl ⟨_, _, _, rfl, rfl, rfl, rfl, rfl, rfl, rfl⟩ ⟨_, rfl⟩,
    W _ _ _ _ _ rfl rfl nofun rfl ⟨_, _, _, rfl, rfl, rfl, rfl, rfl, rfl, rfl⟩ ⟨_, rfl⟩⟩

/-- A pointer of no form, misaligned pointers of both forms, and the first place beyond the class. -/
theorem witness_pointers (h : Obligations.PointerChecksFaultInOrder) :
    let c := fun (v : Word) => fire .mp (plain v .u64) (least .i64)
    Runs (.ldD n2 true .clu) (hand (c 0xFC00000000080000) id) ∧ Runs (.ldD n2 true .clu) (hand (c 7) id) ∧
    Runs (.ldD n2 true .clu) (hand (c 0xFC00000000000007) id) ∧
    Runs (.ldD n2 true .clu) (hand (c 0xFC0000000007F000) (framed false)) := by
  intro c
  have H := fun v => h (.ldD n2 true .clu) ⟨0x83, n2, .clu, .load 8 true⟩ (hand (c v) id) (c v) _ _ _ rfl nofun (fires _ id 0x83 rfl)
    ⟨_, _, _, rfl, rfl, rfl, rfl, rfl, rfl, rfl⟩
  have H' := h (.ldD n2 true .clu) ⟨0x83, n2, .clu, .load 8 true⟩ (hand (c 0xFC0000000007F000) (framed false)) (c 0xFC0000000007F000)
    _ _ _ rfl nofun (fires_plain _ (framed false) 0x83 rfl) ⟨_, _, _, rfl, rfl, rfl, rfl, rfl, rfl, rfl⟩
  exact ⟨⟨_, (H 0xFC00000000080000).1 rfl⟩, ⟨_, ((H 7).2 nofun).1 7 rfl (by decide)⟩,
    ⟨_, ((H 0xFC00000000000007).2 nofun).2.1 0 7 rfl (by decide)⟩,
    ⟨_, (H'.2 nofun).2.2 0 0x7F000 rfl (by decide) (by decide +kernel)⟩⟩

/-- A firing with a pointer to the last line of the pool. -/
def lastLine : Cur := fire .mp (poolPtr 0x7FFC0) (least .i64)

/-- Three of the four stream contexts of the port in use. -/
def threeStreams (s : State) : State :=
  let x : Stream := ⟨0, lastLine.f, .strm n2 .clu, 0, 0, false, none, false, []⟩
  s.modUnit ⟨0, .mp, 0⟩ fun h => { h with streams := [(0, x), (1, x), (2, x)] }

/-- Fences and a stream on the first of its port's four contexts and on the last. -/
theorem witness_fences (h : Obligations.FencesAndStreamsIssue) :
    Runs (.fencePub n2 .sys) (hand lastLine id) ∧ Runs (.fenceAcq n2 .sys) (hand lastLine id) ∧
    Runs (.strm n2 .clu) (hand lastLine id) ∧ Runs (.strm n2 .clu) (hand lastLine threeStreams) := by
  refine ⟨?_, ?_, ?_, ?_⟩
  · obtain ⟨_, e, -⟩ := h.1 n2 .sys _ _ (fires lastLine id 0x99 rfl) rfl (by decide +kernel)
    exact ⟨_, e⟩
  · obtain ⟨_, _, -, -, -, e⟩ := h.2.1 n2 .sys _ _ (fires lastLine id 0x9A rfl) rfl (emits_n2 _ _ _ _)
    exact ⟨_, e⟩
  · obtain ⟨_, e, -⟩ := h.2.2 n2 .clu _ _ _ _ _ _ 0 (fires lastLine id 0x9B rfl) rfl rfl rfl rfl rfl (fun e => by cases e) (by decide) rfl
      fun j hj => absurd hj (Nat.not_lt_zero j)
    exact ⟨_, e⟩
  · obtain ⟨_, e, -⟩ := h.2.2 n2 .clu _ _ _ _ _ _ 3 (fires lastLine threeStreams 0x9B rfl) rfl rfl rfl rfl rfl (fun e => by cases e) (by decide) rfl
      (by decide +kernel)
    exact ⟨_, e⟩

/-! ### Accesses of a memory port -/

/-- A memory port. -/
def mp0 : UId := ⟨0, .mp, 0⟩

/-- An entry of its access queue with two operands and an ordering input. -/
def acc (i : Instr) (l r : Payload) : Access :=
  ⟨7, i, ⟨0, 5, 0, some l, some r, some (marker 4 false), none, 0, 0, 0⟩, .queued, none, none, false, 0⟩

/-- A device whose port holds one access. -/
def port (a : Access) (g : State → State) : State :=
  g { State.reset with nextId := 10, regions := [(5, reg)], units := [(mp0, { HwUnit.empty with access := [a] })] }

theorem noneEnding (s : State) (h : (s.regions.all fun p => decide ((s.region p.1).st ≠ .ending)) = true) : NoneEnding s := by
  simpa [NoneEnding] using h

theorem noneHeld (s : State) (line : Nat) (h : (s.clusters.all fun p => p.2.writeQ.all fun e => decide (e.line ≠ line)) = true) :
    NoneHeld s line := by
  simpa [NoneHeld] using h

theorem quiet (s : State) (line : Nat) (h : translates s line = false)
    (h' : (s.clusters.all fun p => p.2.writeQ.all fun e => decide (e.line ≠ line)) = true) : Quiet s line := ⟨h, noneHeld s line h'⟩

theorem performs (a : Access) (g : State → State) (m : MemForm) (t : Target) (ha : accessNo (port a g) mp0 a.id = some a)
    (hm : memForm a.i = some m) (hq : a.st = .queued) (ht : accessTarget (port a g) mp0 a m = .at t)
    (hn : NoneEnding (port a g)) (hr : t.r = true) (hw : t.w = true) (hi : t.ident = 0) (ho : a.f.o.isSome = true) :
    Performs (port a g) mp0 a m t := ⟨ha, hm, hq, ht, hn, fun _ => hr, fun _ => hw, .inr (.inl hi), fun _ => ho⟩

/-- The target of an address in the heap window. -/
def inHeap (a : Access) (kind v : Nat) : Target :=
  ⟨physKey (port a (heaped kind)) 0 v, false, 0, 0, v, (PKind.ofCode? kind).getD .rc, 0, true, true⟩

/-- The last line of the heap window as a read buffer has it. -/
def lastBuffered : RbLine := ⟨physKey State.reset 0 0xFFFFF / 64 * 64, 0, 0, 0⟩

/-- The heap window, and its last line in the port's read buffer. -/
def bufferedLine (s : State) : State := (heaped 0 s).modUnit mp0 fun h => { h with readBuf := [lastBuffered] }

/-- Loads of a byte, of an acquired word, of a line and of a descriptor at the end of the pool; and of a byte of a line that the
port has buffered. -/
theorem witness_loads (h : Obligations.LoadsSendWhatTheirClusterSees) :
    (∀ p ∈ [(Instr.ldB n2 true .elem, 0x7FFFF), (.ldAcq n2 true .sys, 0x7FFFC), (.ldl n2 .clu, 0x7FFC0), (.ldd n2 .clu, 0x7FFC0)],
      Runs (.memoryAccessPerformed mp0 7) (port (acc p.1 (poolPtr p.2) (least .i64)) id)) ∧
    Runs (.memoryAccessPerformed mp0 7) (port (acc (.ldB n2 true .elem) (plain 0xFFFFF .u64) (least .i64)) bufferedLine) := by
  have P := fun a m t => performs a id m t
  simp only [List.mem_cons, List.not_mem_nil, or_false, forall_eq_or_imp, forall_eq]
  refine ⟨⟨?_, ?_, ?_, ?_⟩, ?_⟩
  · obtain ⟨_, -, e, -⟩ := h.1 _ mp0 (acc (.ldB n2 true .elem) (poolPtr 0x7FFFF) (least .i64)) _ _
      (P _ _ _ rfl rfl rfl rfl (noneEnding _ (by decide +kernel)) rfl rfl rfl rfl) rfl (.inl ⟨_, _, rfl⟩) (fun _ => rfl) rfl
      rfl (emits_n2 _ _ _ _)
    exact ⟨_, e⟩
  · obtain ⟨_, -, e, -⟩ := h.1 _ mp0 (acc (.ldAcq n2 true .sys) (poolPtr 0x7FFFC) (least .i64)) _ _
      (P _ _ _ rfl rfl rfl rfl (noneEnding _ (by decide +kernel)) rfl rfl rfl rfl) rfl (.inr (.inl ⟨_, rfl⟩)) (fun _ => rfl) rfl
      (by decide +kernel) (emits_n2 _ _ _ _)
    exact ⟨_, e⟩
  · obtain ⟨_, -, e, -⟩ := h.1 _ mp0 (acc (.ldl n2 .clu) (poolPtr 0x7FFC0) (least .i64)) _ _
      (P _ _ _ rfl rfl rfl rfl (noneEnding _ (by decide +kernel)) rfl rfl rfl rfl) rfl (.inr (.inr (.inl rfl))) (fun _ => rfl) rfl
      rfl (emits_n2 _ _ _ _)
    exact ⟨_, e⟩
  · obtain ⟨_, -, e, -⟩ := h.1 _ mp0 (acc (.ldd n2 .clu) (poolPtr 0x7FFC0) (least .i64)) _ _
      (P _ _ _ rfl rfl rfl rfl (noneEnding _ (by decide +kernel)) rfl rfl rfl rfl) rfl (.inr (.inr (.inr rfl))) (fun _ => rfl) rfl
      rfl (emits_n2 _ _ _ _)
    exact ⟨_, e⟩
  · let A := acc (.ldB n2 true .elem) (plain 0xFFFFF .u64) (least .i64)
    obtain ⟨_, _, _, -, -, e, -⟩ := h.2 _ mp0 A _ (inHeap A 0 0xFFFFF) _
      (performs A bufferedLine _ _ (by decide +kernel) rfl rfl (by decide +kernel) (noneEnding _ (by decide +kernel)) rfl rfl rfl rfl)
      (by decide +kernel) (.inl ⟨_, _, rfl⟩) nofun (by decide +kernel : _ = some lastBuffered) (by decide +kernel)
      (by decide +kernel) (by decide +kernel) (by decide +kernel) (emits_n2 _ _ _ _)
    exact ⟨_, e⟩

/-- Stores at the end of the pool, and at the end of a window of kind SO. -/
theorem witness_pool_stores (h : Obligations.PoolStoresWriteTheirBytesAndNoOthers) :
    Runs (.memoryAccessPerformed mp0 7) (port (acc (.stD n2 .clu) (poolPtr 0x7FFF8) (least .i8x8)) id) ∧
    Runs (.memoryAccessPerformed mp0 7) (port (acc (.stl n2 .clu) (poolPtr 0x7FFC0) (.line 0 0x0400 none)) id) ∧
    Runs (.memoryAccessPerformed mp0 7) (port (acc (.std n2 .clu) (poolPtr 0x7FFC0) (plain 0x0500 .i64)) id) ∧
    Runs (.memoryAccessPerformed mp0 7) (port (acc (.stB n2 .clu) (plain 0xFFFFF .u64) (least .i64)) (heaped 2)) := by
  have C := fun s c b sc => emits_n2 s c b sc
  refine ⟨?_, ?_, ?_, ?_⟩
  · obtain ⟨_, -, e, -⟩ := h _ mp0 (acc (.stD n2 .clu) (poolPtr 0x7FFF8) (least .i8x8)) _ _ _ _ (by decide +kernel)
      (performs _ id _ _ rfl rfl rfl rfl (noneEnding _ (by decide +kernel)) rfl rfl rfl rfl) rfl (.inl rfl) ⟨⟨rfl, rfl, rfl⟩, rfl, rfl⟩
      (by decide +kernel) (C _ _ _ _)
    exact ⟨_, e⟩
  · obtain ⟨_, -, e, -⟩ := h _ mp0 (acc (.stl n2 .clu) (poolPtr 0x7FFC0) (.line 0 0x0400 none)) _ _ _ _ (by decide +kernel)
      (performs _ id _ _ rfl rfl rfl rfl (noneEnding _ (by decide +kernel)) rfl rfl rfl rfl) rfl (.inl rfl) ⟨rfl, rfl, rfl⟩
      (by decide +kernel) (C _ _ _ _)
    exact ⟨_, e⟩
  · obtain ⟨_, -, e, -⟩ := h _ mp0 (acc (.std n2 .clu) (poolPtr 0x7FFC0) (plain 0x0500 .i64)) _ _ _ _ (by decide +kernel)
      (performs _ id _ _ rfl rfl rfl rfl (noneEnding _ (by decide +kernel)) rfl rfl rfl rfl) rfl (.inl rfl) ⟨by decide, rfl, rfl, rfl⟩
      (by decide +kernel) (C _ _ _ _)
    exact ⟨_, e⟩
  · let A := acc (.stB n2 .clu) (plain 0xFFFFF .u64) (least .i64)
    obtain ⟨_, -, e, -⟩ := h _ mp0 A _ (inHeap A 2 0xFFFFF) _ _ (by decide +kernel)
      (performs A (heaped 2) _ _ (by decide +kernel) rfl rfl (by decide +kernel) (noneEnding _ (by decide +kernel)) rfl rfl rfl rfl)
      (by decide +kernel) (.inr rfl) ⟨⟨by decide +kernel, by decide +kernel, by decide +kernel⟩, rfl, rfl⟩
      (by decide +kernel) (C _ _ _ _)
    exact ⟨_, e⟩

/-- A store to an RC line or a UN line that its cluster holds. -/
def held (un : Bool) : HeldStore := ⟨20, 5, [(0x7F, 1)], 0x40, none, un, none, mp0, 7, 0⟩

/-- Cluster 0 with a write queue. -/
def queued (e : HeldStore) (s : State) : State := { s with clusters := [(0, { Cluster.empty with writeQ := [e] })] }

/-- A port that has translated by an entry of line 0x40. -/
def walked (s : State) : State := s.modUnit mp0 fun h => { h with tlb := [⟨0, 0, 0, 0, [0x40]⟩] }

/-- Stores to an RC and to a UN page, the RC one when it drains, at a narrow and at a wide scope, and the UN one by itself, which
is then in memory, and which takes with it what else is held where it changes a table. -/
theorem witness_hbm_stores (h : Obligations.HbmStoresAreQueuedAndThenDrain) :
    (∀ k, k < 2 → Runs (.memoryAccessPerformed mp0 7) (port (acc (.stB n2 .clu) (plain 0xFFFFF .u64) (least .i64)) (heaped k))) ∧
    (∀ sc, sc ∈ [Scope.clu, .sys] → Runs (.memoryAccessPerformed mp0 7)
      (port { acc (.stB n2 sc) (plain 0x7F .u64) (least .i64) with st := .accepted, aux := 20 } (queued (held false)))) ∧
    Runs (.unStoreDrainTimeout 0 20) (queued (held true) State.reset) ∧
    Stored (queued (held true) State.reset) (drainStore (queued (held true) State.reset) (held true)) 0x40 [(0x7F, 1)] none ∧
    ((drainStore (walked (queued (held true) State.reset)) (held true)).cluster 0).writeQ = [] := by
  refine ⟨fun k hk => ?_, fun sc hs => ?_, ?_, ?_, ?_⟩
  · let A := acc (.stB n2 .clu) (plain 0xFFFFF .u64) (least .i64)
    obtain rfl | rfl : k = 0 ∨ k = 1 := by omega
    · obtain ⟨_, e, -⟩ := h.1 _ mp0 A _ (inHeap A 0 0xFFFFF) _ _
        (performs A (heaped 0) _ _ (by decide +kernel) rfl rfl (by decide +kernel) (noneEnding _ (by decide +kernel)) rfl rfl rfl rfl)
        (by decide +kernel) rfl nofun ⟨⟨by decide +kernel, by decide +kernel, by decide +kernel⟩, rfl, rfl⟩
        (emits_n2 _ _ _ _)
      exact ⟨_, e⟩
    · obtain ⟨_, e, -⟩ := h.1 _ mp0 A _ (inHeap A 1 0xFFFFF) _ _
        (performs A (heaped 1) _ _ (by decide +kernel) rfl rfl (by decide +kernel) (noneEnding _ (by decide +kernel)) rfl rfl rfl rfl)
        (by decide +kernel) rfl nofun ⟨⟨by decide +kernel, by decide +kernel, by decide +kernel⟩, rfl, rfl⟩
        (emits_n2 _ _ _ _)
      exact ⟨_, e⟩
  · let A : Access := { acc (.stB n2 sc) (plain 0x7F .u64) (least .i64) with st := .accepted, aux := 20 }
    obtain ⟨_, e, -⟩ := h.2.1 (port A (queued (held false))) mp0 A ⟨0x84, n2, sc, .store 1⟩ (held false) rfl rfl rfl (noneEnding _ rfl)
      (List.mem_singleton.mpr rfl) rfl (fun x hx _ => List.mem_singleton.mp hx) fun _ => emits_n2 _ _ _ _
    exact ⟨_, e⟩
  · exact ⟨_, h.2.2.1 (queued (held true) State.reset) 0 (held true) (List.mem_singleton.mpr rfl) rfl
      fun x hx _ => List.mem_singleton.mp hx⟩
  · exact (h.2.2.2.1 (queued (held true) State.reset) 0 (held true) (by decide +kernel) (List.mem_singleton.mpr rfl) (by decide +kernel)
      (by decide +kernel) (fun p hp x hx _ => .inl (by
        obtain rfl := List.mem_singleton.mp hp
        exact List.mem_singleton.mp hx)) rfl).1
  · exact h.2.2.2.2 (walked (queued (held true) State.reset)) 0 (held true) (List.mem_singleton.mpr rfl) (by decide +kernel) 0

/-- An atomic add, a minimum and a compare-and-swap at the end of the pool. -/
theorem witness_atomics (h : Obligations.AtomicsUpdateOneOperand) :
    ∀ i ∈ [Instr.aadd n2 false .clu, .amin n2 true .clu, .acas n2 false .clu],
      Runs (.memoryAccessPerformed mp0 7) (port (acc i (poolPtr 0x7FFF8) (plain 1 .i64)) id) := by
  simp only [List.mem_cons, List.not_mem_nil, or_false, forall_eq_or_imp, forall_eq]
  refine ⟨?_, ?_, ?_⟩
  · obtain ⟨_, -, e, -⟩ := h _ mp0 (acc (.aadd n2 false .clu) (poolPtr 0x7FFF8) (plain 1 .i64)) _ _ .add false (by decide +kernel)
      (performs _ id _ _ rfl rfl rfl rfl (noneEnding _ (by decide +kernel)) rfl rfl rfl rfl) rfl rfl _ rfl ⟨rfl, rfl, rfl⟩
      (by decide +kernel) (emits_n2 _ _ _ _)
    exact ⟨_, e⟩
  · obtain ⟨_, -, e, -⟩ := h _ mp0 (acc (.amin n2 true .clu) (poolPtr 0x7FFF8) (plain 1 .i64)) _ _ .min true (by decide +kernel)
      (performs _ id _ _ rfl rfl rfl rfl (noneEnding _ (by decide +kernel)) rfl rfl rfl rfl) rfl rfl 0
      (by decide +kernel) ⟨rfl, rfl, rfl⟩ (by decide +kernel) (emits_n2 _ _ _ _)
    exact ⟨_, e⟩
  · obtain ⟨_, -, e, -⟩ := h _ mp0 (acc (.acas n2 false .clu) (poolPtr 0x7FFF8) (plain 1 .i64)) _ _ .cas false (by decide +kernel)
      (performs _ id _ _ rfl rfl rfl rfl (noneEnding _ (by decide +kernel)) rfl rfl rfl rfl) rfl rfl _ rfl ⟨rfl, rfl, rfl⟩
      (by decide +kernel) (emits_n2 _ _ _ _)
    exact ⟨_, e⟩

/-- Region 5 in a logged interval, with one page of log in cluster 0 that holds some stores. -/
def logged (l : List LogStore) (s : State) : State :=
  { s with regions := [(5, { reg with logged := true })]
           clusters := [(0, { Cluster.empty with pword := 0x01000000, ilog := l })] }

/-- A logged store to a raw line; `decl` is the format that it declares. -/
def logHeld (decl : Nat) : LogStore :=
  ⟨5, [(0x7F, 1)], 0x40, none, none, .clu, .scalar decl, ⟨some mp0, 0, 0, 5, 0, 0, 0, 0, 0, 0, none, 0⟩, none⟩

/-- A logged store, the commit of a log that holds one, and that of one whose line has come to refuse it. -/
theorem witness_logged_stores (h : Obligations.LoggedStoresWaitForTheCommit) :
    let typed : State := { logged [logHeld 1] State.reset with mem := [(descKey 0x40 + 1, 2)] }
    Runs (.memoryAccessPerformed mp0 7) (port (acc (.stD n2 .clu) (poolPtr 0x7EFF8) (least .i64)) (logged [])) ∧
    Stored (logged [logHeld 1] State.reset) (commitLogs (logged [logHeld 1] State.reset) 5) 0x40 [(0x7F, 1)] none ∧
    ∃ s1 f, commitStore typed 0 (logHeld 1) = takeFault s1 (logHeld 1).site f := by
  refine ⟨?_, ?_, ?_⟩
  · obtain ⟨_, -, e, -⟩ := h.1 _ mp0 (acc (.stD n2 .clu) (poolPtr 0x7EFF8) (least .i64)) _ _ _ _
      (performs _ (logged []) _ _ rfl rfl rfl rfl (noneEnding _ (by decide +kernel)) rfl rfl rfl rfl) rfl (by decide +kernel)
      (.inl rfl) ⟨⟨rfl, rfl, rfl⟩, rfl, rfl⟩ (emits_n2 _ _ _ _)
    exact ⟨_, e⟩
  · exact (h.2.1 (logged [logHeld 1] State.reset) 5 0 (by decide +kernel) rfl (logHeld 1) rfl rfl rfl (quiet _ _ rfl (by decide +kernel))
      (by decide +kernel) (by decide +kernel) (by decide +kernel)).1
  · obtain ⟨s1, -, e⟩ := h.2.2.1 { logged [logHeld 1] State.reset with mem := [(descKey 0x40 + 1, 2)] } 0 (logHeld 1)
      (quiet _ _ rfl (by decide +kernel)) (by decide +kernel)
    exact ⟨_, _, e⟩

/-- The page table of region 5: an entry of its first table and one of its second, in HBM that hardware has zeroed. -/
def paged (e1 e2 : Nat) (s : State) : State :=
  { s with mem := Memory.writeN (Memory.writeN [] (physKey s 0 0) 8 e1) (physKey s 0 4096) 8 e2
           zeroed := [(0, 2 ^ 39)], pageRecs := [lineOf (physKey s 0 4096)] }

/-- An entry that points to the second table. -/
def tableEntry1 : Nat := 0x8000000000001000

/-- A leaf whose page is not resident. -/
def absentLeaf : Nat := 0xC000000000000000

/-- A load of the page at 0. -/
def load0 (st : AccSt) (woken : Bool) : Access := { acc (.ldB n2 true .clu) (plain 0xFFF .u64) (least .i64) with st, woken }

/-- A walk that ends at a 1 GiB page, at a page that is moving, and at one that is not resident. -/
theorem witness_walks (h : Obligations.MemoryPortWaitsEndAndStreamsStep) :
    ∀ p ∈ [(tableEntry1, 0xD180000000000000), (tableEntry1, 0xD980000000000000), (tableEntry1, absentLeaf)],
      Runs (.pageWalkComplete mp0 7) (port (load0 .walking false) (paged p.1 p.2)) := by
  have W := fun g => h.1.1 (port (load0 .walking false) g) mp0 7 (load0 .walking false) ⟨0x80, n2, .clu, .load 1 true⟩ 0xFFF
  simp only [List.mem_cons, List.not_mem_nil, or_false, forall_eq_or_imp, forall_eq]
  refine ⟨?_, ?_, ?_⟩
  · obtain ⟨_, -, -, -, -, -, -, e⟩ := (W (paged tableEntry1 0xD180000000000000) (by decide +kernel) rfl rfl (noneEnding _ (by decide +kernel))
      (by decide +kernel)).1 (2 ^ 30) 0xD180000000000000 [lineOf (physKey State.reset 0 0), lineOf (physKey State.reset 0 4096)]
      (by decide +kernel)
    exact ⟨_, e⟩
  · obtain ⟨_, e, -⟩ := (W (paged tableEntry1 0xD980000000000000) (by decide +kernel) rfl rfl (noneEnding _ (by decide +kernel))
      (by decide +kernel)).2.1 (lineOf (physKey State.reset 0 4096)) (by decide +kernel) nofun rfl
    exact ⟨_, e⟩
  · obtain ⟨_, e, -⟩ := (W (paged tableEntry1 absentLeaf) (by decide +kernel) rfl rfl (noneEnding _ (by decide +kernel))
      (by decide +kernel)).2.2 1 4096 (lineOf (physKey State.reset 0 4096)) (by decide +kernel) nofun rfl rfl (List.mem_singleton.mpr rfl)
      (by decide +kernel)
    exact ⟨_, e⟩

/-- A device whose port holds an access in another queue, or other entries. -/
def unit0 (u : UId) (x : HwUnit) (s : State) : State := { s with nextId := 10, regions := [(5, reg)], units := [(u, x)] }

/-- An engine port. -/
def eng0 : UId := ⟨0, .eng, 0⟩

/-- A page of 4 KiB at 0 in a TLB, of kind RC, readable and writable. -/
def page0 : TlbEntry := ⟨0, 0, 4096, 0xD180000000000000, []⟩

/-- A stream of one line, whose descriptor stands at the end of the pool and whose line stands at its start. -/
def stream0 (started : Bool) (j : Nat) (ahead : List (Option (LineData × Desc))) : Stream :=
  ⟨if started then 0x00010001FC00000000000000 else 0, { lastLine.f with o := none }, .strm n2 .clu, j, 0, started, none, false, ahead⟩

/-- The device with the stream and its descriptor line. -/
def streaming (x : Stream) : State :=
  { unit0 mp0 { HwUnit.empty with streams := [(3, x)] } State.reset with
    mem := Memory.writeN [] (poolKey 0 0x7FFC0) 64 0x00010001FC00000000000000 }

/-- The port with its page in the TLB and a side-log entry that waits on it no more. -/
def replaying : State := unit0 mp0 { HwUnit.empty with
  tlb := [page0], sideLog := [⟨0, .stB n2 .clu, (acc (.stB n2 .clu) (plain 0xFFF .u64) (least .i64)).f, 0, true⟩] } State.reset

/-- A meaning answers. -/
def isOk {ε α : Type} (r : Except ε α) : Bool := match r with | .ok _ => true | .error _ => false

/-- What it answers, or a default. -/
def okVal {ε α : Type} (d : α) (r : Except ε α) : α := match r with | .ok x => x | .error _ => d

theorem ok_val {ε α : Type} {r : Except ε α} (d : α) (h : isOk r = true) : r = .ok (okVal d r) := by
  cases r with
  | ok x => rfl
  | error e => cases h

/-- A place of the pool as a target. -/
def inPool (off : Nat) : Target := ⟨poolKey 0 off, true, 0, off, 0, .rc, 0, true, true⟩

/-- What a stream's context reads `j` lines from the next that it sends. -/
def streamGets (s : State) (x : Stream) (j : Nat) : Except State (LineData × Desc × State) :=
  streamLoad s mp0 3 x j ⟨0x9B, n2, .clu, .stream⟩

/-- A store that a page walk ends for, with other entries in the side log. -/
def walkingStore (n : Nat) : State :=
  port { acc (.stB n2 .clu) (plain 0xFFF .u64) (least .i64) with st := .walking } fun s => (paged tableEntry1 absentLeaf s).modUnit mp0 fun h =>
    { h with sideLog := List.replicate n ⟨0, .stB n2 .clu, lastLine.f, 0, false⟩ }

/-- A store to an absent page with the side log empty and with it full. -/
theorem witness_side_log (h : Obligations.MemoryPortWaitsEndAndStreamsStep) :
    Runs (.pageWalkComplete mp0 7) (walkingStore 0) ∧ Runs (.pageWalkComplete mp0 7) (walkingStore 256) := by
  have W := fun n => h.2.1 (walkingStore n) mp0 7 { acc (.stB n2 .clu) (plain 0xFFF .u64) (least .i64) with st := .walking }
    ⟨0x84, n2, .clu, .store 1⟩ 0xFFF 1 4096 (lineOf (physKey State.reset 0 4096))
  constructor
  · obtain ⟨_, e, -⟩ := (W 0 (by decide +kernel) rfl rfl (noneEnding _ (by decide +kernel)) rfl (by decide +kernel) (by decide +kernel)
      (by decide +kernel) (by decide +kernel) rfl (by decide +kernel)).1 (by decide +kernel)
    exact ⟨_, e⟩
  · obtain ⟨_, e, -⟩ := (W 256 (by decide +kernel) rfl rfl (noneEnding _ (by decide +kernel)) rfl (by decide +kernel) (by decide +kernel)
      (by decide +kernel) (by decide +kernel) rfl (by decide +kernel)).2 (by decide +kernel)
    exact ⟨_, e⟩

/-- A stream at its descriptor, with its line to read, being read and read, and with all its lines sent. -/
theorem witness_stream_steps (h : Obligations.MemoryPortWaitsEndAndStreamsStep) :
    ∀ x ∈ [stream0 false 0 [], stream0 true 0 [], stream0 true 0 [none], stream0 true 0 [some (0, 0)], stream0 true 1 []],
      Runs (.streamLine mp0 3) (streaming x) := by
  have H := fun x h1 => h.2.2.2.2.2 (streaming x) mp0 3 x ⟨0x9B, n2, .clu, .stream⟩ h1
  simp only [List.mem_cons, List.not_mem_nil, or_false, forall_eq_or_imp, forall_eq]
  refine ⟨?_, ?_, ?_, ?_, ?_⟩
  · exact ⟨_, (H (stream0 false 0 []) rfl rfl (by decide +kernel)).1 rfl (by decide +kernel) _ _ _
      (ok_val (r := streamGets (streaming (stream0 false 0 [])) (stream0 false 0 []) 0) (0, 0, State.reset) (by decide +kernel))
      (by decide +kernel)⟩
  · exact ⟨_, ((H (stream0 true 0 []) rfl rfl (by decide +kernel)).2.1 rfl (.inr (by decide +kernel))).1 (by decide +kernel)
      (by decide +kernel) (by decide +kernel)⟩
  · obtain ⟨_, -, _, _, _, -, e⟩ := ((H (stream0 true 0 [none]) rfl rfl (by decide +kernel)).2.1 rfl (.inr (by decide +kernel))).2
      (.inl (by decide +kernel)) (by decide +kernel) fun j hj => by
        obtain rfl : j = 0 := List.mem_singleton.mp ((by decide +kernel : (stream0 true 0 [none]).reading = [0]) ▸ hj)
        exact ⟨_, ok_val (r := streamGets { streaming (stream0 true 0 [none]) with nonce := 2 } (stream0 true 0 [none]) 0)
          (0, 0, State.reset) (by decide +kernel)⟩
    exact ⟨_, e⟩
  · exact ⟨_, ((H (stream0 true 0 [some (0, 0)]) rfl rfl (by decide +kernel)).2.2 rfl (by decide +kernel)).1 _ _ _ _
      (by decide +kernel) rfl (ok_val State.reset (by decide +kernel))⟩
  · exact ⟨_, ((H (stream0 true 1 []) rfl rfl (by decide +kernel)).2.2 rfl (by decide +kernel)).2 _ _ (by decide +kernel)
      (ok_val 0 (by decide +kernel)) (ok_val State.reset (by decide +kernel))⟩

/-- A held access and a migrating one, of a port and of an engine port; a buffered line; a fence; a side-log entry whose page
has come, and a store that waits for room in the log. -/
theorem witness_port_steps (h : Obligations.MemoryPortWaitsEndAndStreamsStep) :
    Runs (.heldAccessWake mp0 7) (port (load0 .held true) id) ∧ Runs (.migrationWaitEnd mp0 7) (port (load0 .migrating true) id) ∧
    Runs (.heldAccessWake eng0 7) (unit0 eng0 { HwUnit.empty with ops := [load0 .held true] } State.reset) ∧
    Runs (.migrationWaitEnd eng0 7) (unit0 eng0 { HwUnit.empty with ops := [load0 .migrating true] } State.reset) ∧
    Runs (.readBufferExpiry mp0 0x40) (unit0 mp0 { HwUnit.empty with readBuf := [⟨0x40, 0, 0, 0⟩] } State.reset) ∧
    Runs (.fenceDrainComplete mp0 7) (port (acc (.fencePub n2 .sys) (least .i64) (least .i64)) id) ∧
    Runs (.sideLogReplay mp0) replaying ∧
    Runs (.sideLogWaitEnd mp0) (port { acc (.stB n2 .clu) (plain 0xFFF .u64) (least .i64) with st := .sideWait } id) := by
  refine ⟨?_, ?_, ?_, ?_, ?_, ?_, ?_, ?_⟩
  · obtain ⟨_, e, -⟩ := (h.1.2.1 (port (load0 .held true) id) mp0 7 (load0 .held true) ⟨0x80, n2, .clu, .load 1 true⟩ 0xFFF rfl rfl rfl
      (noneEnding _ rfl) rfl rfl (by decide +kernel) rfl rfl).1 rfl
    exact ⟨_, e⟩
  · obtain ⟨_, e, -⟩ := (h.1.2.1 (port (load0 .migrating true) id) mp0 7 (load0 .migrating true) ⟨0x80, n2, .clu, .load 1 true⟩ 0xFFF
      rfl rfl rfl (noneEnding _ rfl) rfl rfl (by decide +kernel) rfl rfl).2 rfl
    exact ⟨_, e⟩
  · obtain ⟨_, e, -⟩ := (h.1.2.2.1 (unit0 eng0 { HwUnit.empty with ops := [load0 .held true] } State.reset) eng0 7 (load0 .held true)
      rfl rfl rfl rfl (noneEnding _ rfl)).1 rfl
    exact ⟨_, e⟩
  · obtain ⟨_, e, -⟩ := (h.1.2.2.1 (unit0 eng0 { HwUnit.empty with ops := [load0 .migrating true] } State.reset) eng0 7
      (load0 .migrating true) rfl rfl rfl rfl (noneEnding _ rfl)).2 rfl
    exact ⟨_, e⟩
  · obtain ⟨_, e, -⟩ := h.1.2.2.2.1 (unit0 mp0 { HwUnit.empty with readBuf := [⟨0x40, 0, 0, 0⟩] } State.reset) mp0 0x40
      ⟨_, List.mem_singleton.mpr rfl, rfl⟩
    exact ⟨_, e⟩
  · obtain ⟨_, -, e, -⟩ := h.1.2.2.2.2 (port (acc (.fencePub n2 .sys) (least .i64) (least .i64)) id) mp0 7 _ n2 .sys rfl rfl
      (emits_n2 _ _ _ _)
    exact ⟨_, e⟩
  · let a : Access := ⟨10, .stB n2 .clu, (acc (.stB n2 .clu) (plain 0xFFF .u64) (least .i64)).f, .queued, none, none, false, 1⟩
    let t : Target := ⟨physKey replaying 0 0xFFF, false, 0, 0, 0xFFF, .rc, 0, true, true⟩
    let s1 := (findNow { replaying with nextId := 11 } mp0 5 1 0xFFF).2
    have hs := ok_val State.reset (r := accessAt (s1.modUnit mp0 fun h => { h with sideLog := [], access := h.access ++ [a] }) mp0 a
      ⟨0x84, n2, .clu, .store 1⟩ t) (by decide +kernel)
    exact ⟨_, h.2.2.1 replaying mp0 [] ⟨0, .stB n2 .clu, a.f, 0, true⟩ [] ⟨0x84, n2, .clu, .store 1⟩ t s1 _ (by decide +kernel) rfl
      (by decide +kernel) hs⟩
  · obtain ⟨_, e, -⟩ := h.2.2.2.1 (port { acc (.stB n2 .clu) (plain 0xFFF .u64) (least .i64) with st := .sideWait } id) mp0 _
      ⟨0x84, n2, .clu, .store 1⟩ 0xFFF rfl rfl (noneEnding _ rfl) (by decide) rfl (by decide +kernel) rfl rfl rfl
    exact ⟨_, e⟩

/-! ### Tokens, tiles, sluices, configuration, frames -/

/-- An element. -/
def el0 : UId := ⟨0, .el, 0⟩

/-- A token to its slot 0, of tag 9. -/
def flit0 (right : Bool) : Flit := ⟨mp0, 0, 5, 0, 0, 0, 0, right, least .i64, 9, 0, 0⟩

/-- A complete element with one node word, a matching store, and a token on its way. -/
def meets (w : BitVec 32) (store : List MatchEntry) (f : Flit) : State :=
  { unit0 el0 { HwUnit.empty with words := [(0, (w, 5))], complete := true, store } State.reset with net := [f] }

/-- A waiting token of the left side of slot 0. -/
def waits (n : Nat) : MatchEntry := ⟨0, .left, BitVec.ofNat 24 n, 5, least .i32, false⟩

/-- A right token that meets a left one, a left one that meets none and takes the last entry of the store, one under the same
tag as a waiting one, a token of a `merge`, and one that finds the store full and no overflow class. -/
theorem witness_matching (h : Obligations.TokensMeetInTheMatchingStore) :
    Runs (.tokenArrival 0) (meets 0x60001120 [waits 9] (flit0 true)) ∧
    Runs (.tokenArrival 0) (meets 0x60001120 ((List.range 63).map fun n => waits (n + 10)) (flit0 false)) ∧
    Runs (.tokenArrival 0) (meets 0x60001120 [waits 9] (flit0 false)) ∧
    Runs (.tokenArrival 0) (meets 0x61001120 [] (flit0 false)) ∧
    Runs (.tokenArrival 0) (meets 0x60001120 ((List.range 64).map fun n => waits (n + 10)) (flit0 false)) := by
  have H := fun w l r sd (hf : netFirst (meets w l (flit0 r)) 0 = some (flit0 r)) (hx : crosses (meets w l (flit0 r)) (flit0 r) = false)
      hm (hp : AL.find? ((meets w l (flit0 r)).unit el0).words 0 = some (w, 5)) (hr : ((meets w l (flit0 r)).region 5).st = .active)
      (hw : watched (meets w l (flit0 r)) 5 (flit0 r) = false) =>
    h (meets w l (flit0 r)) 0 (flit0 r) .el 0 sd w 5 hf hx rfl rfl rfl (.inl rfl) rfl hm hp (by rw [hr]; nofun) (by rw [hr]; nofun)
      (by rw [hr]; nofun) hw
  have B := fun n => H 0x60001120 ((List.range n).map fun n => waits (n + 10)) false .left
  refine ⟨?_, ?_, ?_, ?_, ?_⟩
  · obtain ⟨_, e, -⟩ := (H 0x60001120 [waits 9] true .right rfl (by decide) rfl rfl rfl rfl (by decide)).1 [waits 9]
      (by decide) (by decide) (by decide) (by decide) rfl
    exact ⟨_, e⟩
  · obtain ⟨_, e, -⟩ := (B 63 (by decide +kernel) (by decide +kernel) (by decide +kernel) (by decide +kernel) (by decide +kernel)
      (by decide +kernel) (by decide)).2.2 (by decide)
      (.inl ⟨.right, by decide +kernel, by decide, by decide +kernel⟩) |>.1 false (.inl ⟨rfl, by decide +kernel⟩)
    exact ⟨_, e⟩
  · obtain ⟨_, e, -⟩ := ((H 0x60001120 [waits 9] false .left rfl (by decide) rfl rfl rfl rfl (by decide)).2.2 (by decide)
      (.inr (by decide))).1 false (.inl ⟨rfl, by decide⟩)
    exact ⟨_, e⟩
  · obtain ⟨_, e, -⟩ := (H 0x61001120 [] false .left rfl (by decide) rfl rfl rfl rfl (by decide)).2.1 (by decide) (by decide) rfl
    exact ⟨_, e⟩
  · obtain ⟨_, e, -⟩ := (B 64 (by decide +kernel) (by decide +kernel) (by decide +kernel) (by decide +kernel) (by decide +kernel)
      (by decide +kernel) (by decide)).2.2 (by decide)
      (.inl ⟨.right, by decide +kernel, by decide, by decide +kernel⟩) |>.2 (by decide +kernel) (by decide +kernel) (by decide +kernel)
    exact ⟨_, e⟩

/-- A device with one flit on its way, a region that counts `n` tokens, and a tile. -/
def arriving (f : Flit) (n : Nat) (t : Tile) : State :=
  { State.reset with regions := [(5, { reg with rcb := BitVec.ofNat 2048 (n <<< 128) })], net := [f],
                     clusters := [(0, { Cluster.empty with tiles := [(63, t)] })] }

/-- A tile of two lines at the end of the scratchpad, of any format. -/
def tile0 (st : TileSt) (arrived : Nat) : Tile := ⟨st, false, 0, 2, arrived, 1, 0, 0, 8190, 0, 5⟩

/-- A token at the termination sink that is and is not the last; the last line of a tile; a drained tile; a flit between two
partitions; a flit kind that is reserved on each plane. -/
theorem witness_arrivals (h : Obligations.ArrivalsAtSinksTilesAndSluices) :
    (∀ n, n = 1 ∨ n = 2 → Runs (.sinkTokenArrival 0) (arriving { flit0 false with kind := sinkKind } n (tile0 .empty 0))) ∧
    (∀ k, k = 0 ∨ k = 1 → Runs (.tileLineArrival 0)
      (arriving { flit0 false with kind := 5, unit := 63, pay := .line 0 0x0400 none } 1 (tile0 (if k = 0 then .empty else .filling) k))) ∧
    Runs (.tileDrainEnd 0 63) (arriving (flit0 false) 1 (tile0 .draining 2)) ∧
    Runs (.sluiceDrop 0) (arriving { flit0 false with cl := 255 } 1 (tile0 .empty 0)) ∧
    exec (.reservedFkindFlit 0 (7 <<< 124)) State.reset = .next (takeFault State.reset ⟨none, 0, 0, 0, 0, 0, 0, 0, 0, 0, none, 0⟩
      ⟨.linkError, 7 <<< 29, 0⟩) ∧
    exec (.reservedFkindFlit 4096 (4 <<< 124)) State.reset = .next (takeFault State.reset ⟨none, 0, 0, 0, 0, 0, 0, 0, 0, 0, none, 0⟩
      ⟨.linkError, 4 <<< 29, 0⟩) := by
  refine ⟨?_, ?_, ?_, ?_, ?_, ?_⟩
  · have A := fun n => h.1 (arriving { flit0 false with kind := sinkKind } n (tile0 .empty 0)) 0 { flit0 false with kind := sinkKind } rfl rfl
    rintro n (rfl | rfl)
    · obtain ⟨_, e, -⟩ := A 1 rfl
      exact ⟨_, e⟩
    · obtain ⟨_, e, -⟩ := A 2 rfl
      exact ⟨_, e⟩
  · have A := fun st k => h.2.1 (arriving { flit0 false with kind := 5, unit := 63, pay := .line 0 0x0400 none } 1 (tile0 st k)) 0
      { flit0 false with kind := 5, unit := 63, pay := .line 0 0x0400 none } 0 0x0400 none (tile0 st k)
    rintro k (rfl | rfl)
    · obtain ⟨_, e, -⟩ := A .empty 0 (by decide +kernel) rfl rfl (by decide +kernel) rfl rfl rfl rfl (.inl rfl)
        (fun _ hq => absurd hq List.not_mem_nil) rfl (by decide +kernel)
      exact ⟨_, e⟩
    · obtain ⟨_, e, -⟩ := A .filling 1 (by decide +kernel) rfl rfl (by decide +kernel) rfl rfl rfl rfl (.inr rfl)
        (fun _ hq => absurd hq List.not_mem_nil) rfl (by decide +kernel)
      exact ⟨_, e⟩
  · obtain ⟨_, e, -⟩ := h.2.2.1 (arriving (flit0 false) 1 (tile0 .draining 2)) 0 63 _ rfl rfl rfl rfl
      fun _ hq => absurd hq List.not_mem_nil
    exact ⟨_, e⟩
  · obtain ⟨_, e, -⟩ := h.2.2.2.1 (arriving { flit0 false with cl := 255 } 1 (tile0 .empty 0)) 0 _ (by rfl) (by decide +kernel) (by decide)
    exact ⟨_, e⟩
  · exact (h.2.2.2.2 State.reset 0 0 (7 <<< 124) (by decide) (.inl ⟨rfl, by decide⟩)).trans rfl
  · exact (h.2.2.2.2 State.reset 1 0 (4 <<< 124) (by decide) (.inr ⟨rfl, by decide⟩)).trans rfl

/-- An element that receives its part, with one packet on its way. -/
def loadingPart (complete : Bool) (line : LineData) : State :=
  { unit0 el0 { HwUnit.empty with part := 5, complete, words := [(0, (0x0B002EF0, 5))] } State.reset with cfgNet := [⟨0, 0, 0, 5, line⟩] }

/-- A packet of 14 node words for slots 2 to 15 of element 0; its seal without entries, and one that counts an entry. -/
def packet1 : LineData := 0x010B800000280000
def seal0 (items : Nat) : LineData := BitVec.ofNat 512 (0x0600400000280000 + items <<< 64)

/-- Partition 0, whose supervisor is region 5. -/
def supReg5 (s : State) : State := s.modPart 0 fun p => { p with supRid := some 5 }

/-- A packet, one that breaks its rules, a good and a bad seal, an uncorrectable word in a unit of a program and of a supervisor,
and a breakpoint. -/
theorem witness_configuration (h : Obligations.ConfigurationLoadSteps) :
    Runs (.configPacket 0) (loadingPart false packet1) ∧ Runs (.configPacket 0) (loadingPart false 0) ∧
    Runs (.configSeal 0) (loadingPart false (seal0 0)) ∧
    Runs (.configSeal 0) (loadingPart false (seal0 1)) ∧ Runs (.configWordUncorrectable el0) (loadingPart true 0) ∧
    Runs (.configWordUncorrectable el0) (supReg5 (loadingPart true 0)) ∧
    Runs (.breakpointHalt 5) (unit0 el0 { HwUnit.empty with withheld := [(1, ⟨0, 5, 0, none, none, none, none, 0, 0, 0⟩)] } State.reset) := by
  refine ⟨?_, ?_, ?_, ?_, ?_, ?_, ?_⟩
  · obtain ⟨_, e, -⟩ := h.1 (loadingPart false packet1) 0 ⟨0, 0, 0, 5, packet1⟩ (by decide +kernel) (by decide +kernel) (by decide +kernel)
      (by decide +kernel) (by decide +kernel)
    exact ⟨_, e⟩
  · obtain ⟨_, e, -⟩ := h.2.1 (loadingPart false 0) 0 ⟨0, 0, 0, 5, 0⟩ (by decide +kernel) (by decide +kernel) (by decide +kernel)
      (by decide +kernel)
    exact ⟨_, e⟩
  · obtain ⟨_, e, -⟩ := (h.2.2.1 (loadingPart false (seal0 0)) 0 ⟨0, 0, 0, 5, seal0 0⟩ (by decide +kernel) (by decide +kernel) (by decide +kernel)
      (by decide +kernel)).1 (by decide +kernel) (by decide +kernel)
    exact ⟨_, e⟩
  · obtain ⟨_, e, -⟩ := (h.2.2.1 (loadingPart false (seal0 1)) 0 ⟨0, 0, 0, 5, seal0 1⟩ (by decide +kernel) (by decide +kernel) (by decide +kernel)
      (by decide +kernel)).2 (by decide +kernel)
    exact ⟨_, e⟩
  · obtain ⟨_, e, -⟩ := h.2.2.2.1 (loadingPart true 0) el0 (by decide) (by decide) (by decide +kernel)
    exact ⟨_, e⟩
  · obtain ⟨_, e, -⟩ := h.2.2.2.2.1 (supReg5 (loadingPart true 0)) el0 (by decide) (by decide) (by decide +kernel)
    exact ⟨_, e⟩
  · obtain ⟨_, e, -⟩ := h.2.2.2.2.2 (unit0 el0 { HwUnit.empty with withheld := [(1, ⟨0, 5, 0, none, none, none, none, 0, 0, 0⟩)] } State.reset) 5 rfl rfl
      ⟨_, List.mem_singleton.mpr rfl, _, List.mem_singleton.mpr rfl, rfl⟩
    exact ⟨_, e⟩

/-- A cluster with a frame class of some pages, where an allocation waits. -/
def stalledAt (pages : Word) (st : FrameSt) (w : List Stall) (fa : List (Nat × Stall)) : State :=
  { State.reset with clusters := [(0, { Cluster.empty with pword := pages, slotWait := w })]
                     frames := [((5, 0, 1), { Frame.none with st })], regions := [(5, { reg with falloc := fa })] }

/-- An allocation that waits. -/
def stall0 (stage : Nat) : Stall := ⟨el0, .falloc n2, { (fire .el (least .i64) (least .i64)).f with stage }⟩

/-- Room for a copy; a release of a frame that nobody waits for, and of one that goes to the earliest allocation of its die,
where there is room for its copy and where there is none. -/
theorem witness_frame_room (h : Obligations.FrameRoomAndRelease) :
    Runs (.frameCopyRoomFreed 0) (stalledAt 1 .live [stall0 2] []) ∧ Runs (.lastCopyReleased 5 0 1) (stalledAt 1 .returning [] [(1, stall0 0)]) ∧
    ∀ pages, pages = 0 ∨ pages = 1 → Runs (.lastCopyReleased 5 0 1) (stalledAt pages .returning [] [(1, stall0 0), (0, stall0 0)]) := by
  refine ⟨?_, ?_, ?_⟩
  · exact ⟨_, h.1 (stalledAt 1 .live [stall0 2] []) 0 _ _ _ rfl (by decide +kernel) (ok_val State.reset (by decide +kernel))⟩
  · obtain ⟨-, _, e, -⟩ := h.2.1 (stalledAt 1 .returning [] [(1, stall0 0)]) 5 0 1 rfl (by decide +kernel)
    exact ⟨_, e⟩
  · have H := fun pages => h.2.2 (stalledAt pages .returning [] [(1, stall0 0), (0, stall0 0)]) 5 0 1 (stall0 0) [(1, stall0 0)] [] rfl rfl
      (by decide)
    rintro pages (rfl | rfl)
    · obtain ⟨_, e, -⟩ := (H 0).2.2 (by decide +kernel)
      exact ⟨_, e⟩
    · obtain ⟨_, -, e⟩ := (H 1).2.1 (by decide +kernel) n2 rfl rfl rfl (emits_n2 _ _ _ _)
      exact ⟨_, e⟩

/-! ### Lines -/

/-- A line token. -/
abbrev line0 (e : Desc) : Payload := .line 0 e none

/-- A device with a line-unit firing of two tokens. -/
abbrev onLines (p q : Payload) : State := hand (fire .ln p q) id

theorem fires_line (e : Desc) (q : Payload) :
    FiresLine (onLines (line0 e) q) (fire .ln (line0 e) q) n2 ⟨line0 e, false⟩ ⟨q.clean, false⟩ (onLines (line0 e) q).base := by
  have f : firingTiles (onLines (line0 e) q).base (fire .ln (line0 e) q) n2 = [] := rfl
  exact ⟨rfl, by simp [f], by rw [f]; exact ⟨_, rfl, rfl⟩⟩

theorem line_a (s : State) (e : Desc) : lineA s 0 ⟨line0 e, false⟩ = .ok ⟨[(0, e)], none⟩ := rfl

theorem line_b (s : State) (e : Desc) (x : Bool) : lineB s 0 ⟨[(0, e)], none⟩ x ⟨line0 e, false⟩ = .ok [(0, e)] := by
  cases x <;> simp [lineB, pairs, bind, Except.bind, pure, Except.pure]

theorem met_line2 {op : Nat} {i : Instr} {x : Bool} {ok : Nat → Prop} {d : Desc → Desc} {g : Cur → State → Nat → Nat → Nat → Nat}
    (h : LineNode2 op i n2 x ok d g) (e : Desc) (he : ok e.fmt) : Runs i (onLines (line0 e) (line0 e)) := by
  obtain ⟨_, _, -, -, -, r⟩ := h _ _ _ _ _ _ _ (fires_line e (line0 e)) (line_a _ e) (line_b _ e x) (by simpa using he) (emits_n2 _ _ _ _)
  exact ⟨_, r⟩

theorem met_line1 {op : Nat} {i : Instr} {ok : Nat → Prop} {g : Nat → Nat → Nat}
    (h : LineNode1 op i n2 ok g) (e : Desc) (he : ok e.fmt) : Runs i (onLines (line0 e) (line0 e)) := by
  obtain ⟨_, _, -, -, -, r⟩ := h _ _ _ _ _ _ (fires_line e (line0 e)) (line_a _ e) (by simpa using he) (emits_n2 _ _ _ _)
  exact ⟨_, r⟩

/-- A tile of 4095 lines in operand memory. -/
def omTile (n : Nat) : Tile := ⟨.ready, true, 0, n, n, 1, 1, 0, 0, 0, 5⟩

/-- A cluster with a tile number 63, whose second line carries format `f`. -/
def tiled (n f : Nat) : State :=
  { State.reset with clusters := [(0, { Cluster.empty with tiles := [(63, omTile n)] })]
                     mem := Memory.writeN [] (descKey (tileKey 0 (omTile n) 1)) 2 (f * 256) }

/-- A tile handle that names a good tile, a poisoned one, and one of two formats; B as a line, a zero, a scalar of each width, and of another format. -/
theorem witness_line_operands (h : Obligations.LineOperandsAreLinesTilesAndScalars) :
    (∃ x, lineA (tiled 1 4) 0 ⟨plain (2 ^ 56 + 63) .handle, false⟩ = .ok x) ∧
    lineA { tiled 1 4 with poison := [tileKey 0 (omTile 1) 0] } 0 ⟨plain (2 ^ 56 + 63) .handle, false⟩ = flt .poolError 0 (2 ^ 56 + 63) ∧
    (∃ w, lineA (tiled 2 4) 0 ⟨plain (2 ^ 56 + 63) .handle, false⟩ = flt .format w) ∧
    (∃ r, lineB State.reset 0 ⟨[(0, 0x0001)], none⟩ false ⟨plain (-1) .i64, false⟩ = .ok [(r, 0x0001)]) ∧
    (∃ r, lineB State.reset 0 ⟨[(0, 0x0300)], none⟩ false ⟨plain (-1) .i32, false⟩ = .ok [(r, 0x0300)]) ∧
    lineB State.reset 0 ⟨[(0, 0x0780)], none⟩ false ⟨.line 0 0x0780 none, false⟩ = .ok [(0, 0x0780)] ∧
    lineB State.reset 0 ⟨[(0, 0x0780)], none⟩ false ⟨.line 0 0x077F none, false⟩ = flt .format 0x077F := by
  refine ⟨?_, ?_, ?_, ?_, ?_, ?_, ?_⟩
  · obtain ⟨x, e, -⟩ := (h.2.1 (tiled 1 4) 0 ⟨2 ^ 56 + 63, .handle, false⟩ 63 (omTile 1) rfl rfl (by decide) (by decide) rfl rfl).2.1 (fun _ _ => rfl) (by
      intro i hi
      rw [show i = 0 by change i < 1 at hi; omega])
    exact ⟨x, e⟩
  · exact (h.2.1 { tiled 1 4 with poison := [tileKey 0 (omTile 1) 0] } 0 ⟨2 ^ 56 + 63, .handle, false⟩ 63 (omTile 1) rfl rfl (by decide)
      (by decide) rfl rfl).1 0 (by decide) (by decide +kernel) (fun j hj => absurd hj (Nat.not_lt_zero j))
  · exact ⟨_, (h.2.1 (tiled 2 4) 0 ⟨2 ^ 56 + 63, .handle, false⟩ 63 (omTile 2) rfl rfl (by decide) (by decide) rfl rfl).2.2 1 (fun _ _ => rfl) (by decide) (by decide +kernel) (by
      intro j hj
      rw [show j = 0 by omega])⟩
  · obtain ⟨r, e, -⟩ := h.2.2.2.2.1 State.reset 0 (0, 0x0001) none ⟨-1, .i64, false⟩ rfl nofun (.inl rfl)
    exact ⟨r, e⟩
  · obtain ⟨r, e, -⟩ := h.2.2.2.2.1 State.reset 0 (0, 0x0300) none ⟨-1, .i32, false⟩ rfl nofun (.inr (by decide))
    exact ⟨r, e⟩
  · exact h.2.2.1 State.reset 0 ⟨[(0, 0x0780)], none⟩ 0 0x0780 none (List.forall_mem_singleton.2 (by decide))
  · exact h.2.2.2.2.2 State.reset 0 ⟨[(0, 0x0780)], none⟩ 0 0x077F none ⟨_, List.mem_singleton.mpr rfl, by decide⟩

/-- Lane arithmetic on a line of every format of its set. -/
theorem witness_line_arithmetic (x fz : Bool) (m : Rnd) (h : Obligations.LineArithmeticActsOnEachLane) :
    (∀ e ∈ ([0x0100, 0x02FF, 0x0300, 0x0400, 0x0580] : List Desc), Runs (.vadd n2 x fz m) (onLines (line0 e) (line0 e)) ∧
      Runs (.vmax n2 x fz m) (onLines (line0 e) (line0 e)) ∧ Runs (.vneg n2 x fz m) (onLines (line0 e) (line0 e))) ∧
    ∀ e ∈ ([0x0400, 0x0580] : List Desc), Runs (.vfma n2 fz m) (onLines (line0 e) (line0 e)) ∧
      Runs (.vrcp n2 fz m) (onLines (line0 e) (line0 e)) := by
  obtain ⟨a, -, -, f, -, mx, -, ng, -, -, rc, -⟩ := h n2 x fz m
  refine ⟨fun e he => ?_, fun e he => ?_⟩
  · have F : inFI e.fmt := by
      simp only [List.mem_cons, List.not_mem_nil, or_false] at he
      obtain rfl | rfl | rfl | rfl | rfl := he <;> (unfold inFI; decide)
    exact ⟨met_line2 a e F, met_line2 mx e F, met_line1 ng e F⟩
  · have F : inF e.fmt := by
      simp only [List.mem_cons, List.not_mem_nil, or_false] at he
      obtain rfl | rfl := he <;> (unfold inF; decide)
    exact ⟨met_line2 f e F, met_line1 rc e F⟩

/-- Comparison, selection and a shift. -/
theorem witness_line_selection (k : Cond) (m : BitVec 3) (u : Bool) (h : Obligations.LineComparisonSelectionAndBits) :
    Runs (.vcmp n2 k) (onLines (line0 0x0400) (line0 0x0400)) ∧ Runs (.vsel n2 m) (onLines (line0 0x0A00) (line0 0x0A00)) ∧
    Runs (.vshr n2 u m) (onLines (line0 0x0100) (line0 0x0100)) := by
  obtain ⟨a, b, -, -, -, -, d⟩ := h n2 k m u
  exact ⟨met_line2 a _ (by unfold inFI; decide), met_line2 b _ (by unfold inX inFI; decide +kernel), met_line2 d _ (by unfold inI; decide)⟩

/-- A line whose conversion writes the last lane of a QN4 line from the last lane of an FP32 line; a scaled line; the scale byte
at its largest value and above it. -/
theorem witness_line_conversions (h : Obligations.LineConversionsAndScales) :
    Runs (.vcvt n2 false .ne) (onLines (line0 0x0400) (plain 0x3F8000000F7F0009 .i64)) ∧
    Runs (.vscl n2 true .up) (onLines (line0 0x0580) (plain 0x8000000000000000 .i64)) ∧
    (∃ r, cvtWord 0x3F8000000F7F0009 false .ne (0, 0x0400) = .ok r) ∧
    sclLine false .ne 1 (0, 0x077E) = .ok (0, 0x077F) ∧ sclLine false .ne 1 (0, 0x077F) = flt .format 0x077F := by
  refine ⟨?_, ?_, ?_, ?_, ?_⟩
  · obtain ⟨_, -, e⟩ := h.1 n2 false .ne _ _ _ _ _ _ _ _ (fires_line 0x0400 (plain 0x3F8000000F7F0009 .i64)) (line_a _ _) rfl rfl
      (ok_val [] (by decide +kernel)) (emits_n2 _ _ _ _)
    exact ⟨_, e⟩
  · obtain ⟨_, -, e⟩ := h.2.2.1 n2 true .up _ _ _ _ _ _ _ _ (fires_line 0x0580 (plain 0x8000000000000000 .i64)) (line_a _ _) rfl rfl
      (ok_val [] (by decide +kernel)) (emits_n2 _ _ _ _)
    exact ⟨_, e⟩
  · obtain ⟨r, o, e, -⟩ := h.2.1 0x3F8000000F7F0009 false .ne (0, 0x0400) .qn4 (okVal [] (match lineValues false 0x3F800000 0 0x0400 with
      | some x => .ok x | none => flt .format)) rfl (by decide +kernel) (by decide) (by decide) (fun _ => by decide +kernel)
      (by decide) (by decide +kernel)
    exact ⟨_, e⟩
  · exact (h.2.2.2.2 false .ne 1 (0, 0x077E) (by unfold inF; decide)).1 (by decide) (by decide) (by decide)
  · exact (h.2.2.2.2 false .ne 1 (0, 0x077F) (by unfold inF; decide)).2 (.inr (.inr (by decide)))

theorem line_b_any (s : State) (e e' : Desc) : lineB s 0 ⟨[(0, e)], none⟩ true ⟨line0 e', false⟩ = .ok [(0, e')] := by
  simp [lineB, bind, Except.bind, pure, Except.pure]

/-- A broadcast of every type; the last lane of a line and the first number above it; a gather. -/
theorem witness_lane_moves (h : Obligations.LaneMoves) :
    (∀ y : TType, Runs (.vbcast n2 0) (onLines (plain 1 y) (plain 0 .i64))) ∧
    Runs (.vext n2 7) (onLines (line0 0x0400) (plain 15 .i32)) ∧ Runs (.vext n2 7) (onLines (line0 0x0400) (plain 16 .i64)) ∧
    Runs (.vperm n2 0) (onLines (line0 0x0A00) (line0 0)) := by
  refine ⟨fun y => ?_, ?_, ?_, ?_⟩
  · obtain ⟨_, _, -, e, -⟩ := h.1 n2 0 (onLines (plain 1 y) (plain 0 .i64)) _ _ _ _ ⟨1, y, false⟩ rfl (reads .ln _ _ id)
      (by cases y <;> rfl) rfl (emits_n2 _ _ _ _)
    exact ⟨_, e⟩
  · obtain ⟨_, _, -, e, -⟩ := (h.2.1 n2 7 _ _ _ _ _ _ _ 15 (fires_line 0x0400 (plain 15 .i32)) (line_a _ _) rfl rfl (by decide)
      (List.forall_mem_singleton.2 (by unfold inX inFI; decide)) (emits_n2 _ _ _ _)).1 (List.forall_mem_singleton.2 (by decide))
    exact ⟨_, e⟩
  · exact ⟨_, (h.2.1 n2 7 _ _ _ _ _ _ _ 16 (fires_line 0x0400 (plain 16 .i64)) (line_a _ _) rfl rfl (by decide)
      (List.forall_mem_singleton.2 (by unfold inX inFI; decide)) (emits_n2 _ _ _ _)).2 _ _ rfl (by decide)⟩
  · obtain ⟨_, _, -, -, e, -⟩ := h.2.2 n2 0 _ _ _ _ _ _ _ (fires_line 0x0A00 (line0 0)) (line_a _ _)
      (line_b_any _ 0x0A00 0) (List.forall_mem_singleton.2 (by unfold inX inFI; decide)) (emits_n2 _ _ _ _)
    exact ⟨_, e⟩

/-- A sum and a least lane of a floating and of an integer line. -/
theorem witness_reductions (nan ab : Bool) (m : BitVec 2) (h : Obligations.ReductionsGiveOneScalar) :
    (∀ e : Desc, e = 0x0400 ∨ e = 0x0580 → Runs (.rsum n2 m) (onLines (line0 e) (line0 e)) ∧
      Runs (.rmin n2 nan ab m) (onLines (line0 e) (line0 e))) ∧
    ∀ e : Desc, e = 0x0100 ∨ e = 0x0300 → Runs (.rsum n2 m) (onLines (line0 e) (line0 e)) ∧
      Runs (.rmin n2 nan ab m) (onLines (line0 e) (line0 e)) := by
  have R := fun (e : Desc) => h n2 nan ab m _ _ _ _ _ _ _ _ (fires_line e (line0 e)) (line_a _ e) rfl (by simp) (emits_n2 _ _ _ _)
  refine ⟨fun e he => ?_, fun e he => ?_⟩
  · have F : inF e.fmt := by obtain rfl | rfl := he <;> (unfold inF; decide)
    obtain ⟨a, -, b, -⟩ := R e
    obtain ⟨_, -, a⟩ := a F
    obtain ⟨_, -, b⟩ := b F
    exact ⟨⟨_, a⟩, _, b⟩
  · have F : inI e.fmt := by obtain rfl | rfl := he <;> (unfold inI; decide)
    obtain ⟨-, a, -, -, b, -⟩ := R e
    obtain ⟨_, -, a⟩ := a F
    obtain ⟨_, _, -, -, -, b⟩ := b F
    exact ⟨⟨_, a⟩, _, b⟩

/-- A device whose cluster has an accumulator class of 4 KiB. -/
def racing (e : Desc) (p : Nat) : State :=
  hand (fire .ln (line0 e) (plain (BitVec.ofNat 64 p) .i64)) fun s =>
    { s with clusters := [(0, { Cluster.empty with pword := 0x100 })] }

/-- An accumulation at the end of the accumulator class, of an FP32 and of a BF16 line; at the first offset beyond it, at one
that is no multiple of 64, and under an operand B that is no i64. -/
theorem witness_accumulation (fz : Bool) (m : Rnd) (h : Obligations.AccumulationAddsIntoItsLines) :
    Runs (.racc n2 fz m) (racing 0x0400 0xFC0) ∧ Runs (.racc n2 fz m) (racing 0x0580 0xF80) ∧
    (∀ p, p = 0x1000 ∨ p = 1 → Runs (.racc n2 fz m) (racing 0x0400 p)) ∧
    Runs (.racc n2 fz m) (onLines (line0 0x0400) (plain 0 .i32)) := by
  have F := fun (e : Desc) (p : Nat) (k : firingTiles (racing e p).base (fire .ln (line0 e) (plain (BitVec.ofNat 64 p) .i64)) n2 = []) =>
    show FiresLine (racing e p) (fire .ln (line0 e) (plain (BitVec.ofNat 64 p) .i64)) n2 ⟨line0 e, false⟩
      ⟨plain (BitVec.ofNat 64 p) .i64, false⟩ (racing e p).base from ⟨rfl, by simp [k], by rw [k]; exact ⟨_, rfl, rfl⟩⟩
  have R := fun e p k => h.1 n2 fz m _ _ _ _ _ (0, e) ⟨BitVec.ofNat 64 p, .i64, false⟩ rfl (F e p k) rfl
  have B := fun p k => h.2.2 n2 fz m _ _ _ _ _ _ ⟨BitVec.ofNat 64 p, .i64, false⟩ (F 0x0400 p k) (line_a _ _)
    (List.forall_mem_singleton.2 (by unfold inF; decide)) rfl rfl
  refine ⟨?_, ?_, ?_, ⟨_, h.2.1 n2 fz m _ _ _ _ _ _ _ (fires_line 0x0400 (plain 0 .i32)) (line_a _ _) rfl⟩⟩
  · obtain ⟨_, e, -⟩ := R 0x0400 0xFC0 rfl (by unfold inF; decide) rfl rfl (by decide) (by decide) (by decide) (fun _ _ => rfl)
      (fun i hi => quiet _ _ rfl (by
        obtain rfl : i = 0 := by change i < 1 at hi; omega
        decide +kernel)) (emits_n2 _ _ _ _)
    exact ⟨_, e⟩
  · obtain ⟨_, e, -⟩ := R 0x0580 0xF80 rfl (by unfold inF; decide) rfl rfl (by decide) (by decide) (by decide) (fun _ _ => rfl)
      (fun i hi => quiet _ _ rfl (by
        obtain rfl | rfl : i = 0 ∨ i = 1 := by change i < 2 at hi; omega
        all_goals decide +kernel)) (emits_n2 _ _ _ _)
    exact ⟨_, e⟩
  · rintro p (rfl | rfl)
    · exact ⟨_, B 0x1000 rfl (.inr (by decide +kernel))⟩
    · exact ⟨_, B 1 rfl (.inl (by decide))⟩

/-! ### The lookup matrix unit -/

/-- A bank handle. -/
abbrev bankPtr (b : Nat) : Payload := plain (BitVec.ofNat 64 (2 * 2 ^ 56 + b)) .handle

/-- A lookup-unit firing of two tokens on a cluster. -/
abbrev lookup (p q : Payload) (k : Cluster) : State := hand (fire .lmu p q) fun s => { s with clusters := [(0, k)] }

/-- A cluster whose bank B is as given. -/
abbrev withB (b : Bank) : Cluster := { Cluster.empty with bankB := b }

/-- A firing of region `r` that waits for a bank. -/
abbrev claims (r : Nat) : List (UId × Firing) := [(lmUnit 0, ⟨0, r, 0, none, none, none, none, 0, 0, 0⟩)]

theorem says_n2 (s : State) (c : Cur) : CanSay s c n2 := emits_n2 _ _ _ _

/-- A node word of zeros, which a unit without words has in every slot, can send. -/
theorem says_zero (s : State) (c : Cur) (u : UId) (k : Nat) (h : (s.unit u).words = []) :
    CanSay s c (nodeForm s u k) := by
  have e : nodeForm s u k = ⟨.keep, .left, .left, .arc 0, .arc 0⟩ := by
    unfold nodeForm
    rw [h, show AL.get (0, 0) [] k = ((0, 0) : BitVec 32 × Nat) from rfl]
    decide +kernel
  rw [e]
  have d : ∀ t, DstOk s c (.arc 0) t false := fun _ _ _ => rfl
  exact ⟨nofun, fun t _ => ⟨d t, d t⟩⟩

/-- Claims of a bank that is the region's own, free since the region's last use, free for another, and owned by another; a
release and one without the bank; the end of a clearing and its start; the state, and a scaled
trigger for it; a bank that is gated. -/
theorem witness_banks (h : Obligations.LookupBanksAreClaimedAndReleased) :
    (∀ b ∈ [{ Bank.none with owner := some 5 }, { Bank.none with last := some 5 }, Bank.none, { Bank.none with owner := some 6 }],
      Runs (.lmClaim n2) (lookup (bankPtr 1) (least .i64) (withB b))) ∧
    (∀ b ∈ [{ Bank.none with owner := some 5 }, Bank.none], Runs (.lmRelease n2) (lookup (bankPtr 1) (least .i64) (withB b))) ∧
    (∀ b ∈ [{ Bank.none with owner := some 5, clearing := true, claims := claims 5 }, { Bank.none with claims := claims 5 }],
      Runs (.claimClearComplete 0 1) (lookup (bankPtr 1) (least .i64) (withB b))) ∧
    Runs (.lmStat n2) (lookup (bankPtr 1) (least .i64) Cluster.empty) ∧
    Runs (.lmStat n2) (lookup (.scal ⟨0, .bf16x4, true⟩) (least .i64) Cluster.empty) ∧
    Runs (.bankPowerGate 0 1) { lookup (bankPtr 1) (least .i64) Cluster.empty with clock := 4096 } := by
  simp only [List.mem_cons, List.not_mem_nil, or_false, forall_eq_or_imp, forall_eq]
  have C := fun (b : Bank) => h.1 n2 (lookup (bankPtr 1) (least .i64) (withB b)) _ _ _ _ ⟨BitVec.ofNat 64 (2 * 2 ^ 56 + 1), .handle, false⟩ 1
    (fires (fire .lmu (bankPtr 1) (least .i64)) _ 0xC0 rfl) ⟨_, rfl, rfl⟩ rfl rfl rfl (by decide) (by decide)
  have R := fun (b : Bank) => h.2.1 n2 (lookup (bankPtr 1) (least .i64) (withB b)) _ _ _ _ ⟨BitVec.ofNat 64 (2 * 2 ^ 56 + 1), .handle, false⟩ 1
    (fires (fire .lmu (bankPtr 1) (least .i64)) _ 0xC1 rfl) ⟨_, rfl, rfl⟩ rfl rfl rfl (by decide) (by decide)
  have D := fun (b : Bank) => h.2.2.1 (lookup (bankPtr 1) (least .i64) (withB b)) 0 1
  refine ⟨⟨?_, ?_, ?_, ?_⟩, ⟨?_, ?_⟩, ⟨?_, ?_⟩, ?_, ⟨_, h.2.2.2.1 n2 _ _ _ _ _
    (fires (fire .lmu (.scal ⟨0, .bf16x4, true⟩) (least .i64)) _ 0xCA rfl) ⟨_, rfl, rfl⟩ rfl rfl⟩, ?_⟩
  · obtain ⟨_, -, e⟩ := (C { Bank.none with owner := some 5 }).1 rfl (says_n2 _ _)
    exact ⟨_, e⟩
  · obtain ⟨_, -, e⟩ := (C { Bank.none with last := some 5 }).2.1 rfl rfl rfl rfl (says_n2 _ _)
    exact ⟨_, e⟩
  · exact ⟨_, (C Bank.none).2.2.1 rfl rfl (.inl nofun)⟩
  · exact ⟨_, (C { Bank.none with owner := some 6 }).2.2.2 (.inl ⟨6, rfl, by decide⟩)⟩
  · obtain ⟨_, -, e, -⟩ := (R { Bank.none with owner := some 5 }).1 rfl rfl (says_n2 _ _)
    exact ⟨_, e⟩
  · exact ⟨_, (R Bank.none).2 nofun⟩
  · obtain ⟨_, -, e, -⟩ := (D { Bank.none with owner := some 5, clearing := true, claims := claims 5 } _ _ _ (by decide) rfl).1 rfl rfl
      (says_zero _ _ _ _ rfl)
    exact ⟨_, e⟩
  · exact ⟨_, (D { Bank.none with claims := claims 5 } _ _ _ (by decide) rfl).2 rfl rfl (.inl nofun)⟩
  · obtain ⟨_, _, -, e, -⟩ := h.2.2.2.2.1 n2 (lookup (bankPtr 1) (least .i64) Cluster.empty) _ _ _ _
      (fires (fire .lmu (bankPtr 1) (least .i64)) _ 0xCA rfl) ⟨_, rfl, rfl⟩ rfl rfl (emits_n2 _ _ _ _) (by decide) (by decide) (by decide) (by decide)
    exact ⟨_, e⟩
  · obtain ⟨_, e, -⟩ := h.2.2.2.2.2 { lookup (bankPtr 1) (least .i64) Cluster.empty with clock := 4096 } 0 1 (by decide +kernel) (by decide) rfl rfl rfl rfl
      (by decide)
    exact ⟨_, e⟩

/-- A device whose scratchpad starts with 16 FP32 lines of zeros. -/
def padded (s : State) : State :=
  { s with mem := Memory.writeN [] (descKey (poolKey 0 0)) 32 (0x0400 * ((2 ^ 256 - 1) / (2 ^ 16 - 1))) }

/-- A lookup-unit firing of two tokens on a cluster, with those lines. -/
abbrev padding (p q : Payload) (k : Cluster) : State := hand (fire .lmu p q) fun s => padded { s with clusters := [(0, k)] }

/-- A pointer to the start of the pool. -/
abbrev pad0 : Payload := plain (BitVec.ofNat 64 (0xFC * 2 ^ 56 + 0)) .u64

/-- A running build of bank B from those lines, for a node form. -/
def build0 (dirty : Bool) : LmRun := ⟨.lmBuild n2 true, (fire .lmu pad0 (bankPtr 1)).f, 0, [0, 0, 16, 1, 1], dirty, none, false⟩

/-- What its lines hold. -/
def run0 (s : State) : Nat × List Line := okVal (0, []) (buildRun s 0 0 false)

theorem finish_build (s : State) (x : LmRun) (d : Bool) (hx : x = build0 d) (p : (bankOf s 0 1).planes = false)
    (r : isOk (buildRun s 0 0 false) = true) : ∃ t, finishBuild s 0 x = .ok t := by
  have e : buildRun s 0 (x.aux.getD 1 0) (bankOf s 0 (x.aux.getD 3 0)).planes = .ok (run0 s) := by
    subst hx
    change buildRun s 0 0 (bankOf s 0 1).planes = _
    rw [p]
    exact ok_val _ r
  simp only [finishBuild, e]
  exact ⟨_, rfl⟩

/-- A build of 16 lines in the pool, its end whether a write met it or not, and a fill of the last entries. -/
theorem witness_builds (h : Obligations.TablesAreBuiltAndFilled) :
    Runs (.lmBuild n2 true) (padding pad0 (bankPtr 1) (withB { Bank.none with owner := some 5 })) ∧
    (∀ d, Runs (.lmBuildComplete 0) (padding pad0 (bankPtr 1) { withB { Bank.none with owner := some 5 } with build := some (build0 d) })) ∧
    Runs (.lmFill n2) (padding (line0 0x0500) (plain (1023 + 2 ^ 11) .i64) (withB { Bank.none with owner := some 5 })) := by
  refine ⟨?_, fun d => ?_, ?_⟩
  · obtain ⟨_, e, -⟩ := h.1 n2 true (padding pad0 (bankPtr 1) (withB { Bank.none with owner := some 5 })) _ _ _ _
      ⟨BitVec.ofNat 64 (0xFC * 2 ^ 56 + 0), .u64, false⟩ ⟨BitVec.ofNat 64 (2 * 2 ^ 56 + 1), .handle, false⟩ 0 1 4 _
      (fires (fire .lmu pad0 (bankPtr 1)) _ 0xC3 rfl) ⟨_, rfl, rfl⟩ rfl rfl rfl (by decide) (by decide) (by decide) rfl rfl (by decide)
      (by decide) rfl rfl rfl (by unfold inF; decide) (by decide +kernel) rfl (all_mem (by decide +kernel)) (fun _ _ => rfl)
    exact ⟨_, e⟩
  · let s := padding pad0 (bankPtr 1) { withB { Bank.none with owner := some 5 } with build := some (build0 d) }
    obtain ⟨t, f⟩ := finish_build (s.modCluster 0 fun c => { c with build := none }) (build0 d) d rfl rfl (by cases d <;> decide +kernel)
    obtain ⟨_, -, e, -⟩ := h.2.1 s 0 (build0 d) n2 t rfl (.inl ⟨true, rfl⟩) (noneEnding _ (by cases d <;> decide +kernel)) f (emits_n2 _ _ _ _)
    exact ⟨_, e⟩
  · obtain ⟨_, e, -⟩ := h.2.2.2 n2 (padding (line0 0x0500) (plain (1023 + 2 ^ 11) .i64) (withB { Bank.none with owner := some 5 })) _ _ _ _
      0 0x0500 none ⟨1023 + 2 ^ 11, .i64, false⟩ 1023 1 (by decide +kernel)
      (fires (fire .lmu (line0 0x0500) (plain (1023 + 2 ^ 11) .i64)) _ 0xC2 rfl) ⟨_, rfl, rfl⟩ rfl rfl (by decide) rfl rfl (by decide) (by decide)
      rfl rfl nofun (by decide +kernel) (emits_n2 _ _ _ _)
    exact ⟨_, e⟩

/-- The entries of a build: its lines can be read and it ends. -/
theorem witness_entries (h : Obligations.TablesAreBuiltAndFilled) : let k := bankOf (padded State.reset) 0 1
    ∃ t, finishBuild (padded State.reset) 0 (build0 false) = .ok t ∧
    Memory.readN t.mem (tableKey 0 1 (127 * k.b + 0) 255) 2 = (Fmt.bf16.round .ne false .arith
      (entrySum k.planes (activations (run0 (padded State.reset)).1 (run0 (padded State.reset)).2)
        (0 * ((if k.planes then 512 else 256) / k.b) + (if k.planes then 512 else 256) / 128 * 127) 255)).1 % 2 ^ 16 := by
  obtain ⟨t, f⟩ := finish_build (padded State.reset) (build0 false) false rfl rfl (by decide +kernel)
  have b : buildRun (padded State.reset) 0 0 (bankOf (padded State.reset) 0 1).planes =
      .ok ((run0 (padded State.reset)).1, (run0 (padded State.reset)).2) := ok_val (0, []) (by decide +kernel)
  exact ⟨t, f, h.2.2.1 (padded State.reset) 0 (build0 false) t 1 0 _ _ (by decide +kernel)
    (by decide +kernel) (by decide) rfl rfl b f 0 127 255 (by decide) (by decide) (by decide)⟩

/-- A tile handle. -/
abbrev tilePtr (k : Nat) : Payload := plain (BitVec.ofNat 64 (2 ^ 56 + k)) .handle

/-- A cluster with an armed pass, bank B of region 5, a tile 63 of 32 lines and a tile 62 of one line, both ready. -/
def armed (n : Nat) (b : Bank → Bank) : Cluster :=
  { Cluster.empty with pass := { Pass.none with armed := true, n, pick := 1 }, bankB := b { Bank.none with owner := some 5 }
                       tiles := [(62, omTile 1), (63, omTile 32)] }

/-- A lookup-unit firing of two tokens on a cluster whose operand memory starts with a line of a format; `lit14` holds 32. -/
abbrev passing (p q : Payload) (fmt : Nat) (k : Cluster) : State := hand (fire .lmu p q) fun s =>
  { s with clusters := [(0, k)], mem := Memory.writeN [] (descKey (omKey 0 0)) 2 (256 * fmt)
           units := [(lmUnit 0, { HwUnit.empty with lits := [(14, 32)] })] }

/-- A running look over tile 62. -/
def looking (k : Cluster) : Cluster :=
  { k with pass := { k.pass with armed := false, running := true }
           look := some ⟨.lmLook n2 7 true, (fire .lmu (bankPtr 1) (tilePtr 62)).f, 0, [1, 62], false, none, false⟩ }

theorem pass_reads (p q : Payload) (fmt : Nat) (k : Cluster) :
    ReadsAB (passing p q fmt k) (fire .lmu p q) n2 ⟨p.clean, false⟩ ⟨q.clean, false⟩ (passing p q fmt k).base := ⟨_, rfl, rfl⟩

/-- `lm.arm` with the least number of uses, the largest, and one too many; looks and direct passes with and without an armed
pass; a use of a tile whose bank is valid, rebuilt, or stale. -/
theorem witness_passes (h : Obligations.PassesAreArmedAndRun) :
    (∀ v : Word, v = 1 ∨ v = 0xFFFF ∨ v = 0x10000 →
      Runs (.lmArm n2 true false) (passing (plain v .i64) (plain 64 .i64) 0 Cluster.empty)) ∧
    Runs (.lmLook n2 0 false) (passing (bankPtr 1) (tilePtr 63) 0 { armed 1 id with pass := Pass.none }) ∧
    Runs (.lmLook n2 0 false) (passing (bankPtr 1) (tilePtr 63) 0 (armed 1 id)) ∧
    Runs (.lmDirect n2 0) (passing (tilePtr 62) (tilePtr 63) 5 { armed 1 id with pass := Pass.none }) ∧
    Runs (.lmDirect n2 0) (passing (tilePtr 62) (tilePtr 63) 5 (armed 1 id)) ∧
    (∀ b ∈ [id, fun b : Bank => { b with auto := true, srcLines := 16 }, fun b : Bank => { b with valid := true }],
      Runs (.passTileUse 0) (passing (bankPtr 1) (tilePtr 62) 10 (looking (armed 2 b)))) := by
  refine ⟨?_, ?_, ?_, ?_, ?_, ?_⟩
  · have A := fun (v : Word) => h.1 n2 true false (passing (plain v .i64) (plain 64 .i64) 0 Cluster.empty) _ _ _ _ ⟨v, .i64, false⟩
      ⟨64, .i64, false⟩ (fires (fire .lmu (plain v .i64) (plain 64 .i64)) _ 0xC4 rfl) (pass_reads _ _ _ _) rfl rfl rfl rfl rfl rfl rfl
    rintro v (rfl | rfl | rfl)
    · obtain ⟨_, -, e⟩ := (A 1).2 (by decide) (emits_n2 _ _ _ _)
      exact ⟨_, e⟩
    · obtain ⟨_, -, e⟩ := (A 0xFFFF).2 (by decide) (emits_n2 _ _ _ _)
      exact ⟨_, e⟩
    · exact ⟨_, (A 0x10000).1 (by decide)⟩
  · exact ⟨_, (h.2.1 n2 0 false (passing (bankPtr 1) (tilePtr 63) 0 { armed 1 id with pass := Pass.none }) _ _ _ _ _ 1 _ 63 _
      (fires (fire .lmu (bankPtr 1) (tilePtr 63)) _ 0xC5 rfl) (pass_reads _ _ _ _) rfl rfl rfl (by decide) (by decide) rfl rfl (by decide)
      (by decide) rfl rfl rfl nofun rfl rfl).1 rfl⟩
  · obtain ⟨_, e, -⟩ := (h.2.1 n2 0 false (passing (bankPtr 1) (tilePtr 63) 0 (armed 1 id)) _ _ _ _ _ 1 _ 63 _
      (fires (fire .lmu (bankPtr 1) (tilePtr 63)) _ 0xC5 rfl) (pass_reads _ _ _ _) rfl rfl rfl (by decide) (by decide) rfl rfl (by decide)
      (by decide) rfl rfl rfl nofun rfl rfl).2 rfl (by decide +kernel) (by decide +kernel) (by decide)
    exact ⟨_, e⟩
  · exact ⟨_, (h.2.2.1 n2 0 (passing (tilePtr 62) (tilePtr 63) 5 { armed 1 id with pass := Pass.none }) _ _ _ _ _ 62 _ _ 63 _
      (fires (fire .lmu (tilePtr 62) (tilePtr 63)) _ 0xC6 rfl) (pass_reads _ _ _ _) rfl rfl rfl (by decide) (by decide) rfl rfl (by decide)
      (by decide) rfl rfl rfl rfl rfl).1 rfl⟩
  · obtain ⟨_, e, -⟩ := (h.2.2.1 n2 0 (passing (tilePtr 62) (tilePtr 63) 5 (armed 1 id)) _ _ _ _ _ 62 _ _ 63 _
      (fires (fire .lmu (tilePtr 62) (tilePtr 63)) _ 0xC6 rfl) (pass_reads _ _ _ _) rfl rfl rfl (by decide) (by decide) rfl rfl (by decide)
      (by decide) rfl rfl rfl rfl rfl).2 rfl (by decide) (by decide) (by decide) (by decide) (by decide +kernel) (by decide +kernel)
      (by decide +kernel) (by decide +kernel) (by decide +kernel) (by decide) (fun _ _ => rfl) (all_mem (by decide +kernel)) nofun
    exact ⟨_, e⟩
  · have P := fun (b : Bank → Bank) (l : lookLines (passing (bankPtr 1) (tilePtr 62) 10 (looking (armed 2 b))) 0 62 true (omTile 1) _ = _) =>
      h.2.2.2.1 (passing (bankPtr 1) (tilePtr 62) 10 (looking (armed 2 b))) 0 _ n2 7 true (omTile 1) rfl rfl rfl rfl (.inl rfl) rfl rfl
        (noneEnding _ rfl) rfl l
    simp only [List.mem_cons, List.not_mem_nil, or_false, forall_eq_or_imp, forall_eq]
    refine ⟨?_, ?_, ?_⟩
    · exact ⟨_, (P id (ok_val () (by decide +kernel))).1 rfl rfl⟩
    · obtain ⟨_, e, -⟩ := (P (fun b => { b with auto := true, srcLines := 16 }) (ok_val () (by decide +kernel))).2.1 rfl rfl (by decide)
      exact ⟨_, e⟩
    · obtain ⟨_, e, -⟩ := (P (fun b => { b with valid := true }) (ok_val () (by decide +kernel))).2.2 rfl rfl (by decide)
      exact ⟨_, e⟩

/-- A lookup unit with `lit7` of a type code and with arc 7. -/
abbrev draining (p q : Payload) (lit : Word) (ty arc : Nat) (k : Cluster) : State := hand (fire .lmu p q) fun s =>
  { s with clusters := [(0, k)]
           units := [(lmUnit 0, { HwUnit.empty with lits := [(7, lit)], flags := BitVec.ofNat 64 (ty <<< 28), arcs := [(7, BitVec.ofNat 32 arc)] })] }

/-- Every route of a drain with the last literal and tile of 1024 accumulators, an address beyond its class, a route that is
none, a tile that does not exist, and a row group that is no i64. -/
theorem witness_drains (h : Obligations.DrainsSpillsAndReloads) :
    let A := { Cluster.empty with pword := 0x2000 }
    Runs (.lmDrain n2 true .clu) (draining (plain 7 .i64) (plain 15 .u64) 0x1000 2 0 A) ∧
    ∀ x : Nat × Nat × Word × Nat × Nat, x ∈ [(7, 15, 0x1000, 2, 0), (7, 15, 0x10000, 0, 0), (7, 15, 0x10040, 0, 0), (7, 0, 0, 1, 2 ^ 31),
      (8, 0, 0, 0, 0), (7, 16, 0, 0, 0)] →
      Runs (.lmDrain n2 true .clu) (draining (plain (BitVec.ofNat 64 x.1) .i64) (plain (BitVec.ofNat 64 x.2.1) .i64) x.2.2.1 x.2.2.2.1 x.2.2.2.2 A) := by
  intro A
  have D := fun k m lit ty arc (hk : BitVec.toNat (BitVec.ofNat 64 k) = k) =>
    (h.1 n2 true .clu (draining (plain (BitVec.ofNat 64 k) .i64) (plain (BitVec.ofNat 64 m) .i64) lit ty arc A) _ _ _ _
      ⟨BitVec.ofNat 64 k, .i64, false⟩ ⟨BitVec.ofNat 64 m, .i64, false⟩ k (fires (fire .lmu (plain (BitVec.ofNat 64 k) .i64) (plain (BitVec.ofNat 64 m) .i64)) _ 0xC7 rfl)
      ⟨_, rfl, rfl⟩ rfl rfl rfl).2 rfl rfl hk.symm
  simp only [List.mem_cons, List.not_mem_nil, or_false, forall_eq_or_imp, forall_eq]
  refine ⟨⟨_, (h.1 n2 true .clu (draining (plain 7 .i64) (plain 15 .u64) 0x1000 2 0 A) _ _ _ _ ⟨7, .i64, false⟩ ⟨15, .i64, false⟩ 7
    (fires (fire .lmu (plain 7 .i64) (plain 15 .u64)) _ 0xC7 rfl) ⟨_, rfl, rfl⟩ rfl rfl rfl).1 _ rfl⟩, ?_, ?_, ?_, ?_, ?_, ?_⟩
  · obtain ⟨_, e, -⟩ := ((D 7 15 0x1000 2 0 rfl).2 (by decide) nofun).1 (by decide) (by decide +kernel) (by decide +kernel)
    exact ⟨_, e⟩
  · obtain ⟨_, e, -⟩ := (((D 7 15 0x10000 0 0 rfl).2 (by decide) nofun).2.1 (by decide) (by decide +kernel)).1 (by decide +kernel)
      (by decide +kernel)
    exact ⟨_, e⟩
  · exact ⟨_, (((D 7 15 0x10040 0 0 rfl).2 (by decide) nofun).2.1 (by decide) (by decide +kernel)).2 (by decide +kernel)⟩
  · obtain ⟨_, e, -⟩ := ((D 7 0 0 1 (2 ^ 31) rfl).2 (by decide) nofun).2.2.1 (by decide) (by decide +kernel) (by decide +kernel)
      (by decide +kernel)
    exact ⟨_, e⟩
  · exact ⟨_, ((D 8 0 0 0 0 rfl).2 (by decide) nofun).2.2.2 (.inl (by decide))⟩
  · exact ⟨_, (D 7 16 0 0 0 rfl).1 (by decide)⟩

/-- A spill and a reload of bank B at the last place of the pool, and the first and the last line of a drain. -/
theorem witness_spills (h : Obligations.DrainsSpillsAndReloads) :
    let p := plain (BitVec.ofNat 64 (0xFC * 2 ^ 56 + 0x7FFC0)) .u64
    let B := withB { Bank.none with owner := some 5 }
    let L := fun pos => withB Bank.none |> fun k => { k with drains := [⟨.lmDrain n2 true .clu, (fire .lmu p p).f, pos, [2, 0x7F000, 15], false, none, false⟩] }
    Runs (.lmSpill n2 .clu) (draining p (bankPtr 1) 0 0 0 B) ∧ Runs (.lmReload n2 .clu) (draining p (bankPtr 1) 0 0 0 B) ∧
    ∀ pos, pos = 0 ∨ pos = 63 → Runs (.lmDrainLine 0) (draining p p 0 0 0 (L pos)) := by
  intro p B L
  have S := fun g h2 => h.2.1 n2 .clu (draining p (bankPtr 1) 0 0 0 B) (fire .lmu p (bankPtr 1)) ⟨p, false⟩ ⟨bankPtr 1, false⟩ (draining p (bankPtr 1) 0 0 0 B).base
    ⟨BitVec.ofNat 64 (0xFC * 2 ^ 56 + 0x7FFC0), .u64, false⟩ ⟨BitVec.ofNat 64 (2 * 2 ^ 56 + 1), .handle, false⟩ 1 g ⟨_, rfl, rfl⟩ rfl rfl rfl rfl rfl
    (by decide) (by decide) h2 rfl nofun
  refine ⟨?_, ?_, ?_⟩
  · obtain ⟨_, _, e, -⟩ := (S _ (ok_val (.virt 0) (by decide +kernel))).1 (fires (fire .lmu p (bankPtr 1)) _ 0xC8 rfl)
    exact ⟨_, e⟩
  · obtain ⟨_, e, -⟩ := (S _ (ok_val (.virt 0) (by decide +kernel))).2 (fires (fire .lmu p (bankPtr 1)) _ 0xC9 rfl) rfl
    exact ⟨_, e⟩
  · have D := fun pos (hp : pos < 64) (hm : (draining p p 0 0 0 (L pos)).MemOk) => h.2.2 (draining p p 0 0 0 (L pos)) 0 _ [] n2 true .clu 0x7F000 15 hm (by decide)
      (by decide) (by decide) (by decide) (noneEnding _ rfl) rfl rfl rfl hp rfl (quiet _ _ rfl rfl) nofun (emits_n2 _ _ _ _)
    rintro pos (rfl | rfl)
    · obtain ⟨_, e, -⟩ := D 0 (by decide) rfl
      exact ⟨_, e⟩
    · obtain ⟨_, e, -⟩ := D 63 (by decide) rfl
      exact ⟨_, e⟩

/-! ### Engine operations -/

theorem val_of {ε α : Type} {r : Except ε α} (d : α) (h : (match r with | .ok _ => true | .error _ => false) = true) :
    r = .ok (match r with | .ok x => x | .error _ => d) := by
  cases r with
  | ok x => rfl
  | error e => cases h

/-- An engine-port firing of two tokens, with 64 bytes at the start of the pool and one open Culvert handle. -/
abbrev ordering (p q : Payload) (v : Nat) : State := hand (fire .eng p q) fun s =>
  { s with mem := Memory.writeN [] (poolKey 0 0) 64 v, out := { s.out with handles := [((0, 7), 1)] } }

theorem engine_reads (p q : Payload) (v : Nat) :
    ReadsAB (ordering p q v) (fire .eng p q) n2 ⟨p.clean, false⟩ ⟨q.clean, false⟩ (ordering p q v).base := ⟨_, rfl, rfl⟩

/-- An integer operand. -/
abbrev num (v : Nat) : Payload := plain (BitVec.ofNat 64 v) .i64

theorem at_index {α β γ δ : Type} {L : List (α × β × γ × δ)} {P : α → β → γ → δ → Prop} (h : ∀ a b c d, (a, b, c, d) ∈ L → P a b c d)
    (k : Nat) (hk : k < L.length) : P L[k].1 L[k].2.1 L[k].2.2.1 L[k].2.2.2 := h _ _ _ _ (List.getElem_mem hk)

theorem at_index3 {α β γ : Type} {L : List (α × β × γ)} {P : α → β → γ → Prop} (h : ∀ a b c, (a, b, c) ∈ L → P a b c)
    (k : Nat) (hk : k < L.length) : P L[k].1 L[k].2.1 L[k].2.2 := h _ _ _ (List.getElem_mem hk)

theorem at_index5 {α β γ δ ε : Type} {L : List (α × β × γ × δ × ε)} {P : α → β → γ → δ → ε → Prop}
    (h : ∀ a b c d e, (a, b, c, d, e) ∈ L → P a b c d e) (k : Nat) (hk : k < L.length) :
    P L[k].1 L[k].2.1 L[k].2.2.1 L[k].2.2.2.1 L[k].2.2.2.2 := h _ _ _ _ _ (List.getElem_mem hk)

/-- Every operation of the first kind; those with a range at the ends of it and beyond. -/
theorem witness_engine_nodes (h : Obligations.EngineOperationsAreQueued) :
    (∀ i ∈ [Instr.spawn n2, .suspend n2, .jinit n2 .clu, .jarrive n2 .clu, .barArrive n2 .clu, .barWait n2 .clu, .qPush n2 .clu,
      .qPop n2 false .clu, .launch n2 .clu, .cut n2, .cvOpen n2 false true, .gateSrcClose n2, .gateSrcOpen n2, .gateSrcFreeze n2,
      .gateSrcEvict n2], Runs i (ordering (num 0) (num 0) 0)) ∧
    (∀ p ∈ [(Instr.publish n2, 0, 2 ^ 20), (.scrubZero n2, 0, 65536), (.scrubWait n2, 0, 0), (.hgTake n2, 63, 0),
      (.hgPost n2, 0x3FF00FF, 0), (.hgQuote n2, 0xFC * 2 ^ 56, 0), (.publish n2, 0, 2 ^ 20 + 1), (.scrubZero n2, 0, 0), (.hgTake n2, 64, 0),
      (.hgPost n2, 0x100, 0), (.hgQuote n2, 0, 0)], Runs p.1 (ordering (num p.2.1) (num p.2.2) 0)) := by
  constructor
  · have Q := fun k hk e1 e2 => at_index (h.1 n2 false false true .clu) k hk (ordering (num 0) (num 0) 0) _ _ _ _ ⟨0, .i64, false⟩
      ⟨0, .i64, false⟩ (fires (fire .eng (num 0) (num 0)) _ _ rfl) (engine_reads _ _ _) e1 rfl e2 rfl rfl rfl
    simp only [List.mem_cons, List.not_mem_nil, or_false, forall_eq_or_imp, forall_eq]
    refine ⟨?_, ?_, ?_, ?_, ?_, ?_, ?_, ?_, ?_, ?_, ?_, ?_, ?_, ?_, ?_⟩
    · exact ⟨_, Q 0 (by decide) rfl rfl⟩
    · exact ⟨_, Q 1 (by decide) rfl rfl⟩
    · exact ⟨_, Q 2 (by decide) rfl rfl⟩
    · exact ⟨_, Q 3 (by decide) rfl rfl⟩
    · exact ⟨_, Q 4 (by decide) rfl rfl⟩
    · exact ⟨_, Q 5 (by decide) rfl rfl⟩
    · exact ⟨_, Q 6 (by decide) rfl rfl⟩
    · exact ⟨_, Q 7 (by decide) rfl rfl⟩
    · exact ⟨_, Q 8 (by decide) rfl rfl⟩
    · exact ⟨_, Q 9 (by decide) rfl rfl⟩
    · exact ⟨_, Q 10 (by decide) rfl rfl⟩
    · exact ⟨_, Q 11 (by decide) rfl rfl⟩
    · exact ⟨_, Q 12 (by decide) rfl rfl⟩
    · exact ⟨_, Q 13 (by decide) rfl rfl⟩
    · exact ⟨_, Q 14 (by decide) rfl rfl⟩
  · have Q := fun k hk a b e1 e2 => at_index5 (h.2.1 n2) k hk (ordering (num a) (num b) 0) _ _ _ _ ⟨BitVec.ofNat 64 a, .i64, false⟩
      ⟨BitVec.ofNat 64 b, .i64, false⟩ (fires (fire .eng (num a) (num b)) _ _ rfl) (engine_reads _ _ _) e1 rfl e2 rfl rfl
    simp only [List.mem_cons, List.not_mem_nil, or_false, forall_eq_or_imp, forall_eq]
    refine ⟨?_, ?_, ?_, ?_, ?_, ?_, ?_, ?_, ?_, ?_, ?_⟩
    · exact ⟨_, (Q 0 (by decide) 0 (2 ^ 20) rfl rfl).1 (show 1 ≤ 2 ^ 20 ∧ 2 ^ 20 ≤ 2 ^ 20 by decide) rfl⟩
    · exact ⟨_, (Q 1 (by decide) 0 65536 rfl rfl).1 (show 1 ≤ 65536 ∧ 65536 ≤ 65536 by decide) rfl⟩
    · exact ⟨_, (Q 2 (by decide) 0 0 rfl rfl).1 trivial rfl⟩
    · exact ⟨_, (Q 3 (by decide) 63 0 rfl rfl).1 (show 63 < 64 by decide) rfl⟩
    · exact ⟨_, (Q 4 (by decide) 0x3FF00FF 0 rfl rfl).1 (show 0x3FF00FF < 2 ^ 26 ∧ bits 0x3FF00FF 15 8 = 0 by decide) rfl⟩
    · exact ⟨_, (Q 5 (by decide) (0xFC * 2 ^ 56) 0 rfl rfl).1 (show 0xFC * 2 ^ 56 / 2 ^ 56 = 0xFC ∧ 0 < 2 ^ 56 by decide) rfl⟩
    · exact ⟨_, (Q 0 (by decide) 0 (2 ^ 20 + 1) rfl rfl).2 (show ¬ (1 ≤ 2 ^ 20 + 1 ∧ 2 ^ 20 + 1 ≤ 2 ^ 20) by decide)⟩
    · exact ⟨_, (Q 1 (by decide) 0 0 rfl rfl).2 (show ¬ (1 ≤ 0 ∧ 0 ≤ 65536) by decide)⟩
    · exact ⟨_, (Q 3 (by decide) 64 0 rfl rfl).2 (show ¬ 64 < 64 by decide)⟩
    · exact ⟨_, (Q 4 (by decide) 0x100 0 rfl rfl).2 (show ¬ (0x100 < 2 ^ 26 ∧ bits 0x100 15 8 = 0) by decide)⟩
    · exact ⟨_, (Q 5 (by decide) 0 0 rfl rfl).2 (show ¬ (0 / 2 ^ 56 = 0xFC ∧ 0 < 2 ^ 56) by decide)⟩

/-- A command line of one line or page, of FP32, through Culvert handle 7. -/
def command (n : Nat) : Nat := n * 2 ^ 128 + 4 * 2 ^ 192

/-- What `engLine` reads of it. -/
def commandLine (v : Nat) : EngM (LineData × Desc × State) :=
  engLine (makeIrrevocable (ordering pad0 (num 0) v).base 5) ⟨0, .eng, 0⟩ 5 (BitVec.ofNat 64 (0xFC * 2 ^ 56 + 0)).toNat false

/-- The answer of that reading. -/
def lineRead (v : Nat) : LineData × Desc × State := match commandLine v with | .ok x => x | .error _ => (0, 0, State.reset)

/-- The line holds the command, whatever it is. -/
def Holds (v : Nat) : Prop := commandLine v = .ok ((lineRead v).1, (lineRead v).2.1, (lineRead v).2.2) ∧ (lineRead v).1.toNat = v ∧
  isOk (checkPointer (ordering pad0 (num 0) v).base ⟨0, .eng, 0⟩ 5 (BitVec.ofNat 64 (0xFC * 2 ^ 56 + 0)).toNat 64 64) = true

theorem holds (v : Nat) (a : isOk (match commandLine v with | .ok x => .ok x | .error _ => flt .command) = true)
    (b : (lineRead v).1.toNat = v)
    (c : isOk (checkPointer (ordering pad0 (num 0) v).base ⟨0, .eng, 0⟩ 5 (BitVec.ofNat 64 (0xFC * 2 ^ 56 + 0)).toNat 64 64) = true) :
    Holds v := by
  refine ⟨?_, b, c⟩
  unfold lineRead
  cases e : commandLine v with
  | ok x => rfl
  | error x => rw [e] at a; cases a

theorem holds_none : Holds (command 0) := holds _ (by decide +kernel) (by decide +kernel) (by decide +kernel)
theorem holds_one : Holds (command 1) := holds _ (by decide +kernel) (by decide +kernel) (by decide +kernel)
theorem holds_most : Holds (command (2 ^ 20)) := holds _ (by decide +kernel) (by decide +kernel) (by decide +kernel)

/-- A Culvert command. -/
def culvert : Nat := command 65536 + (0x04 * 2 ^ 56 + 7) * 2 ^ 256

theorem holds_culvert : Holds culvert := holds _ (by decide +kernel) (by decide +kernel) (by decide +kernel)

/-- A remote pointer to an offset of window 3 of device 2. -/
abbrev remotePtr0 (off : Nat) : Payload := plain (BitVec.ofNat 64 (3 * 2 ^ 56 + 2 * 2 ^ 37 + 3 * 2 ^ 32 + off)) .handle

/-- Command lines with the least and the largest number of lines and without any; Culvert transfers; a close; remote accesses
at an aligned offset and one that is not. -/
theorem witness_commands_and_remotes (h : Obligations.EngineOperationsAreQueued) :
    (∀ i ∈ [Instr.cp n2 .clu, .nmAdd n2 .clu, .nmAxpy n2 .clu, .nmScl n2 .clu, .nmCvt n2 .clu], ∀ n, n = 0 ∨ n = 1 ∨ n = 2 ^ 20 →
      Runs i (ordering pad0 (num 0) (command n))) ∧
    (∀ i ∈ [Instr.cvIn n2, .cvOut n2], Runs i (ordering pad0 (num 0) culvert)) ∧
    Runs (.cvClose n2 true) (ordering (plain (0x04 <<< 56 + 7) .handle) (num 0) 0) ∧
    (∀ i ∈ [Instr.xrGet n2 false false, .xrPut n2 false, .xrAmo n2 false 0], ∀ off, off = 0xFFFFFFF8 ∨ off = 0xFFFFFFFC →
      Runs i (ordering (remotePtr0 off) (num 0) 0)) := by
  refine ⟨?_, ?_, ?_, ?_⟩
  · have Q := fun k hk n (e : Holds (command n)) => at_index (h.2.2.1 n2 .clu) k hk (ordering pad0 (num 0) (command n)) _ _ _ _
      ⟨BitVec.ofNat 64 (0xFC * 2 ^ 56 + 0), .u64, false⟩ ⟨0, .i64, false⟩ _ _ _ _ (fires (fire .eng pad0 (num 0)) _ _ rfl) (engine_reads _ _ _)
      rfl rfl rfl rfl rfl (ok_val (.virt 0) e.2.2) rfl e.1
    simp only [List.mem_cons, List.not_mem_nil, or_false, forall_eq_or_imp, forall_eq]
    refine ⟨⟨?_, ?_, ?_⟩, ⟨?_, ?_, ?_⟩, ⟨?_, ?_, ?_⟩, ⟨?_, ?_, ?_⟩, ⟨?_, ?_, ?_⟩⟩
    · exact ⟨_, (Q 0 (by decide) 0 holds_none).1 (by rw [holds_none.2.1]; decide +kernel)⟩
    · exact ⟨_, (Q 0 (by decide) 1 holds_one).2 (by rw [holds_one.2.1]; decide +kernel) (fun _ => by rw [holds_one.2.1]; decide +kernel)⟩
    · exact ⟨_, (Q 0 (by decide) (2 ^ 20) holds_most).2 (by rw [holds_most.2.1]; decide +kernel) (fun _ => by rw [holds_most.2.1]; decide +kernel)⟩
    · exact ⟨_, (Q 1 (by decide) 0 holds_none).1 (by rw [holds_none.2.1]; decide +kernel)⟩
    · exact ⟨_, (Q 1 (by decide) 1 holds_one).2 (by rw [holds_one.2.1]; decide +kernel) (fun _ => by rw [holds_one.2.1]; decide +kernel)⟩
    · exact ⟨_, (Q 1 (by decide) (2 ^ 20) holds_most).2 (by rw [holds_most.2.1]; decide +kernel) (fun _ => by rw [holds_most.2.1]; decide +kernel)⟩
    · exact ⟨_, (Q 2 (by decide) 0 holds_none).1 (by rw [holds_none.2.1]; decide +kernel)⟩
    · exact ⟨_, (Q 2 (by decide) 1 holds_one).2 (by rw [holds_one.2.1]; decide +kernel) (fun _ => by rw [holds_one.2.1]; decide +kernel)⟩
    · exact ⟨_, (Q 2 (by decide) (2 ^ 20) holds_most).2 (by rw [holds_most.2.1]; decide +kernel) (fun _ => by rw [holds_most.2.1]; decide +kernel)⟩
    · exact ⟨_, (Q 3 (by decide) 0 holds_none).1 (by rw [holds_none.2.1]; decide +kernel)⟩
    · exact ⟨_, (Q 3 (by decide) 1 holds_one).2 (by rw [holds_one.2.1]; decide +kernel) (fun _ => by rw [holds_one.2.1]; decide +kernel)⟩
    · exact ⟨_, (Q 3 (by decide) (2 ^ 20) holds_most).2 (by rw [holds_most.2.1]; decide +kernel) (fun _ => by rw [holds_most.2.1]; decide +kernel)⟩
    · exact ⟨_, (Q 4 (by decide) 0 holds_none).1 (by rw [holds_none.2.1]; decide +kernel)⟩
    · exact ⟨_, (Q 4 (by decide) 1 holds_one).2 (by rw [holds_one.2.1]; decide +kernel) (fun _ => by rw [holds_one.2.1]; decide +kernel)⟩
    · exact ⟨_, (Q 4 (by decide) (2 ^ 20) holds_most).2 (by rw [holds_most.2.1]; decide +kernel) (fun _ => by rw [holds_most.2.1]; decide +kernel)⟩
  · have Q := fun k hk e => at_index3 (h.2.2.2.1 n2) k hk (ordering pad0 (num 0) culvert) _ _ _ _
      ⟨BitVec.ofNat 64 (0xFC * 2 ^ 56 + 0), .u64, false⟩ ⟨0, .i64, false⟩ _ _ _ _ 7 1 (fires (fire .eng pad0 (num 0)) _ _ rfl)
      (engine_reads _ _ _) rfl rfl e rfl rfl (ok_val (.virt 0) holds_culvert.2.2) rfl holds_culvert.1
    simp only [List.mem_cons, List.not_mem_nil, or_false, forall_eq_or_imp, forall_eq]
    refine ⟨⟨_, Q 0 (by decide) rfl ?_ ?_ ?_ ?_ ?_ ?_ ?_ ?_ (by decide) ?_⟩, ⟨_, Q 1 (by decide) rfl ?_ ?_ ?_ ?_ ?_ ?_ ?_ ?_ (by decide) ?_⟩⟩
    all_goals first | (rw [holds_culvert.2.1]; decide +kernel) | decide +kernel
  · exact ⟨_, h.2.2.2.2.1 n2 true (ordering (plain (0x04 <<< 56 + 7) .handle) (num 0) 0) _ _ _ ⟨0x04 <<< 56 + 7, .handle, false⟩ 7 1
      (fires (fire .eng (plain (0x04 <<< 56 + 7) .handle) (num 0)) _ _ rfl) rfl rfl rfl rfl (by decide) (by decide) rfl rfl⟩
  · have Q := fun k hk off (e : (BitVec.ofNat 64 (3 * 2 ^ 56 + 2 * 2 ^ 37 + 3 * 2 ^ 32 + off)).toNat / 2 ^ 56 = 3) =>
      at_index3 (h.2.2.2.2.2 n2 false false false 0) k hk (ordering (remotePtr0 off) (num 0) 0)
      _ _ _ _ ⟨BitVec.ofNat 64 (3 * 2 ^ 56 + 2 * 2 ^ 37 + 3 * 2 ^ 32 + off), .handle, false⟩ (num 0) (fires (fire .eng (remotePtr0 off) (num 0)) _ _ rfl)
      (engine_reads _ _ _) rfl rfl e
    simp only [List.mem_cons, List.not_mem_nil, or_false, forall_eq_or_imp, forall_eq]
    refine ⟨⟨?_, ?_⟩, ⟨?_, ?_⟩, ⟨?_, ?_⟩⟩
    · exact ⟨_, (Q 0 (by decide) 0xFFFFFFF8 (by decide)).2 (by decide) rfl rfl ⟨_, rfl, rfl, rfl⟩⟩
    · exact ⟨_, (Q 0 (by decide) 0xFFFFFFFC (by decide)).1 (by decide)⟩
    · exact ⟨_, (Q 1 (by decide) 0xFFFFFFF8 (by decide)).2 (by decide) rfl rfl ⟨_, rfl, rfl, rfl⟩⟩
    · exact ⟨_, (Q 1 (by decide) 0xFFFFFFFC (by decide)).1 (by decide)⟩
    · exact ⟨_, (Q 2 (by decide) 0xFFFFFFF8 (by decide)).2 (by decide) rfl rfl ⟨_, rfl, rfl, rfl⟩⟩
    · exact ⟨_, (Q 2 (by decide) 0xFFFFFFFC (by decide)).1 (by decide)⟩

/-- What a reading answers has a property. -/
def test {ε α : Type} (r : Except ε α) (P : α → Bool) : Bool := match r with | .ok x => P x | .error _ => false

theorem sat {ε α : Type} {r : Except ε α} {P : α → Bool} (h : test r P = true) : ∃ x, r = .ok x ∧ P x = true := by
  cases r with
  | ok x => exact ⟨x, rfl, h⟩
  | error e => cases h

/-- The same for what may be absent. -/
def testO {α : Type} (r : Option α) (P : α → Bool) : Bool := match r with | some x => P x | none => false

theorem satO {α : Type} {r : Option α} {P : α → Bool} (h : testO r P = true) : ∃ x, r = some x ∧ P x = true := by
  cases r with
  | some x => exact ⟨x, rfl, h⟩
  | none => cases h

/-- An engine port with one operation, whose region has a node at slot 0 of element 0, and 32 bytes at the start of the pool. -/
def task (i : Instr) (l r : Payload) (v : Nat) : State :=
  { unit0 eng0 { HwUnit.empty with ops := [acc i l r] } State.reset with
    mem := Memory.writeN [] (poolKey 0 0) 32 v, regions := [(5, { reg with nodes := [(el0, 0)] })]
    clusters := [(0, { Cluster.empty with pword := 1, parked := [⟨9, 0, 5, false, false, none, 0, none⟩] })] }

theorem op_ready (i : Instr) (l r : Payload) (v : Nat) : OpReady (task i l r v) eng0 (acc i l r) := ⟨rfl, rfl, noneEnding _ rfl⟩

/-- The operation's block of 16 bytes. -/
abbrev taskBlock (i : Instr) (r : Payload) (v : Nat) : EngM (Nat × Target × State) :=
  engBlock (task i pad0 r v) eng0 5 (opA (acc i pad0 r)) 16 true

/-- The same, once the stores before a release have left the write queues. -/
abbrev releasedBlock (i : Instr) (r : Payload) (v : Nat) : EngM (Nat × Target × State) :=
  engBlock (release (task i pad0 r v) eng0 5) eng0 5 (opA (acc i pad0 r)) 16 true

theorem op_says {s : State} {a : Access} {n : Nd} {s2 : State} {p : Payload} (h : OpSays s eng0 a n s2 p) (e : n = n2) :
    Runs (.engineOperationComplete eng0 a.id) s := by
  subst e
  obtain ⟨_, -, e⟩ := h (emits_n2 _ _ _ _)
  exact ⟨_, e⟩

theorem op_says_pair {s : State} {a : Access} {n : Nd} {s2 : State} {p q : Option Payload} (h : OpSaysPair s eng0 a n s2 p q)
    (e : n = n2) : Runs (.engineOperationComplete eng0 a.id) s := by
  subst e
  obtain ⟨_, -, e⟩ := h (fun _ _ => emits_n2 _ _ _ _) nofun
  exact ⟨_, e⟩

/-- The state after an arrival counts 1 down to 0, and the parked record of a name in it. -/
abbrev counted (v : Nat) (x : Nat × Target × State) : State :=
  blockWrite x.2.2 (acc (.jarrive n2 .clu) pad0 (num 3)) x.2.1 0 8 (v % 2 ^ 64 - 1)
abbrev parent (v : Nat) (x : Nat × Target × State) : Option (Nat × Rec) :=
  findParked (counted v x) ((counted v x).region (acc (.jarrive n2 .clu) pad0 (num 3)).f.rid).cx (v / 2 ^ 64)

/-- A counter that is free and one that is taken; a count of 0, 2, 1 without and with a parent, waiting or gone; a barrier with
no count, in the middle, and complete. -/
theorem witness_counters (h : Obligations.TaskOperationsTakeEffect) :
    (∀ v, v = 2 ^ 64 - 1 ∨ v = 2 ^ 64 → Runs (.engineOperationComplete eng0 7) (task (.jinit n2 .clu) pad0 (num 3) v)) ∧
    (∀ v, v = 0 ∨ v = 2 ∨ v = 1 ∨ v = 2 ^ 64 * 9 + 1 ∨ v = 2 ^ 64 * 8 + 1 →
      Runs (.engineOperationComplete eng0 7) (task (.jarrive n2 .clu) pad0 (num 3) v)) ∧
    ∀ v, v = 0 ∨ v = 2 ∨ v = 1 → Runs (.engineOperationComplete eng0 7) (task (.barArrive n2 .clu) pad0 (num 3) v) := by
  have B := fun (i : Instr) v (x : Nat × Target × State) (e : taskBlock i (num 3) v = .ok x ∧ decide (x.1 = v) = true) =>
    (show taskBlock i (num 3) v = .ok (v, x.2) by rw [e.1, ← of_decide_eq_true e.2])
  have R := fun (i : Instr) v (x : Nat × Target × State) (e : releasedBlock i (num 3) v = .ok x ∧ decide (x.1 = v) = true) =>
    (show releasedBlock i (num 3) v = .ok (v, x.2) by rw [e.1, ← of_decide_eq_true e.2])
  refine ⟨?_, ?_, ?_⟩
  · rintro v (rfl | rfl)
    · obtain ⟨x, e⟩ := sat (r := taskBlock (.jinit n2 .clu) (num 3) (2 ^ 64 - 1)) (P := fun x => decide (x.1 = 2 ^ 64 - 1)) (by decide +kernel)
      exact op_says ((h.1 _ eng0 _ n2 .clu _ _ _ (op_ready _ _ _ _) rfl (B _ _ x e)).2 (by decide)) rfl
    · obtain ⟨x, e⟩ := sat (r := taskBlock (.jinit n2 .clu) (num 3) (2 ^ 64)) (P := fun x => decide (x.1 = 2 ^ 64)) (by decide +kernel)
      exact ⟨_, (h.1 _ eng0 _ n2 .clu _ _ _ (op_ready _ _ _ _) rfl (B _ _ x e)).1 (by decide)⟩
  · have J := fun v (x : Nat × Target × State) e => h.2.2.1 _ eng0 _ n2 .clu v x.2.1 x.2.2
      (op_ready (.jarrive n2 .clu) pad0 (num 3) v) rfl rfl nofun (R _ v x e)
    rintro v (rfl | rfl | rfl | rfl | rfl)
    · obtain ⟨x, e⟩ := sat (r := releasedBlock (.jarrive n2 .clu) (num 3) 0) (P := fun x => decide (x.1 = 0)) (by decide +kernel)
      exact ⟨_, (J 0 x e).1 rfl⟩
    · obtain ⟨x, e⟩ := sat (r := releasedBlock (.jarrive n2 .clu) (num 3) 2) (P := fun x => decide (x.1 = 2)) (by decide +kernel)
      exact op_says ((J 2 x e).2.1 (.inl (by decide))) rfl
    · obtain ⟨x, e⟩ := sat (r := releasedBlock (.jarrive n2 .clu) (num 3) 1) (P := fun x => decide (x.1 = 1)) (by decide +kernel)
      exact op_says ((J 1 x e).2.1 (.inr ⟨by decide, by decide⟩)) rfl
    · obtain ⟨x, e, q⟩ := sat (r := releasedBlock (.jarrive n2 .clu) (num 3) (2 ^ 64 * 9 + 1)) (P := fun x => decide (x.1 = 2 ^ 64 * 9 + 1) &&
        testO (parent (2 ^ 64 * 9 + 1) x) fun p => (recordError (counted (2 ^ 64 * 9 + 1) x) p.1 p.2).isNone &&
          (enqueueParked (counted (2 ^ 64 * 9 + 1) x) p.1 p.2 id).isSome) (by decide +kernel)
      rw [Bool.and_eq_true] at q
      obtain ⟨p, e', q'⟩ := satO q.2
      rw [Bool.and_eq_true, Option.isNone_iff_eq_none] at q'
      obtain ⟨t, q2⟩ := Option.isSome_iff_exists.mp q'.2
      obtain ⟨_, -, e⟩ := ((J (2 ^ 64 * 9 + 1) x ⟨e, q.1⟩).2.2 (by decide) (by decide) (emits_n2 _ _ _ _)).2 p.1 p.2 t e' q'.1 q2 (emits_n2 _ _ _ _)
      exact ⟨_, e⟩
    · obtain ⟨x, e, q⟩ := sat (r := releasedBlock (.jarrive n2 .clu) (num 3) (2 ^ 64 * 8 + 1)) (P := fun x => decide (x.1 = 2 ^ 64 * 8 + 1) &&
        (parent (2 ^ 64 * 8 + 1) x).isNone) (by decide +kernel)
      rw [Bool.and_eq_true] at q
      exact op_says (((J (2 ^ 64 * 8 + 1) x ⟨e, q.1⟩).2.2 (by decide) (by decide) (emits_n2 _ _ _ _)).1 (Option.isNone_iff_eq_none.mp q.2)) rfl
  · have J := fun v (x : Nat × Target × State) e => h.2.2.2.1 _ eng0 _ n2 .clu v x.2.1 x.2.2
      (op_ready (.barArrive n2 .clu) pad0 (num 3) v) rfl (R _ v x e)
    rintro v (rfl | rfl | rfl)
    · obtain ⟨x, e⟩ := sat (r := releasedBlock (.barArrive n2 .clu) (num 3) 0) (P := fun x => decide (x.1 = 0)) (by decide +kernel)
      exact ⟨_, (J 0 x e).1 (.inl (by decide))⟩
    · obtain ⟨x, e⟩ := sat (r := releasedBlock (.barArrive n2 .clu) (num 3) 2) (P := fun x => decide (x.1 = 2)) (by decide +kernel)
      exact op_says_pair ((J 2 x e).2.1 (by decide)) rfl
    · obtain ⟨x, e⟩ := sat (r := releasedBlock (.barArrive n2 .clu) (num 3) 1) (P := fun x => decide (x.1 = 1)) (by decide +kernel)
      exact op_says_pair ((J 1 x e).2.2 (by decide)) rfl

/-- The arrival of an activation's end, and a device whose region's frame still returns. -/
def owed : Access := { acc (.jarrive n2 .clu) pad0 (num 3) with f := { (acc (.jarrive n2 .clu) pad0 (num 3)).f with stage := 1 } }
def owing : State := { unit0 eng0 { HwUnit.empty with ops := [owed] } State.reset with
  regions := [(5, reg)], frames := [((5, owed.f.tag.die, owed.f.tag.frame), { Frame.none with st := .returning })] }

/-- An arrival at an activation's end while its frame still returns. -/
theorem witness_owed_arrival (h : Obligations.TaskOperationsTakeEffect) : OpReady owing eng0 owed ∧
    exec (.engineOperationComplete eng0 owed.id) owing = .refused (.notEnabled "ENGINE_OPERATION_COMPLETE") := by
  have r : OpReady owing eng0 owed := ⟨rfl, rfl, noneEnding _ rfl⟩
  exact ⟨r, h.2.1 owing eng0 owed n2 .clu r rfl rfl (by decide +kernel)⟩

/-- A pointer to the second line of the pool. -/
abbrev pad64 : Payload := plain (BitVec.ofNat 64 (0xFC * 2 ^ 56 + 64)) .u64

/-- The same device with a record image of a new frame at 4096 of the heap window. -/
def imaged (i : Instr) (l r : Payload) (v : Nat) : State :=
  { task i l r v with
    zeroed := [(0, 2 ^ 39)]
    regions := [(5, { reg with nodes := [(el0, 0)], rcb := BitVec.ofNat 2048 (2 ^ 20 * 2 ^ 640 + 7 * 2 ^ 768) })]
    mem := Memory.writeN (task i l r v).mem (physKey State.reset 0 4104) 8 (2 ^ 52) }

/-- The image of the operation's record. -/
abbrev taskImage (i : Instr) (r : Payload) (v : Nat) : EngM (BitVec 1280 × State) :=
  engImage (imaged i (plain 4096 .u64) r v) eng0 5 4096 true

theorem image_ready (i : Instr) (l r : Payload) (v : Nat) : OpReady (imaged i l r v) eng0 (acc i l r) := ⟨rfl, rfl, noneEnding _ rfl⟩

/-- A queue of one entry, at the second line of the pool: full, and empty where its counts wrap. -/
def fullQueue : Nat := (0xFC * 2 ^ 56 + 64) * 2 ^ 128 + 2 ^ 32
def openQueue : Nat := (0xFC * 2 ^ 56 + 64) * 2 ^ 128 + (2 ^ 64 - 1)

/-- A queue of more entries than R248 admits. -/
def badQueue : Nat := (0xFC * 2 ^ 56 + 64) * 2 ^ 128 + 21 * 2 ^ 64

/-- The header of a queue that an operation reads. -/
abbrev pushHead (v : Nat) : EngM (Nat × Target × State) :=
  engBlock (release (task (.qPush n2 .clu) pad0 (num 3) v) eng0 5) eng0 5 (opA (acc (.qPush n2 .clu) pad0 (num 3))) 32 true
abbrev popHead (v : Nat) : EngM (Nat × Target × State) :=
  engBlock (task (.qPop n2 false .clu) pad0 (num 3) v) eng0 5 (opA (acc (.qPop n2 false .clu) pad0 (num 3))) 32 true

theorem queue_head {r : EngM (Nat × Target × State)} {x : Nat × Target × State} {v : Nat}
    (e : r = .ok x ∧ decide (x.1 = v) = true) : r = .ok (v, x.2.1, x.2.2) := by rw [e.1, ← of_decide_eq_true e.2]

/-- A test for R248. -/
def queueTest (s : State) (v : Nat) : Bool :=
  decide (QHead.lgcap v ≤ 20 ∧ (formOf s 0 (QHead.base v)).isSome = true ∧ QHead.base v % 8 = 0 ∧ v / 2 ^ 192 = 0 ∧
    bits v 127 72 = 0 ∧ (QHead.tail v + 2 ^ 32 - QHead.head v) % 2 ^ 32 ≤ 2 ^ QHead.lgcap v)

theorem queue_test {s : State} {v : Nat} (h : queueTest s v = true) : QueueOk s 0 v := by
  unfold queueTest at h
  unfold QueueOk
  exact of_decide_eq_true h

/-- A barrier that is open and one that is not; queues that break R248, that are full and empty and are not; a spawned record; a suspended one
whose counter is at zero, above it, and taken. -/
theorem witness_waits_and_records (h : Obligations.TaskOperationsTakeEffect) :
    (∀ v, v = 0 ∨ v = 2 ^ 64 * 3 → Runs (.engineOperationComplete eng0 7) (task (.barWait n2 .clu) pad0 (num 3) v)) ∧
    (∀ v, v = badQueue ∨ v = fullQueue ∨ v = openQueue → Runs (.engineOperationComplete eng0 7) (task (.qPush n2 .clu) pad0 (num 3) v)) ∧
    (∀ v, v = badQueue ∨ v = openQueue ∨ v = fullQueue → Runs (.engineOperationComplete eng0 7) (task (.qPop n2 false .clu) pad0 (num 3) v)) ∧
    Runs (.engineOperationComplete eng0 7) (imaged (.spawn n2) (plain 4096 .u64) (num 3) 0) ∧
    ∀ v, v = 0 ∨ v = 1 ∨ v = 2 ^ 64 → Runs (.engineOperationComplete eng0 7) (imaged (.suspend n2) (plain 4096 .u64) pad0 v) := by
  refine ⟨?_, ?_, ?_, ?_, ?_⟩
  · have W := fun v (t : Target × State) (x : Nat × Desc × State) => h.2.2.2.2.1 _ eng0 _ n2 .clu t.1 t.2 x.1 x.2.1 x.2.2
      (op_ready (.barWait n2 .clu) pad0 (num 3) v) rfl
    have T := fun v (P : Nat → Bool) (e : (test (engAt (task (.barWait n2 .clu) pad0 (num 3) v) eng0 5 (0xFC * 2 ^ 56) 16 16 true false true)
        (fun _ => true) && test (engRead (task (.barWait n2 .clu) pad0 (num 3) v) eng0 5 (0xFC * 2 ^ 56) 16 16 true)
        (fun x => P x.1 && decide ((x.2.2.unit eng0).watchers.length < 16))) = true) => Bool.and_eq_true .. ▸ e
    rintro v (rfl | rfl)
    · have e := T 0 (fun x => decide (x / 2 ^ 64 ≠ 3)) (by decide +kernel)
      obtain ⟨t, e1, -⟩ := sat e.1
      obtain ⟨x, e2, q⟩ := sat e.2
      rw [Bool.and_eq_true] at q
      exact op_says_pair ((W 0 t x e1 e2).1 (of_decide_eq_true q.1)) rfl
    · have e := T (2 ^ 64 * 3) (fun x => decide (x / 2 ^ 64 = 3)) (by decide +kernel)
      obtain ⟨t, e1, -⟩ := sat e.1
      obtain ⟨x, e2, q⟩ := sat e.2
      rw [Bool.and_eq_true] at q
      exact ⟨_, (W (2 ^ 64 * 3) t x e1 e2).2 (of_decide_eq_true q.1) (of_decide_eq_true q.2)⟩
  · have W := fun v (x : Nat × Target × State) e => h.2.2.2.2.2.1 _ eng0 _ n2 .clu ⟨BitVec.ofNat 64 3, .i64, false⟩ v x.2.1 x.2.2
      (op_ready (.qPush n2 .clu) pad0 (num 3) v) rfl rfl (queue_head e)
    rintro v (rfl | rfl | rfl)
    · obtain ⟨x, e, q⟩ := sat (r := pushHead badQueue) (P := fun x => decide (x.1 = badQueue)) (by decide +kernel)
      exact ⟨_, (W badQueue x ⟨e, q⟩).1 fun k => absurd k.1 (by decide)⟩
    · obtain ⟨x, e, q⟩ := sat (r := pushHead fullQueue) (P := fun x => decide (x.1 = fullQueue) && queueTest x.2.2 fullQueue) (by decide +kernel)
      rw [Bool.and_eq_true] at q
      exact op_says_pair ((W fullQueue x ⟨e, q.1⟩).2.1 (queue_test q.2) (by decide)) rfl
    · obtain ⟨x, e, q⟩ := sat (r := pushHead openQueue) (P := fun x => decide (x.1 = openQueue) && (queueTest x.2.2 openQueue &&
        test (engAt x.2.2 eng0 5 (0xFC * 2 ^ 56 + 64) 8 8 false true true) fun y => !y.2.poison.contains y.1.line &&
          (let d := readDesc (drainLine y.2 y.1.line fun _ _ => true) .outside 5 0 y.1
           formatOk d.fmt && formatAdmits d.fmt (declared .i64)))) (by decide +kernel)
      simp only [Bool.and_eq_true] at q
      obtain ⟨y, e', k⟩ := sat q.2.2
      simp only [Bool.and_eq_true, Bool.not_eq_true'] at k
      exact op_says_pair ((W openQueue x ⟨e, q.1⟩).2.2 y.1 y.2 (queue_test q.2.1) (by decide) e' k.1 k.2.1 k.2.2) rfl
  · have W := fun v (x : Nat × Target × State) e => h.2.2.2.2.2.2.1 _ eng0 _ n2 false .clu v x.2.1 x.2.2
      (op_ready (.qPop n2 false .clu) pad0 (num 3) v) rfl (queue_head e)
    rintro v (rfl | rfl | rfl)
    · obtain ⟨x, e, q⟩ := sat (r := popHead badQueue) (P := fun x => decide (x.1 = badQueue)) (by decide +kernel)
      exact ⟨_, (W badQueue x ⟨e, q⟩).1 fun k => absurd k.1 (by decide)⟩
    · obtain ⟨x, e, q⟩ := sat (r := popHead openQueue) (P := fun x => decide (x.1 = openQueue) && queueTest x.2.2 openQueue) (by decide +kernel)
      rw [Bool.and_eq_true] at q
      exact op_says_pair ((W openQueue x ⟨e, q.1⟩).2.1 (queue_test q.2) (by decide)) rfl
    · obtain ⟨x, e, q⟩ := sat (r := popHead fullQueue) (P := fun x => decide (x.1 = fullQueue) && (queueTest x.2.2 fullQueue &&
        test (engRead x.2.2 eng0 5 (0xFC * 2 ^ 56 + 64) 8 8 true) fun _ => true)) (by decide +kernel)
      simp only [Bool.and_eq_true] at q
      obtain ⟨y, e', -⟩ := sat q.2.2
      exact op_says_pair ((W fullQueue x ⟨e, q.1⟩).2.2 y.1 y.2.1 y.2.2 (queue_test q.2.1) (by decide) e') rfl
  · obtain ⟨x, e, q⟩ := sat (r := taskImage (.spawn n2) (num 3) 0) (P := fun x => test (checkRecord x.2 5 x.1) fun r =>
      RecImg.newf x.1 && (enqueueRecord x.2 ⟨0, liveImage x.1 0, r, false, false, none, 0, none⟩).isSome) (by decide +kernel)
    obtain ⟨r, e', q⟩ := sat q
    rw [Bool.and_eq_true] at q
    obtain ⟨t, q'⟩ := Option.isSome_iff_exists.mp q.2
    obtain ⟨_, -, e⟩ := h.2.2.2.2.2.2.2.1 _ eng0 _ n2 _ _ r t (image_ready (.spawn n2) (plain 4096 .u64) (num 3) 0) rfl e e' (by rw [q.1]; nofun) q' (emits_n2 _ _ _ _)
    exact ⟨_, e⟩
  · have S := fun v (x : BitVec 1280 × State) r (y : Nat × Target × State) => h.2.2.2.2.2.2.2.2 _ eng0 _ n2 x.1 x.2 r y.1 y.2.1 y.2.2
      (image_ready (.suspend n2) (plain 4096 .u64) pad0 v) rfl (by decide)
    rintro v (rfl | rfl | rfl)
    · obtain ⟨x, e, q⟩ := sat (r := taskImage (.suspend n2) pad0 0) (P := fun x => test (checkRecord x.2 5 x.1) fun r =>
        test (engBlock x.2 eng0 5 (0xFC * 2 ^ 56) 16 true) fun y => decide (y.1 = 0) &&
          (enqueueRecord y.2.2 ⟨4096, liveImage x.1 0, r, false, false, none, 0, none⟩).isSome) (by decide +kernel)
      obtain ⟨r, e', q⟩ := sat q
      obtain ⟨y, e'', q⟩ := sat q
      rw [Bool.and_eq_true] at q
      obtain ⟨t, q'⟩ := Option.isSome_iff_exists.mp q.2
      obtain ⟨_, -, e⟩ := (S 0 x r y e e' e'').2.1 t (of_decide_eq_true q.1) q' (emits_n2 _ _ _ _)
      exact ⟨_, e⟩
    · obtain ⟨x, e, q⟩ := sat (r := taskImage (.suspend n2) pad0 1) (P := fun x => test (checkRecord x.2 5 x.1) fun r =>
        test (engBlock x.2 eng0 5 (0xFC * 2 ^ 56) 16 true) fun y => decide (y.1 = 1) &&
          (parkRecord y.2.2 0 ⟨4096, liveImage x.1 1, r, false, false, none, 0, none⟩).isSome) (by decide +kernel)
      obtain ⟨r, e', q⟩ := sat q
      obtain ⟨y, e'', q⟩ := sat q
      rw [Bool.and_eq_true, decide_eq_true_eq] at q
      obtain ⟨t, q'⟩ := Option.isSome_iff_exists.mp q.2
      obtain ⟨_, -, e⟩ := (S 1 x r y e e' e'').2.2 t (by omega) (by omega) q' (emits_n2 _ _ _ _)
      exact ⟨_, e⟩
    · obtain ⟨x, e, q⟩ := sat (r := taskImage (.suspend n2) pad0 (2 ^ 64)) (P := fun x => test (checkRecord x.2 5 x.1) fun r =>
        test (engBlock x.2 eng0 5 (0xFC * 2 ^ 56) 16 true) fun y => decide (y.1 = 2 ^ 64)) (by decide +kernel)
      obtain ⟨r, e', q⟩ := sat q
      obtain ⟨y, e'', q⟩ := sat q
      exact ⟨_, (S (2 ^ 64) x r y e e' e'').1 (Nat.le_of_eq (of_decide_eq_true q).symm)⟩

/-! ### Transfers -/

/-- An engine port with one operation on its way, a command line as its left operand. -/
def flying (i : Instr) (st : AccSt) (l : Payload) (aux : Nat) (g : State → State) : State :=
  g { unit0 eng0 { HwUnit.empty with ops := [{ acc i l (num 0) with st, aux }] } State.reset with clusters := [(0, Cluster.empty)] }

/-- A command from the second line of the pool to the first, with further fields. -/
def fromPad (v : Nat) : LineData :=
  BitVec.ofNat 512 (0xFC * 2 ^ 56 + (0xFC * 2 ^ 56 + 64) * 2 ^ 64 + 2 ^ 128 + v)

/-- The first two lines of the pool are FP32. -/
def floats (s : State) : State := { s with mem := Memory.writeN [] (descKey (poolKey 0 0)) 4 0x04000400 }

/-- The state in which a copy runs, and in which it reads and writes. -/
abbrev copying (v : Nat) : State := flying (.cp n2 .clu) .queued (.line (fromPad v) 0 none) 0 floats
def copyState (v : Nat) : State := { copying v with nonce := (copying v).nonce + 1 }

/-- Its operation. -/
abbrev copyOp (v : Nat) : Access := { acc (.cp n2 .clu) (.line (fromPad v) 0 none) (num 0) with aux := 0 }

/-- Whether line `i` can be copied. -/
def copyTest (v i : Nat) : Bool :=
  test (engAt (copyState v) eng0 5 (Cmdl.src (fromPad v).toNat + 64 * i) 64 64 true false true) fun a =>
    test (engLine a.2 eng0 5 (Cmdl.src (fromPad v).toNat + 64 * i) true) fun x =>
    test (engAt x.2.2 eng0 5 (Cmdl.dst (fromPad v).toNat + 64 * i) 64 64 false true true) fun b =>
    test (engStoreLine b.2 eng0 5 (Cmdl.dst (fromPad v).toNat + 64 * i) x.1 x.2.1 true) fun _ => true

theorem copies (v i : Nat) (h : copyTest v i = true) : ∃ x, copyLine (copyState v) eng0 (copyOp v) (fromPad v).toNat i = .ok x := by
  obtain ⟨a, e1, q⟩ := sat h
  obtain ⟨x, e2, q⟩ := sat q
  obtain ⟨b, e3, q⟩ := sat q
  obtain ⟨t, e4, -⟩ := sat q
  simp only [copyLine, acc, bind, Except.bind, pure, Except.pure, Option.isSome, e1, e2, e3, e4]
  exact ⟨_, rfl⟩

/-- What a peer's request meets: window 3, of 64 bytes of a context's heap window. -/
def served : State :=
  { State.reset with
    hg := { Headgate.reset with windows := [(3, ⟨1, 1, 1, 0, 64, true, true, 0, 0, 0⟩)] }
    regions := [(ctxRid 1, { reg with rcb := BitVec.ofNat 2048 (2 ^ 20 * 2 ^ 640 + 3 * 2 ^ 768) })] }

/-- A line that a peer puts there. -/
def putLine : RemoteReq := ⟨0, 3, 0, .put true, 0, 0x0400, true⟩

/-- The last line of a copy and one of two; the last line of each near-memory command; a copy of the lanes. -/
theorem witness_copies (h : Obligations.TransfersEndWithTheirTokens) :
    (∀ v, v = 0 ∨ v = 2 ^ 128 → Runs (.engineOperationComplete eng0 7) (copying v)) ∧
    ∀ i ∈ [Instr.nmAdd n2 .clu, .nmAxpy n2 .clu, .nmScl n2 .clu, .nmCvt n2 .clu], ∃ v, Runs (.engineOperationComplete eng0 7)
      (flying i .queued (.line (fromPad v) 0 none) 0 floats) := by
  refine ⟨?_, ?_⟩
  · have C := fun v => h.1 (copying v) eng0 (copyOp v) n2 .clu (fromPad v) 0 none ⟨rfl, rfl, noneEnding _ rfl⟩ rfl rfl
    rintro v (rfl | rfl)
    · obtain ⟨x, e⟩ := copies 0 0 (by decide +kernel)
      obtain ⟨_, -, e⟩ := (C 0).1 0 x.1 x.2 (by decide +kernel) e (emits_n2 _ _ _ _)
      exact ⟨_, e⟩
    · obtain ⟨i, hi, -, c⟩ := (C (2 ^ 128)).2 (by decide +kernel)
      rw [show copyLeft (copyOp (2 ^ 128)) (fromPad (2 ^ 128)).toNat = [0, 1] by decide +kernel, List.mem_cons, List.mem_singleton] at hi
      obtain ⟨x, e⟩ : ∃ x, copyLine (copyState (2 ^ 128)) eng0 (copyOp (2 ^ 128)) (fromPad (2 ^ 128)).toNat i = .ok x := by
        obtain rfl | rfl := hi
        · exact copies (2 ^ 128) 0 (by decide +kernel)
        · exact copies (2 ^ 128) 1 (by decide +kernel)
      exact ⟨_, c x.1 x.2 e⟩
  · have A := fun i o m v (op : OpReady (flying i .queued (.line (fromPad v) 0 none) 0 floats) eng0 (acc i (.line (fromPad v) 0 none) (num 0))) c
        (e : test (if o = .cvt then nmConvert (flying i .queued (.line (fromPad v) 0 none) 0 floats) eng0 (acc i (.line (fromPad v) 0 none) (num 0)) (fromPad v).toNat 0
          else nmArith (flying i .queued (.line (fromPad v) 0 none) 0 floats) eng0 (acc i (.line (fromPad v) 0 none) (num 0)) o (fromPad v).toNat 0)
          (fun _ => true) = true) => (show Runs (.engineOperationComplete eng0 7) _ from by
      obtain ⟨t, e, -⟩ := sat e
      obtain ⟨_, -, e⟩ := h.2.2.1 n2 .clu i o m _ eng0 _ _ _ _ t op rfl rfl c e (emits_n2 _ _ _ _)
      exact ⟨_, e⟩)
    simp only [List.mem_cons, List.not_mem_nil, or_false, forall_eq_or_imp, forall_eq]
    refine ⟨⟨4 * 2 ^ 192, ?_⟩, ⟨4 * 2 ^ 192, ?_⟩, ⟨4 * 2 ^ 192, ?_⟩, ⟨5 * 2 ^ 192, ?_⟩⟩
    · exact A (.nmAdd n2 .clu) .add (by simp) _ ⟨rfl, rfl, noneEnding _ rfl⟩ (by decide +kernel) (by decide +kernel)
    · exact A (.nmAxpy n2 .clu) .axpy (by simp) _ ⟨rfl, rfl, noneEnding _ rfl⟩ (by decide +kernel) (by decide +kernel)
    · exact A (.nmScl n2 .clu) .scl (by simp) _ ⟨rfl, rfl, noneEnding _ rfl⟩ (by decide +kernel) (by decide +kernel)
    · exact A (.nmCvt n2 .clu) .cvt (by simp) _ ⟨rfl, rfl, noneEnding _ rfl⟩ (by decide +kernel) (by decide +kernel)

/-- An object of two pages, the second bad, and the handle that names it. -/
def flashed (written bad : List Nat) (s : State) : State :=
  { s with out := { s.out with handles := [((0, 7), 1)], objects := [(1, ⟨1, 0, 0, 2, false, written, bad, false⟩)] } }

/-- Its command, and the page it names. -/
abbrev pageLine (p : Nat) : LineData := BitVec.ofNat 512 (0xFC * 2 ^ 56 + 2 ^ 128 + (0x04 * 2 ^ 56 + 7) * 2 ^ 256 + p * 2 ^ 320)
abbrev pageOf (p : Nat) : Nat := Cmdl.objpage (pageLine p).toNat + (1 - 1)

/-- A Culvert transfer of one page, its first step done, from page `p`. -/
abbrev paging (p : Nat) (written bad : List Nat) : State :=
  flying (.cvIn n2) .flight (.line (pageLine p) 0 none) 1 (flashed written bad)

/-- Its operation and the object it names. -/
abbrev pageOp (p : Nat) : Access :=
  { acc (.cvIn n2) (.line (pageLine p) 0 none) (num 0) with
    st := .flight, aux := 1 }
abbrev pageObject (p : Nat) (written bad : List Nat) : EngM (Nat × CvObject) :=
  cvObject (paging p written bad) 5 (pageLine p).toNat
    fun o oid => sessionOk (flashPage (paging p written bad) oid 0) && o.written.contains 0

/-- The launched activation has begun. -/
def begunRegion (s : State) : State := { s with regions := [(5, { reg with begun := true })] }

/-- Remote answers of each kind and one that is refused; a peer's request that no window admits and one that writes; a page
that is bad, one never written and a good one; a launch. -/
theorem witness_transfers (h : Obligations.TransfersEndWithTheirTokens) :
    (∀ i ∈ [Instr.xrGet n2 false true, .xrPut n2 true], Runs (.xrGetReturn eng0 7 ⟨true, 0, 0x0400⟩) (flying i .flight (remotePtr0 0) 0 id)) ∧
    Runs (.xrGetReturn eng0 7 ⟨false, 0, 0⟩) (flying (.xrAmo n2 false 0) .flight (remotePtr0 0) 0 id) ∧
    Runs (.remoteRequestArrival ⟨0, 3, 0, .get true, 0, 0, false⟩) State.reset ∧ Runs (.remoteRequestArrival putLine) served ∧
    Runs (.cvInComplete eng0 7) (paging 1 [0, 1] [1]) ∧ Runs (.cvInComplete eng0 7) (paging 1 [0, 1] []) ∧
    Runs (.engineOperationComplete eng0 7) (flying (.launch n2 .clu) .flight pad0 5 begunRegion) := by
  have X := fun i (v : Payload) a => h.2.2.2.2.1 (flying i .flight v 0 id) eng0 { acc i v (num 0) with st := .flight } n2 a rfl rfl rfl
    (noneEnding _ rfl)
  refine ⟨?_, ?_, ?_, ?_, ?_, ?_, ?_⟩
  · simp only [List.mem_cons, List.not_mem_nil, or_false, forall_eq_or_imp, forall_eq]
    refine ⟨?_, ?_⟩
    · obtain ⟨_, -, e⟩ := (X (.xrGet n2 false true) (remotePtr0 0) ⟨true, 0, 0x0400⟩).1 true rfl rfl (emits_n2 _ _ _ _)
      exact ⟨_, e⟩
    · obtain ⟨_, -, e⟩ := (X (.xrPut n2 true) (remotePtr0 0) ⟨true, 0, 0x0400⟩).2.1 true rfl rfl (emits_n2 _ _ _ _)
      exact ⟨_, e⟩
  · obtain ⟨_, e⟩ := (X (.xrAmo n2 false 0) (remotePtr0 0) ⟨false, 0, 0⟩).2.2 false (.inr (.inr ⟨0, rfl⟩)) rfl
    exact ⟨_, e⟩
  · exact ⟨_, h.2.2.2.2.2.1 State.reset _ rfl rfl⟩
  · obtain ⟨_, e, -⟩ := h.2.2.2.2.2.2.1 served putLine _ ⟨physKey served 0 0, false, 0, 0, 0, .rc, 0, true, true⟩ rfl rfl rfl rfl (by decide) rfl rfl
      (by decide +kernel) rfl rfl nofun (by decide) (by decide +kernel)
    exact ⟨_, e⟩
  · obtain ⟨x, e, q⟩ := sat (r := pageObject 1 [0, 1] [1]) (P := fun x => x.2.bad.contains (pageOf 1)) (by decide +kernel)
    exact ⟨_, (h.2.2.2.2.2.2.2.1 (paging 1 [0, 1] [1]) eng0 (pageOp 1) n2 _ 0 none x.1 x.2 rfl rfl rfl rfl (noneEnding _ rfl) (by decide)
      (by decide +kernel) e).1 (.inr q)⟩
  · obtain ⟨x, e, q⟩ := sat (r := pageObject 1 [0, 1] []) (P := fun x => x.2.written.contains (pageOf 1) && (!x.2.bad.contains (pageOf 1)
      && (decide (x.1 = 1) && test (storePage (paging 1 [0, 1] []) eng0 5 (Cmdl.dst (pageLine 1).toNat + 4096 * (1 - 1)) true
        (flashPage (paging 1 [0, 1] []) 1 (pageOf 1))) fun t => (waitingRecord t eng0 7).isNone))) (by decide +kernel)
    simp only [Bool.and_eq_true, Bool.not_eq_true', decide_eq_true_eq] at q
    obtain ⟨q1, q2, q3, q4⟩ := q
    obtain ⟨t, e', q5⟩ := sat q4
    obtain ⟨_, -, e⟩ := (h.2.2.2.2.2.2.2.1 (paging 1 [0, 1] []) eng0 (pageOp 1) n2 _ 0 none x.1 x.2 rfl rfl rfl rfl (noneEnding _ rfl) (by decide)
      (by decide +kernel) e).2 t q1 q2 (by rw [q3]; exact e') (Option.isNone_iff_eq_none.mp q5) (emits_n2 _ _ _ _)
    exact ⟨_, e⟩
  · obtain ⟨_, -, e⟩ := h.2.2.2.2.2.2.2.2 (flying (.launch n2 .clu) .flight pad0 5 begunRegion) eng0
      { acc (.launch n2 .clu) pad0 (num 0) with st := .flight, aux := 5 } n2 .clu rfl rfl rfl (noneEnding _ rfl) rfl (emits_n2 _ _ _ _)
    exact ⟨_, e⟩


/-- A record of a new frame of a region. -/
abbrev rec0 (rid : Nat) : Rec := ⟨9, BitVec.ofNat 1280 (2 ^ 116), rid, false, false, none, 0, none⟩

/-- A device with queued records at cluster 0 and two regions, of which 6 has no frames. -/
def dispatching (disp spill : List Rec) (g : State → State) : State :=
  g { State.reset with
    clusters := [(0, { Cluster.empty with pword := 1, disp })]
    regions := [(5, { reg with nodes := [(el0, 0)], rcb := BitVec.ofNat 2048 (1 <<< 256), spill }), (6, { reg with nodes := [(el0, 0)] })] }

/-- A record that fits, and one behind a record that does not; room for a spilled record; the watchdog at its last clock; a
`suspend` that waits for room; a cut; a watcher whose barrier has opened. -/
theorem witness_records (h : Obligations.RecordsCutsAndWatchersGoOn) :
    Runs (.recordDispatch 0) (dispatching [rec0 5] [] id) ∧ Runs (.recordDispatch 0) (dispatching [rec0 6, rec0 5] [] id) ∧
    Runs (.spillRoomFreed 5) (dispatching (List.replicate 63 (rec0 5)) [{ rec0 5 with spilled := true }] id) ∧
    Runs (.spillWatchdog 5) (dispatching [] [] fun s => { s with clock := 600000, units := [(eng0, { HwUnit.empty with
      ops := [{ acc (.suspend n2) pad0 pad64 with st := .spill }] })]
                                                                 regions := [(5, { reg with spillSince := some 0 })] }) ∧
    Runs (.intervalCommitComplete eng0 7) (task (.cut n2) (num 1) (num 0) 0) := by
  refine ⟨?_, ?_, ?_, ?_, ?_⟩
  · obtain ⟨_, e, -⟩ := h.1 (dispatching [rec0 5] [] id) 0 (rec0 5) [] (by decide +kernel) (by decide +kernel) (by decide +kernel) (by decide +kernel) nofun
    exact ⟨_, e⟩
  · obtain ⟨_, e, -⟩ := h.2.1 (dispatching [rec0 6, rec0 5] [] id) 0 (rec0 6) [rec0 5] (rec0 5) (by decide +kernel) (by decide +kernel)
      nofun
      (by decide +kernel) (by decide +kernel) (by decide +kernel) nofun
    exact ⟨_, e⟩
  · obtain ⟨_, e, -⟩ := h.2.2.1 (dispatching (List.replicate 63 (rec0 5)) [{ rec0 5 with spilled := true }] id) 5 { rec0 5 with spilled := true } [] 0
      (by decide +kernel) (by decide +kernel) (by decide +kernel) (noneEnding _ (by decide +kernel))
    exact ⟨_, e⟩
  · obtain ⟨_, e⟩ := h.2.2.2.1 (dispatching [] [] fun s => { s with clock := 600000, units := [(eng0, { HwUnit.empty with
      ops := [{ acc (.suspend n2) pad0 pad64 with st := .spill }] })], regions := [(5, { reg with spillSince := some 0 })] }) 5 0 _ _ _ rfl rfl
      (by decide) (List.mem_singleton.mpr rfl) (List.mem_singleton.mpr rfl) rfl rfl
    exact ⟨_, e⟩
  · obtain ⟨_, _, -, -, -, e⟩ := h.2.2.2.2.2.1 (task (.cut n2) (num 1) (num 0) 0) eng0 (acc (.cut n2) (num 1) (num 0)) n2 rfl rfl rfl (.inl rfl) trivial trivial
    exact ⟨_, e⟩

/-- A `suspend` that waits for room. -/
def parking0 : State :=
  { imaged (.suspend n2) (plain 4096 .u64) pad0 1 with
    units := [(eng0, { HwUnit.empty with ops := [{ acc (.suspend n2) (plain 4096 .u64) pad0 with st := .spill }] })] }

/-- A watcher of a barrier that has opened, and the state in which it reads. -/
def watcher0 : Access := { acc (.barWait n2 .clu) pad0 (num 3) with aux := 44, woken := true, st := .held }
def watching : State :=
  { task (.barWait n2 .clu) pad0 (num 3) (2 ^ 64 * 4) with units := [(eng0, { HwUnit.empty with watchers := [watcher0] })] }

theorem witness_watchers (h : Obligations.RecordsCutsAndWatchersGoOn) :
    Runs (.parkWaitEnd eng0) parking0 ∧ Runs (.barrierEvent 0 44) watching := by
  refine ⟨?_, ?_⟩
  · obtain ⟨t, e, q⟩ := satO (r := opEnd eng0 (performSuspend (setOp parking0 eng0 (acc (.suspend n2) (plain 4096 .u64) pad0)) eng0
      (acc (.suspend n2) (plain 4096 .u64) pad0) n2)) (P := fun t => (opNo t eng0 7).isNone) (by decide +kernel)
    exact ⟨_, h.2.2.2.2.1 parking0 eng0 _ n2 t rfl rfl e (Option.isNone_iff_eq_none.mp q)⟩
  · obtain ⟨a, e1, -⟩ := sat (r := engAt (task (.barWait n2 .clu) pad0 (num 3) (2 ^ 64 * 4)) eng0 5 (0xFC * 2 ^ 56) 16 16 true false true)
      (P := fun _ => true) (by decide +kernel)
    obtain ⟨x, e2, q⟩ := sat (r := engRead (task (.barWait n2 .clu) pad0 (num 3) (2 ^ 64 * 4)) eng0 5 (0xFC * 2 ^ 56) 16 16 true)
      (P := fun x => decide (x.1 / 2 ^ 64 ≠ 3)) (by decide +kernel)
    obtain ⟨_, -, e⟩ := h.2.2.2.2.2.2 watching 0 44 watcher0 n2 .clu a.1 a.2 x.1 x.2.1 x.2.2 rfl rfl (noneEnding _ rfl) e1 e2 (of_decide_eq_true q)
      (emits_n2 _ _ _ _)
    exact ⟨_, e⟩

/-! ### System instructions and faults -/

/-- An element firing of two integers, in a partition with a staged entry 63. -/
abbrev elem (a b : Nat) : State := hand (fire .el (num a) (num b)) fun s =>
  s.modPart 0 fun q => { q with slotStaged := q.slotStaged.set 63 (some 5) }

theorem elem_reads (a b : Nat) : ReadsAB (elem a b) (fire .el (num a) (num b)) n2 ⟨(num a).clean, false⟩ ⟨(num b).clean, false⟩ (elem a b).base := ⟨_, rfl, rfl⟩

/-- A virtual device of partition 0, bound to function 1, whose policy permits every command and debug. -/
def vd0 : VDev := ⟨0, 0, 1, List.replicate 7 0xFF ++ [0x3F], 0⟩

/-- A device that has it. -/
def owned (s : State) : State := { s with hg := { s.hg with vds := [(0, vd0)] } }

/-- A trap and a break of a scalar and of a line, a break with a debugger, a counter. -/
theorem witness_system (h : Obligations.SystemInstructionsAndPrivilegedRegisters) :
    Runs (.trap n2 15) (elem 0 0) ∧ Runs (.trap n2 0) (onLines (line0 0x0400) (num 0)) ∧
    Runs (.brk n2) (elem 0 0) ∧ Runs (.brk n2) (onLines (line0 0x0400) (num 0)) ∧
    Runs (.brk n2) (hand (fire .el (num 0) (num 0)) owned) ∧
    Runs (.rdctr n2 6) (elem 0 0) := by
  refine ⟨?_, ?_, ?_, ?_, ?_, ?_⟩
  · exact ⟨_, h.1.1 n2 15 (elem 0 0) _ _ _ (fires (fire .el (num 0) (num 0)) _ 0xF8 rfl) rfl⟩
  · exact ⟨_, h.1.1 n2 0 (onLines (line0 0x0400) (num 0)) _ _ _ (fires (fire .ln (line0 0x0400) (num 0)) _ 0xF8 rfl) rfl⟩
  · obtain ⟨_, -, e⟩ := (h.1.2.1 n2 (elem 0 0) _ _ _ (fires (fire .el (num 0) (num 0)) _ 0xF9 rfl) rfl).1
      (.inl (by rintro ⟨v, e, -⟩; cases e)) (emits_n2 _ _ _ _)
    exact ⟨_, e⟩
  · obtain ⟨_, -, e⟩ := (h.1.2.1 n2 (onLines (line0 0x0400) (num 0)) _ _ _ (fires (fire .ln (line0 0x0400) (num 0)) _ 0xF9 rfl) rfl).1
      (.inl (by rintro ⟨v, e, -⟩; cases e)) (emits_n2 _ _ _ _)
    exact ⟨_, e⟩
  · exact ⟨_, (h.1.2.1 n2 (hand (fire .el (num 0) (num 0)) owned) _ _ _ (fires (fire .el (num 0) (num 0)) _ 0xF9 rfl) rfl).2
      ⟨vd0, rfl, .inl (by decide)⟩ rfl rfl⟩
  · obtain ⟨_, -, e⟩ := h.1.2.2 n2 6 _ (elem 0 0) (fire .el (num 0) (num 0)) (by simp; rfl) (fires (fire .el (num 0) (num 0)) _ 0xFA rfl) (says_n2 _ _)
    exact ⟨_, e⟩

/-- Reads of the first and the last number of each run of registers, a staged slot entry among them, and of numbers between
and above them; writes of a register of each kind, of numbers that cannot be written, and of a queue identifier in use. -/
theorem witness_csr (h : Obligations.SystemInstructionsAndPrivilegedRegisters) :
    (∀ k ∈ [0x000, 0x310, 0x034, 0x100, 0x13F, 0x23F, 0x0FF, 0x240, 0xFFF, 0x1000], Runs (.csrRd n2) (elem k 0)) ∧
    (∀ p ∈ [(0x010, 0), (0x034, 2 ^ 52 - 1), (0x040, 2 ^ 63), (0x060, 0xFC00000000000000), (0x13F, 2 ^ 64 - 1), (0x23F, 2 ^ 63), (0x300, 0), (0x000, 0),
      (0x240, 0), (0xFFF, 0), (0x1000, 0)], Runs (.csrWr n2) (elem p.1 p.2)) := by
  constructor
  · have R := fun k (hk : BitVec.toNat (BitVec.ofNat 64 k) = k) => hk ▸ h.2.1 n2 (elem k 0) _ _ _ ⟨BitVec.ofNat 64 k, .i64, false⟩
      (fires (fire .el (num k) (num 0)) _ 0xFB rfl) rfl rfl rfl
    have G := fun (k : Nat) {v : Nat} {s1 : State} (e : CanSay s1 (fire .el (num k) (num 0)) n2 → ∃ t, Says s1 (fire .el (num k) (num 0)) n2 v .u64 t ∧
        Ends (.csrRd n2) (elem k 0) (fire .el (num k) (num 0)) 0xFB t) => (show Runs (.csrRd n2) (elem k 0) from by
      obtain ⟨_, -, e⟩ := e (says_n2 _ _)
      exact ⟨_, e⟩)
    simp only [List.mem_cons, List.not_mem_nil, or_false, forall_eq_or_imp, forall_eq]
    refine ⟨?_, ?_, ?_, ?_, ?_, ?_, ?_, ?_, ?_, ?_⟩
    · exact G 0x000 (((R 0x000 rfl).2 rfl).1 _ (by simp; rfl))
    · exact G 0x310 (((R 0x310 rfl).2 rfl).1 _ (by simp; rfl))
    · exact G 0x034 (((R 0x034 rfl).2 rfl).2.1 4 (by decide) (by decide))
    · exact G 0x100 (((R 0x100 rfl).2 rfl).2.2.2.1 0 (by decide) (by decide) (by decide +kernel))
    · exact G 0x13F (((R 0x13F rfl).2 rfl).2.2.1 63 5 (by decide) (by decide) (by decide +kernel))
    · exact G 0x23F (((R 0x23F rfl).2 rfl).2.2.2.2.1 63 (by decide) (by decide))
    · exact ⟨_, ((R 0x0FF rfl).2 rfl).2.2.2.2.2 (by decide) (by decide) (by decide) (by decide) (by decide)⟩
    · exact ⟨_, ((R 0x240 rfl).2 rfl).2.2.2.2.2 (by decide) (by decide) (by decide) (by decide) (by decide)⟩
    · exact ⟨_, ((R 0xFFF rfl).2 rfl).2.2.2.2.2 (by decide) (by decide) (by decide) (by decide) (by decide)⟩
    · exact ⟨_, (R 0x1000 rfl).1 (by decide)⟩
  · have W := fun k v (hk : BitVec.toNat (BitVec.ofNat 64 k) = k) => hk ▸ h.2.2.1 n2 (elem k v) _ _ _ _ ⟨BitVec.ofNat 64 k, .i64, false⟩
      ⟨BitVec.ofNat 64 v, .i64, false⟩ (fires (fire .el (num k) (num v)) _ 0xFB rfl) (elem_reads k v) rfl rfl rfl rfl
    have G := fun (k v : Nat) {b : Payload} {x : State} {st : Nat} (e : CanEmit x (fire .el (num k) (num v)) n2 b false →
        ∃ t, finish x (fire .el (num k) (num v)) n2 b (plain (BitVec.ofNat 64 st) .i64) = .ok t ∧
        Ends (.csrWr n2) (elem k v) (fire .el (num k) (num v)) 0xFB t) => (show Runs (.csrWr n2) (elem k v) from by
      obtain ⟨_, -, e⟩ := e (emits_n2 _ _ _ _)
      exact ⟨_, e⟩)
    simp only [List.mem_cons, List.not_mem_nil, or_false, forall_eq_or_imp, forall_eq]
    refine ⟨?_, ?_, ?_, ?_, ?_, ?_, ?_, ?_, ?_, ?_, ?_⟩
    · exact G _ _ (((W 0x010 0 rfl).2 rfl).1 (by decide))
    · have e := ((W 0x034 (2 ^ 52 - 1) rfl).2 rfl).2.2.1 4 (by decide) (by decide)
      rw [if_neg (by decide +kernel)] at e
      exact G _ _ e
    · exact G _ _ (((W 0x040 (2 ^ 63) rfl).2 rfl).2.2.2.1 (by decide))
    · have e : ((makeIrrevocable (elem 0x060 0xFC00000000000000).base 5).part 0).qslot = List.replicate 64 0 := by decide +kernel
      exact G _ _ (((W 0x060 0xFC00000000000000 rfl).2 rfl).2.2.2.2.2.2.2.1 (by decide)
        (fun w hw => by
          have z : w ∈ List.replicate 64 (0 : Word) := e ▸ hw
          rw [List.eq_of_mem_replicate z]
          decide) (by decide))
    · exact G _ _ (((W 0x13F (2 ^ 64 - 1) rfl).2 rfl).2.2.2.2.2.2.2.2.1 63 (by decide) (by decide))
    · exact G _ _ ((((W 0x23F (2 ^ 63) rfl).2 rfl).2.2.2.2.2.2.2.2.2.1 63 (by decide) (by decide) (by decide +kernel)).2 (by decide +kernel)).1
    · exact G _ _ (((W 0x300 0 rfl).2 rfl).2.2.2.2.2.2.2.2.2.2.1 (by decide))
    · exact ⟨_, ((W 0x000 0 rfl).2 rfl).2.2.2.2.2.2.2.2.2.2.2 (by decide) (by decide) (by decide) (by decide) (by decide)⟩
    · exact ⟨_, ((W 0x240 0 rfl).2 rfl).2.2.2.2.2.2.2.2.2.2.2 (by decide) (by decide) (by decide) (by decide) (by decide)⟩
    · exact ⟨_, ((W 0xFFF 0 rfl).2 rfl).2.2.2.2.2.2.2.2.2.2.2 (by decide) (by decide) (by decide) (by decide) (by decide)⟩
    · exact ⟨_, (W 0x1000 0 rfl).1 (by decide)⟩

/-- A device with a supervisor region 1 whose fault entry is ready, a fault ring of `n` records, and a record that waits. -/
def supervised (n : Nat) : State :=
  let p := (Part.reset 0).supCluster
  let s : State := { State.reset with
    regions := [(5, reg), (1, reg)], frames := [((1, dieOf p, 0), { Frame.none with st := .live })]
    units := [(⟨p, .el, 255⟩, { HwUnit.empty with complete := true, words := [(15, (0, 1))] })]
    mem := Memory.writeN [] (poolKey p 0) 8 n }
  s.modPart 0 fun q => { q with supRid := some 1, faultWait := [(none, 5, 7)] }

/-- A site in a region. -/
def site (rid : Nat) : FaultSite := ⟨some el0, 0, 0, rid, 0, 0, 0, 0, 0, 0, none, 0⟩

/-- Faults of the supervisor, with room for the last record of the ring, and with none; a record that waited. -/
theorem witness_faults (h : Obligations.FaultsAreRecorded) (f : Flt) :
    let r := fun n => (supervised n).region 5
    (∃ t, takeFault (supervised 254) (site 1) f = postCpl t 0 0x20 ((supervised 254).region 1).part 0xFFFF 0) ∧
    takeFault (supervised 254) (site 5) f = ringWrite (supervised 254) ((supervised 254).part (r 254).part) (faultRecord (supervised 254) (site 5) f) ∧
    (∃ g, takeFault (supervised 255) (site 5) f = (supervised 255).modPart (r 255).part g) ∧
    Runs (.faultRingRoom 0) (supervised 254) := by
  have R : ∀ n, n = 254 ∨ n = 255 → ((supervised n).region 5).launchTag = none := by
    rintro n (rfl | rfl) <;> rfl
  refine ⟨?_, ?_, ?_, ?_⟩
  · exact ⟨_, (h.2.2.1 (supervised 254) (site 1) f (by decide +kernel)).1 (.inl (by decide +kernel))⟩
  · refine ((h.2.2.1 (supervised 254) (site 5) f (by decide +kernel)).2 (supervised 254) ⟨by decide +kernel, ⟨(0, 1), by decide +kernel⟩, 1, by decide +kernel,
      by decide +kernel⟩ (by decide +kernel) (fun _ => rfl) ?_).2 (by decide +kernel)
    intro fn k e
    rw [show ((supervised 254).region (site 5).rid).launchTag = none from R 254 (.inl rfl)] at e
    cases e
  · refine ⟨_, ((h.2.2.1 (supervised 255) (site 5) f (by decide +kernel)).2 (supervised 255) ⟨by decide +kernel, ⟨(0, 1), by decide +kernel⟩, 1, by decide +kernel,
      by decide +kernel⟩ (by decide +kernel) (fun _ => rfl) ?_).1 (by decide +kernel)⟩
    intro fn k e
    rw [show ((supervised 255).region (site 5).rid).launchTag = none from R 255 (.inr rfl)] at e
    cases e
  · exact ⟨_, h.2.2.2.2 (supervised 254) 0 (none, 5, 7) [] (by decide +kernel) (by decide +kernel)⟩

/-- A record in the last place of the ring. -/
theorem witness_ring (h : Obligations.FaultsAreRecorded) (d : LineData) :
    Memory.readN (ringWrite (supervised 254) ((supervised 254).part 0) d).mem (poolKey 0 (0x40 + 64 * 254)) 64 = d.toNat := by
  have e : Memory.readN (supervised 254).mem (poolKey ((supervised 254).part 0).supCluster 0) 4 = 254 := by decide +kernel
  have c : ((supervised 254).part 0).supCluster = 0 := by decide +kernel
  have r := h.2.2.2.1 (supervised 254) ((supervised 254).part 0) d (by decide +kernel)
  dsimp only at r
  rw [e, c] at r
  exact (r (quiet _ _ rfl rfl) (quiet _ _ rfl rfl)).1

/-! ### Slots, saves, power and links -/

/-- A device at clock 38,400, which is 64,000 ns of partition time, whose partition 0 is valid and held by virtual device 1 in
slot 63, with a region 5 of that device. -/
def slotted (r : Region) (y : Option Yielding) (staged : Word) : State :=
  let s : State := { State.reset with clock := 38400, regions := [(5, { r with vd := 1 })] }
  s.modPart 0 fun q => { q with
    cfg := q.cfg ||| 0x8000000000000000, slotCtl := slotCtlWord true 63 (some 1), yielding := y, slotStaged := q.slotStaged.set 0 (some staged) }

/-- The region, asked to yield at time 0. -/
abbrev asked (logged : Bool) : Region := { reg with logged, yield := some ⟨.slot, 0, false, false⟩ }

/-- A unit whose grant has been idle for 64 clocks, and a unit that waits for it. -/
def granted (q : List UId) : State :=
  { unit0 el0 { HwUnit.empty with grant := some 5 } State.reset with
    clock := 64, regions := [(5, { reg with rcb := BitVec.ofNat 2048 (2 ^ 296), grantQueue := q })] }

/-- The slot's holder has been asked to yield, and its supervisor told. -/
abbrev graced : Option Yielding := some ⟨2, 0, 0, true⟩

/-- A token of region 5 is on its way. -/
def tokened (s : State) : State := { s with net := [flit0 false] }

/-- A grant that returns, to nobody and to a unit; a boundary to slot 0; the end of the grace of a logged and of another region,
of one at a boundary and of one that ends, and of the slot's; saves; the change of holder. -/
theorem witness_slots (h : Obligations.SlotsYieldsAndSavesTakeEffect) :
    (∀ q, q = [] ∨ q = [eng0] → Runs (.grantIdleReturn el0) (granted q)) ∧ Runs (.slotBoundary 0) (slotted reg none 0x8002) ∧
    (∀ b, Runs (.forcedPreemption 0) (tokened (slotted (asked b) graced 0))) ∧ Runs (.forcedPreemption 0) (slotted (asked false) graced 0) ∧
    Runs (.forcedPreemption 0) (slotted { asked false with st := .ending } graced 0) ∧
    Runs (.forcedPreemption 0) (slotted reg (some ⟨2, 0, 0, false⟩) 0) ∧
    Runs (.phaseBoundarySave 5) (slotted (asked false) none 0) ∧
    Runs (.quiescenceReport 5) (slotted { asked false with gated := true } none 0) ∧
    Runs (.holderChange 0) (slotted { reg with st := .saved } (some ⟨2, 0, 0, false⟩) 0) ∧
    exec (.holderChange 0) State.reset = .refused (.notEnabled "HOLDER_CHANGE") := by
  refine ⟨?_, ?_, ?_, ?_, ?_, ?_, ?_, ?_, ?_, h.2.2.2.2.2.2.2.2.1 State.reset 0 (by decide +kernel)⟩
  · rintro q (rfl | rfl)
    · exact ⟨_, (h.1 (granted []) el0 5 rfl rfl (by decide)).1 rfl⟩
    · obtain ⟨_, e, -⟩ := (h.1 (granted [eng0]) el0 5 rfl rfl (by decide)).2 eng0 [] rfl (by decide +kernel)
      exact ⟨_, e⟩
  · obtain ⟨_, e, -⟩ := h.2.1 (slotted reg none 0x8002) 0 (by decide +kernel) (by decide +kernel) (by decide +kernel) (by decide +kernel)
    exact ⟨_, e⟩
  · intro b
    have F := h.2.2.1 (tokened (slotted (asked b) graced 0)) 0 5 (by cases b <;> decide +kernel) (by cases b <;> decide +kernel)
      (.inr ⟨⟨2, 0, 0, true⟩, by cases b <;> decide +kernel, rfl⟩)
    have n : ¬ ((tokened (slotted (asked b) graced 0)).region 5).st = .active ∨ ¬ anyToken (tokened (slotted (asked b) graced 0)) 5 = false :=
      .inr (by cases b <;> decide +kernel)
    cases b
    · exact ⟨_, F.2.2.2 (by decide +kernel) (fun k => n.elim (· k.1) (· k.2.1)) (by decide +kernel)⟩
    · exact ⟨_, F.2.2.1 (by decide +kernel) (fun k => n.elim (· k.1) (· k.2.1)) (by decide +kernel)⟩
  · exact ⟨_, (h.2.2.1 (slotted (asked false) graced 0) 0 5 (by decide +kernel) (by decide +kernel) (.inr ⟨⟨2, 0, 0, true⟩, by decide +kernel, rfl⟩)).2.1
      (by decide +kernel) ⟨by decide +kernel, by decide +kernel, .inl (by decide +kernel)⟩⟩
  · exact ⟨_, (h.2.2.1 (slotted { asked false with st := .ending } graced 0) 0 5 (by decide +kernel) (by decide +kernel)
      (.inr ⟨⟨2, 0, 0, true⟩, by decide +kernel, rfl⟩)).1 (by decide +kernel)⟩
  · exact ⟨_, h.2.2.2.2.2.1 (slotted reg (some ⟨2, 0, 0, false⟩) 0) 0 ⟨2, 0, 0, false⟩ 1 (by decide +kernel) rfl (by decide +kernel)
      (by decide +kernel) (by decide +kernel) ⟨5, by decide +kernel, by decide +kernel⟩⟩
  · exact ⟨_, (h.2.2.2.2.2.2.1 (slotted (asked false) none 0) 5 (by decide +kernel) (by decide +kernel) (.inl (by decide +kernel))).1 (by decide +kernel) (by decide +kernel)⟩
  · exact ⟨_, (h.2.2.2.2.2.2.1 (slotted { asked false with gated := true } none 0) 5 (by decide +kernel) (by decide +kernel)
      (.inl (by decide +kernel))).2 (by decide +kernel)
      (by decide +kernel)⟩
  · obtain ⟨_, e, -⟩ := h.2.2.2.2.2.2.2.2.2 (slotted { reg with st := .saved } (some ⟨2, 0, 0, false⟩) 0) 0 ⟨2, 0, 0, false⟩ (by decide +kernel)
      (by decide +kernel) (by decide +kernel) (by decide) (by
        intro k rid hk hr
        have e : holder ((slotted { reg with st := .saved } (some ⟨2, 0, 0, false⟩) 0).part 0) = some 1 := by decide +kernel
        rw [e] at hk
        cases hk
        have l : regionsOf (slotted { reg with st := .saved } (some ⟨2, 0, 0, false⟩) 0) 0 1 = [5] := by decide +kernel
        rw [l, List.mem_singleton] at hr
        subst hr
        decide +kernel) (by
        intro rid hr
        rw [show regionsOf (slotted { reg with st := .saved } (some ⟨2, 0, 0, false⟩) 0) 0 2 = [] by decide +kernel] at hr
        cases hr)
    exact ⟨_, e⟩

/-- A logged interval in which frame 1 was made and a stream moved on. -/
def changed : State :=
  let s := slotted (asked true) none 0
  { s with frames := [((5, 0, 1), liveFrame)], units := [(mp0, { HwUnit.empty with streams := [(3, stream0 true 1 [])] })]
           clusters := [(0, { Cluster.empty with undo := [(5, 2, .stream mp0 3 (some (stream0 true 0 [none]))), (5, 1, .frame 0 1 Frame.none)] })] }

/-- What a rollback puts back and what a lost region is. -/
theorem witness_rollback (h : Obligations.SlotsYieldsAndSavesTakeEffect) :
    (rollback changed 5).frame 5 0 1 = Frame.none ∧
    (∃ y, AL.find? ((rollback changed 5).unit mp0).streams 3 = some y ∧ y.jpos = 0 ∧ y.ahead = []) ∧
    ((loseRegion (tokened (slotted (asked false) none 0)) 5 1 false).region 5).st = .lost := by
  obtain ⟨-, -, -, -, -, f, x, -⟩ := h.2.2.2.1 changed 5
  refine ⟨?_, ?_, ?_⟩
  · exact f [(2, .stream mp0 3 (some (stream0 true 0 [none])))] [] 1 0 1 Frame.none (by decide +kernel) (fun e he => absurd he List.not_mem_nil)
  · obtain ⟨y, e, -, j, a⟩ := (x [] [(1, .frame 0 1 Frame.none)] 2 mp0 3 (some (stream0 true 0 [none])) (by decide +kernel)
      fun e he z => by rw [List.mem_singleton.mp he]; exact Undo.noConfusion).2 _ rfl
    exact ⟨y, e, j, a⟩
  · exact ((h.2.2.2.2.1 (tokened (slotted (asked false) none 0)) 5 1).2 (fun p hp => absurd hp List.not_mem_nil) (by decide +kernel)).1


/-- A partition 0 with changes. -/
def parted (f : Part → Part) (hg : Headgate → Headgate) : State :=
  let s : State := { State.reset with hg := hg Headgate.reset }
  s.modPart 0 f

/-- Slots of a queue table: one that is valid for queue 7 at the last place, and a table all of whose slots are busy. -/
abbrev qslots (w : Word) : List Word := List.replicate 63 0 ++ [w]

/-- A scrub of context 1. -/
def scrub0 (cl : List Nat) (r : List (Nat × Nat)) : Scrub := ⟨some 1, 0, 3, cl, r⟩

theorem mem_replicate {w x : Word} {n : Nat} {p : State} (h : (p.part 0).qslot = List.replicate n x) (m : w ∈ (p.part 0).qslot) : w = x := by
  rw [h] at m
  exact List.eq_of_mem_replicate m

/-- A notify of a mapped queue, of one that is not, with a slot to take, and with none; a scrub's next cluster, its next unit, and
its last cluster. -/
theorem witness_notifies (h : Obligations.NotifiesAndScrubsTakeEffect) :
    Runs (.queueNotify 0 7) (parted (fun q => { q with qslot := qslots (BitVec.ofNat 64 (2 ^ 63 + 7 * 2 ^ 42)) }) fun g => { g with notifies := [(0, 7)] }) ∧
    Runs (.queueNotify 0 7) (parted id fun g => { g with notifies := [(0, 7)] }) ∧
    Runs (.queueNotify 0 7) (parted (fun q => { q with qslot := List.replicate 64 0x8000000000000000 }) fun g => { g with notifies := [(0, 7)] }) ∧
    Runs (.scrubUnitDone 0) (parted (fun q => { q with scrubs := [scrub0 [0, 1] []] }) id) ∧
    Runs (.scrubUnitDone 0) (parted (fun q => { q with scrubs := [scrub0 [] [(0, 65536 + 64)]] }) id) ∧
    Runs (.scrubUnitDone 0) (parted (fun q => { q with scrubs := [scrub0 [0] []] }) fun g => { g with ctxs := [(1, ⟨0, 3, .scrubbing, false⟩)] }) := by
  refine ⟨?_, ?_, ?_, ?_, ?_, ?_⟩
  · exact ⟨_, (h.1 (parted (fun q => { q with qslot := qslots (BitVec.ofNat 64 (2 ^ 63 + 7 * 2 ^ 42)) }) fun g => { g with notifies := [(0, 7)] }) 0 7
      (by decide +kernel) (by decide +kernel)).1 63 (by decide) (by decide +kernel) (by decide +kernel) (by decide +kernel)⟩
  · have e : ((parted id fun g => { g with notifies := [(0, 7)] }).part 0).qslot = List.replicate 64 0 := by decide +kernel
    exact ⟨_, ((h.1 (parted id fun g => { g with notifies := [(0, 7)] }) 0 7 (by decide +kernel) (by decide +kernel)).2
      (fun w m v => by rw [mem_replicate e m] at v; exact absurd v (by decide))).1 ⟨0, by rw [e]; decide, .inl (by decide)⟩⟩
  · have e : ((parted (fun q => { q with qslot := List.replicate 64 0x8000000000000000 }) fun g => { g with notifies := [(0, 7)] }).part 0).qslot =
        List.replicate 64 0x8000000000000000 := by decide +kernel
    exact ⟨_, ((h.1 (parted (fun q => { q with qslot := List.replicate 64 0x8000000000000000 }) fun g => { g with notifies := [(0, 7)] }) 0 7 (by decide +kernel)
      (by decide +kernel)).2 (fun w m _ => by rw [mem_replicate e m]; decide)).2 (fun w m => by rw [mem_replicate e m]; decide)⟩
  · obtain ⟨_, e, -⟩ := h.2.1 (parted (fun q => { q with scrubs := [scrub0 [0, 1] []] }) id) 0 (scrub0 [0, 1] []) [] 0 [1] (by decide +kernel) rfl rfl nofun
    exact ⟨_, e⟩
  · have m : ((parted (fun q => { q with scrubs := [scrub0 [] [(0, 65536 + 64)]] }) id).part 0).hashMask = List.replicate 5 0 := by decide +kernel
    obtain ⟨_, e, -⟩ := h.2.2.1 (parted (fun q => { q with scrubs := [scrub0 [] [(0, 65536 + 64)]] }) id) 0 (scrub0 [] [(0, 65536 + 64)]) [] (0, 65536 + 64) []
      (by decide +kernel) rfl rfl (by decide) (by decide) (by decide +kernel)
      (fun w i => by rw [m] at i; rw [List.eq_of_mem_replicate i]; decide)
    exact ⟨_, e⟩
  · obtain ⟨_, e, -⟩ := h.2.2.2 (parted (fun q => { q with scrubs := [scrub0 [0] []] }) fun g => { g with ctxs := [(1, ⟨0, 3, .scrubbing, false⟩)] }) 0
      (scrub0 [0] []) [] 0 1 ⟨0, 3, .scrubbing, false⟩ (by decide +kernel) rfl rfl rfl (by decide +kernel) rfl
    exact ⟨_, e⟩

/-- A device with a cluster 1 in a power state, at a clock, a flit on its way to it. -/
def powered (st : PowerSt) (clock : Nat) (net : List Flit) : State :=
  let s : State := { State.reset with clock, net, clusters := [(1, { Cluster.empty with power := st })] }
  s.modPart 0 fun q => { q with powerEn := true }

/-- A cluster that may be gated, wakes, and has woken; boot whatever the image is; a reset; the recovery register written by its
host and refused; a fetch that fails and one that does not. -/
theorem witness_power (h : Obligations.PowerBootAndResetTakeEffect) :
    Runs (.clusterPowerGate 1) (powered .on 6000 []) ∧ Runs (.clusterWakeStart 1) (powered .gated 0 [{ flit0 false with cl := 1, src := ⟨1, .el, 0⟩ }]) ∧
    Runs (.clusterWakeEnd 1) (powered .waking 2400 []) ∧ (∀ b, Runs .powerGood (parted id fun g => { g with booting := true, scrubPending := b })) ∧
    Runs .reset State.reset ∧ Runs (.hgRecoveryWrite 0x400 4096) State.reset ∧
    Runs (.hgRecoveryWrite 0x400 4096) (parted id fun g => { g with ctxs := [(1, ⟨0, 3, .active, false⟩)] }) ∧
    ∀ e, Runs (.recoveryFetchDone e) (parted id fun g => { g with recovery := 0x800, recoveryLen := 4096 }) := by
  refine ⟨?_, ?_, ?_, ?_, ?_, ?_, ?_, ?_⟩
  · have n : holder ((powered .on 6000 []).part (partOf (powered .on 6000 []) 1)) = none := by decide +kernel
    obtain ⟨_, e, -⟩ := h.2.2.1 (powered .on 6000 []) 1 (by decide +kernel) (by decide +kernel) (by decide +kernel) (by decide +kernel)
      (by decide +kernel) (by decide +kernel) fun x rid k => by rw [n] at k; cases k
    exact ⟨_, e⟩
  · exact ⟨_, h.2.2.2.1 (powered .gated 0 [{ flit0 false with cl := 1, src := ⟨1, .el, 0⟩ }]) 1 (by decide +kernel)
      (.inl ⟨_, List.mem_singleton.mpr rfl, rfl, by decide, rfl⟩)⟩
  · exact ⟨_, (h.2.2.2.2.1 (powered .waking 2400 []) 1 (by decide +kernel) (by decide +kernel)).1⟩
  · intro b
    have G := h.2.2.2.2.2.2.1 (parted id fun g => { g with booting := true, scrubPending := b }) rfl
    by_cases k : firmwareFailure [] = 0 ∧ ∀ k, (k = 1 ∨ 3 ≤ k ∧ k ≤ 7) → Config.bootStep 0 k = true
    · obtain ⟨_, e, -⟩ := G.2 k
      exact ⟨_, e⟩
    · exact ⟨_, G.1 k⟩
  · obtain ⟨_, e, -⟩ := h.2.2.2.2.2.2.2.1 State.reset (by decide +kernel)
    exact ⟨_, e⟩
  · exact ⟨_, h.2.2.2.2.2.2.2.2.1 State.reset 0x400 4096 (by decide) (by decide) (by decide) (.inr nofun)⟩
  · exact ⟨_, h.2.2.2.2.2.2.2.2.2.1 (parted id fun g => { g with ctxs := [(1, ⟨0, 3, .active, false⟩)] }) 0x400 4096
      (.inl ⟨rfl, _, List.mem_singleton.mpr rfl, nofun⟩)⟩
  · intro e
    have F := h.2.2.2.2.2.2.2.2.2.2 (parted id fun g => { g with recovery := 0x800, recoveryLen := 4096 }) e (by decide +kernel)
    cases e
    · by_cases k : firmwareFailure (hostBytes (parted id fun g => { g with recovery := 0x800, recoveryLen := 4096 })
          (bits (BitVec.toNat (0x800 : BitVec 64)) 63 12 * 4096) 4096) = 0
      · exact ⟨_, F.1 rfl k⟩
      · obtain ⟨_, e, -⟩ := F.2 _ (.inr ⟨rfl, rfl, k⟩)
        exact ⟨_, e⟩
    · obtain ⟨_, e, -⟩ := F.2 5 (.inl ⟨rfl, rfl⟩)
      exact ⟨_, e⟩

/-- A device whose links drop flits, whose clock has had no message for a second, and that holds an object being deleted. -/
def linked (n : Nat) : State :=
  { parted id (fun g => { g with vds := [(0, vd0)] }) with
    clock := 600000000, out := { Outside.reset with drops := List.replicate n (15, 600000000), objects := [(1, ⟨1, 0, 0, 1, false, [0], [], true⟩)] } }

/-- The link registers with and without a valid partition; the fifteenth and the sixteenth lost flit; a message, its want; a
drive that fails; the end of a deletion. -/
theorem witness_links (h : Obligations.LinksClocksAndDrivesTakeEffect) :
    (∀ s, s = linked 0 ∨ s = slotted reg none 0 → Runs (.knRouteWrite 15 3) s) ∧
    (∀ n, n = 14 ∨ n = 15 → Runs (.knanoloFlitAuthFailure 15) (linked n)) ∧ Runs (.syncMessage (2 ^ 64 - 1)) (linked 0) ∧
    Runs .timeSyncLoss (linked 0) ∧ Runs (.driveFailure 3) (linked 0) ∧ Runs (.culvertDeletionComplete 1) (linked 0) := by
  refine ⟨?_, ?_, ?_, ?_, ?_, ?_⟩
  · rintro s (rfl | rfl)
    · exact ⟨_, (h.2.1 (linked 0) 3 (by decide +kernel)).2 15 (by decide)⟩
    · exact ⟨_, (h.1 (slotted reg none 0) 3 (by decide +kernel)).2 15 (by decide)⟩
  · rintro n (rfl | rfl)
    · obtain ⟨_, e, -⟩ := (h.2.2.1 (linked 14) 15 (by decide)).1 (by decide +kernel)
      exact ⟨_, e⟩
    · obtain ⟨_, e, -⟩ := (h.2.2.1 (linked 15) 15 (by decide)).2 (by decide +kernel)
      exact ⟨_, e⟩
  · obtain ⟨_, e, -⟩ := h.2.2.2.1 (linked 0) (2 ^ 64 - 1) 0 (by decide) ⟨_, rfl⟩
    exact ⟨_, e⟩
  · exact ⟨_, (h.2.2.2.2.1 (linked 0) rfl (by decide +kernel)).1 (by decide +kernel)⟩
  · obtain ⟨_, e, -⟩ := h.2.2.2.2.2.1 (linked 0) 3
    exact ⟨_, e⟩
  · obtain ⟨_, e, -⟩ := h.2.2.2.2.2.2 (linked 0) 1 _ rfl rfl
    exact ⟨_, e⟩

/-! ### The Headgate -/

/-- A command entry (R371; log 7). -/
def cmdWord (c : Cmd) : Nat :=
  c.code + c.rsvd * 2 ^ 8 + c.tag * 2 ^ 16 + c.buflen * 2 ^ 32 + c.buf * 2 ^ 64 + c.handle * 2 ^ 128 + c.args * 2 ^ 192

/-- Fields in their ranges. -/
def CmdOk (c : Cmd) : Prop :=
  c.code < 2 ^ 8 ∧ c.tag < 2 ^ 16 ∧ c.rsvd < 2 ^ 8 ∧ c.buflen < 2 ^ 32 ∧ c.buf < 2 ^ 64 ∧ c.handle < 2 ^ 64 ∧ c.args < 2 ^ 192

/-- A device whose host has put one command into the ring of its function, at 2^20 of its memory. -/
def asking (c : Cmd) (g : State → State) : State :=
  let s := g State.reset
  { s with hg := { s.hg with fns := [(c.fn, { FnRegs.none with cmdring := 0x100004, cmdtail := 1 })] }
           mem := Memory.writeN s.mem (hostKey 0x100000) 64 (cmdWord c) }

theorem command_of (c : Cmd) (h : CmdOk c) : commandOf c.fn (cmdWord c) = c ∧ cmdWord c < 2 ^ (8 * 64) := by
  obtain ⟨fn, code, tag, rsvd, buflen, buf, handle, args⟩ := c
  obtain ⟨h1, h2, h3, h4, h5, h6, h7⟩ := h
  have p : 2 ^ 192 ≤ 2 ^ 320 := Nat.pow_le_pow_right (by decide) (by decide)
  have q : 2 ^ 192 * 2 ^ 192 ≤ 2 ^ 512 := by
    rw [← Nat.pow_add]
    exact Nat.pow_le_pow_right (by decide) (by decide)
  simp only [commandOf, cmdWord, bits, Nat.reduceAdd, Nat.reduceSub, Nat.reduceMul, Cmd.mk.injEq, true_and] at *
  generalize 2 ^ 320 = x at *
  generalize 2 ^ 512 = y at *
  refine ⟨⟨?_, ?_, ?_, ?_, ?_, ?_, ?_⟩, ?_⟩
  case refine_7 => rw [Nat.mod_eq_of_lt] <;> omega
  all_goals omega

theorem next_command (c : Cmd) (g : State → State) (h : CmdOk c) (w : (g State.reset).MemOk) (b : (g State.reset).hg.booting = false)
    (r : (g State.reset).hg.inRom = false) : nextCommand (asking c g) c.fn = some c := by
  obtain ⟨e, l⟩ := command_of c h
  have m : Memory.readN (asking c g).mem (hostKey 0x100000) 64 = cmdWord c := by
    rw [asking, Laws.readN_writeN _ _ _ w, Nat.mod_eq_of_lt l]
  have f : fnRegs (asking c g) c.fn = { FnRegs.none with cmdring := 0x100004, cmdtail := 1 } := by simp [fnRegs, asking, AL.get, AL.find?]
  have b' : (asking c g).hg.booting = false := b
  have r' : (asking c g).hg.inRom = false := r
  rw [nextCommand, f, b', r']
  exact congrArg some ((congrArg (commandOf c.fn) m).trans e)

/-- Handles of the first virtual device, of a context and of an object that is neither. -/
def vdH : Nat := handleOf State.reset .vd 0
def cxH : Nat := handleOf State.reset .ctx 1

theorem vdH_lt : vdH < 2 ^ 64 := Nat.mod_lt _ (by decide)
theorem cxH_lt : cxH < 2 ^ 64 := Nat.mod_lt _ (by decide)

/-- A command. -/
abbrev cmd (code handle args buflen buf : Nat) : Cmd := ⟨0, code, 3, 0, buflen, buf, handle, args⟩

theorem cmd_ok (code handle args buflen buf : Nat) (h : handle < 2 ^ 64) (a : code < 2 ^ 8 := by decide) (b : args < 2 ^ 192 := by decide)
    (c : buflen < 2 ^ 32 := by decide) (d : buf < 2 ^ 64 := by decide) : CmdOk (cmd code handle args buflen buf) :=
  ⟨a, (show 3 < 2 ^ 16 by decide), (show 0 < 2 ^ 8 by decide), c, d, h, b⟩

/-- Partition 0 of one virtual device with one context, whose heap window is 2^20 bytes; window 3 shows it to the host. -/
def tenant (s : State) : State :=
  let t : State := { s with
    hg := { s.hg with vds := [(0, vd0)], ctxs := [(1, ⟨0, 3, .active, false⟩)], windows := [(3, ⟨1, 0, 0, 0, 64, true, true, 4, 0, 0⟩)] }
    zeroed := [(0, 2 ^ 39)]
    regions := [(5, { reg with cx := 1 }), (ctxRid 1, { reg with rcb := BitVec.ofNat 2048 (2 ^ 20 * 2 ^ 640 + 3 * 2 ^ 768) })] }
  t.modPart 0 fun q => { q with cfg := q.cfg ||| 0x8000000000000000 }

theorem asking_parts (c : Cmd) (g : State → State) : (asking c g).parts = (g State.reset).parts := by simp only [asking]

theorem asks_quietly (c : Cmd) (g : State → State) (h : bootScrub (g State.reset) = false) : bootScrub (asking c g) = false := by
  rw [bootScrub, asking_parts]
  exact h

theorem tenant_quiet : bootScrub (tenant State.reset) = false := by decide +kernel

theorem taken {c : Cmd} {g : State → State} {code : Nat} {pf : Bool} (h : CmdOk c) (hc : cmdCode c = code) (r : c.rsvd = 0) (f : c.fn = 0)
    (w : (g State.reset).MemOk) (b : (g State.reset).hg.booting = false) (m : (g State.reset).hg.inRom = false)
    (bs : bootScrub (g State.reset) = false) : Taken (asking c g) c code pf :=
  ⟨next_command c g h w b m, hc, r, .inl (asks_quietly c g bs), .inl f⟩

/-- The same for a device of one tenant. -/
theorem taken_tenant {c : Cmd} {code : Nat} {pf : Bool} (h : CmdOk c) (hc : cmdCode c = code) (r : c.rsvd = 0) (f : c.fn = 0) :
    Taken (asking c tenant) c code pf := taken h hc r f rfl rfl rfl tenant_quiet

theorem asking_part (c : Cmd) (g : State → State) (p : Nat) : (asking c g).part p = (g State.reset).part p := by
  simp only [State.part, asking_parts]

theorem asking_regions (c : Cmd) (g : State → State) : (asking c g).regions = (g State.reset).regions := by simp only [asking]

theorem asking_region (c : Cmd) (g : State → State) (r : Nat) : (asking c g).region r = (g State.reset).region r := by
  simp only [State.region, asking_regions]

theorem asking_clusters (c : Cmd) (g : State → State) : (asking c g).clusters = (g State.reset).clusters := by simp only [asking]

theorem asking_cluster (c : Cmd) (g : State → State) (k : Nat) : (asking c g).cluster k = (g State.reset).cluster k := by
  simp only [State.cluster, asking_clusters]

theorem asking_ctxs (c : Cmd) (g : State → State) : (asking c g).hg.ctxs = (g State.reset).hg.ctxs := by simp only [asking]

theorem asking_vds (c : Cmd) (g : State → State) : (asking c g).hg.vds = (g State.reset).hg.vds := by simp only [asking]

theorem asking_slots (c : Cmd) (g : State → State) : (asking c g).hg.slots = (g State.reset).hg.slots := by simp only [asking]

theorem asking_windows (c : Cmd) (g : State → State) : (asking c g).hg.windows = (g State.reset).hg.windows := by simp only [asking]

theorem asking_boots (c : Cmd) (g : State → State) : (asking c g).hg.boots = (g State.reset).hg.boots := by simp only [asking]

theorem asking_map (c : Cmd) (g : State → State) : (asking c g).partMap = (g State.reset).partMap := by simp only [asking]

theorem asking_images (c : Cmd) (g : State → State) : (asking c g).hg.images = (g State.reset).hg.images := by simp only [asking]

theorem asking_codes (c : Cmd) (g : State → State) : (asking c g).hg.codes = (g State.reset).hg.codes := by simp only [asking]

/-- A virtual device of function 7. -/
def seven (s : State) : State := { s with hg := { s.hg with vds := [(0, { vd0 with fn := 7 })] } }

theorem calm (c : Cmd) (g : State → State) (h : bootScrub (g State.reset) = false) : ¬ (bootScrub (asking c g) = true ∧ c.code ≠ 0x10) := by
  rw [asks_quietly c g h]
  nofun

theorem unbound (c : Cmd) (h : c.fn ≠ 0) : ¬ (c.fn = 0 ∨ ∃ v, boundVd (asking c id) c.fn = some v) := by
  rintro (e | ⟨v, e⟩)
  · exact h e
  · rw [boundVd, asking_vds] at e
    cases e

/-- A reserved field, a function without a virtual device, and one that may not issue the command. -/
theorem witness_refusals (h : Obligations.CommandsCompleteInOrder) :
    Runs (.pause ⟨0, 0x09, 3, 1, 0, 0, 0, 0⟩) (asking ⟨0, 0x09, 3, 1, 0, 0, 0, 0⟩ id) ∧
    Runs (.power ⟨7, 0x12, 3, 0, 0, 0, 0, 0⟩) (asking ⟨7, 0x12, 3, 0, 0, 0, 0, 0⟩ id) ∧
    Runs (.power ⟨7, 0x12, 3, 0, 0, 0, 0, 0⟩) (asking ⟨7, 0x12, 3, 0, 0, 0, 0, 0⟩ seven) := by
  have ok : ∀ fn code rsvd, code < 2 ^ 8 → rsvd < 2 ^ 8 → CmdOk ⟨fn, code, 3, rsvd, 0, 0, 0, 0⟩ := fun _ _ _ a b =>
    ⟨a, (show 3 < 2 ^ 16 by decide), b, Nat.two_pow_pos 32, Nat.two_pow_pos 64, Nat.two_pow_pos 64, Nat.two_pow_pos 192⟩
  refine ⟨?_, ?_, ?_⟩
  · exact ⟨_, (h.2.2.2.1 ⟨0, 0x09, 3, 1, 0, 0, 0, 0⟩ (.pause _) 0x09 false (by simp) _ (next_command _ id (ok _ _ _ (by decide) (by decide)) rfl rfl rfl)
      rfl).2.2.1 (.inl rfl) (calm _ _ (by decide)) (by decide)⟩
  · exact ⟨_, (h.2.2.2.1 ⟨7, 0x12, 3, 0, 0, 0, 0, 0⟩ (.power _) 0x12 true (by simp) _ (next_command _ id (ok _ _ _ (by decide) (by decide)) rfl rfl rfl)
      rfl).1 (unbound _ (by decide))⟩
  · exact ⟨_, (h.2.2.2.1 ⟨7, 0x12, 3, 0, 0, 0, 0, 0⟩ (.power _) 0x12 true (by simp) _ (next_command _ seven (ok _ _ _ (by decide) (by decide)) rfl rfl rfl)
      rfl).2.2.2 (.inr ⟨(0, { vd0 with fn := 7 }), by rw [boundVd, asking_vds]; rfl⟩) (calm _ _ (by decide)) rfl (by decide) rfl⟩

/-- A partition being scrubbed since the boot. -/
def dirty (s : State) : State := s.modPart 0 fun q => { q with scrubs := [⟨none, 0, 0, [0], []⟩] }

theorem dirty_scrubs (c : Cmd) : bootScrub (asking c dirty) = true := by
  rw [bootScrub, asking_parts]
  decide +kernel

/-- The boot scrub, for a command that has a code and for one that has none. -/
theorem witness_boot_scrub (h : Obligations.CommandsCompleteInOrder) :
    Runs (.pause (cmd 0x09 0 0 0 0)) (asking (cmd 0x09 0 0 0 0) dirty) ∧
    Runs (.unassignedCommand (cmd 0x11 0 0 0 0)) (asking (cmd 0x11 0 0 0 0) dirty) := by
  refine ⟨⟨_, (h.2.2.2.1 (cmd 0x09 0 0 0 0) (.pause _) 0x09 false (by simp) _ (next_command _ dirty (cmd_ok _ _ _ _ _ (by decide)) rfl rfl rfl)
    rfl).2.1 (.inl rfl) ⟨dirty_scrubs _, by decide⟩⟩, ?_⟩
  exact ⟨_, (h.2.2.2.2.2.1 _ _ (next_command (cmd 0x11 0 0 0 0) dirty (cmd_ok _ _ _ _ _ (by decide)) rfl rfl rfl) (by decide)).2.1
    (.inl rfl) ⟨rfl, dirty_scrubs _⟩⟩

/-- A virtual device whose policy permits nothing. -/
def barred (s : State) : State := { s with hg := { s.hg with vds := [(0, ⟨0, 0, 1, [], 0⟩)] } }

/-- A handle of none; a policy that permits nothing; a code of no command, also of a function that is not bound. -/
theorem witness_handle_refusals (h : Obligations.CommandsCompleteInOrder) :
    Runs (.sched (cmd 0x07 0 0 0 0)) (asking (cmd 0x07 0 0 0 0) id) ∧
    Runs (.sched (cmd 0x07 vdH 0 0 0)) (asking (cmd 0x07 vdH 0 0 0) barred) ∧
    Runs (.unassignedCommand (cmd 0x13 0 0 0 0)) (asking (cmd 0x13 0 0 0 0) id) ∧
    Runs (.unassignedCommand ⟨7, 0x13, 3, 0, 0, 0, 0, 0⟩) (asking ⟨7, 0x13, 3, 0, 0, 0, 0, 0⟩ id) := by
  refine ⟨?_, ?_, ?_, ?_⟩
  · exact ⟨_, (h.2.2.2.2.1 _ (.sched _) 0x07 (by simp) _
      (taken (g := id) (cmd_ok 0x07 0 0 0 0 (by decide)) rfl rfl rfl rfl rfl rfl (by decide))).1 (by rw [vdHandle, asking_vds]; rfl)⟩
  · exact ⟨_, (h.2.2.2.2.1 _ (.sched _) 0x07 (by simp) _
      (taken (g := barred) (cmd_ok 0x07 vdH 0 0 0 vdH_lt) rfl rfl rfl rfl rfl rfl (by decide))).2 0 ⟨0, 0, 1, [], 0⟩
      (by simp [vdHandle, asking_vds, barred, vdH, handleOf, asking_boots]) (by rw [asking_part]; rfl) (by
        rintro ⟨-, p⟩
        revert p
        decide)⟩
  · exact ⟨_, (h.2.2.2.2.2.1 _ _ (next_command (cmd 0x13 0 0 0 0) id (cmd_ok _ _ _ _ _ (by decide)) rfl rfl rfl) (by decide)).2.2 (.inl rfl)
      fun k => absurd k.1 (by decide)⟩
  · exact ⟨_, (h.2.2.2.2.2.1 _ _ (next_command ⟨7, 0x13, 3, 0, 0, 0, 0, 0⟩ id ⟨by decide, by decide, by decide, by decide, by decide, by decide, by decide⟩
      rfl rfl rfl) (by decide)).1 (unbound _ (by decide))⟩

/-- The host reads and writes a tenant's window, and misses. -/
theorem witness_windows (h : Obligations.CommandsCompleteInOrder) :
    (Runs (.hostWindowRead 1 (3 * 2 ^ 30) 64) (tenant State.reset) ∧ Runs (.hostWindowRead 2 (3 * 2 ^ 30) 64) (tenant State.reset) ∧
      Runs (.hostWindowWrite 2 (3 * 2 ^ 30) []) (tenant State.reset)) ∧
    Runs (.hostWindowWrite 1 (3 * 2 ^ 30) (List.replicate 64 7)) (tenant State.reset) ∧
    ∃ d, windowLine (tenant State.reset) 3 0 ⟨1, 0, 0, 0, 64, true, true, 4, 0, 0⟩ = some d := by
  obtain ⟨-, -, -, -, -, -, r, l, n, w⟩ := h
  have test : (match ctxTarget (tenant State.reset) (ctxRid 1) 0 with
    | .at t => t.r && t.w && t.ident == 0 && decide (t.key + 64 ≤ 2 ^ 120) | _ => false) = true := by decide +kernel
  split at test
  case h_2 => exact absurd test (by decide)
  rename_i t e
  simp only [Bool.and_eq_true, beq_iff_eq, decide_eq_true_eq] at test
  obtain ⟨⟨⟨tr, tw⟩, ti⟩, tk⟩ := test
  refine ⟨⟨?_, ?_, ?_⟩, ?_, ?_⟩
  · have v : (windowRead (tenant State.reset) 1 (3 * 2 ^ 30) 64).isSome = true := by decide +kernel
    obtain ⟨b, e⟩ := Option.isSome_iff_exists.1 v
    exact ⟨_, ((r _ _ _ _).1 b e).1⟩
  · obtain ⟨t, e, -⟩ := (r (tenant State.reset) 2 (3 * 2 ^ 30) 64).2 (by decide +kernel)
    exact ⟨t, e⟩
  · obtain ⟨t, e, -⟩ := n (tenant State.reset) 2 (3 * 2 ^ 30) [] (by decide +kernel)
    exact ⟨t, e⟩
  · obtain ⟨t', e', -⟩ := w (tenant State.reset) 1 (3 * 2 ^ 30) (List.replicate 64 7) 3 0 _ t (by decide +kernel)
      (show hostWindow (tenant State.reset) 1 (3 * 2 ^ 30) = some (3, 0, ⟨1, 0, 0, 0, 64, true, true, 4, 0, 0⟩) by decide +kernel) (by decide) rfl rfl
      (by decide) e tw ti (by decide +kernel) tk (by decide)
    exact ⟨t', e'⟩
  · exact ⟨_, (l (tenant State.reset) 3 0 ⟨1, 0, 0, 0, 64, true, true, 4, 0, 0⟩ t vd0 ⟨0, 3, .active, false⟩ rfl (by decide) e tr ti
      (by simp [tenant, State.modPart, State.reset]) (by decide +kernel) rfl).1 (by decide +kernel)⟩

theorem vd_named (c : Nat) (a n b : Nat) : vdHandle (asking (cmd c vdH a n b) tenant) vdH = some (0, vd0) := by
  simp [vdHandle, asking_vds, tenant, vdH, handleOf, asking_boots, State.modPart]

theorem cx_named (c : Nat) (a n b : Nat) : ctxHandle (asking (cmd c cxH a n b) tenant) cxH = some (1, ⟨0, 3, .active, false⟩) := by
  simp [ctxHandle, asking_ctxs, tenant, cxH, handleOf, asking_boots, State.modPart]

theorem tenant_open (c : Cmd) : ((asking c tenant).part 0).frozen = false := by rw [asking_part]; decide +kernel

theorem vd_of_tenant (c : Cmd) : vdOf (asking c tenant) 0 = some vd0 := by rw [vdOf, asking_vds]; rfl

/-- What every command by the handle of the tenant's device, or of its context, meets. -/
theorem names_vd (c a n b : Nat) (h : c = 0x09 ∨ c = 0x0D ∨ bitAt (policyField vd0 47 35) (c - 5) = true) :
    NamesVd (asking (cmd c vdH a n b) tenant) (cmd c vdH a n b) vd0 := ⟨⟨0, vd_named ..⟩, .inl (tenant_open _), h⟩

theorem names_ctx (c a n b : Nat) (h : c = 0x09 ∨ c = 0x0D ∨ bitAt (policyField vd0 47 35) (c - 5) = true) :
    NamesCtx (asking (cmd c cxH a n b) tenant) (cmd c cxH a n b) 1 ⟨0, 3, .active, false⟩ vd0 :=
  ⟨cx_named .., vd_of_tenant _, rfl, .inl (tenant_open _), h⟩

/-- No context of a partition is being torn down. -/
theorem still (c : Cmd) (g : State → State) (p : Nat) (h : tearing (g State.reset) p = false) : tearing (asking c g) p = false := by
  have e : tearing (asking c g) p = tearing (g State.reset) p := by simp only [tearing, ctxsIn, vdOf, asking_part, asking_ctxs, asking_vds]
  rw [e, h]

/-- A whole partition 0 of the device, its supervisor in cluster 0; its map. -/
def wholeCfg : Nat := 2 ^ 63 + 16 * 2 ^ 8

/-- A refused partition word and map, an empty partition, one of the whole device, a partition closed with a context in it. -/
theorem witness_partition (h : Obligations.PartitionAndContextCommands) :
    Runs (.partSet (cmd 0x01 0 0 0 0)) (asking (cmd 0x01 0 0 0 0) id) ∧
    Runs (.partSet (cmd 0x01 0 (2 ^ 63 + 0x100) 0 0)) (asking (cmd 0x01 0 (2 ^ 63 + 0x100) 0 0) id) ∧
    Runs (.partSet (cmd 0x01 0 0x100 0 0)) (asking (cmd 0x01 0 0x100 0 0) id) ∧
    Runs (.partSet (cmd 0x01 0 wholeCfg 0 0)) (asking (cmd 0x01 0 wholeCfg 0 0) id) ∧
    Runs (.partSet (cmd 0x01 0 0x100 0 0)) (asking (cmd 0x01 0 0x100 0 0) fun s => (tenant s).modPart 0 fun q => { q with cfg := q.cfg ||| 0x4000000000000000 }) := by
  refine ⟨?_, ?_, ?_, ?_, ?_⟩
  · exact ⟨_, (h.1 _ _ (taken (g := id) (cmd_ok 0x01 0 0 0 0 (by decide)) rfl rfl rfl rfl rfl rfl (by decide))).1 (.inl (by decide))⟩
  · exact ⟨_, (h.1 _ _ (taken (g := id) (cmd_ok 0x01 0 (2 ^ 63 + 0x100) 0 0 (by decide)) rfl rfl rfl rfl rfl rfl (by decide))).1
      (.inr (by decide +kernel))⟩
  · exact ⟨_, ((h.1 _ _ (taken (g := id) (cmd_ok 0x01 0 0x100 0 0 (by decide)) rfl rfl rfl rfl rfl rfl (by decide))).2.1 (by decide)
      (by decide +kernel) (by rw [grantsElse, asking_parts]; decide +kernel) (still _ _ _ (by decide +kernel)) (by decide +kernel)).1 (by decide)
      (by rw [asking_part]; decide +kernel)⟩
  · have P := ((h.1 _ _ (taken (g := id) (cmd_ok 0x01 0 wholeCfg 0 0 (by decide)) rfl rfl rfl rfl rfl rfl (by decide))).2.1 (by decide)
      (by decide +kernel) (by rw [grantsElse, asking_parts]; decide +kernel) (still _ _ _ (by decide +kernel)) (by decide +kernel)).2 0 (by decide) (by simp only [freeSlot, slotOf, asking_slots]; decide +kernel)
    rcases Nat.lt_or_ge _ 16384 with g | g
    · exact ⟨_, P.1 g⟩
    · cases k : supervisorOk (asking (cmd 0x01 0 wholeCfg 0 0) id) 0 { (asking (cmd 0x01 0 wholeCfg 0 0) id).part 0 with cfg := BitVec.ofNat 64 wholeCfg }
      · exact ⟨_, P.2.1 g k⟩
      · obtain ⟨_, e, -⟩ := P.2.2 g k
        exact ⟨_, e⟩
  · exact ⟨_, (h.1 _ _ (taken (g := fun s => (tenant s).modPart 0 fun q => { q with cfg := q.cfg ||| 0x4000000000000000 }) (cmd_ok 0x01 0 0x100 0 0 (by decide))
      rfl rfl rfl rfl rfl rfl (by decide +kernel))).2.2 1 ⟨0, 3, .active, false⟩ vd0 (by decide)
      (by simp only [mapOk, asking_part]; decide +kernel) (by rw [residentOn]; decide +kernel) (by decide) (by rw [asking_part]; decide +kernel)
      (by rw [asking_ctxs]; rfl) rfl (by rw [vdOf, asking_vds]; rfl) rfl⟩

/-- Calibration with and without a context; a device destroyed, and not. -/
theorem witness_calibration (h : Obligations.PartitionAndContextCommands) :
    Runs (.calSet (cmd 0x02 0 5 0 0)) (asking (cmd 0x02 0 5 0 0) id) ∧
    Runs (.calSet (cmd 0x02 0 5 0 0)) (asking (cmd 0x02 0 5 0 0) tenant) ∧
    Runs (.vdDestroy (cmd 0x04 vdH 0 0 0)) (asking (cmd 0x04 vdH 0 0 0) owned) ∧
    Runs (.vdDestroy (cmd 0x04 vdH 0 0 0)) (asking (cmd 0x04 vdH 0 0 0) tenant) := by
  refine ⟨?_, ?_, ?_, ?_⟩
  · exact ⟨_, (h.2.2.2.1 _ _ (taken (g := id) (cmd_ok 0x02 0 5 0 0 (by decide)) rfl rfl rfl rfl rfl rfl (by decide))).1 fun p _ => by
      rw [residentIn, asking_ctxs]
      rfl⟩
  · exact ⟨_, (h.2.2.2.1 _ _ (taken_tenant (cmd_ok 0x02 0 5 0 0 (by decide)) rfl rfl rfl)).2 ⟨0, by decide, by decide +kernel⟩⟩
  · obtain ⟨t, e, -⟩ := (h.2.2.2.2.2.1 _ _ 0 vd0 (taken (g := owned) (cmd_ok 0x04 vdH 0 0 0 vdH_lt) rfl rfl rfl rfl rfl rfl (by decide +kernel))
      (by simp [vdHandle, asking_vds, owned, vdH, handleOf, asking_boots]) (by rw [asking_part]; decide +kernel)).1 (by
        rw [asking_ctxs]
        exact fun x m => nomatch (show x ∈ ([] : List (Nat × Ctx)) from m))
    exact ⟨_, e⟩
  · exact ⟨_, (h.2.2.2.2.2.1 _ _ 0 vd0 (taken_tenant (cmd_ok 0x04 vdH 0 0 0 vdH_lt) rfl rfl rfl) (vd_named ..) (tenant_open _)).2
      ⟨(1, ⟨0, 3, .active, false⟩), by rw [asking_ctxs]; simp [tenant, State.modPart], rfl, by decide⟩⟩

/-- No object has one line. -/
theorem one_line (c : Code) : objectOk c 1 = false := by
  rw [Bool.eq_false_iff]
  intro h
  simp only [objectOk, Bool.and_eq_true, decide_eq_true_eq, bne_iff_ne] at h
  omega

/-- Code, queues, launches, a pause and a resume. -/
theorem witness_context_commands (h : Obligations.PartitionAndContextCommands) :
    Runs (.codeLoad (cmd 0x06 cxH 0 66 0)) (asking (cmd 0x06 cxH 0 66 0) tenant) ∧
    Runs (.sched (cmd 0x07 vdH 5 0 0)) (asking (cmd 0x07 vdH 5 0 0) tenant) ∧
    Runs (.launchCmd (cmd 0x08 cxH 0 64 0)) (asking (cmd 0x08 cxH 0 64 0) tenant) ∧
    Runs (.pause (cmd 0x09 vdH 0 0 0)) (asking (cmd 0x09 vdH 0 0 0) tenant) ∧
    Runs (.resume (cmd 0x0A vdH 0 0 0)) (asking (cmd 0x0A vdH 0 0 0) tenant) := by
  obtain ⟨-, -, -, -, -, -, -, -, code, sched, launch, hold⟩ := h
  refine ⟨?_, ?_, ?_, ?_, ?_⟩
  · have w : sealWaits (asking (cmd 0x06 cxH 0 66 0) tenant) 1 (bufferLines (bufferOf (asking (cmd 0x06 cxH 0 66 0) tenant) 3 0 66) (66 / 66)) (66 / 66) = none := by
      rw [sealWaits, if_pos]
      rw [objectStatus, one_line]
      decide
    rcases e : sealCode (takeCmd (asking (cmd 0x06 cxH 0 66 0) tenant) (cmd 0x06 cxH 0 66 0)) 1
      (bufferLines (bufferOf (asking (cmd 0x06 cxH 0 66 0) tenant) 3 0 66) (66 / 66)) (66 / 66) with ⟨st, t⟩
    obtain ⟨g, b⟩ := code _ (cmd 0x06 cxH 0 66 0) 1 ⟨0, 3, .active, false⟩ vd0 st t (taken_tenant (cmd_ok 0x06 cxH 0 66 0 cxH_lt) rfl rfl rfl)
      (names_ctx _ _ _ _ (by decide)) (by decide) w e
    by_cases z : st = 0
    · exact ⟨_, g z⟩
    · exact ⟨_, b z⟩
  · obtain ⟨t, e, -⟩ := sched _ _ vd0 (taken_tenant (cmd_ok 0x07 vdH 5 0 0 vdH_lt) rfl rfl rfl) (names_vd _ _ _ _ (by decide))
      (by rw [asking_part]; decide +kernel)
    exact ⟨_, e⟩
  · obtain ⟨t, id, e, -⟩ := launch _ _ 1 ⟨0, 3, .active, false⟩ vd0 (taken_tenant (cmd_ok 0x08 cxH 0 64 0 cxH_lt) rfl rfl rfl)
      (names_ctx _ _ _ _ (by decide)) (by decide)
    exact ⟨_, e⟩
  · obtain ⟨t, e, -⟩ := (hold _ _ vd0 (names_vd _ _ _ _ (by decide))).1 (taken_tenant (cmd_ok 0x09 vdH 0 0 0 vdH_lt) rfl rfl rfl)
    exact ⟨_, e⟩
  · obtain ⟨t, e, -⟩ := (hold _ _ vd0 (names_vd _ _ _ _ (by decide))).2 (taken_tenant (cmd_ok 0x0A vdH 0 0 0 vdH_lt) rfl rfl rfl)
    exact ⟨_, e⟩

/-- An open partition 0, and at 2^21 of the host's memory a policy that asks for a firmware version. -/
def policed (v : Nat) (s : State) : State :=
  let t := s.modPart 0 fun q => { q with cfg := q.cfg ||| 0x8000000000000000 }
  { t with hg := { t.hg with fwVersion := 4 }, mem := Memory.writeN t.mem (hostKey 0x200000) 256 (0x9E + 2 ^ 8 + 17296 * 2 ^ 16 + 2 ^ 74 + 2 ^ 79 + v * 2 ^ 160) }

/-- A policy whose signatures are good, or not. -/
theorem witness_policy (h : Obligations.PartitionAndContextCommands) :
    Runs (.vdCreate (cmd 0x03 0 0x100 17296 0x200000)) (asking (cmd 0x03 0 0x100 17296 0x200000) (policed 0)) ∧
    Runs (.vdCreate (cmd 0x03 0 0x100 17296 0x200000)) (asking (cmd 0x03 0 0x100 17296 0x200000) (policed 9)) := by
  have o : ∀ v, CmdOk (cmd 0x03 0 0x100 17296 0x200000) ∧ ((policed v State.reset).MemOk) := fun v =>
    ⟨cmd_ok 0x03 0 0x100 17296 0x200000 (by decide), by
      simp only [policed, State.MemOk]
      exact Laws.writeN_wf _ _ _ (by decide)⟩
  refine ⟨?_, ?_⟩
  · obtain ⟨rsa, slh, -, good⟩ := h.2.2.2.2.1 _ (cmd 0x03 0 0x100 17296 0x200000) (taken (g := policed 0) (o 0).1 rfl rfl rfl (o 0).2 rfl rfl (by decide +kernel)) (Nat.le_refl _)
      (by decide +kernel) (by decide) (by decide)
    rcases Bool.eq_false_or_eq_true (Config.sigGood 1 (((hostBytes (asking (cmd 0x03 0 0x100 17296 0x200000) (policed 0)) 0x200000 policyBytes).drop 256).take 384)
      ((hostBytes (asking (cmd 0x03 0 0x100 17296 0x200000) (policed 0)) 0x200000 policyBytes).take 688)
      (((hostBytes (asking (cmd 0x03 0 0x100 17296 0x200000) (policed 0)) 0x200000 policyBytes).drop 688).take 384)) with a | a
    · rcases Bool.eq_false_or_eq_true (Config.sigGood 2 (((hostBytes (asking (cmd 0x03 0 0x100 17296 0x200000) (policed 0)) 0x200000 policyBytes).drop 640).take 48)
        ((hostBytes (asking (cmd 0x03 0 0x100 17296 0x200000) (policed 0)) 0x200000 policyBytes).take 688)
        ((hostBytes (asking (cmd 0x03 0 0x100 17296 0x200000) (policed 0)) 0x200000 policyBytes).drop 1072)) with b | b
      · obtain ⟨k, t, e, -⟩ := good 0 a b (by decide +kernel) (by rw [asking_part]; decide +kernel) (by rw [asking_part]; decide +kernel)
          (by rw [boundVd, asking_vds]; rfl) (by rw [asking_part]; decide +kernel) (by decide) (by rw [vdOf, asking_vds]; rfl)
          (fun k l => absurd l (Nat.not_lt_zero _))
        exact ⟨_, e⟩
      · exact ⟨_, slh a b⟩
    · exact ⟨_, rsa a⟩
  · obtain ⟨rsa, slh, old, -⟩ := h.2.2.2.2.1 _ (cmd 0x03 0 0x100 17296 0x200000) (taken (g := policed 9) (o 9).1 rfl rfl rfl (o 9).2 rfl rfl (by decide +kernel)) (Nat.le_refl _)
      (by decide +kernel) (by decide) (by decide)
    rcases Bool.eq_false_or_eq_true (Config.sigGood 1 (((hostBytes (asking (cmd 0x03 0 0x100 17296 0x200000) (policed 9)) 0x200000 policyBytes).drop 256).take 384)
      ((hostBytes (asking (cmd 0x03 0 0x100 17296 0x200000) (policed 9)) 0x200000 policyBytes).take 688)
      (((hostBytes (asking (cmd 0x03 0 0x100 17296 0x200000) (policed 9)) 0x200000 policyBytes).drop 688).take 384)) with a | a
    · rcases Bool.eq_false_or_eq_true (Config.sigGood 2 (((hostBytes (asking (cmd 0x03 0 0x100 17296 0x200000) (policed 9)) 0x200000 policyBytes).drop 640).take 48)
        ((hostBytes (asking (cmd 0x03 0 0x100 17296 0x200000) (policed 9)) 0x200000 policyBytes).take 688)
        ((hostBytes (asking (cmd 0x03 0 0x100 17296 0x200000) (policed 9)) 0x200000 policyBytes).drop 1072)) with b | b
      · exact ⟨_, old a b (by decide +kernel)⟩
      · exact ⟨_, slh a b⟩
    · exact ⟨_, rsa a⟩

/-- A policy that permits every command and 2^5 windows, without protection. -/
def vd1 : VDev := ⟨0, 0, 1, List.replicate 7 0xFF ++ [0x3F, 0, 0x80, 0, 0x80], 0x102⟩

/-- The block of a context in the first cluster, at 2^22 of the host's memory, a device for it, and a sealed key. -/
def sponsor (s : State) : State :=
  let s := { s with hg := { s.hg with vds := [(0, vd1)] } }
  { s with mem := Memory.writeN s.mem (hostKey 0x400000) 256 (0x103 + 0x1DFF * 2 ^ 152 + 0x14 * 2 ^ 224) }

theorem sponsor_ok : (sponsor State.reset).MemOk := by
  simp only [sponsor, State.MemOk]
  exact Laws.writeN_wf _ _ _ (by decide)

/-- A write elsewhere is not read. -/
theorem readN_apart (m : Memory) (a c v : Nat) (w : m.wf = true) :
    ∀ n k, (k + n ≤ a ∨ a + c ≤ k) → (Memory.writeN m a c v).readN k n = m.readN k n := by
  intro n
  induction n with
  | zero => intros; rfl
  | succ n ih =>
    intro k h
    rw [Memory.readN, Memory.readN, Laws.read_writeN a c v k w (by omega), ih (k + 1) (by omega)]

/-- A context, whether or not its key opens. -/
theorem witness_context (h : Obligations.PartitionAndContextCommands) :
    Runs (.ctxCreate (cmd 0x05 vdH 0x400000 1800 0)) (asking (cmd 0x05 vdH 0x400000 1800 0) sponsor) := by
  obtain ⟨no, yes⟩ := h.2.2.2.2.2.2.1 _ (cmd 0x05 vdH 0x400000 1800 0) vd1 0 (taken (g := sponsor) (cmd_ok 0x05 vdH 0x400000 1800 0 vdH_lt) rfl rfl rfl sponsor_ok rfl rfl
      (by decide +kernel)) ⟨⟨0, by simp [vdHandle, asking_vds, sponsor, vdH, handleOf, asking_boots]⟩, .inl (by rw [asking_part]; decide +kernel), by decide⟩
      (Nat.le_refl _) (still _ _ _ (by decide +kernel))
  rcases e : Config.unwrapKeys (asking (cmd 0x05 vdH 0x400000 1800 0) sponsor).hg.boots (tenantId vd1)
    (hostBytes (asking (cmd 0x05 vdH 0x400000 1800 0) sponsor) (cmd 0x05 vdH 0x400000 1800 0).buf 1800) with _ | k
  · exact ⟨_, no e⟩
  · have mk : (sponsor State.reset).mem = Memory.writeN State.reset.mem (hostKey 0x400000) 256 (0x103 + 0x1DFF * 2 ^ 152 + 0x14 * 2 ^ 224) := by
      simp only [sponsor]
    have m : Memory.readN (asking (cmd 0x05 vdH 0x400000 1800 0) sponsor).mem (hostKey 0x400000) 256 = 0x103 + 0x1DFF * 2 ^ 152 + 0x14 * 2 ^ 224 := by
      have w := sponsor_ok
      rw [State.MemOk] at w
      rw [asking, readN_apart _ _ _ _ w _ _ (.inr (by decide)), mk, Laws.readN_writeN _ _ _ (by decide)]
      decide +kernel
    obtain ⟨cx, t, e, -⟩ := yes k e (by
      rw [show bits (cmd 0x05 vdH 0x400000 1800 0).args 63 0 = 0x400000 by decide, m, contextBlockOk, deviceEffective, asking_part]
      decide +kernel) (by rw [asking_ctxs]; decide +kernel) (by simp only [freeSlot, slotOf, asking_slots]; decide +kernel)
    exact ⟨_, e⟩

theorem vd_owned (c : Nat) (a n b : Nat) : vdHandle (asking (cmd c vdH a n b) owned) vdH = some (0, vd0) := by
  simp [vdHandle, asking_vds, owned, vdH, handleOf, asking_boots]

theorem no_pending (c : Nat) (a n b : Nat) (g : State → State) : (fnRegs (asking (cmd c vdH a n b) g) 0).pending = none := by
  simp [fnRegs, asking, AL.get, AL.find?, FnRegs.none]

/-- The device whose eviction has ended, with a buffer of `n` bytes. -/
def leaving (n : Nat) : State :=
  let s := owned State.reset
  { s with hg := { s.hg with fns := [(0, { FnRegs.none with pending := some (cmd 0x0B vdH 0 n 0) })] } }

theorem leaving_vd (n : Nat) : vdHandle (leaving n) vdH = some (0, vd0) := by
  simp only [vdHandle, leaving, owned, vdH, handleOf, List.find?]
  simp

/-- An eviction begins, ends, and ends without room. -/
theorem witness_evict (h : Obligations.TenantAndDebugCommands) :
    Runs (.evict (cmd 0x0B vdH 0 0 0)) (asking (cmd 0x0B vdH 0 0 0) tenant) ∧
    Runs (.evict (cmd 0x0B vdH 0 (2 ^ 16) 0)) (leaving (2 ^ 16)) ∧ Runs (.evict (cmd 0x0B vdH 0 0 0)) (leaving 0) := by
  refine ⟨?_, ?_, ?_⟩
  · obtain ⟨t, e, -⟩ := (h.1 _ (cmd 0x0B vdH 0 0 0) 0 vd0 rfl (vd_named ..)).1 (taken_tenant (cmd_ok 0x0B vdH 0 0 0 vdH_lt) rfl rfl rfl)
      (names_vd _ _ _ _ (by decide)).2 (no_pending ..)
    exact ⟨_, e⟩
  · exact ⟨_, ((h.1 (leaving (2 ^ 16)) (cmd 0x0B vdH 0 (2 ^ 16) 0) 0 vd0 rfl (leaving_vd _)).2 (by simp [fnRegs, leaving, AL.get, AL.find?])
      (fun r m => nomatch (show r ∈ ([] : List Nat) from m))).1 (by decide +kernel)⟩
  · exact ⟨_, ((h.1 (leaving 0) (cmd 0x0B vdH 0 0 0) 0 vd0 rfl (leaving_vd _)).2 (by simp [fnRegs, leaving, AL.get, AL.find?])
      (fun r m => nomatch (show r ∈ ([] : List Nat) from m))).2 (by decide +kernel)⟩

/-- Bytes put at a key. -/
def put (m : Memory) (k : Nat) : List Byte → Memory
  | [] => m
  | b :: l => Memory.write (put m (k + 1) l) k b

theorem put_wf (m : Memory) (w : m.wf = true) : ∀ l k, (put m k l).wf = true
  | [], _ => w
  | _ :: l, k => Laws.write_wf _ _ (put_wf m w l (k + 1))

theorem read_put (m : Memory) (w : m.wf = true) : ∀ l k i b, l[i]? = some b → (put m k l).read (k + i) = b
  | [], _, _, _, h => by simp at h
  | x :: l, k, 0, b, h => by
    rw [put, Laws.read_write _ _ _ (put_wf m w l _)]
    simpa using h
  | x :: l, k, i + 1, b, h => by
    rw [put, Laws.read_write _ _ _ (put_wf m w l _), if_neg (by omega), show k + (i + 1) = k + 1 + i by omega]
    exact read_put m w l (k + 1) i b (by simpa using h)

/-- A saved region of the device, and its image. -/
def kept : Image := ⟨9, 1, 0, 1, 0, { Region.none with code := 8, rcb := BitVec.ofNat 2048 (4 + 2 ^ 512) }, [], [], [], [], [], false, false⟩

/-- The block of its context: clusters (1, 1) to (3, 3), a heap window of 2^12 bytes. -/
def ctxBlock : BitVec 2048 := BitVec.ofNat 2048 (3 + (1 + 3 * 2 ^ 12 + 2 ^ 6 + 3 * 2 ^ 18) * 2 ^ 128 + 0x14 * 2 ^ 224 + 2 ^ 652)

/-- The device with that region saved, its code loaded, and the sealed image at 2^22 of the host's memory. -/
def moved (s : State) : State :=
  let s := owned s
  let s := { s with
    hg := { s.hg with codes := [(8, ⟨1, [0, 0, 0, 1], []⟩)], images := [(2, kept)] }
    regions := [(9, { Region.none with st := .saved, image := 2, code := 8 }), (ctxRid 1, { Region.none with rcb := ctxBlock })] }
  { s with mem := put s.mem (hostKey 0x400000) (sealedImage s vd0 0 [(2, kept)]) }

/-- A restore of a saved image; of one that does not open; of one whose header is refused. -/
theorem witness_restore (h : Obligations.TenantAndDebugCommands) :
    Runs (.restore (cmd 0x0C vdH 0 896 0x400000)) (asking (cmd 0x0C vdH 0 896 0x400000) moved) := by
  have o : (moved State.reset).MemOk := by
    simp only [moved, State.MemOk]
    exact put_wf _ (by decide) _ _
  have n : NamesVd (asking (cmd 0x0C vdH 0 896 0x400000) moved) (cmd 0x0C vdH 0 896 0x400000) vd0 :=
    ⟨⟨0, by simp [vdHandle, asking_vds, moved, owned, vdH, handleOf, asking_boots]⟩, .inl (by rw [asking_part]; decide +kernel), by decide⟩
  have l : savedImages (asking (cmd 0x0C vdH 0 896 0x400000) moved) vd0 = [(2, kept)] := by
    simp only [savedImages, lastImage, regionsOf, asking_region, asking_regions, asking_images]
    decide +kernel
  have q : sealedImage (asking (cmd 0x0C vdH 0 896 0x400000) moved) vd0 0 [(2, kept)] = sealedImage (owned State.reset) vd0 0 [(2, kept)] := by
    simp only [sealedImage, imageKey, deviceKeyOf, slotOf, asking_ctxs, asking_slots]
    rfl
  have z : (sealedImage (owned State.reset) vd0 0 [(2, kept)]).length = 896 := by decide +kernel
  have k : (moved State.reset).mem = put State.reset.mem (hostKey 0x400000) (sealedImage (owned State.reset) vd0 0 [(2, kept)]) := by
    simp only [moved]
    rfl
  have b : sealedImage (owned State.reset) vd0 0 [(2, kept)] = hostBytes (asking (cmd 0x0C vdH 0 896 0x400000) moved) 0x400000 896 := by
    refine List.ext_getElem (by simp [hostBytes, z]) fun i hi hj => ?_
    have w := o
    rw [State.MemOk] at w
    rw [z] at hi
    have e : hostKey (0x400000 + i) = hostKey 0x400000 + i := by
      simp only [hostKey]
      omega
    simp only [hostBytes, List.getElem_map, List.getElem_range, e]
    rw [asking, Laws.read_writeN _ _ _ _ w (.inr (by simp only [hostKey]; omega)), k]
    exact (read_put _ (by decide) _ _ _ _ (List.getElem?_eq_getElem (by omega))).symm
  have e : ofBytes ((hostBytes (asking (cmd 0x0C vdH 0 896 0x400000) moved) 0x400000 896).take 12) = 0 := by
    rw [← b]
    decide +kernel
  have c := (h.2.1 _ (cmd 0x0C vdH 0 896 0x400000) vd0 (taken (g := moved) (cmd_ok 0x0C vdH 0 896 0x400000 vdH_lt) rfl rfl rfl o rfl rfl (by decide +kernel)) n
    (still _ _ _ (by decide +kernel)) (by decide)).1
  rw [l] at c
  have r := c (by
    rw [e, q, b]
    exact ⟨(List.take_length).symm, by decide⟩)
  exact ⟨_, r.1 (by
    simp only [List.mem_singleton, forall_eq, restoreStatus, asking_part, asking_region, asking_codes]
    decide +kernel)⟩

/-- An image that does not open, or whose header is refused: what opens is free (log 29). -/
theorem witness_bad_images (h : Obligations.TenantAndDebugCommands)
    (k : ∀ b, Config.imageOpen (imageKey (asking (cmd 0x0C vdH 0 128 0) owned) vd0)
      (ofBytes ((hostBytes (asking (cmd 0x0C vdH 0 128 0) owned) 0 128).take 12))
      ((hostBytes (asking (cmd 0x0C vdH 0 128 0) owned) 0 128).drop 20) = some b → headerStatus (ofBytes (b.take 64)) ≠ 0) :
    Runs (.restore (cmd 0x0C vdH 0 128 0)) (asking (cmd 0x0C vdH 0 128 0) owned) := by
  have n : NamesVd (asking (cmd 0x0C vdH 0 128 0) owned) (cmd 0x0C vdH 0 128 0) vd0 :=
    ⟨⟨0, vd_owned ..⟩, .inl (by rw [asking_part]; decide +kernel), by decide⟩
  have l : savedImages (asking (cmd 0x0C vdH 0 128 0) owned) vd0 = [] := by
    simp only [savedImages, regionsOf, asking_regions]
    rfl
  obtain ⟨-, no, bad⟩ := h.2.1 _ (cmd 0x0C vdH 0 128 0) vd0
    (taken (g := owned) (cmd_ok 0x0C vdH 0 128 0 vdH_lt) rfl rfl rfl rfl rfl rfl (by decide +kernel)) n (still _ _ _ (by decide +kernel)) (by decide)
  rcases e : Config.imageOpen (imageKey (asking (cmd 0x0C vdH 0 128 0) owned) vd0)
      (ofBytes ((hostBytes (asking (cmd 0x0C vdH 0 128 0) owned) 0 128).take 12))
      ((hostBytes (asking (cmd 0x0C vdH 0 128 0) owned) 0 128).drop 20) with _ | b
  · exact ⟨_, no (fun x => x.2 l) e⟩
  · exact ⟨_, (bad b (fun x => x.2 l) e).1 (k b e)⟩

/-- A tenant that is being scrubbed. -/
def leftover (s : State) : State :=
  let s := owned s
  { s with hg := { s.hg with ctxs := [(1, ⟨0, 3, .scrubbing, false⟩)] } }

/-- The device while a context is torn down. -/
def erasing (b : Bool) : State :=
  let s := owned State.reset
  { s with hg := { s.hg with
    ctxs := [(1, ⟨0, 3, .zeroing b, false⟩)], fns := [(0, { FnRegs.none with pending := some (cmd 0x0D cxH 0 0 0) })] } }

theorem erasing_named (b : Bool) : ctxHandle (erasing b) cxH = some (1, ⟨0, 3, .zeroing b, false⟩) := by
  simp [ctxHandle, erasing, owned, cxH, handleOf]

theorem erasing_pending (b : Bool) : (fnRegs (erasing b) 0).pending = some (cmd 0x0D cxH 0 0 0) := by
  simp [fnRegs, erasing, AL.get, AL.find?]

/-- A context torn down, in three steps, and one that is not active. -/
theorem witness_teardown (h : Obligations.TenantAndDebugCommands) :
    Runs (.teardown (cmd 0x0D cxH 0 0 0)) (asking (cmd 0x0D cxH 0 0 0) leftover) ∧
    Runs (.teardown (cmd 0x0D cxH 0 0 0)) (asking (cmd 0x0D cxH 0 0 0) tenant) ∧
    Runs (.teardown (cmd 0x0D cxH 0 0 0)) (erasing false) ∧ Runs (.teardown (cmd 0x0D cxH 0 0 0)) (erasing true) := by
  refine ⟨?_, ?_, ?_, ?_⟩
  · exact ⟨_, (h.2.2.1 _ (cmd 0x0D cxH 0 0 0) 1 ⟨0, 3, .scrubbing, false⟩ vd0
      (taken (g := leftover) (cmd_ok 0x0D cxH 0 0 0 cxH_lt) rfl rfl rfl rfl rfl rfl (by decide +kernel))
      (by simp [ctxHandle, asking_ctxs, leftover, cxH, handleOf, asking_boots, owned]) (by rw [vdOf, asking_vds]; rfl)
      ⟨.inl (by rw [asking_part]; decide +kernel), by decide⟩).1 (by decide)⟩
  · obtain ⟨t, e, -⟩ := (h.2.2.1 _ (cmd 0x0D cxH 0 0 0) 1 ⟨0, 3, .active, false⟩ vd0
      (taken_tenant (cmd_ok 0x0D cxH 0 0 0 cxH_lt) rfl rfl rfl)
      (cx_named ..) (vd_of_tenant _) ⟨.inl (tenant_open _), by decide⟩).2 rfl
    exact ⟨_, e⟩
  · exact ⟨_, (h.2.2.2.1 _ (cmd 0x0D cxH 0 0 0) 1 _ (erasing_pending _) rfl (erasing_named _)).1 rfl⟩
  · obtain ⟨t, e, -⟩ := (h.2.2.2.1 _ (cmd 0x0D cxH 0 0 0) 1 _ (erasing_pending _) rfl (erasing_named _)).2 rfl
    exact ⟨_, e⟩

/-- A device whose policy permits windows, with an active context; window 3 is in use. -/
def glazed (s : State) : State :=
  { s with hg := { s.hg with vds := [(0, vd1)], ctxs := [(1, ⟨0, 3, .active, false⟩)], windows := [(3, ⟨1, 0, 0, 0, 64, true, true, 4, 0, 0⟩)] } }

theorem glazed_permits (c h a n b : Nat) (k : bitAt (policyField vd1 47 35) (c - 5) = true) : Permits (asking (cmd c h a n b) glazed) (cmd c h a n b) vd1 :=
  ⟨.inl (by rw [asking_part]; decide +kernel), .inr (.inr k)⟩

/-- Windows open and closed. -/
theorem witness_window_commands (h : Obligations.TenantAndDebugCommands) :
    Runs (.winOpen (cmd 0x0E 3 (64 * 2 ^ 64 + 4) 0 0)) (asking (cmd 0x0E 3 (64 * 2 ^ 64 + 4) 0 0) glazed) ∧
    Runs (.winOpen (cmd 0x0E 4 (64 * 2 ^ 64 + 4) 0 0)) (asking (cmd 0x0E 4 (64 * 2 ^ 64 + 4) 0 0) glazed) ∧
    Runs (.winClose (cmd 0x0F 3 0 0 0)) (asking (cmd 0x0F 3 0 0 0) glazed) := by
  have w : ∀ k, CmdOk (cmd 0x0E k (64 * 2 ^ 64 + 4) 0 0) → windowCtx (asking (cmd 0x0E k (64 * 2 ^ 64 + 4) 0 0) glazed) 0 = some (1, ⟨0, 3, .active, false⟩) := fun k _ => by
    rw [windowCtx, asking_ctxs]
    rfl
  have f : ∀ c, vdOf (asking c glazed) 0 = some vd1 := fun c => by
    rw [vdOf, asking_vds]
    rfl
  refine ⟨?_, ?_, ?_⟩
  · have o := cmd_ok 0x0E 3 (64 * 2 ^ 64 + 4) 0 0 (by decide)
    exact ⟨_, (h.2.2.2.2.1 _ _ 1 ⟨0, 3, .active, false⟩ vd1 (taken (g := glazed) o rfl rfl rfl rfl rfl rfl (by decide +kernel)) (w 3 o) (f _)
      (glazed_permits _ _ _ _ _ (by decide)) (by decide) (by decide) (by decide) (by decide) (by decide) (by decide) (by decide) (by decide) (by decide)).1 (by rw [asking_windows]; decide)⟩
  · have o := cmd_ok 0x0E 4 (64 * 2 ^ 64 + 4) 0 0 (by decide)
    obtain ⟨t, e, -⟩ := (h.2.2.2.2.1 _ _ 1 ⟨0, 3, .active, false⟩ vd1 (taken (g := glazed) o rfl rfl rfl rfl rfl rfl (by decide +kernel)) (w 4 o) (f _)
      (glazed_permits _ _ _ _ _ (by decide)) (by decide) (by decide) (by decide) (by decide) (by decide) (by decide) (by decide) (by decide) (by decide)).2 (by rw [asking_windows]; decide) (by rw [asking_windows]; decide +kernel)
    exact ⟨_, e⟩
  · obtain ⟨t, e, -⟩ := h.2.2.2.2.2.1 _ (cmd 0x0F 3 0 0 0) _ vd1 (taken (g := glazed) (cmd_ok 0x0F 3 0 0 0 (by decide)) rfl rfl rfl rfl rfl rfl (by decide +kernel))
      (by decide) (show AL.find? (asking (cmd 0x0F 3 0 0 0) glazed).hg.windows 3 = some ⟨1, 0, 0, 0, 64, true, true, 4, 0, 0⟩ by rw [asking_windows]; rfl)
      (f _) (glazed_permits _ _ _ _ _ (by decide))
    exact ⟨_, e⟩

theorem zero_handle (n : Nat) : CmdOk (cmd 0x10 0 0 n 0) ↔ n < 2 ^ 32 :=
  ⟨fun h => h.2.2.2.1, fun h => cmd_ok 0x10 0 0 n 0 (by decide) (by decide) (by decide) h⟩

/-- Reports of the device, without room, and of a context. -/
theorem witness_attest (h : Obligations.TenantAndDebugCommands) :
    Runs (.attest (cmd 0x10 0 0 17120 0)) (asking (cmd 0x10 0 0 17120 0) id) ∧ Runs (.attest (cmd 0x10 0 0 17119 0)) (asking (cmd 0x10 0 0 17119 0) id) ∧
    (cxH ≠ 0 → Runs (.attest (cmd 0x10 cxH 0 17120 0)) (asking (cmd 0x10 cxH 0 17120 0) tenant)) := by
  refine ⟨?_, ?_, ?_⟩
  · exact ⟨_, (h.2.2.2.2.2.2.1 _ _ (taken (g := id) ((zero_handle 17120).2 (by decide)) rfl rfl rfl rfl rfl rfl (by decide))).1 rfl (.inl rfl)
      (Nat.le_refl _)⟩
  · exact ⟨_, (h.2.2.2.2.2.2.1 _ _ (taken (g := id) ((zero_handle 17119).2 (by decide)) rfl rfl rfl rfl rfl rfl (by decide))).2.1 rfl (.inl rfl)
      (Nat.lt_succ_self _)⟩
  · exact fun z => ⟨_, (h.2.2.2.2.2.2.1 _ _ (taken_tenant (cmd_ok 0x10 cxH 0 17120 0 cxH_lt) rfl rfl rfl)).2.2.2
      (1, ⟨0, 3, .active, false⟩) vd0 z (cx_named ..) (by decide) (vd_of_tenant _)
      ⟨.inl (tenant_open _), .inr (.inr (by decide))⟩ (Nat.le_refl _)⟩

/-- The owned device with a region of number 1 loaded. -/
def traced (halted : Bool) (s : State) : State := { owned s with regions := [(5, { reg with halted := halted })] }

theorem debug_of (a n : Nat) (b : Bool) (k : partOf (traced b State.reset) (Dbg.cl (cmd 0x11 vdH a n 0)) = 0)
    (p : ((traced b State.reset).cluster (Dbg.cl (cmd 0x11 vdH a n 0))).power ≠ .gated) :
    DebugOf (asking (cmd 0x11 vdH a n 0) (traced b)) (cmd 0x11 vdH a n 0) vd0 :=
  ⟨.inl ⟨0, by simp [vdHandle, asking_vds, owned, traced, vdH, handleOf, asking_boots]⟩,
    ⟨.inl (by rw [asking_part]; cases b <;> decide +kernel), .inr (.inr (show bitAt (policyField vd0 47 35) 12 = true by decide))⟩, .inl (by decide),
    by rw [partOf, partOfStrip, asking_map]; exact k, by rw [asking_cluster]; exact p⟩

theorem debug_taken {a n code : Nat} {b : Bool} (o : CmdOk (cmd 0x11 vdH a n 0)) (k : cmdCode (cmd 0x11 vdH a n 0) = code) :
    Taken (asking (cmd 0x11 vdH a n 0) (traced b)) (cmd 0x11 vdH a n 0) code false :=
  taken (g := traced b) o k rfl rfl (by cases b <;> decide) rfl rfl (by cases b <;> decide +kernel)

theorem debug_region {a n : Nat} {b : Bool} (k : Dbg.region (cmd 0x11 vdH a n 0) = 1) : DebugRegion (asking (cmd 0x11 vdH a n 0) (traced b)) (cmd 0x11 vdH a n 0) vd0 5 := by
  simp only [DebugRegion, regionsOf, running, asking_region, asking_regions, k]
  cases b <;> decide +kernel

theorem dbg_ok {a : Nat} (n : Nat) (h : a < 2 ^ 192) (l : n < 2 ^ 32) : CmdOk (cmd 0x11 vdH a n 0) := cmd_ok 0x11 vdH a n 0 vdH_lt (by decide) h l

/-- A comparator set and cleared; a region halted, resumed, stepped, read and released; a policy without debug. -/
theorem witness_debug (h : Obligations.TenantAndDebugCommands) :
    Runs (.debugSet (cmd 0x11 vdH 1 0 0)) (asking (cmd 0x11 vdH 1 0 0) (traced false)) ∧
    Runs (.debugClear (cmd 0x11 vdH 2 0 0)) (asking (cmd 0x11 vdH 2 0 0) (traced false)) ∧
    Runs (.debugHalt (cmd 0x11 vdH 0x1000005 0 0)) (asking (cmd 0x11 vdH 0x1000005 0 0) (traced false)) ∧
    Runs (.debugResume (cmd 0x11 vdH 0x1000004 0 0)) (asking (cmd 0x11 vdH 0x1000004 0 0) (traced true)) ∧
    Runs (.debugStep (cmd 0x11 vdH 0x1000003 0 0)) (asking (cmd 0x11 vdH 0x1000003 0 0) (traced true)) ∧
    Runs (.debugRead (cmd 0x11 vdH 0x1000006 64 0)) (asking (cmd 0x11 vdH 0x1000006 64 0) (traced true)) ∧
    Runs (.debugRelease (cmd 0x11 vdH 0x1000007 0 0)) (asking (cmd 0x11 vdH 0x1000007 0 0) (traced true)) := by
  obtain ⟨-, -, -, -, -, -, -, -, comp, region, -⟩ := h
  refine ⟨?_, ?_, ?_, ?_, ?_, ?_, ?_⟩
  · obtain ⟨t, _, e, -⟩ := (comp _ _ vd0 (debug_of 1 0 false (by decide) (by decide)) (by decide)).1 (debug_taken (dbg_ok 0 (by decide) (by decide)) rfl) (by decide)
    exact ⟨_, e⟩
  · obtain ⟨t, e, -⟩ := (comp _ _ vd0 (debug_of 2 0 false (by decide) (by decide)) (by decide)).2 (debug_taken (dbg_ok 0 (by decide) (by decide)) rfl)
    exact ⟨_, e⟩
  · exact ⟨_, (region _ _ vd0 5 (debug_of 0x1000005 0 false (by decide) (by decide)) (debug_region (by decide))).1
      (debug_taken (dbg_ok 0 (by decide) (by decide)) rfl) |>.1 (by rw [asking_region]; rfl)⟩
  · obtain ⟨t, e, -⟩ := (region _ _ vd0 5 (debug_of 0x1000004 0 true (by decide) (by decide)) (debug_region (by decide))).2.1 (debug_taken (dbg_ok 0 (by decide) (by decide)) rfl)
      (by rw [asking_region]; rfl)
    exact ⟨_, e⟩
  · obtain ⟨t, e, -⟩ := (region _ _ vd0 5 (debug_of 0x1000003 0 true (by decide) (by decide)) (debug_region (by decide))).2.2.1 ⟨0, .el, 0⟩
      (debug_taken (dbg_ok 0 (by decide) (by decide)) rfl) ⟨.el, by decide, by decide, by decide⟩ (by rw [asking_region]; rfl)
    exact ⟨_, e⟩
  · exact ⟨_, (region _ _ vd0 5 (debug_of 0x1000006 64 true (by decide) (by decide)) (debug_region (by decide))).2.2.2.1 ⟨0, .el, 0⟩
      (debug_taken (dbg_ok 64 (by decide) (by decide)) rfl) ⟨.el, by decide, by decide, by decide⟩ (by rw [asking_cluster]; decide)
      (by decide) |>.1 (by decide) (Nat.le_refl _)⟩
  · obtain ⟨t, e, -⟩ := (region _ _ vd0 5 (debug_of 0x1000007 0 true (by decide) (by decide)) (debug_region (by decide))).2.2.2.2
      (debug_taken (dbg_ok 0 (by decide) (by decide)) rfl)
    exact ⟨_, e⟩

/-- A virtual device whose policy permits every command but no debug. -/
def undebugged (s : State) : State := { s with hg := { s.hg with vds := [(0, ⟨0, 0, 1, List.replicate 7 0xFF, 0⟩)] } }

/-- Debug without permission; power gating of an open partition, and of one that is not. -/
theorem witness_power_command (h : Obligations.TenantAndDebugCommands) :
    Runs (.debugClear (cmd 0x11 vdH 2 0 0)) (asking (cmd 0x11 vdH 2 0 0) undebugged) ∧
    Runs (.power (cmd 0x12 0 1 0 0)) (asking (cmd 0x12 0 1 0 0) tenant) ∧ Runs (.power (cmd 0x12 0 1 0 0)) (asking (cmd 0x12 0 1 0 0) id) := by
  obtain ⟨-, -, -, -, -, -, -, -, -, -, no, power⟩ := h
  refine ⟨?_, ?_, ?_⟩
  · exact ⟨_, no _ (.debugClear _) 0x211 (by simp) _ ⟨0, 0, 1, List.replicate 7 0xFF, 0⟩
      (taken (g := undebugged) (cmd_ok 0x11 vdH 2 0 0 vdH_lt) rfl rfl rfl rfl rfl rfl (by decide +kernel))
      ⟨⟨0, by simp [vdHandle, asking_vds, undebugged, vdH, handleOf, asking_boots]⟩, .inl (by rw [asking_part]; decide +kernel), .inr (.inr (by decide))⟩
      (by decide)⟩
  · exact ⟨_, (power _ _ (taken_tenant (cmd_ok 0x12 0 1 0 0 (by decide)) rfl rfl rfl)).1 (by rw [asking_part]; decide +kernel) (by rw [asking_part]; decide +kernel)⟩
  · exact ⟨_, (power _ _ (taken (g := id) (cmd_ok 0x12 0 1 0 0 (by decide)) rfl rfl rfl rfl rfl rfl (by decide))).2 (by rw [asking_part]; decide +kernel)⟩

/-! ### The whole machine -/

/-- The instruction of the word 0x00001010. -/
abbrev addWord : Instr := .add ⟨.keep, .left, .right, .arc 0, .arc 1⟩ false false .i32

/-- A line unit without a grant, in a region that may have one. -/
def ungranted : State := { (State.reset.withFetchWord 32 0xA0001010).modUnit ⟨0, .ln, 0⟩ (fun u => { u with grant := none }) with
  regions := [(State.reset.nextId, { placedRegion ⟨0, .ln, 0⟩ with rcb := BitVec.ofNat 2048 (2 ^ 296) })] }

/-- A node word issues; a heavy unit is granted; a region without its code does not issue; an event happens. -/
theorem witness_step (h : Obligations.AStepRunsTheDecodedInstruction) :
    (∃ t, step (State.reset.withFetchWord 32 0x00001010) = .next t) ∧
    (∃ t, step ungranted = .next t) ∧
    (∃ t, step { State.reset.withFetchWord 32 0x00001010 with regions := [] } = .next t) ∧
    step { State.reset with agenda := [.event .timeSyncLoss] } = exec .timeSyncLoss { State.reset with agenda := [] } := by
  obtain ⟨run, grant, ev, wait, -⟩ := h
  refine ⟨?_, ?_, ?_, ?_⟩
  · obtain ⟨-, -, -, -, -, go, -⟩ := run (State.reset.withFetchWord 32 0x00001010) ⟨0, .el, 0⟩ [] (placedFiring State.reset.nextId 0) [] addWord
      rfl rfl (by decide +kernel) (by decide +kernel) (show decode 0x00001010 = .ok addWord from rfl) (fun k => absurd k (by decide))
    have test : (match exec addWord (takeHead ({ State.reset.withFetchWord 32 0x00001010 with agenda := [] }.modUnit ⟨0, .el, 0⟩ pullReady)
        ⟨0, .el, 0⟩ (placedFiring State.reset.nextId 0) []) with | .next t => t.cur.isNone | _ => false) = true := by decide +kernel
    split at test
    case h_2 => exact absurd test (by decide)
    rename_i t e
    exact ⟨t, go t e (by simpa using test)⟩
  · exact ⟨_, (grant ungranted ⟨0, .ln, 0⟩ [] (placedFiring State.reset.nextId 0xA0) [] rfl rfl (by decide)).1 (by decide +kernel)
      (by decide +kernel) (by decide +kernel) (by decide +kernel)⟩
  · exact ⟨_, wait { State.reset.withFetchWord 32 0x00001010 with regions := [] } ⟨0, .el, 0⟩ [] _ [] rfl rfl
      (fun k => absurd k (by decide)) (.inl (by decide +kernel))⟩
  · exact ev _ _ _ rfl

/-- A cluster whose banks are gated. -/
def darkCl : Cluster := { Cluster.empty with bankA := { Bank.none with gated := true }, bankB := { Bank.none with gated := true } }

/-- A device with little to do: the clock source lost, some clusters, some notices. -/
def quietWith (l : AL Nat Cluster) (n : List (Nat × Nat)) : State := { State.reset with
  parts := []
  clusters := l
  hg := { State.reset.hg with notifies := n }
  out := { State.reset.out with timeLost := true } }

/-- The same with every bank gated. -/
def darkList : AL Nat Cluster := (List.range 4096).map fun k => (k, darkCl)
def dark (n : List (Nat × Nat)) : State := quietWith darkList n

theorem drainWhere_idle (s : State) (p : Nat → HeldStore → Bool) (h : ∀ c ∈ s.clusters, c.2.writeQ = []) : drainWhere s p = s := by
  have e : (s.clusters.flatMap fun c => c.2.writeQ.filter (p c.1)) = [] :=
    List.flatMap_eq_nil_iff.2 fun c m => by rw [h c m, List.filter_nil]
  rw [drainWhere, e]
  rfl

/-- The same after time has passed. -/
def later (l : AL Nat Cluster) (n : List (Nat × Nat)) : State :=
  { quietWith l n with clock := (quietWith l n).clock + Config.elapsed (quietWith l n).nonce % 9600, nonce := (quietWith l n).nonce + 1 }

theorem tick_quiet (l : AL Nat Cluster) (n : List (Nat × Nat)) (h : ∀ c ∈ l, c.2.writeQ = []) : tick (quietWith l n) = later l n :=
  drainWhere_idle (later l n) (fun _ e => e.un && decide (e.since + 4096 ≤ (later l n).clock)) h

theorem quiet_candidates (l : AL Nat Cluster) (n : List (Nat × Nat)) (k : Nat) (m : Move) :
    m ∈ candidates (later l n) k ↔
      m ∈ l.flatMap clusterMoves ∨ m ∈ n.map (fun q => Move.event (.queueNotify q.1 q.2)) ∨ m = .timeLost ∨ m ∈ powerMoves (k % 4096) := by
  simp [candidates, later, quietWith, deviceMoves, State.reset, Headgate.reset, Outside.reset, bits]

theorem get_range {α : Type} (d v : α) (k : Nat) : ∀ n a, a ≤ k → k < a + n → AL.get d ((List.range' a n).map fun k => (k, v)) k = v := by
  intro n
  induction n with
  | zero => intro a h l; omega
  | succ n ih =>
    intro a h l
    by_cases e : a = k
    · simp [List.range'_succ, AL.get, AL.find?, e]
    · have := ih (a + 1) (by omega) (by omega)
      simpa [List.range'_succ, AL.get, AL.find?, e] using this

theorem dark_idle : ∀ c ∈ darkList, c.2.writeQ = [] := fun c m => by
  rw [darkList, List.mem_map] at m
  obtain ⟨k, -, rfl⟩ := m
  rfl

theorem tick_dark (n : List (Nat × Nat)) : tick (dark n) = later darkList n := by rw [dark, tick_quiet _ _ dark_idle]

theorem dark_cluster (n : List (Nat × Nat)) (k : Nat) (h : k < 4096) : (later darkList n).cluster k = darkCl := by
  have := get_range Cluster.empty darkCl k 4096 0 (Nat.zero_le _) (by omega)
  simpa only [State.cluster, later, quietWith, darkList, List.range_eq_range'] using this

/-- Such a device can only take a notice that waits. -/
theorem dark_moves (q : List (Nat × Nat)) (m : Move) (hm : m ∈ candidates (later darkList q) (Config.choose (2 * (later darkList q).nonce))) :
    possible (later darkList q) m = false ∨ m ∈ q.map (fun q => Move.event (.queueNotify q.1 q.2)) := by
  have gate : ∀ k, mayGate (later darkList q) k = false := fun k => by
    have p : ∀ j, ((later darkList q).part j).powerEn = false := fun _ => rfl
    simp only [mayGate, p, Bool.false_and]
  have bank : ∀ k, k < 4096 → ∀ b, bankOf (later darkList q) k b = { Bank.none with gated := true } := fun k l b => by
    rw [bankOf, dark_cluster q k l]
    split <;> rfl
  rcases (quiet_candidates _ _ _ m).1 hm with hc | hc | rfl | hc
  · obtain ⟨p, hp, hm⟩ := List.mem_flatMap.1 hc
    obtain ⟨k, hk, rfl⟩ := List.mem_map.1 (by rw [darkList] at hp; exact hp)
    have n := bank k (List.mem_range.1 hk)
    simp [clusterMoves, darkCl, Cluster.empty] at hm
    rcases hm with rfl | rfl
    · simp [possible, attempt, show exec (.claimClearComplete k 0) = execClaimClearComplete k 0 from rfl, execClaimClearComplete, runWork, runEvent, Bank.none, n 0]
    · simp [possible, attempt, show exec (.claimClearComplete k 1) = execClaimClearComplete k 1 from rfl, execClaimClearComplete, runWork, runEvent, Bank.none, n 1]
  · exact .inr hc
  · exact .inl (by simp [possible, attempt, execTimeSyncLoss, runEvent, later, quietWith])
  · have l : Config.choose (2 * (later darkList q).nonce) % 4096 < 4096 := Nat.mod_lt _ (by decide)
    have n := bank _ l
    simp only [powerMoves, List.mem_cons, List.not_mem_nil, or_false] at hc
    rcases hc with rfl | rfl | rfl
    · simp [possible, attempt, execClusterPowerGate, runEvent, gate]
    · simp [possible, attempt, execBankPowerGate, runEvent, Bank.none, n 0]
    · simp [possible, attempt, execBankPowerGate, runEvent, Bank.none, n 1]

theorem dark_due (n : List (Nat × Nat)) : dueMove (dark n) = none ∧ dueMove (later darkList n) = none := ⟨rfl, rfl⟩

theorem can_notify : possible (later darkList [(0, 0)]) (.event (.queueNotify 0 0)) = true := by
  have e : execQueueNotify 0 0 (later darkList [(0, 0)]) = .next (notify { later darkList [(0, 0)] with hg := { (later darkList [(0, 0)]).hg with
      notifies := [(0, 0)].erase (0, 0) } } 0 0) := rfl
  simp only [possible, attempt, show exec (.queueNotify 0 0) = execQueueNotify 0 0 from rfl, e]

theorem dark_nothing : ownMove (later darkList []) = none := by
  rw [ownMove, List.filter_eq_nil_iff.2 fun m hm => ?_]
  · rfl
  · rcases dark_moves _ m hm with e | e
    · simp [e]
    · simp at e

theorem dark_notice : ownMove (later darkList [(0, 0)]) = some (.event (.queueNotify 0 0)) := by
  rw [ownMove]
  generalize e : List.filter (possible (later darkList [(0, 0)]))
    (candidates (later darkList [(0, 0)]) (Config.choose (2 * (later darkList [(0, 0)]).nonce))) = L
  have only : ∀ m ∈ L, m = Move.event (.queueNotify 0 0) := fun m hm => by
    rw [← e, List.mem_filter] at hm
    rcases dark_moves _ m hm.1 with f | f
    · simp [f] at hm
    · simpa using f
  have some' : Move.event (.queueNotify 0 0) ∈ L := by
    rw [← e, List.mem_filter]
    exact ⟨(quiet_candidates _ _ _ _).2 (.inr (.inl (by simp))), can_notify⟩
  have lt := Nat.mod_lt (Config.choose (2 * (later darkList [(0, 0)]).nonce + 1)) (List.length_pos_of_mem some')
  show L[Config.choose (2 * (later darkList [(0, 0)]).nonce + 1) % L.length]? = _
  rw [List.getElem?_eq_getElem lt, only _ (List.getElem_mem lt)]

/-- Nothing to do: the step only lets time pass. One notice: the step takes it. A slot's end: the step takes it at once. -/
theorem witness_idle (h : Obligations.AStepRunsTheDecodedInstruction) :
    step (dark []) = .next (tick (dark [])) ∧ step (dark [(0, 0)]) = exec (.queueNotify 0 0) (tick (dark [(0, 0)])) ∧
    step (slotted reg none 0x8002) = exec (.slotBoundary 0) (slotted reg none 0x8002) := by
  refine ⟨((h.2.2.2.2 (dark []) rfl).2 (dark_due _).1).1 ?_, ((h.2.2.2.2 (dark [(0, 0)]) rfl).2 (dark_due _).1).2 _ ?_,
    (h.2.2.2.2 (slotted reg none 0x8002) rfl).1 _ (by decide +kernel)⟩
  · rw [tick_dark, (dark_due _).2, dark_nothing]
    rfl
  · rw [tick_dark, (dark_due _).2, dark_notice]
    rfl

/-- An element instruction that runs in a region that keeps no log. -/
theorem witness_element_frame (h : Obligations.ElementInstructionsChangeNothingElse) :
    let s := hand (fire .el (plain 1 .i32) (plain 2 .i32)) id
    let i : Instr := .add n2 false false .i32
    ∃ t, exec i s = .next t ∧
      let c := fire .el (plain 1 .i32) (plain 2 .i32)
      (t = s ∨ (∃ p f, t = takeFault s.base p f ∨ t = takeFault (countRetired s.base c 0) p f ∨
        (f.cause = .poolError ∨ f.cause = .memError) ∧ logging s c.f.rid = true ∧ t = faultOrRollback (countRetired s.base c 0) p f) ∨
      NodeFrame 0 s.base c t) := by
  intro s i
  have test : (match exec i s with | .next _ => true | _ => false) = true := by decide +kernel
  split at test
  case h_2 => exact absurd test (by decide)
  rename_i t e
  obtain ⟨w, hw⟩ : ∃ w, encode i = some w := ⟨_, rfl⟩
  have z : w.toNat / 2 ^ 24 = 0 := by
    have : (encode i).map (fun w => w.toNat / 2 ^ 24) = some 0 := by decide +kernel
    rw [hw] at this
    exact Option.some.inj this
  have r := h i w s _ t hw (by omega) (by omega) rfl (fun k => absurd k (by decide +kernel)) e
  rw [z] at r
  exact ⟨t, e, r⟩

/-- A step from reset with a node placed by hand keeps memory canonical. -/
theorem witness_memory_invariant (h : Obligations.EveryStepKeepsMemoryCanonical) (a : Obligations.AStepRunsTheDecodedInstruction) :
    ∃ t, step (State.reset.withFetchWord 32 0x00001010) = .next t ∧ t.MemOk := by
  obtain ⟨t, e⟩ := (witness_step a).1
  exact ⟨t, e, h _ _ rfl e⟩

/-- An instruction that is well formed, and whose word decodes (R150). -/
theorem witness_encoding : addWord.WellFormed ∧ decode 0x00001010 = .ok addWord ∧ encode addWord = some 0x00001010 := by
  refine ⟨by decide, rfl, rfl⟩

/-! ### Results of single firings

Expected values are worked out by hand from Tables 07-3 to 07-8. -/

/-- The values that a node on both sides sends to the sink. -/
def sends (i : Instr) (a b : Payload) : List Payload :=
  match exec i (hand (fire .el a b) id) with
  | .next t => t.net.map (·.pay)
  | _ => []

theorem test_add_wraps : sends (.add n2 false false .i32) (plain 0x7FFFFFFF .i32) (plain 1 .i32) = [plain 0x80000000 .i32] := by decide +kernel

theorem test_add_saturates : sends (.add n2 false true .i32) (plain 0x7FFFFFFF .i32) (plain 1 .i32) = [plain 0x7FFFFFFF .i32] := by decide +kernel

theorem test_sub_wraps : sends (.sub n2 false false .i64) (plain 0 .i64) (plain 1 .i64) = [plain 0xFFFFFFFFFFFFFFFF .i64] := by decide +kernel

theorem test_sub_saturates_unsigned : sends (.sub n2 true true .i64) (plain 0 .i64) (plain 1 .i64) = [plain 0 .i64] := by decide +kernel

theorem test_mul_lanes : sends (.mul n2 false false .i16x4) (plain 0x0002000380007FFF .i16x4) (plain 0x0003000400020002 .i16x4) =
    [plain 0x0006000C0000FFFE .i16x4] := by decide +kernel

theorem test_sar_sign : sends (.sar n2 .i32) (plain 0x80000000 .i32) (plain 4 .i32) = [plain 0xF8000000 .i32] := by decide +kernel

theorem test_cmp_signed : sends (.cmp n2 true .lt) (plain 0xFFFFFFFFFFFFFFFF .i64) (plain 0 .i64) = [plain 1 .control] := by decide +kernel

theorem test_fadd : sends (.faddF32 n2 false .ne) (plain 0x3F800000 .f32) (plain 0x3F800000 .f32) = [plain 0x40000000 .f32] := by decide +kernel

theorem test_fmul : sends (.fmulF32 n2 false .ne) (plain 0x40000000 .f32) (plain 0x40400000 .f32) = [plain 0x40C00000 .f32] := by decide +kernel

theorem test_cmp_unsigned_extends_sign : sends (.cmp n2 true .c6) (plain 0x80000000 .i32) (plain 0x80000001 .i64) = [plain 0 .control] := by decide +kernel

theorem test_mov_masks : sends (.mov n2 .i32) (plain 0xFFFFFFFF00000001 .i32) (plain 0 .i64) = [plain 1 .i32] := by decide +kernel

/-- The digest of the empty message, as FIPS 202's example values give it (log 17). -/
theorem test_sha3_of_nothing :
    sha3 [] = 0x4f0d558e0d16bfb47db4a26313871c32a3a98eebb715e9961fc94aaaa501ac585244c2e857d10017d4f5e845ba7630c := by decide +kernel

end Sys2Proof.Tests
end

/-! ## The frame of the element instructions

What an element instruction of Tables 07-1 to 07-10 but `fcomp` may change (O58): each shared operation that reads an operand or
sends a token keeps a frame, frames compose along a meaning, and every such instruction is a node whose meaning does nothing
else. -/

namespace Sys2Proof.Proofs

open Sys2Proof Sys2Proof.Machine Sys2Proof.Laws

/-! ### Computations that may stop -/

theorem ok_of_bind {α β : Type} {x : Res α} {g : α → Res β} {r : β} (h : (x >>= g) = .ok r) :
    ∃ a, x = .ok a ∧ g a = .ok r := by
  cases x with
  | ok a => exact ⟨a, rfl, h⟩
  | error e => cases h

/-- A choice answers what one of its branches does, whatever it chooses by. -/
theorem of_ite_eq {α : Type} {p : Prop} [Decidable p] {x y z : α} (h : (if p then x else y) = z) : x = z ∨ y = z := by
  split at h
  · exact .inl h
  · exact .inr h

/-! ### The frame of a firing in progress -/

/-- The interval log at the firing's cluster has room for `k` more undo entries, where its region keeps one (R361). -/
def HasRoom (c : Cur) (k : Nat) (s : State) : Prop := logging s c.f.rid = true → k ≤ ilogRoom s c.u.cl

theorem HasRoom.mono {c : Cur} {j k : Nat} {s : State} (h : HasRoom c k s) (hjk : j ≤ k) : HasRoom c j s :=
  fun hl => Nat.le_trans hjk (h hl)

/-- The fields of a frame that no token changes: all but its copies, their slots and the stamps of these (R51, R52). -/
def frameHeader (f : Frame) : Frame := { f with copies := [], slots := [], stamps := [] }

/-- What a firing may change up to some point of its meaning, with at most `k` undo entries recorded: the clauses of `NodeFrame`,
before the firing is counted as one of a retired opcode. -/
structure FiringFrame (c : Cur) (k : Nat) (s t : State) : Prop where
  device : SameDevice s t
  memory : SameMemory s { t with poison := s.poison }
  poison : ∀ l ∈ t.poison, l ∈ s.poison
  healed : ∀ l ∈ s.poison, l ∉ t.poison → ∃ g i, l = frameLine s c.f.rid g c.u.cl i
  nextId : t.nextId = s.nextId
  nonce : t.nonce = s.nonce
  issued : t.issued = s.issued
  net : TokensAdded s t
  otherUnits : ∀ u, u ≠ c.u → t.unit u = s.unit u
  ownUnit : { t.unit c.u with ovDiscard := 0 } = { s.unit c.u with ovDiscard := 0 }
  otherClusters : ∀ cl, cl ≠ c.u.cl → t.cluster cl = s.cluster cl
  ownCluster : { t.cluster c.u.cl with undo := [] } = { s.cluster c.u.cl with undo := [] }
  otherFrames : ∀ r d f, r ≠ c.f.rid → t.frame r d f = s.frame r d f
  ownFrames : ∀ d f, frameHeader (t.frame c.f.rid d f) = frameHeader (s.frame c.f.rid d f)
  room : ilogRoom s c.u.cl ≤ ilogRoom t c.u.cl + k

namespace FiringFrame

variable {c : Cur} {j k : Nat} {s t v : State}

theorem refl (c : Cur) (s : State) : FiringFrame c 0 s s where
  device := ⟨rfl, rfl, rfl, rfl, rfl, rfl, rfl, rfl, rfl, rfl⟩
  memory := ⟨rfl, rfl, rfl, rfl⟩
  poison _ h := h
  healed _ h g := absurd h g
  nextId := rfl
  nonce := rfl
  issued := rfl
  net := ⟨[], (List.append_nil _).symm⟩
  otherUnits _ _ := rfl
  ownUnit := rfl
  otherClusters _ _ := rfl
  ownCluster := rfl
  otherFrames _ _ _ _ := rfl
  ownFrames _ _ := rfl
  room := Nat.le_refl _

theorem mono (h : FiringFrame c j s t) (hjk : j ≤ k) : FiringFrame c k s t :=
  { h with room := Nat.le_trans h.room (Nat.add_le_add_left hjk _) }

/-- A place in a frame's copy depends on the partition word of its cluster only. -/
theorem frameLine_eq (h : FiringFrame c k s t) (g : Tag) (i : Nat) :
    frameLine t c.f.rid g c.u.cl i = frameLine s c.f.rid g c.u.cl i := by
  have hp : (t.cluster c.u.cl).pword = (s.cluster c.u.cl).pword :=
    (congrArg Cluster.pword h.ownCluster :)
  simp only [frameLine, copyOffset, frameClassAt, hp]

theorem trans (h : FiringFrame c j s t) (g : FiringFrame c k t v) : FiringFrame c (j + k) s v where
  device := by
    obtain ⟨h1, h2, h3, h4, h5, h6, h7, h8, h9, h10⟩ := h.device
    obtain ⟨g1, g2, g3, g4, g5, g6, g7, g8, g9, g10⟩ := g.device
    exact ⟨g1.trans h1, g2.trans h2, g3.trans h3, g4.trans h4, g5.trans h5, g6.trans h6, g7.trans h7, g8.trans h8, g9.trans h9,
      g10.trans h10⟩
  memory := by
    obtain ⟨hm, he, _, hr⟩ := h.memory
    obtain ⟨gm, ge, _, gr⟩ := g.memory
    exact ⟨gm.trans hm, ge.trans he, rfl, gr.trans hr⟩
  poison l hl := h.poison l (g.poison l hl)
  healed l hs hv := by
    by_cases ht : l ∈ t.poison
    · obtain ⟨a, i, e⟩ := g.healed l ht hv
      exact ⟨a, i, e.trans (h.frameLine_eq a i)⟩
    · exact h.healed l hs ht
  nextId := g.nextId.trans h.nextId
  nonce := g.nonce.trans h.nonce
  issued := g.issued.trans h.issued
  net := by
    obtain ⟨l, hl⟩ := h.net
    obtain ⟨m, hm⟩ := g.net
    exact ⟨l ++ m, by rw [hm, hl, List.append_assoc]⟩
  otherUnits u hu := (g.otherUnits u hu).trans (h.otherUnits u hu)
  ownUnit := g.ownUnit.trans h.ownUnit
  otherClusters cl hcl := (g.otherClusters cl hcl).trans (h.otherClusters cl hcl)
  ownCluster := g.ownCluster.trans h.ownCluster
  otherFrames r d f hr := (g.otherFrames r d f hr).trans (h.otherFrames r d f hr)
  ownFrames d f := (g.ownFrames d f).trans (h.ownFrames d f)
  room := by
    have h1 := h.room
    have h2 := g.room
    omega

theorem regions_eq (h : FiringFrame c k s t) : t.regions = s.regions := by
  obtain ⟨_, _, _, hr, _⟩ := h.device
  exact hr

theorem logging_eq (h : FiringFrame c k s t) : logging t c.f.rid = logging s c.f.rid := by
  simp only [logging, State.region, h.regions_eq]

/-- The room that is left once `j` entries may have been recorded. -/
theorem hasRoom (h : FiringFrame c j s t) (hr : HasRoom c (j + k) s) : HasRoom c k t := by
  intro hl
  have h1 := hr (h.logging_eq ▸ hl)
  have h2 := h.room
  omega

end FiringFrame

section

variable {c : Cur} {s t : State}

/-! ### The changes a token makes -/

theorem post_frame (c : Cur) (s : State) (f : Flit) : FiringFrame c 0 s (Machine.post s f) := by
  unfold Machine.post
  split
  · exact FiringFrame.refl c s
  · exact { FiringFrame.refl c s with net := ⟨_, rfl⟩ }

theorem countDiscard_frame (c : Cur) (s : State) : FiringFrame c 0 s (countDiscard s c.u) :=
  { FiringFrame.refl c s with
    otherUnits := fun u hu => by simp only [countDiscard, unit_modUnit, if_neg (Ne.symm hu)]
    ownUnit := by simp only [countDiscard, unit_modUnit, if_true] }

theorem cleanCopy_frame (c : Cur) (s : State) (g : Tag) : FiringFrame c 0 s (cleanCopy s c.f.rid g c.u.cl) :=
  { FiringFrame.refl c s with
    poison := fun l hl => (List.mem_filter.1 hl).1
    healed := fun l hs ht => by
      simp only [cleanCopy, List.mem_filter, hs, true_and, Bool.not_eq_true', Bool.not_eq_false, List.any_eq_true,
        beq_iff_eq] at ht
      obtain ⟨i, _, e⟩ := ht
      exact ⟨g, 8 * i, e⟩ }

/-- Setting a frame of the firing's region with the header that it had. -/
theorem setFrame_frame {g : Tag} {f : Frame} (h : frameHeader f = frameHeader (frameAt s c.f.rid g)) :
    FiringFrame c 0 s (s.setFrame c.f.rid g.die g.frame f) :=
  { FiringFrame.refl c s with
    otherFrames := fun r d k hr => by
      rw [frame_setFrame, if_neg fun e => hr (Prod.mk.inj e).1.symm]
    ownFrames := fun d k => by
      rw [frame_setFrame]
      split
      next e =>
        simp only [Prod.mk.injEq] at e
        obtain ⟨_, rfl, rfl⟩ := e
        exact h
      next => rfl }

/-- One undo entry at the firing's cluster (R361). -/
theorem pushUndo_frame (c : Cur) (s : State) (e : Nat × Nat × Undo) :
    FiringFrame c 1 s (s.modCluster c.u.cl fun k => { k with undo := e :: k.undo }) :=
  { FiringFrame.refl c s with
    otherClusters := fun cl hcl => by rw [cluster_modCluster, if_neg (Ne.symm hcl)]
    ownCluster := by rw [cluster_modCluster, if_pos rfl]
    room := by
      simp only [ilogRoom, cluster_modCluster, if_true, List.length_cons]
      omega }

/-- With room in the log an undo entry is recorded and nothing is committed. -/
theorem logUndo_frame (h : HasRoom c 1 s) (u : Undo) : FiringFrame c 1 s (logUndo s c.f.rid c.u.cl u) := by
  unfold logUndo
  split
  next hl =>
    rw [if_neg (Nat.ne_of_gt (h hl))]
    exact pushUndo_frame c s _
  next => exact (FiringFrame.refl c s).mono (Nat.zero_le 1)

theorem changeFrame_frame (h : HasRoom c 1 s) {g : Tag} {f : Frame} (hf : frameHeader f = frameHeader (frameAt s c.f.rid g)) :
    FiringFrame c 1 s (changeFrame s c.f.rid c.u.cl g f) := by
  have hu := logUndo_frame h (.frame g.die g.frame (frameAt s c.f.rid g))
  exact hu.trans (setFrame_frame (hf.trans (hu.ownFrames g.die g.frame).symm))

/-- More copies leave the header. -/
theorem frameHeader_copiedAt (f : Frame) (cls : List Nat) : frameHeader (f.copiedAt cls) = frameHeader f := rfl

theorem ensureCopy_frame {g : Tag} (h : ensureCopy s c.f.rid g c.u.cl = .ok t) : FiringFrame c 0 s t := by
  unfold ensureCopy at h
  simp only at h
  split at h
  · cases h
    exact FiringFrame.refl c s
  · split at h
    · cases h
      exact (cleanCopy_frame c s g).trans (setFrame_frame (frameHeader_copiedAt _ _))
    · cases h

theorem readSlot_frame {g : Tag} {slot : Nat} {v : Word} (h : readSlot s c.f.rid g c.u.cl slot = .ok (v, t)) :
    FiringFrame c 0 s t := by
  obtain ⟨_, _, h⟩ := ok_of_bind h
  obtain ⟨s1, h1, h⟩ := ok_of_bind h
  obtain ⟨_, _, h⟩ := ok_of_bind h
  cases h
  exact ensureCopy_frame h1

theorem writeSlot_frame (hr : HasRoom c 1 s) {g : Tag} {slot seq : Nat} {v : Word}
    (h : writeSlot s c.f.rid g c.u.cl slot v seq = .ok t) : FiringFrame c 1 s t := by
  obtain ⟨_, _, h⟩ := ok_of_bind h
  obtain ⟨s1, h1, h⟩ := ok_of_bind h
  obtain ⟨_, _, h⟩ := ok_of_bind h
  have f1 : FiringFrame c 0 s s1 := ensureCopy_frame h1
  cases h
  split
  · exact f1.trans (changeFrame_frame (f1.hasRoom hr) (by rfl))
  · exact f1.mono (Nat.zero_le 1)

/-! ### Operands and destinations -/

theorem readSrc_frame {a : Src} {o : Opd} (h : readSrc s c a = .ok (o, t)) : FiringFrame c 0 s t := by
  cases a with
  | fs k =>
    obtain ⟨⟨v, s1⟩, h1, h⟩ := ok_of_bind h
    cases h
    exact readSlot_frame h1
  | _ =>
    cases h
    exact FiringFrame.refl c s

theorem sendArc_frame {k : Nat} {p : Payload} {g : Tag} (h : sendArc s c k p g = .ok t) : FiringFrame c 0 s t := by
  unfold sendArc at h
  simp only at h
  split at h
  · split at h
    · cases h
    · cases h
      exact post_frame c s _
  · cases h
    exact FiringFrame.refl c s

theorem sendRet_frame {p : Payload} {g : Tag} (h : sendTo s c .ret p g = .ok t) : FiringFrame c 0 s t := by
  simp only [sendTo] at h
  split at h
  · split at h
    · cases h
    · cases h
      exact post_frame c s _
  · cases h
    exact FiringFrame.refl c s

/-- Only a frame slot takes room in the interval log. -/
theorem sendTo_frame (hr : HasRoom c 1 s) {d : Dst} {p : Payload} {g : Tag} (h : sendTo s c d p g = .ok t) :
    FiringFrame c 1 s t := by
  cases d with
  | arc k => exact (sendArc_frame h).mono (Nat.zero_le 1)
  | slot =>
    simp only [sendTo] at h
    split at h
    · cases h
    · exact writeSlot_frame hr h
  | ret => exact (sendRet_frame h).mono (Nat.zero_le 1)
  | term =>
    cases h
    exact (post_frame c s _).mono (Nat.zero_le 1)
  | none =>
    cases h
    exact (FiringFrame.refl c s).mono (Nat.zero_le 1)

theorem sendBoth_frame (hr : HasRoom c 2 s) {d e : Dst} {p : Payload} {g : Tag} (h : sendBoth s c d e p g = .ok t) :
    FiringFrame c 2 s t := by
  obtain ⟨s1, h1, h⟩ := ok_of_bind h
  have f1 := sendTo_frame (hr.mono (Nat.le_succ 1)) h1
  split at h
  · cases h
    exact f1.mono (Nat.le_succ 1)
  · exact f1.trans (sendTo_frame (f1.hasRoom hr) h)

theorem finish_frame (hr : HasRoom c 2 s) {n : Nd} {b p : Payload} (h : finish s c n b p = .ok t) : FiringFrame c 2 s t := by
  obtain ⟨_, _, h⟩ := ok_of_bind h
  exact sendBoth_frame hr h

theorem finish3_frame (hr : HasRoom c 2 s) {n : N3} {b p : Payload} (h : finish3 s c n b p = .ok t) : FiringFrame c 2 s t := by
  obtain ⟨_, _, h⟩ := ok_of_bind h
  exact (sendTo_frame (hr.mono (Nat.le_succ 1)) h).mono (Nat.le_succ 1)

/-- A result and perhaps a second one on the other destination. -/
theorem finishPair_frame (hr : HasRoom c 2 s) {n : Nd} {b p : Payload} {q : Option Payload}
    (h : finishPair s c n b (some p) q = .ok t) : FiringFrame c 2 s t := by
  obtain ⟨_, _, h⟩ := ok_of_bind h
  obtain ⟨s1, h1, h⟩ := ok_of_bind h
  have f1 := sendTo_frame (hr.mono (Nat.le_succ 1)) h1
  cases q with
  | none =>
    cases h
    exact f1.mono (Nat.le_succ 1)
  | some y =>
    simp only at h
    split at h
    · cases h
      exact f1.mono (Nat.le_succ 1)
    · exact f1.trans (sendTo_frame (f1.hasRoom hr) h)

/-! ### Meanings that only compute -/

/-- A meaning that keeps the frame of its firing wherever it completes. -/
def KeepsFrame (body : State → Cur → Res State) : Prop :=
  ∀ s c t, HasRoom c 2 s → body s c = .ok t → FiringFrame c 2 s t

/-- An instruction is a node of an opcode whose meaning keeps the frame of its firing. -/
def Computes (op : Nat) (i : Instr) : Prop :=
  ∃ a b body, KeepsFrame body ∧ ∀ s, exec i s = runNode op a b s body

theorem node2_computes {op : Nat} {i : Instr} {n : Nd} {g : Opd → Opd → Res Scalar}
    (he : ∀ s, exec i s = node2 op n s g) : Computes op i := by
  refine ⟨n.a, n.b, _, ?_, he⟩
  intro s c t hr h
  obtain ⟨⟨a, s1⟩, h1, h⟩ := ok_of_bind h
  obtain ⟨⟨b, s2⟩, h2, h⟩ := ok_of_bind h
  obtain ⟨x, _, h⟩ := ok_of_bind h
  have f2 := (readSrc_frame h1).trans (readSrc_frame h2)
  exact f2.trans (finish_frame (f2.hasRoom hr) h)

theorem node1_computes {op : Nat} {i : Instr} {n : Nd} {g : Opd → Res Scalar}
    (he : ∀ s, exec i s = node2 op n s fun a _ => g a) : Computes op i := node2_computes he

theorem node3_computes {op : Nat} {i : Instr} {n : N3} {g : Opd → Opd → Opd → Res Scalar}
    (he : ∀ s, exec i s = node3 op n s g) : Computes op i := by
  refine ⟨n.a, n.b, _, ?_, he⟩
  intro s c t hr h
  obtain ⟨⟨a, s1⟩, h1, h⟩ := ok_of_bind h
  obtain ⟨⟨b, s2⟩, h2, h⟩ := ok_of_bind h
  obtain ⟨⟨d, s3⟩, h3, h⟩ := ok_of_bind h
  obtain ⟨x, _, h⟩ := ok_of_bind h
  have f3 := ((readSrc_frame h1).trans (readSrc_frame h2)).trans (readSrc_frame h3)
  exact f3.trans (finish3_frame (f3.hasRoom hr) h)

theorem cvtScale_frame {o : OutFmt} {n : Nd} {a b : Opd} (h : cvtScale s c o n a = .ok (b, t)) : FiringFrame c 0 s t := by
  unfold cvtScale at h
  obtain h | h := of_ite_eq h
  · exact readSrc_frame h
  · cases h
    exact FiringFrame.refl c s

theorem nodeCvt_computes {op : Nat} {i : Instr} {o : OutFmt} {n : Nd} {u fz : Bool} {m : Rnd}
    (he : ∀ s, exec i s = nodeCvt op o n u fz m s) : Computes op i := by
  refine ⟨n.a, n.b, _, ?_, he⟩
  intro s c t hr h
  obtain ⟨⟨a, s1⟩, h1, h⟩ := ok_of_bind h
  obtain ⟨⟨b, s2⟩, h2, h⟩ := ok_of_bind h
  obtain ⟨⟨x, mask⟩, _, h⟩ := ok_of_bind h
  obtain ⟨s3, h3, h⟩ := ok_of_bind h
  have f2 := (readSrc_frame h1).trans (cvtScale_frame h2)
  have f3 := f2.trans (finishPair_frame (f2.hasRoom hr) h3)
  cases h
  split
  · exact f3.trans (countDiscard_frame c s3)
  · exact f3

theorem switch_computes (n : Nd) : Computes 0x60 (.switch n) := by
  refine ⟨n.a, n.b, _, ?_, fun s => Eq.refl (execSwitch n s)⟩
  intro s c t hr h
  obtain ⟨⟨a, s1⟩, h1, h⟩ := ok_of_bind h
  obtain ⟨⟨b, s2⟩, h2, h⟩ := ok_of_bind h
  obtain ⟨x, _, h⟩ := ok_of_bind h
  obtain ⟨y, _, h⟩ := ok_of_bind h
  obtain ⟨_, _, h⟩ := ok_of_bind h
  obtain ⟨g, _, h⟩ := ok_of_bind h
  have f2 := (readSrc_frame h1).trans (readSrc_frame h2)
  exact (f2.trans (sendTo_frame (f2.hasRoom (hr.mono (Nat.le_succ 1))) h)).mono (Nat.le_succ 1)

theorem merge_computes (n : Nd) : Computes 0x61 (.merge n) :=
  ⟨n.a, n.b, _, fun _ _ _ hr h => finish_frame hr h, fun s => Eq.refl (execMerge n s)⟩

/-- Sending on a list of arcs takes no room in the interval log. -/
theorem foldlM_frame {α : Type} {g : State → α → Res State} (hg : ∀ s a t, g s a = .ok t → FiringFrame c 0 s t)
    (l : List α) : ∀ s t, l.foldlM g s = .ok t → FiringFrame c 0 s t := by
  induction l with
  | nil =>
    intro s t h
    cases h
    exact FiringFrame.refl c s
  | cons a l ih =>
    intro s t h
    rw [List.foldlM_cons] at h
    obtain ⟨s1, h1, h⟩ := ok_of_bind h
    exact (hg s a s1 h1).trans (ih s1 t h)

theorem dup_computes (n : Nd) : Computes 0x62 (.dup n) := by
  refine ⟨n.a, n.b, _, ?_, fun s => Eq.refl (execDup n s)⟩
  intro s c t hr h
  obtain ⟨⟨a, s1⟩, h1, h⟩ := ok_of_bind h
  obtain ⟨x, _, h⟩ := ok_of_bind h
  obtain ⟨g, _, h⟩ := ok_of_bind h
  obtain ⟨s2, h2, h⟩ := ok_of_bind h
  have f1 := readSrc_frame h1
  refine (f1.trans (sendBoth_frame (f1.hasRoom hr) h2)).trans (foldlM_frame ?_ _ s2 t h)
  intro s k t h
  simp only at h
  split at h
  · exact sendArc_frame h
  · cases h
    exact FiringFrame.refl c s

theorem gate_computes (n : Nd) : Computes 0x63 (.gate n) := by
  refine ⟨n.a, n.b, _, ?_, fun s => Eq.refl (execGate n s)⟩
  intro s c t hr h
  obtain ⟨⟨a, s1⟩, h1, h⟩ := ok_of_bind h
  obtain ⟨⟨b, s2⟩, h2, h⟩ := ok_of_bind h
  obtain ⟨x, _, h⟩ := ok_of_bind h
  obtain ⟨y, _, h⟩ := ok_of_bind h
  obtain ⟨_, _, h⟩ := ok_of_bind h
  have f2 := (readSrc_frame h1).trans (readSrc_frame h2)
  exact f2.trans (finish_frame (f2.hasRoom hr) h)

theorem sink_computes (n : Nd) : Computes 0x64 (.sink n) := by
  refine ⟨n.a, n.b, _, ?_, fun s => Eq.refl (execSink n s)⟩
  intro s c t hr h
  obtain ⟨⟨a, s1⟩, h1, h⟩ := ok_of_bind h
  obtain ⟨⟨b, s2⟩, h2, h⟩ := ok_of_bind h
  cases h
  exact ((readSrc_frame h1).trans (readSrc_frame h2)).mono (Nat.zero_le 2)

theorem steer_computes (n : Nd) : Computes 0x66 (.steer n) := by
  refine ⟨n.a, n.b, _, ?_, fun s => Eq.refl (execSteer n s)⟩
  intro s c t hr h
  obtain ⟨⟨a, s1⟩, h1, h⟩ := ok_of_bind h
  obtain ⟨⟨b, s2⟩, h2, h⟩ := ok_of_bind h
  obtain ⟨x, _, h⟩ := ok_of_bind h
  obtain ⟨y, _, h⟩ := ok_of_bind h
  obtain ⟨_, _, h⟩ := ok_of_bind h
  obtain ⟨g, _, h⟩ := ok_of_bind h
  have f2 := (readSrc_frame h1).trans (readSrc_frame h2)
  exact (f2.trans (sendTo_frame (f2.hasRoom (hr.mono (Nat.le_succ 1))) h)).mono (Nat.le_succ 1)

/-! ### The instructions of Tables 07-1 to 07-10 -/

/-- The opcode of an instruction that has a word. -/
def opcodeOf (i : Instr) : Option Nat := i.fields.map fun f => f.op.toNat

/-- The opcode stands in bits 31:24 of the word (R150). -/
theorem toWord_opcode (f : Fields) : f.toWord.toNat / 2 ^ 24 = f.op.toNat := by
  have h : (f.toWord.extractLsb' 24 8).toNat = f.op.toNat := congrArg (fun g => g.op.toNat) (ofWord_toWord f)
  have hlt := f.toWord.isLt
  rw [BitVec.extractLsb'_toNat, Nat.shiftRight_eq_div_pow] at h
  omega

theorem opcodeOf_of_encode {i : Instr} {w : BitVec 32} (h : encode i = some w) : opcodeOf i = some (w.toNat / 2 ^ 24) := by
  obtain ⟨f, hf, rfl⟩ := Option.map_eq_some_iff.1 h
  simp only [opcodeOf, hf, Option.map_some, toWord_opcode]

/-- The element instructions below opcode 0x68 but `fcomp` only compute; every other instruction has an opcode above, and an
event of the device has none. -/
theorem computes_of_opcode {i : Instr} {op : Nat} (h : opcodeOf i = some op) (hlt : op < 0x68) (hne : op ≠ 0x65) :
    Computes op i := by
  cases i with
  | add | sub | mul | mulhi | div | rem | min | max | lea | and | or | xor | andn | shl | shr | sar | rotl | bfx | cmp
    | faddF32 | fsubF32 | fmulF32 | fminF32 | fmaxF32 | fcmpF32 | faddBf16x4 | fsubBf16x4 | fmulBf16x4 | fminBf16x4
    | fmaxBf16x4 | fcmpBf16x4 | faddE4x8 | fsubE4x8 | fmulE4x8 | fminE4x8 | fmaxE4x8 | fcmpE4x8 | faddE5x8 | fsubE5x8
    | fmulE5x8 | fminE5x8 | fmaxE5x8 | fcmpE5x8 | scl | uscl | pack | ojoin =>
    cases h
    exact node2_computes fun _ => rfl
  | abs | neg | not | clz | popc | fnegF32 | fabsF32 | frcpF32 | fsqrtF32 | fexp2F32 | flog2F32 | fnegBf16x4 | fabsBf16x4
    | frcpBf16x4 | fsqrtBf16x4 | fexp2Bf16x4 | flog2Bf16x4 | unpk =>
    cases h
    exact node1_computes fun _ => rfl
  | mov n =>
    cases h
    exact node1_computes (g := fun a => asScalar a allTypes) fun _ => rfl
  | bfi | sel | fmaF32 | fmaBf16x4 | dotBf16 | dotE4x8 | dotE5x8 =>
    cases h
    exact node3_computes fun _ => rfl
  | cvtI64 | cvtI32 | cvtI16x4 | cvtI8x8 | cvtF32 | cvtBf16x4 | cvtE4x8 | cvtE5x8 | cvtQn4x16 =>
    cases h
    exact nodeCvt_computes fun _ => rfl
  | switch n =>
    cases h
    exact switch_computes n
  | merge n =>
    cases h
    exact merge_computes n
  | dup n =>
    cases h
    exact dup_computes n
  | gate n =>
    cases h
    exact gate_computes n
  | sink n =>
    cases h
    exact sink_computes n
  | steer n =>
    cases h
    exact steer_computes n
  | fcomp =>
    cases h
    exact absurd rfl hne
  | _ => cases h <;> exact absurd (Nat.le_of_ble_eq_true rfl) (Nat.not_le_of_lt hlt)

/-! ### What a step of a node can do -/

/-- A fault is taken, or rolls a revocable logged interval back that met an uncorrectable error (R355). -/
theorem faultOrRollback_cases (s : State) (p : FaultSite) (f : Flt) :
    faultOrRollback s p f = takeFault s p f ∨ (f.cause = .poolError ∨ f.cause = .memError) ∧ logging s p.rid = true := by
  unfold faultOrRollback
  simp only
  split
  next h =>
    simp only [Bool.and_eq_true, Bool.or_eq_true, beq_iff_eq] at h
    obtain ⟨⟨hc, hl⟩, _⟩ := h
    exact .inr ⟨hc, hl⟩
  next => exact .inl rfl

/-- A node waits, or its firing ends in a fault, or its meaning answers a state (R13, R40). -/
theorem runNode_cases {op : Nat} {a b : Src} {body : State → Cur → Res State} (hc : s.cur = some c)
    (h : runNode op a b s body = .next t) :
    t = s ∨ (∃ f, t = faultOrRollback (if f.cause = .featureMasked then s.base else countRetired s.base c op)
      (siteOf s c op a b) f) ∨ ∃ v, body s.base c = .ok v ∧ t = countRetired v c op := by
  unfold runNode at h
  rw [hc] at h
  simp only at h
  split at h
  next v hv =>
    cases h
    obtain ⟨_, _, hv⟩ := ok_of_bind hv
    exact .inr (.inr ⟨v, hv, rfl⟩)
  next f _ =>
    cases h
    exact .inr (.inl ⟨f, rfl⟩)
  next =>
    cases h
    exact .inl rfl

/-- Counting a firing changes partitions only. -/
theorem countRetired_eq (s : State) (c : Cur) (op : Nat) :
    countRetired s c op = { s with parts := (countRetired s c op).parts } := by
  unfold countRetired
  split <;> rfl

theorem countRetired_parts (h : SameDevice s t) (op : Nat) : (countRetired t c op).parts = (countRetired s c op).parts := by
  obtain ⟨_, _, _, _, _, hp, hm, _, hg, _⟩ := h
  have hpart : t.part = s.part := by funext p; simp only [State.part, hp]
  have hof : partOf t c.u.cl = partOf s c.u.cl := by simp only [partOf, partOfStrip, hm]
  unfold countRetired
  rw [hg]
  split
  · show AL.set t.parts _ _ = AL.set s.parts _ _
    rw [hp, hof, hpart]
  · exact hp

/-- What a meaning leaves, counted as a firing of its opcode, is in the frame of a node. -/
theorem nodeFrame_of_firing {k op : Nat} (h : FiringFrame c k s t) : NodeFrame op s c (countRetired t c op) := by
  have hp := countRetired_parts (c := c) h.device op
  rw [countRetired_eq t, NodeFrame, countRetired_eq s, hp]
  obtain ⟨h1, h2, h3, h4, h5, _, h7, h8, h9, h10⟩ := h.device
  exact ⟨⟨h1, h2, h3, h4, h5, rfl, h7, h8, h9, h10⟩, h.memory, h.poison, h.healed, h.nextId, h.nonce, h.issued, h.net,
    h.otherUnits, h.ownUnit, h.otherClusters, h.ownCluster, h.otherFrames, h.ownFrames⟩

theorem logging_countRetired (s : State) (c : Cur) (op rid : Nat) : logging (countRetired s c op) rid = logging s rid := by
  rw [countRetired_eq]
  rfl

/-- A firing that faults leaves only its fault, and its count unless the feature mask stopped it; or it rolls a revocable logged
interval back for an uncorrectable error, which no feature mask is (R13, R169, R355). -/
theorem fault_cases (s : State) (c : Cur) (op : Nat) (p : FaultSite) (f : Flt) (hp : p.rid = c.f.rid)
    (h : t = faultOrRollback (if f.cause = .featureMasked then s.base else countRetired s.base c op) p f) :
    t = takeFault s.base p f ∨ t = takeFault (countRetired s.base c op) p f ∨
      (f.cause = .poolError ∨ f.cause = .memError) ∧ logging s c.f.rid = true ∧
        t = faultOrRollback (countRetired s.base c op) p f := by
  by_cases hm : f.cause = .featureMasked
  · rw [if_pos hm] at h
    rcases faultOrRollback_cases s.base p f with e | ⟨hc, _⟩
    · exact .inl (h.trans e)
    · rw [hm] at hc
      exact absurd hc (by decide)
  · rw [if_neg hm] at h
    rcases faultOrRollback_cases (countRetired s.base c op) p f with e | ⟨hc, hl⟩
    · exact .inr (.inl (h.trans e))
    · rw [logging_countRetired, hp] at hl
      exact .inr (.inr ⟨hc, hl, h⟩)

end

/-- Settles O58: an element instruction is a node that only computes, whose meaning keeps the frame of its firing. -/
theorem elementInstructionsChangeNothingElse : Obligations.ElementInstructionsChangeNothingElse := by
  intro i w s c t hw hlt hne hc hroom h
  obtain ⟨a, b, body, hbody, he⟩ := computes_of_opcode (opcodeOf_of_encode hw) hlt hne
  rw [he] at h
  rcases runNode_cases hc h with hwait | ⟨f, hfault⟩ | ⟨v, hv, rfl⟩
  · exact .inl hwait
  · exact .inr (.inl ⟨siteOf s c (w.toNat / 2 ^ 24) a b, f, fault_cases s c _ _ f rfl hfault⟩)
  · exact .inr (.inr (nodeFrame_of_firing (hbody s.base c v hroom hv)))

end Sys2Proof.Proofs

/-! ## The step at a unit's head firing

What one step does (O57). Nothing but the agenda itself depends on the agenda, so that a head firing issues, waits or asks for
its grant as the state says in which it was put there; then an equation for each way in which an attempt to issue ends. -/

namespace Sys2Proof.Proofs

open Sys2Proof Sys2Proof.Machine Sys2Proof.Laws

section

variable (s : State) (l : List Move)

/-! ### What does not depend on the agenda -/

theorem unit_agenda (u : UId) : ({ s with agenda := l } : State).unit u = s.unit u := rfl

theorem region_agenda (rid : Nat) : ({ s with agenda := l } : State).region rid = s.region rid := rfl

theorem part_agenda (p : Nat) : ({ s with agenda := l } : State).part p = s.part p := rfl

theorem frameAt_agenda (rid : Nat) (g : Tag) : frameAt { s with agenda := l } rid g = frameAt s rid g := rfl

theorem copyRoom_agenda (cl : Nat) : copyRoom { s with agenda := l } cl = copyRoom s cl := rfl

theorem needLive_agenda (rid : Nat) (g : Tag) : needLive { s with agenda := l } rid g = needLive s rid g := rfl

theorem copyClean_agenda (rid : Nat) (g : Tag) (cl off : Nat) :
    copyClean { s with agenda := l } rid g cl off = copyClean s rid g cl off := rfl

theorem ensureCopy_agenda (rid : Nat) (g : Tag) (cl : Nat) :
    ensureCopy { s with agenda := l } rid g cl = (ensureCopy s rid g cl).map fun t => { t with agenda := l } := by
  unfold ensureCopy
  by_cases hheld : (frameAt s rid g).copies.contains cl
  · simp only [frameAt_agenda, hheld, if_true]
    rfl
  · by_cases hroom : copyRoom s cl
    · simp only [frameAt_agenda, copyRoom_agenda, hheld, hroom, if_true]
      rfl
    · simp only [frameAt_agenda, copyRoom_agenda, hheld, hroom]
      rfl

theorem readSlot_agenda (rid : Nat) (g : Tag) (cl slot : Nat) :
    readSlot { s with agenda := l } rid g cl slot = (readSlot s rid g cl slot).map fun r => (r.1, { r.2 with agenda := l }) := by
  unfold readSlot
  rw [ensureCopy_agenda, needLive_agenda]
  cases needLive s rid g with
  | error e => rfl
  | ok _ =>
    cases ensureCopy s rid g cl with
    | error e => rfl
    | ok t =>
      simp only [Except.map, bind, Except.bind, copyClean_agenda]
      cases copyClean t rid g cl (32 + 8 * slot) with
      | error e => rfl
      | ok _ => rfl

theorem readSrc_agenda (c : Cur) (a : Src) :
    readSrc { s with agenda := l } c a = (readSrc s c a).map fun r => (r.1, { r.2 with agenda := l }) := by
  cases a with
  | fs k =>
    simp only [readSrc, readSlot_agenda, unit_agenda]
    cases readSlot s c.f.rid c.f.tag c.u.cl (bits (AL.get 0 (s.unit c.u).lits (8 + k.toNat)).toNat 6 0) with
    | error e => rfl
    | ok r => rfl
  | _ => rfl

theorem peekSrc_agenda (c : Cur) (a : Src) : peekSrc { s with agenda := l } c a = peekSrc s c a := by
  simp only [peekSrc, readSrc_agenda]
  cases readSrc s c a with
  | error e => rfl
  | ok r =>
    obtain ⟨⟨pay, zero⟩, t⟩ := r
    cases pay with
    | scal x => rfl
    | line d e t => rfl

theorem namedArcs_agenda (u : UId) (f : Firing) (w : Nat) : namedArcs { s with agenda := l } u f w = namedArcs s u f w := by
  simp only [namedArcs, peekSrc_agenda]
  rfl

theorem targetAccepts_agenda (w : BitVec 32) (src cl : Nat) (line : Bool) :
    targetAccepts { s with agenda := l } w src cl line = targetAccepts s w src cl line := rfl

theorem arcAccepts_agenda (u : UId) (k : Nat) (line : Bool) :
    arcAccepts { s with agenda := l } u k line = arcAccepts s u k line := rfl

/-- Where a firing's tokens are accepted is read from links, tiles, sluices and frames. -/
theorem destsAccept_agenda (u : UId) (f : Firing) (w : Nat) :
    destsAccept { s with agenda := l } u f w = destsAccept s u f w := by
  simp only [destsAccept, namedArcs_agenda, arcAccepts_agenda, targetAccepts_agenda, frameAt_agenda]

theorem hbmByteAt_agenda (k : KeyRef) (key phys : Nat) : hbmByteAt { s with agenda := l } k key phys = hbmByteAt s k key phys := rfl

theorem physKey_agenda (p a : Nat) : physKey { s with agenda := l } p a = physKey s p a := rfl

theorem physRead_agenda (k : KeyRef) (n : Nat) : ∀ a, physRead { s with agenda := l } k a n = physRead s k a n := by
  induction n with
  | zero => exact fun _ => rfl
  | succ n ih => exact fun a => by simp only [physRead, hbmByteAt_agenda, physKey_agenda, ih]

theorem walkFrom_agenda (k : KeyRef) (limit a fuel : Nat) : ∀ level table lines,
    walkFrom { s with agenda := l } k limit a fuel level table lines = walkFrom s k limit a fuel level table lines := by
  induction fuel with
  | zero => exact fun _ _ _ => rfl
  | succ fuel ih => exact fun level table lines => by simp only [walkFrom, physKey_agenda, physRead_agenda, ih]

theorem keysOf_agenda (rid : Nat) : keysOf { s with agenda := l } rid = keysOf s rid := rfl

theorem walk_agenda (rid a : Nat) : walk { s with agenda := l } rid a = walk s rid a := by
  unfold walk
  rw [walkFrom_agenda, keysOf_agenda, part_agenda, region_agenda]

theorem leafTarget_agenda (rid a size e : Nat) : leafTarget { s with agenda := l } rid a size e = leafTarget s rid a size e := by
  unfold leafTarget
  rw [region_agenda]
  simp only [physKey_agenda]

theorem placed_agenda (e : LogStore) : e.placed { s with agenda := l } = e.placed s := by
  simp only [LogStore.placed, walk_agenda, leafTarget_agenda, keysOf_agenda]

/-- Which logged stores lie in a page that migrates is read from page tables (R147, R149). -/
theorem logMigrates_agenda (rid : Nat) : logMigrates { s with agenda := l } rid = logMigrates s rid := by
  simp only [logMigrates, placed_agenda]
  rfl

theorem mayIssue_agenda (u : UId) (rid : Nat) : mayIssue { s with agenda := l } u rid = mayIssue s u rid := by
  simp only [mayIssue, logMigrates_agenda]
  rfl

end

/-- A unit whose head firing leaves its ready queue in a state (R40); a second issue of a withheld `brk` is not counted. -/
def headLeaves (s : State) (f : Firing) (rest : List Firing) (h : HwUnit) : HwUnit :=
  pullReady { h with ready := rest, fired := h.fired + (if f.stage = 0 then 1 else 0), grantIdle := s.clock }

/-- A heavy unit that is given the grant that its head firing needs (R299, R332). -/
def givenGrant (s : State) (f : Firing) (h : HwUnit) : HwUnit :=
  { h with grant := some f.rid, grantIdle := s.clock, grantWait := h.grantWait + waitedElse h f }

section

variable {s t : State} {u : UId} {f : Firing} {rest : List Firing} {i : Instr} {l : List Move} {m : Move}

/-! ### A firing that leaves its queue -/

/-- The unit loses its head firing, which is being issued; of the rest of the state only regions may change (R357, R386). -/
theorem takeHead_eq (s : State) (u : UId) (f : Firing) (rest : List Firing) : ∃ rs, takeHead s u f rest =
    { s.modUnit u (headLeaves s f rest) with
      regions := rs, cur := some ⟨u, { f with seq := s.issued + 1 }⟩, issued := s.issued + 1 } := by
  unfold takeHead
  extract_lets n s1 r s2
  by_cases h : (r.halted || r.spillSince.isSome || !r.spillArmed) = true
  · have e : s2 = _ := if_pos h
    rw [e]
    exact ⟨_, rfl⟩
  · have e : s2 = s1 := if_neg h
    rw [e]
    exact ⟨_, rfl⟩

theorem unit_takeHead (s : State) (u : UId) (f : Firing) (rest : List Firing) :
    (takeHead s u f rest).unit u = headLeaves s f rest (s.unit u) := by
  obtain ⟨rs, e⟩ := takeHead_eq s u f rest
  rw [e]
  exact (unit_modUnit s u u _).trans (if_pos rfl)

/-! ### How an attempt to issue ends -/

/-- A unit that holds the grant that its kind needs asks for none (R31). -/
theorem asksForNoGrant (hg : heavy u.kind = true → (s.unit u).grant = some f.rid) :
    (heavy u.kind && (s.unit u).grant != some f.rid) = false := by
  cases hk : heavy u.kind with
  | false => rfl
  | true => simp [hg hk]

section

variable (hq : (pullReady (s.unit u)).ready = f :: rest)
include hq

/-- A firing with the grant that it needs, if it needs one, waits while it may not issue or a destination accepts no token (R40). -/
theorem tryIssue_waits (hg : heavy u.kind = true → (s.unit u).grant = some f.rid)
    (hw : mayIssue s u f.rid = false ∨ destsAccept s u f (slotWord s u f.slot).toNat = false) : tryIssue s u = .waits := by
  have stuck : (!mayIssue s u f.rid || !destsAccept s u f (slotWord s u f.slot).toNat) = true := by
    rcases hw with h | h <;> simp [h]
  simp only [tryIssue, hq, asksForNoGrant hg, stuck, if_true, Bool.false_eq_true, if_false]

/-- A firing that may issue, to destinations that accept its tokens, runs the instruction of its word (R40, R150). -/
theorem tryIssue_runs (hg : heavy u.kind = true → (s.unit u).grant = some f.rid) (hm : mayIssue s u f.rid = true)
    (hd : destsAccept s u f (slotWord s u f.slot).toNat = true) (hi : decode (slotWord s u f.slot) = .ok i) :
    tryIssue s u = .runs i (takeHead (s.modUnit u pullReady) u f rest) := by
  simp only [tryIssue, hq, asksForNoGrant hg, hm, hd, hi, Bool.not_true, Bool.or_false, Bool.false_eq_true, if_false]

/-- A heavy unit without a grant is given one while its region has one left and none waits for it (R332). -/
theorem tryIssue_grant (hk : heavy u.kind = true) (hg : (s.unit u).grant = none) (ha : (s.region f.rid).st = .active)
    (he : (s.region f.rid).grantQueue = []) (hlt : grantsOf s f.rid < Rcb.grants (s.region f.rid).rcb) :
    tryIssue s u = .grant (s.modUnit u (givenGrant s f)) := by
  have ask : askGrant s u f = some (s.modUnit u (givenGrant s f)) := by
    simp only [askGrant, he, hlt, List.contains_nil, Bool.false_eq_true, true_and, if_true, if_false]
    rfl
  simp [tryIssue, hq, hk, hg, ha, ask]

/-- A heavy unit that holds the grant of another region waits (R332). -/
theorem tryIssue_grant_elsewhere {r : Nat} (hk : heavy u.kind = true) (hg : (s.unit u).grant = some r) (hr : r ≠ f.rid) :
    tryIssue s u = .waits := by
  simp [tryIssue, hq, hk, hg, hr]

end

/-! ### One step -/

theorem step_of_agenda (h : s.agenda = m :: l) : step s = attempt { s with agenda := l } m := by
  simp only [step, nextStep, h]

theorem step_of_due (h : s.agenda = []) (hd : dueMove s = some m) : step s = attempt s m := by
  simp only [step, nextStep, h, hd]

theorem step_of_tick (h : s.agenda = []) (hd : dueMove s = none) (hm : (dueMove (tick s) <|> ownMove (tick s)) = some m) :
    step s = attempt (tick s) m := by
  simp only [step, nextStep, h, hd, hm]

theorem step_of_nothing (h : s.agenda = []) (hd : dueMove s = none) (hm : (dueMove (tick s) <|> ownMove (tick s)) = none) :
    step s = .next (tick s) := by
  simp only [step, nextStep, h, hd, hm]

theorem attempt_of_waits (h : tryIssue s u = .waits) : attempt s (.issue u) = .next s := by
  simp only [attempt, h]

theorem attempt_of_grant (h : tryIssue s u = .grant t) : attempt s (.issue u) = .next t := by
  simp only [attempt, h]

/-- What an instruction that runs answers is what the attempt answers, but that one whose firing is still being issued has
waited and leaves the state as it was (R40). -/
theorem attempt_of_runs (h : tryIssue s u = .runs i t) :
    (∀ v, exec i t = .next v → v.cur = none → attempt s (.issue u) = .next v) ∧
    (∀ v, exec i t = .next v → v.cur ≠ none → attempt s (.issue u) = .next s) ∧
    (∀ e, exec i t = .fault e → attempt s (.issue u) = .fault e) ∧
    (∀ e, exec i t = .refused e → attempt s (.issue u) = .refused e) := by
  refine ⟨fun v hv hc => ?_, fun v hv hc => ?_, fun e he => ?_, fun e he => ?_⟩
  · simp only [attempt, h, hv, hc, Option.isSome_none, Bool.false_eq_true, if_false]
  · simp only [attempt, h, hv, Option.isSome_iff_ne_none.2 hc, if_true]
  · simp only [attempt, h, he]
  · simp only [attempt, h, he]

end

/-- Settles O57: the agenda's head is attempted in the state without it, where the head firing runs, waits or is given its
grant as it would with it. -/
theorem aStepRunsTheDecodedInstruction : Obligations.AStepRunsTheDecodedInstruction := by
  refine ⟨?runs, ?grants, ?event, ?waits, ?idle⟩
  case runs =>
    intro s u l f rest i ha hq hm hd hi s0 s1 hg
    obtain ⟨rs, e⟩ := takeHead_eq (s0.modUnit u pullReady) u f rest
    have hunit : s1.unit u = headLeaves (s0.modUnit u pullReady) f rest (pullReady (s.unit u)) :=
      (unit_takeHead (s0.modUnit u pullReady) u f rest).trans
        (congrArg (headLeaves (s0.modUnit u pullReady) f rest) ((unit_modUnit s0 u u pullReady).trans (if_pos rfl)))
    rw [step_of_agenda ha]
    refine ⟨congrArg State.cur e, congrArg HwUnit.fired hunit, congrArg State.issued e, (congrArg State.mem e :),
      (congrArg State.net e :), attempt_of_runs ?_⟩
    exact tryIssue_runs (s := s0) hq hg ((mayIssue_agenda s l u f.rid).trans hm) ((destsAccept_agenda s l u f _).trans hd) hi
  case grants =>
    intro s u l f rest ha hq hk s0
    rw [step_of_agenda ha]
    exact ⟨fun hg hact he hlt => attempt_of_grant (tryIssue_grant (s := s0) hq hk hg hact he hlt),
      fun r hg hr => attempt_of_waits (tryIssue_grant_elsewhere (s := s0) hq hk hg hr)⟩
  case event =>
    intro s i l ha
    exact step_of_agenda ha
  case waits =>
    intro s u l f rest ha hq hg hw
    rw [step_of_agenda ha]
    rw [← mayIssue_agenda s l, ← destsAccept_agenda s l] at hw
    exact attempt_of_waits (tryIssue_waits hq hg hw)
  case idle =>
    intro s ha
    exact ⟨fun i hd => step_of_due ha hd, fun hd => ⟨step_of_nothing ha hd, fun i hm => step_of_tick ha hd hm⟩⟩

end Sys2Proof.Proofs

/-! ## Fused, dot and conversion nodes, scales and packed lanes

What the three-operand floating nodes round (O9), and what the conversions, the scale nodes, `pack` and `unpk` send (O10): what
each result function answers lane by lane, and from there what the node does. -/

namespace Sys2Proof.Proofs

open Sys2Proof Sys2Proof.Machine Sys2Proof.Laws

section

variable {a b d : Opd} {x y z : Scalar}

/-! ### Fused and dot forms -/

/-- Class M for A and B, and class E for C against their product, as the node checks it (R90, Table 03-8). -/
theorem need_productClass (hm : ¬ (x.sc = true ∧ y.sc = true)) (he : z.sc = (x.sc || y.sc)) :
    need (!(x.sc && y.sc) && z.sc == (x.sc || y.sc)) .scaleMismatch = .ok () := by
  have hxy : (x.sc && y.sc) = false := by simpa only [Bool.eq_false_iff, ne_eq, Bool.and_eq_true] using hm
  simp only [hxy, he, need, beq_self_eq_true, Bool.not_false, Bool.and_self, if_true]

/-- What `fma` answers: of each lane the exact product and sum, rounded once (R96). -/
theorem fmaResult_ok {f : LaneFmt} (hf : Fits f) (fz : Bool) (m : Rnd) (hx : FloatOpd f a x) (hy : FloatOpd f b y)
    (hz : FloatOpd f d z) (hm : ¬ (x.sc = true ∧ y.sc = true)) (he : z.sc = (x.sc || y.sc)) :
    ∃ r, fmaResult f fz m a b d = .ok r ∧ FloatLanes f z.sc
      (fun j => codeOf f m fz (FV.add m (FV.mul (laneFV f fz x j) (laneFV f fz y j)) (laneFV f fz z j))) r := by
  unfold FloatOpd at hx hy hz
  refine ⟨_, by simp only [fmaResult, hx, hy, hz, bind, Except.bind, need_productClass hm he]; rfl, ?_⟩
  simp only [values_eq, zipWith_range]
  exact floatLanes_round hf m fz z.sc _

theorem fmaNode {op : Nat} {i : Instr} {n : N3} {f : LaneFmt} (hf : Fits f) (fz : Bool) (m : Rnd)
    (he : ∀ s, exec i s = node3 op n s (fmaResult f fz m)) : FloatNode3 op i n f f fun x y z j =>
      codeOf f m fz (FV.add m (FV.mul (laneFV f fz x j) (laneFV f fz y j)) (laneFV f fz z j)) := by
  refine node3_of he ?_
  rintro a b d ⟨x, y, z, hx, hy, hz, hm, hs⟩
  obtain ⟨r, hr, hl⟩ := fmaResult_ok hf fz m hx hy hz hm hs
  exact ⟨r, hr, x, y, z, hx, hy, hz, hl⟩

/-- Lane 0 of an FP32 operand is its low half (R74). -/
theorem laneFV_f32_zero (fz : Bool) (x : Scalar) :
    laneFV .f32 fz x 0 = Fmt.f32.flushIn fz (Fmt.f32.value (x.val.toNat % 2 ^ 32)) := by
  show Fmt.f32.flushIn fz (Fmt.f32.value (x.val.toNat / 2 ^ (32 * 0) % 2 ^ 32)) = _
  rw [Nat.mul_zero, Nat.pow_zero, Nat.div_one]

/-- What a dot form answers: the tree of the exact products plus C, rounded once to FP32 (R195). -/
theorem dotResult_ok {f : LaneFmt} (fz : Bool) (hx : FloatOpd f a x) (hy : FloatOpd f b y) (hz : FloatOpd .f32 d z)
    (hm : ¬ (x.sc = true ∧ y.sc = true)) (he : z.sc = (x.sc || y.sc)) :
    ∃ r, dotResult f fz a b d = .ok r ∧ FloatLanes .f32 z.sc (fun _ => codeOf .f32 .ne fz (FV.add .ne
      (treeSum ((List.range f.n).map fun j => FV.mul (laneFV f fz x j) (laneFV f fz y j))) (laneFV .f32 fz z 0))) r := by
  unfold FloatOpd at hx hy hz
  have hz' : asScalar d [.f32] = .ok z := hz
  refine ⟨_, by simp only [dotResult, hx, hy, hz', bind, Except.bind, need_productClass hm he]; rfl, ?_⟩
  simp only [values_eq, zipWith_range, ← laneFV_f32_zero]
  exact floatLanes_round fits_f32 .ne fz z.sc fun _ => _

theorem dotNode {op : Nat} {i : Instr} {n : N3} (f : LaneFmt) (fz : Bool)
    (he : ∀ s, exec i s = node3 op n s (dotResult f fz)) : FloatNode3 op i n f .f32 fun x y z _ =>
      codeOf .f32 .ne fz (FV.add .ne
        (treeSum ((List.range f.n).map fun j => FV.mul (laneFV f fz x j) (laneFV f fz y j))) (laneFV .f32 fz z 0)) := by
  refine node3_of he ?_
  rintro a b d ⟨x, y, z, hx, hy, hz, hm, hs⟩
  obtain ⟨r, hr, hl⟩ := dotResult_ok fz hx hy hz hm hs
  exact ⟨r, hr, x, y, z, hx, hy, hz, hl⟩

end

/-- Settles O9: each lane's product and sum are formed on exact values, which are rounded where the result is packed. -/
theorem fusedAndDotFormsRoundOnce : Obligations.FusedAndDotFormsRoundOnce := by
  intro n fz m
  exact ⟨fmaNode fits_f32 fz m fun _ => rfl, fmaNode fits_bf16 fz m fun _ => rfl, dotNode .bf16 fz fun _ => rfl,
    dotNode .e4 fz fun _ => rfl, dotNode .e5 fz fun _ => rfl⟩

section

variable {a b : Opd} {x y : Scalar}

/-! ### Joined lanes and masks -/

/-- Joined lanes that fit a token's 64 bits are the lanes of its value, with zeros above them (R74). -/
theorem joinLanes_token {k n : Nat} (hfit : k * n ≤ 64) {l : List Nat} (hl : l.length = n) :
    (BitVec.ofNat 64 (joinLanes k l)).toNat < 2 ^ (k * n) ∧
      ∀ (j : Nat) (h : j < l.length), laneAt k j (BitVec.ofNat 64 (joinLanes k l)).toNat = l[j] % 2 ^ k := by
  have hlt : joinLanes k l < 2 ^ (k * n) := hl ▸ joinLanes_lt k l
  have hv : (BitVec.ofNat 64 (joinLanes k l)).toNat = joinLanes k l :=
    Nat.mod_eq_of_lt (Nat.lt_of_lt_of_le hlt (Nat.pow_le_pow_right (by decide) hfit))
  rw [hv]
  exact ⟨hlt, laneAt_joinLanes k l⟩

theorem laneMask_lt (l : List Bool) : laneMask l < 2 ^ l.length := by
  induction l with
  | nil => exact Nat.one_pos
  | cons p l ih =>
    have hp := Bool.toNat_lt p
    simp only [laneMask, List.length_cons, Nat.pow_succ]
    omega

/-- Bit `j` of a mask is member `j` of its list (R93). -/
theorem testBit_laneMask (l : List Bool) : ∀ j, (laneMask l).testBit j = l.getD j false := by
  induction l with
  | nil => exact fun j => Nat.zero_testBit j
  | cons p l ih =>
    intro j
    have hp := Bool.toNat_lt p
    cases j with
    | zero =>
      have hlow : (p.toNat + 2 * laneMask l) % 2 = p.toNat := by omega
      rw [laneMask, Nat.testBit_zero, hlow, List.getD_cons_zero]
      cases p <;> rfl
    | succ j =>
      have hrest : (p.toNat + 2 * laneMask l) / 2 = laneMask l := by omega
      rw [laneMask, Nat.testBit_succ, hrest, List.getD_cons_succ]
      exact ih j

/-- A mask of at most 64 lanes as a token's value. -/
theorem laneMask_word {l : List Bool} (hl : l.length ≤ 64) :
    (BitVec.ofNat 64 (laneMask l) = 0 ↔ laneMask l = 0) ∧
      ∀ j, (BitVec.ofNat 64 (laneMask l)).getLsbD j = l.getD j false := by
  have hlt : laneMask l < 2 ^ 64 := Nat.lt_of_lt_of_le (laneMask_lt l) (Nat.pow_le_pow_right (by decide) hl)
  have hv : (BitVec.ofNat 64 (laneMask l)).toNat = laneMask l := Nat.mod_eq_of_lt hlt
  refine ⟨?_, fun j => ?_⟩
  · rw [← BitVec.toNat_inj, hv]
    rfl
  · rw [BitVec.getLsbD, hv, testBit_laneMask]

/-! ### Conversions -/

/-- An output format whose lanes fill at most a token, with at most 64 of them. -/
def OutFits (o : OutFmt) : Prop := o.w * o.n ≤ 64 ∧ o.n ≤ 64

/-- Only a qn4x16 operand has QN4 lanes (R196). -/
theorem inLanes_notQn {u fz : Bool} {l : List InLane} (h : inLanes u fz x = some l) (ht : x.ty ≠ .qn4x16) :
    ∀ p ∈ l, ∀ c, p ≠ .qn c := by
  unfold inLanes at h
  cases hx : x.ty with
  | qn4x16 => exact absurd hx ht
  | handle | control | marker => simp [hx] at h
  | _ =>
    simp only [hx, Option.some.injEq] at h
    subst h
    simp

/-- Where operand B is not read no lane depends on a line scale (R198). -/
theorem cvtLane_scale {o : OutFmt} {u fz : Bool} {l : List InLane} (hr : cvtReadsB o x = false)
    (h : inLanes u fz x = some l) (m : Rnd) (ls ls' : FV) : ∀ p ∈ l, cvtLane o u fz m ls p = cvtLane o u fz m ls' p := by
  simp only [cvtReadsB, Bool.or_eq_false_iff, beq_eq_false_iff_ne, ne_eq] at hr
  obtain ⟨ho, ht⟩ := hr
  intro p hp
  cases p with
  | qn c => exact absurd rfl (inLanes_notQn h ht _ hp c)
  | fv v =>
    cases o with
    | qn4 => exact absurd rfl ho
    | _ => rfl
  | int v =>
    cases o with
    | qn4 => exact absurd rfl ho
    | _ => rfl

/-- The converted lanes of a conversion with their overflow bits. -/
def cvtPairs (o : OutFmt) (u fz : Bool) (m : Rnd) (ls : FV) (l : List InLane) : List (Nat × Bool) :=
  (l.take o.n).map (cvtLane o u fz m ls)

/-- The codes of a conversion: those of its input lanes, and the fill (R197). -/
def cvtCodes (o : OutFmt) (u fz : Bool) (m : Rnd) (ls : FV) (l : List InLane) : List Nat :=
  (cvtPairs o u fz m ls l).map (·.1) ++ List.replicate (o.n - (cvtPairs o u fz m ls l).length) o.fill

/-- The value that a conversion sends on destination 0. -/
def cvtValue (o : OutFmt) (u fz : Bool) (m : Rnd) (ls : FV) (l : List InLane) : Scalar :=
  ⟨BitVec.ofNat 64 (joinLanes o.w (cvtCodes o u fz m ls l)), o.ty, false⟩

/-- The overflow mask of a conversion (R93). -/
def cvtMask (o : OutFmt) (u fz : Bool) (m : Rnd) (ls : FV) (l : List InLane) : Nat :=
  laneMask ((cvtPairs o u fz m ls l).map (·.2))

section

variable (o : OutFmt) (u fz : Bool) (m : Rnd) (ls : FV) (l : List InLane)

theorem cvtCodes_length : (cvtCodes o u fz m ls l).length = o.n := by
  simp only [cvtCodes, cvtPairs, List.length_append, List.length_map, List.length_take, List.length_replicate]
  omega

/-- A code is that of its input lane, or the fill where there is none. -/
theorem cvtCodes_getElem {j : Nat} (hj : j < o.n) (h : j < (cvtCodes o u fz m ls l).length) :
    (cvtCodes o u fz m ls l)[j] = (l[j]?.map fun p => (cvtLane o u fz m ls p).1).getD o.fill := by
  simp only [cvtCodes, cvtPairs, List.getElem_append, List.length_map, List.length_take, List.getElem_map, List.getElem_take,
    List.getElem_replicate]
  by_cases hjl : j < l.length
  · rw [dif_pos (Nat.lt_min.2 ⟨hj, hjl⟩), List.getElem?_eq_getElem hjl, Option.map_some, Option.getD_some]
  · rw [dif_neg fun hlt => hjl (Nat.lt_min.1 hlt).2, List.getElem?_eq_none (Nat.le_of_not_lt hjl), Option.map_none,
      Option.getD_none]

theorem cvtMask_bits_le : ((cvtPairs o u fz m ls l).map (·.2)).length ≤ o.n := by
  simp only [cvtPairs, List.length_map, List.length_take]
  exact Nat.min_le_left _ _

/-- The lanes and the mask of a conversion are those of its input lanes (R92, R93, R197). -/
theorem cvtLanes_cvtValue (ho : OutFits o) :
    CvtLanes o u fz m ls l (cvtValue o u fz m ls l) (BitVec.ofNat 64 (cvtMask o u fz m ls l)) := by
  have hlen := cvtCodes_length o u fz m ls l
  obtain ⟨hlt, hlane⟩ := joinLanes_token ho.1 hlen
  refine ⟨rfl, rfl, hlt, fun j hj => ?_, fun j => ?_⟩
  · have hcode := hlane j (hlen.symm ▸ hj)
    rw [cvtCodes_getElem o u fz m ls l hj] at hcode
    show BitVec.ofNat o.w (laneAt o.w j (cvtValue o u fz m ls l).val.toNat) = _
    apply BitVec.eq_of_toNat_eq
    rw [cvtValue, hcode, BitVec.toNat_ofNat, BitVec.toNat_ofNat, Nat.mod_mod]
    cases l[j]? <;> rfl
  · rw [cvtMask, (laneMask_word (Nat.le_trans (cvtMask_bits_le o u fz m ls l) ho.2)).2, cvtPairs,
      List.getD_eq_getElem?_getD, List.getElem?_map, List.getElem?_map, List.getElem?_take]
    by_cases hj : j < o.n
    · rw [if_pos hj, decide_eq_true hj]
      cases l[j]? <;> rfl
    · rw [if_neg hj, decide_eq_false hj]
      rfl

end

/-- What a conversion answers; the line scale counts only where operand B is read (R198). -/
theorem cvtResult_ok {o : OutFmt} {u fz : Bool} {l : List InLane} {ls : FV} (m : Rnd) (hx : asScalar a cvtTypes = .ok x)
    (hs : x.sc = false) (hl : inLanes u fz x = some l) (hal : cvtAllowed o l = true)
    (hb : cvtReadsB o x = true → ∃ y, asScalar b [.i64] = .ok y ∧ y.sc = false ∧ scaleWord y.val.toNat = .ok ls) :
    cvtResult o u fz m a b = .ok (cvtValue o u fz m ls l, cvtMask o u fz m ls l) := by
  have hx' : asScalar a [.i64, .i32, .u64, .f32, .bf16x4, .i16x4, .e4x8, .e5x8, .i8x8, .qn4x16, .tagix] = .ok x := hx
  cases hr : cvtReadsB o x with
  | true =>
    obtain ⟨y, hy, hys, hw⟩ := hb hr
    simp only [cvtResult, hx', hl, hal, hr, hy, hs, hys, hw, need, bind, Except.bind, if_true, Bool.not_false, Bool.and_self]
    rfl
  | false =>
    have hpairs : cvtPairs o u fz m ls l = cvtPairs o u fz m (.fin false 0 0) l :=
      List.map_congr_left fun p hp => cvtLane_scale hr hl m _ _ p (List.mem_of_mem_take hp)
    simp only [cvtResult, hx', hl, hal, hr, hs, cvtValue, cvtCodes, cvtMask, hpairs, need, bind, Except.bind, if_true, Bool.false_eq_true, if_false,
      Bool.not_false]
    rfl

/-- An operand that was read and is a scalar of types with i64 among them holds that scalar: a zero is the i64 zero (R177). -/
theorem pay_of_readSrc {s s' : State} {c : Cur} {q : Src} (h : readSrc s c q = .ok (a, s')) {ts : List TType}
    (hi : ts.contains .i64 = true) (hx : asScalar a ts = .ok x) : a.pay = .scal x := by
  have hzero : a.zero = true → a.pay = .scal (zeroOf .i64) := by
    intro hz
    cases q with
    | left =>
      cases h
      rw [Option.isNone_iff_eq_none.1 hz]
      rfl
    | right =>
      cases h
      rw [Option.isNone_iff_eq_none.1 hz]
      rfl
    | fs k =>
      obtain ⟨_, _, h⟩ := ok_of_bind h
      cases h
      cases hz
    | zero =>
      cases h
      rfl
    | ix =>
      cases h
      cases hz
    | lit k =>
      cases h
      cases hz
  cases hz : a.zero with
  | true =>
    rw [hzero hz]
    simp only [asScalar, hzero hz, hz, hi, if_true, Except.ok.injEq] at hx
    rw [hx]
  | false =>
    rcases asScalar_ok hx with ⟨hz', _⟩ | ⟨_, hp, _⟩
    · rw [hz] at hz'
      cases hz'
    · exact hp

/-- Operand B is taken as R198 and R42 say. -/
theorem cvtScale_ok {s s' : State} {c : Cur} {o : OutFmt} {n : Nd} (hp : a.pay = .scal x) (h : CvtReadsB s c o n x b s') :
    cvtScale s c o n a = .ok (b, s') := by
  unfold CvtReadsB at h
  unfold cvtScale
  simp only [hp]
  split at h
  next hr =>
    rw [if_pos (by simpa [or_assoc] using hr)]
    exact h
  next hr =>
    obtain ⟨rfl, rfl⟩ := h
    rw [if_neg (by simpa [or_assoc] using hr)]

/-- A destination that can take a token still can after another one was sent a token. -/
theorem dstOk_sendTo {s s' : State} {c : Cur} {d e : Dst} {p : Payload} {t g : Tag} {sc : Bool} (h : sendTo s c d p g = .ok s')
    (ha : SameArcs s s') (hde : e ≠ d) (he : DstOk s c e t sc) : DstOk s' c e t sc := by
  by_cases hs : e = .slot
  · subst hs
    obtain ⟨hf, hc, hp⟩ := sendTo_frames h (Ne.symm hde)
    exact ⟨he.1, slotOk_net hf hc hp he.2⟩
  · exact dstOk_same he ha hs

/-- A value leaves on destination 0 and perhaps another one on destination 1, where neither has its scaled bit set. -/
theorem finishPair_ok {s : State} {c : Cur} {n : Nd} {b p : Payload} {q : Option Payload} (h : CanEmit s c n b false)
    (hp : p.scaled = false) (hq : ∀ y, q = some y → y.scaled = false) : ∃ t, finishPair s c n b (some p) q = .ok t := by
  obtain ⟨g, hg⟩ := tagOf_ok (s := s) (c := c) h.1
  obtain ⟨hd, he⟩ := h.2 g hg
  have clear : ∀ y : Payload, y.scaled = false → (outForm n.t y).scaled = false :=
    fun y hy => (outForm_scaled hy).elim id id
  obtain ⟨s1, h1, a1⟩ := sendTo_ok (p := outForm n.t p) (dstOk_weaken hd (.inl (clear p hp)))
  unfold finishPair
  rw [hg]
  simp only [bind, Except.bind, h1]
  cases q with
  | none => exact ⟨s1, rfl⟩
  | some y =>
    by_cases hde : n.e = n.d
    · exact ⟨s1, if_pos ⟨hde, rfl⟩⟩
    · obtain ⟨t, ht, _⟩ := sendTo_ok (p := outForm n.t y)
        (dstOk_sendTo h1 a1 hde (dstOk_weaken he (.inl (clear y (hq y rfl)))))
      exact ⟨t, (if_neg fun k => hde k.1).trans ht⟩

/-- A conversion node does what its result function says (R93). -/
theorem cvtNode_of {op : Nat} {i : Instr} {n : Nd} {o : OutFmt} (ho : OutFits o) (u fz : Bool) (m : Rnd)
    (he : ∀ s, exec i s = nodeCvt op o n u fz m s) : CvtNode op i n o u fz m := by
  intro s c a b s1 s2 x l ls hc hm ha hx hb hs hl hal hscale hemit
  have hmask : BitVec.ofNat 64 (cvtMask o u fz m ls l) = 0 ↔ cvtMask o u fz m ls l = 0 :=
    (laneMask_word (Nat.le_trans (cvtMask_bits_le o u fz m ls l) ho.2)).1
  obtain ⟨t, ht⟩ := finishPair_ok (p := .scal (cvtValue o u fz m ls l))
    (q := if cvtMask o u fz m ls l = 0 then none else some (plain (BitVec.ofNat 64 (cvtMask o u fz m ls l)) .control)) hemit rfl
    (by intro y hy; split at hy <;> cases hy; rfl)
  refine ⟨_, _, t, cvtLanes_cvtValue o u fz m ls l ho, by simpa only [hmask] using ht, ?_⟩
  rw [he, nodeCvt]
  refine runNode_ok hc hm ?_
  simp only [bind, Except.bind, ha, cvtScale_ok (pay_of_readSrc ha rfl hx) hb, cvtResult_ok m hx hs hl hal hscale, ht, ne_eq,
    hmask]
  rfl

/-! ### Scales -/

theorem sclFmt_ty {t : TType} {f : LaneFmt} (h : sclFmt t = some f) : Fits f ∧ f.ty = t := by
  cases t with
  | f32 => cases h; exact ⟨fits_f32, rfl⟩
  | bf16x4 => cases h; exact ⟨fits_bf16, rfl⟩
  | e4x8 => cases h; exact ⟨fits_e4, rfl⟩
  | e5x8 => cases h; exact ⟨fits_e5, rfl⟩
  | _ => cases h

/-- Every type that operand A of `scl` may have is that of a floating format (R199). -/
theorem sclFmt_some (hx : asScalar a [.f32, .bf16x4, .e4x8, .e5x8] = .ok x) : ∃ f, sclFmt x.ty = some f := by
  rw [← Option.isSome_iff_exists]
  have hty : [TType.f32, .bf16x4, .e4x8, .e5x8].contains x.ty = true := by
    rcases asScalar_ok hx with ⟨hz, -, -⟩ | ⟨-, -, h⟩
    · unfold asScalar at hx
      rw [hz] at hx
      split at hx
      · cases hx
        rfl
      · cases hx
    · exact h
  revert hty
  cases x.ty <;> decide

/-- What `scl` and `uscl` answer: each lane times the scale, rounded once (R199). -/
theorem sclResult_ok {f : LaneFmt} (set fz : Bool) (m : Rnd) (hx : asScalar a [.f32, .bf16x4, .e4x8, .e5x8] = .ok x)
    (hy : FloatOpd .f32 b y) (hxs : x.sc = !set) (hys : y.sc = false) (hf : sclFmt x.ty = some f) :
    ∃ r, sclResult set fz m a b = .ok r ∧
      FloatLanes f set (fun j => codeOf f m fz (FV.mul (laneFV f fz x j) (laneFV .f32 fz y 0))) r := by
  have hy' : asScalar b [.f32] = .ok y := hy
  obtain ⟨hfit, hty⟩ := sclFmt_ty hf
  refine ⟨_, by
    simp only [sclResult, hx, hy', hf, hxs, hys, need, bind, Except.bind, beq_self_eq_true, Bool.not_false, Bool.and_self, if_true]
    rfl, ?_⟩
  rw [values_eq, List.map_map, ← hty, ← laneFV_f32_zero]
  exact floatLanes_round hfit m fz set _

theorem sclNode {op : Nat} {i : Instr} {n : Nd} (set fz : Bool) (m : Rnd) (he : ∀ s, exec i s = node2 op n s (sclResult set fz m)) :
    Node2 op i n
      (fun a b => ∃ x y, asScalar a [.f32, .bf16x4, .e4x8, .e5x8] = .ok x ∧ FloatOpd .f32 b y ∧ x.sc = !set ∧ y.sc = false)
      fun a b r => ∃ x y f, asScalar a [.f32, .bf16x4, .e4x8, .e5x8] = .ok x ∧ FloatOpd .f32 b y ∧ sclFmt x.ty = some f ∧
        FloatLanes f set (fun j => codeOf f m fz (FV.mul (laneFV f fz x j) (laneFV .f32 fz y 0))) r := by
  refine node2_of he ?_
  rintro a b ⟨x, y, hx, hy, hxs, hys⟩
  obtain ⟨f, hf⟩ := sclFmt_some hx
  obtain ⟨r, hr, hl⟩ := sclResult_ok set fz m hx hy hxs hys hf
  exact ⟨r, hr, x, y, f, hx, hy, hf, hl⟩

/-! ### Packed lanes -/

theorem need_beq_self {α : Type} [BEq α] [ReflBEq α] (v : α) (k : Cause) : need (v == v) k = .ok () := if_pos (beq_self_eq_true v)

/-- The lanes of every packed type fill a token (Table 03-1). -/
theorem packedShape_bits (t : TType) : (packedShape t).1 * (packedShape t).2 = 64 := by cases t <;> rfl

/-- A list of lanes of one type, joined: the lanes of a packed value. -/
theorem packedLanes_join {l : List Nat} {lane : Nat → Nat} (hl : l.length = (packedShape x.ty).2)
    (h : ∀ (j : Nat) (hj : j < l.length), l[j] = lane j) (hlt : ∀ j, lane j < 2 ^ (packedShape x.ty).1) :
    PackedLanes x lane ⟨BitVec.ofNat 64 (joinLanes (packedShape x.ty).1 l), x.ty, x.sc⟩ := by
  refine ⟨rfl, rfl, fun j hj => ?_⟩
  have hj' : j < l.length := hl ▸ hj
  show laneAt _ j (BitVec.ofNat 64 (joinLanes _ l)).toNat = lane j
  rw [(joinLanes_token (Nat.le_of_eq (packedShape_bits x.ty)) hl).2 j hj', h j hj', Nat.mod_eq_of_lt (hlt j)]

/-- What `pack` answers: the first `k` lanes of A and then lanes of B (R200). -/
theorem packResult_ok {k : Nat} (hp : PackPair a b x y) (hty : x.ty = y.ty) (hsc : x.sc = y.sc) (hk : k < (packedShape x.ty).2) :
    ∃ r, packResult k a b = .ok r ∧ PackedLanes x (fun j =>
      if j < k then laneAt (packedShape x.ty).1 j x.val.toNat else laneAt (packedShape x.ty).1 (j - k) y.val.toNat) r := by
  obtain ⟨hax, ha, hby, hb⟩ := hp
  have hlanes : PackedLanes x (fun j =>
      if j < k then laneAt (packedShape x.ty).1 j x.val.toNat else laneAt (packedShape x.ty).1 (j - k) y.val.toNat)
      ⟨BitVec.ofNat 64 (joinLanes (packedShape x.ty).1 ((lanesOf (packedShape x.ty).1 (packedShape x.ty).2 x.val.toNat).take k ++
        (lanesOf (packedShape x.ty).1 (packedShape x.ty).2 y.val.toNat).take ((packedShape x.ty).2 - k))), x.ty, x.sc⟩ := by
    refine packedLanes_join ?_ (fun j hj => ?_) fun j => ?_
    · simp only [List.length_append, List.length_take, lanesOf_length]
      omega
    · rw [List.getElem_append]
      simp only [List.length_take, lanesOf_length, Nat.min_eq_left (Nat.le_of_lt hk), List.getElem_take, lanesOf_get]
      split <;> rfl
    · split <;> exact laneAt_lt _ _ _
  refine ⟨_, ?_, hlanes⟩
  have hneed : need (decide (k < (packedShape x.ty).2)) .lane k = .ok () := if_pos (decide_eq_true hk)
  cases hza : a.zero with
  | false =>
    cases hzb : b.zero with
    | false =>
      simp only [packResult, hza, hzb, ha hza, hb hzb, bind, Except.bind, hneed, ← hty, ← hsc, need_beq_self, if_false,
        Bool.false_eq_true]
      rfl
    | true =>
      simp only [packResult, hza, hzb, ha hza, ← hby hzb, bind, Except.bind, hneed, ← hty, ← hsc, need_beq_self, if_false, if_true,
        Bool.false_eq_true]
      rfl
  | true =>
    cases hzb : b.zero with
    | false =>
      have hx0 : zeroOf x.ty = x := by rw [hax hza, hzb]; rfl
      simp only [packResult, hza, hzb, hb hzb, ← hty, ← hsc, hx0, bind, Except.bind, hneed, need_beq_self, if_false, if_true,
        Bool.false_eq_true]
      rfl
    | true =>
      have hbf : zeroOf .bf16x4 = x := by rw [hax hza, hzb]; rfl
      have hx0 : zeroOf x.ty = x := by rw [← hbf]; rfl
      have hyx : y = x := (hby hzb).trans hx0
      simp only [packResult, hza, hzb, hbf, hx0, hyx, bind, Except.bind, hneed, need_beq_self, if_true]
      rfl

/-- What `unpk` answers: the lanes of A from `k` up, and then zeros of its format (R200). -/
theorem unpkResult_ok {k : Nat} (hx : asScalar a packedTypes = .ok x) (hk : k < (packedShape x.ty).2) :
    ∃ r, unpkResult k a = .ok r ∧ PackedLanes x (fun j =>
      if j + k < (packedShape x.ty).2 then laneAt (packedShape x.ty).1 (j + k) x.val.toNat
      else if x.ty = .qn4x16 then 7 else 0) r := by
  have hneed : need (decide (k < (packedShape x.ty).2)) .lane k = .ok () := if_pos (decide_eq_true hk)
  refine ⟨_, by simp only [unpkResult, hx, bind, Except.bind, hneed]; rfl, packedLanes_join ?_ (fun j hj => ?_) fun j => ?_⟩
  · simp only [List.length_append, List.length_drop, List.length_replicate, lanesOf_length]
    omega
  · rw [List.getElem_append]
    simp only [List.length_drop, lanesOf_length, List.getElem_drop, lanesOf_get, List.getElem_replicate, Nat.add_comm k j,
      Nat.lt_sub_iff_add_lt, packedZero]
    rfl
  · split
    · exact laneAt_lt _ _ _
    · cases x.ty <;> decide

end

/-- Settles O10: conversions lane by lane with their masks, the scale nodes' products rounded once, and packed lanes by their
places in the joined list. -/
theorem conversionsScalesAndPackedLanes : Obligations.ConversionsScalesAndPackedLanes := by
  refine ⟨?cvt, ?scl, ?pack, ?unpk⟩
  case cvt =>
    intro n u fz m
    have cvt : ∀ {op i} (o : OutFmt), o.w * o.n ≤ 64 ∧ o.n ≤ 64 → (∀ s, exec i s = nodeCvt op o n u fz m s) → CvtNode op i n o u fz m :=
      fun _ ho he => cvtNode_of ho u fz m he
    exact ⟨cvt (.int .i64 64 1) (by decide) fun _ => rfl, cvt (.int .i32 32 1) (by decide) fun _ => rfl,
      cvt (.int .i16x4 16 4) (by decide) fun _ => rfl, cvt (.int .i8x8 8 8) (by decide) fun _ => rfl,
      cvt (.float .f32) (by decide) fun _ => rfl, cvt (.float .bf16) (by decide) fun _ => rfl,
      cvt (.float .e4) (by decide) fun _ => rfl, cvt (.float .e5) (by decide) fun _ => rfl, cvt .qn4 (by decide) fun _ => rfl⟩
  case scl =>
    intro n fz m set
    cases set with
    | true => exact sclNode true fz m fun _ => rfl
    | false => exact sclNode false fz m fun _ => rfl
  case pack =>
    intro n k
    refine node2_of (fun _ => rfl) ?_
    rintro a b ⟨x, y, hp, hty, hsc, hk⟩
    obtain ⟨r, hr, hl⟩ := packResult_ok hp hty hsc hk
    exact ⟨r, hr, x, y, hp, hl⟩
  case unpk =>
    intro n k
    refine node2_of (g := fun a _ => unpkResult k.toNat a) (fun _ => rfl) ?_
    rintro a _ ⟨x, hx, hk⟩
    obtain ⟨r, hr, hl⟩ := unpkResult_ok hx hk
    exact ⟨r, hr, x, hx, hl⟩

end Sys2Proof.Proofs

/-! ## Tables of the lookup matrix unit

Builds and fills (O38): what a write leaves in a slice of memory, when a token can still be sent after an interval has become
irrevocable, and what the folds that write the tables of a bank leave in each entry. -/

namespace Sys2Proof.Proofs

open Sys2Proof Sys2Proof.Machine Sys2Proof.Laws

/-! ### Slices of memory -/

section

variable {m m' : Memory}

theorem readN_congr {n : Nat} : ∀ {k : Nat}, (∀ i, k ≤ i → i < k + n → m.read i = m'.read i) → m.readN k n = m'.readN k n := by
  induction n with
  | zero => exact fun _ => rfl
  | succ n ih =>
    intro k h
    rw [Memory.readN, Memory.readN, h k (Nat.le_refl k) (by omega), ih fun i hi hlt => h i (by omega) (by omega)]

/-- Writing a number is writing its low bytes and then the rest. -/
theorem writeN_add (n j : Nat) : ∀ (m : Memory) (k v : Nat),
    m.writeN k (j + n) v = (m.writeN k j v).writeN (k + j) n (v / 2 ^ (8 * j)) := by
  induction j with
  | zero => intro m k v; simp [Memory.writeN]
  | succ j ih =>
    intro m k v
    rw [show j + 1 + n = j + n + 1 by omega, Memory.writeN, ih, Memory.writeN, Nat.div_div_eq_div_mul,
      show k + 1 + j = k + (j + 1) by omega, show 256 * 2 ^ (8 * j) = 2 ^ (8 * (j + 1)) by rw [Nat.mul_succ, Nat.pow_add]; omega]

/-- A slice of what was written is read back. -/
theorem readN_writeN_slice (k v : Nat) {n i j : Nat} (hm : m.wf = true) (hij : i + j ≤ n) :
    (m.writeN k n v).readN (k + i) j = v / 2 ^ (8 * i) % 2 ^ (8 * j) := by
  obtain ⟨r, rfl⟩ := Nat.exists_eq_add_of_le hij
  have hlow := writeN_wf k i v hm
  rw [Nat.add_assoc, writeN_add, writeN_add, ← readN_writeN (k + i) j (v / 2 ^ (8 * i)) hlow]
  exact readN_congr fun a ha hlt => read_writeN _ _ _ _ (writeN_wf _ _ _ hlow) (.inl hlt)

/-- A slice outside what was written is as it was. -/
theorem readN_writeN_outside (k v : Nat) {n i j : Nat} (hm : m.wf = true) (h : i + j ≤ k ∨ k + n ≤ i) :
    (m.writeN k n v).readN i j = m.readN i j :=
  readN_congr fun a ha hlt => read_writeN _ _ _ _ hm (by omega)

end

/-! ### Folds that set a part of the state -/

section

variable {α σ : Type} {g : σ → α → σ} {P Q : σ → Prop}

/-- What one member sets and every other member keeps the fold leaves set. -/
theorem foldl_sets {l : List α} {a : α} (ha : a ∈ l) (hP : ∀ s, ∀ x ∈ l, P s → P (g s x)) (hset : ∀ s, P s → Q (g s a))
    (hkeep : ∀ s, ∀ x ∈ l, x ≠ a → P s → Q s → Q (g s x)) : ∀ {s : σ}, P s → Q (l.foldl g s) := by
  induction l with
  | nil => cases ha
  | cons x l ih =>
    intro s hs
    have hPl : ∀ s, ∀ y ∈ l, P s → P (g s y) := fun s y hy => hP s y (List.mem_cons_of_mem _ hy)
    have hx := hP s x List.mem_cons_self hs
    rcases List.mem_cons.1 ha with rfl | hal
    · refine (l.foldlRecOn (motive := fun s => P s ∧ Q s) g ⟨hx, hset s hs⟩ fun t ⟨ht, hq⟩ y hy => ⟨hPl t y hy ht, ?_⟩).2
      by_cases hya : y = a
      · exact hya ▸ hset t ht
      · exact hkeep t y (List.mem_cons_of_mem _ hy) hya ht hq
    · exact ih hal hPl (fun s y hy => hkeep s y (List.mem_cons_of_mem _ hy)) hx

end

/-! ### Tables -/

section

variable {s : State} {cl b : Nat}

/-- The state with the entries of one table of a bank written. -/
def putTable (s : State) (cl b t n v : Nat) : State := { s with mem := Memory.writeN s.mem (tableKey cl b t 0) n v }

theorem putTable_wf (cl b t n v : Nat) (h : s.MemOk) : (putTable s cl b t n v).MemOk := writeN_wf _ _ _ h

theorem tableKey_entry (cl b t e : Nat) : tableKey cl b t e = tableKey cl b t 0 + 2 * e := by
  simp only [tableKey]
  omega

/-- What an entry of a table of a bank holds. -/
def EntryIs (s : State) (cl b t e v : Nat) : Prop := Memory.readN s.mem (tableKey cl b t e) 2 = v

/-- An entry of the table written is its lane of the number (R98). -/
theorem putTable_entry {t n v e : Nat} (h : s.MemOk) (he : 2 * e + 2 ≤ n) :
    EntryIs (putTable s cl b t n v) cl b t e (laneAt 16 e v) := by
  rw [EntryIs, tableKey_entry, putTable, readN_writeN_slice _ _ h he, laneAt, show 8 * (2 * e) = 16 * e by omega]

/-- An entry of another table stays. -/
theorem putTable_other {t t' n v e w : Nat} (h : s.MemOk) (ht : t' ≠ t) (hn : n ≤ 512) (he : e < 256)
    (hw : EntryIs s cl b t e w) : EntryIs (putTable s cl b t' n v) cl b t e w := by
  refine (readN_writeN_outside _ _ h ?_).trans hw
  simp only [tableKey]
  omega

/-- A lane of a table's row is the rounded sum of its entry (R98, R271). -/
theorem laneAt_tableRow (planes : Bool) (acts : List FV) (at0 : Nat) {e : Nat} (he : e < if planes then 16 else 256) :
    laneAt 16 e (tableRow planes acts at0) = (Fmt.bf16.round .ne false .arith (entrySum planes acts at0 e)).1 % 2 ^ 16 := by
  rw [tableRow, laneAt_joinLanes _ _ _ (by simpa using he)]
  simp

/-- Group and row give a table its number, and no two pairs the same one. -/
theorem tableNumber_inj {k g g' r r' : Nat} (hr : r < k) (hr' : r' < k) (h : g' * k + r' = g * k + r) : g' = g ∧ r' = r := by
  have hg : ∀ {x y : Nat}, y < k → (x * k + y) / k = x := fun {x y} hy => by
    rw [Nat.mul_comm, Nat.mul_add_div (by omega), Nat.div_eq_of_lt hy, Nat.add_zero]
  have hgg : g' = g := by rw [← hg (x := g') hr', ← hg (x := g) hr, h]
  subst hgg
  exact ⟨rfl, by omega⟩

/-- The state with the tables of `k` rows and `groups` groups of a bank written, each of `n` bytes. -/
def putTables (s : State) (cl b k groups n : Nat) (v : Nat → Nat → Nat) : State :=
  (List.range k).foldl (fun s r => (List.range groups).foldl (fun s g => putTable s cl b (g * k + r) n (v r g)) s) s

/-- Each entry is its lane of the number written for its row and group. -/
theorem putTables_entry {k groups n r g e : Nat} (v : Nat → Nat → Nat) (h : s.MemOk) (hr : r < k) (hg : g < groups)
    (hn : 2 * e + 2 ≤ n) (h512 : n ≤ 512) (he : e < 256) :
    EntryIs (putTables s cl b k groups n v) cl b (g * k + r) e (laneAt 16 e (v r g)) := by
  have keeps : ∀ (s : State) (r' g' : Nat), r' < k → (r' ≠ r ∨ g' ≠ g) → s.MemOk →
      EntryIs s cl b (g * k + r) e (laneAt 16 e (v r g)) →
      EntryIs (putTable s cl b (g' * k + r') n (v r' g')) cl b (g * k + r) e (laneAt 16 e (v r g)) := by
    intro s r' g' hr' hne hs hw
    refine putTable_other hs (fun ht => ?_) h512 he hw
    obtain ⟨hgg, hrr⟩ := tableNumber_inj hr hr' ht
    exact hne.elim (absurd hrr) (absurd hgg)
  refine foldl_sets (P := State.MemOk) (Q := fun s => EntryIs s cl b (g * k + r) e (laneAt 16 e (v r g))) (List.mem_range.2 hr)
    (fun s x _ hs => foldl_wf _ (fun s y hs => putTable_wf cl b _ _ _ hs) _ s hs) ?row ?others h
  case row =>
    exact fun s hs => foldl_sets (P := State.MemOk) (List.mem_range.2 hg)
      (fun s y _ hs => putTable_wf cl b _ _ _ hs) (fun s hs => putTable_entry hs hn)
      (fun s y _ hy hs hw => keeps s r y hr (.inr hy) hs hw) hs
  case others =>
    intro s x hx hxr hs hw
    exact ((List.range groups).foldlRecOn
      (motive := fun s => s.MemOk ∧ EntryIs s cl b (g * k + r) e (laneAt 16 e (v r g))) _ ⟨hs, hw⟩ fun s ⟨hs, hw⟩ y _ =>
        ⟨putTable_wf cl b _ _ _ hs, keeps s x y (List.mem_range.1 hx) (.inl hxr) hs hw⟩).2

/-- A build writes every table of its bank: each entry is the rounded sum that defines it (R98, R271). -/
theorem writeTables_entry (k : Bank) (acts : List FV) (h : s.MemOk) {r g e : Nat} (hr : r < k.b) (hg : g < k.g)
    (he : e < if k.planes then 16 else 256) :
    EntryIs (writeTables s cl b k acts) cl b (g * k.b + r) e ((Fmt.bf16.round .ne false .arith
      (entrySum k.planes acts (r * ((if k.planes then 512 else 256) / k.b) + (if k.planes then 512 else 256) / 128 * g) e)).1
        % 2 ^ 16) := by
  have hn : 2 * e + 2 ≤ (if k.planes then 32 else 512) ∧ (if k.planes then 32 else 512) ≤ 512 ∧ e < 256 := by
    split at he <;> simp_all <;> omega
  obtain ⟨hn, h512, h256⟩ := hn
  rw [← laneAt_tableRow k.planes acts _ he]
  exact putTables_entry (fun r g => tableRow k.planes acts
    (r * ((if k.planes then 512 else 256) / k.b) + (if k.planes then 512 else 256) / 128 * g)) h hr hg hn h512 h256

end

/-! ### What a commit leaves in place -/

/-- Frames are as they were, no line has gained an error, and the records and partition words of clusters stay: what says
where a frame's copy lies and whether there is room for one (R51, R105, R355). -/
structure SamePlaces (s t : State) : Prop where
  frames : t.frames = s.frames
  poison : ∀ k ∈ t.poison, k ∈ s.poison
  pword : ∀ cl, (t.cluster cl).pword = (s.cluster cl).pword
  parked : ∀ cl, (t.cluster cl).parked = (s.cluster cl).parked
  disp : t.clusters.flatMap (·.2.disp) = s.clusters.flatMap (·.2.disp)

namespace SamePlaces

variable {s t v : State}

theorem refl (s : State) : SamePlaces s s := ⟨rfl, fun _ h => h, fun _ => rfl, fun _ => rfl, rfl⟩

theorem trans (h : SamePlaces s t) (g : SamePlaces t v) : SamePlaces s v where
  frames := g.frames.trans h.frames
  poison k hk := h.poison k (g.poison k hk)
  pword cl := (g.pword cl).trans (h.pword cl)
  parked cl := (g.parked cl).trans (h.parked cl)
  disp := g.disp.trans h.disp

/-- Clusters that are the same have the same places. -/
theorem of_clusters (hf : t.frames = s.frames) (hp : t.poison = s.poison) (hc : t.clusters = s.clusters) : SamePlaces s t where
  frames := hf
  poison k hk := hp ▸ hk
  pword cl := by simp only [State.cluster, hc]
  parked cl := by simp only [State.cluster, hc]
  disp := by rw [hc]

theorem of_map (g : Nat × Cluster → Cluster)
    (hg : ∀ p, (g p).pword = p.2.pword ∧ (g p).parked = p.2.parked ∧ (g p).disp = p.2.disp) (hf : t.frames = s.frames)
    (hp : ∀ k ∈ t.poison, k ∈ s.poison) (hc : t.clusters = s.clusters.map fun p => (p.1, g p)) : SamePlaces s t where
  frames := hf
  poison := hp
  pword cl := by
    simp only [State.cluster, AL.get, hc, find_map]
    cases AL.find? s.clusters cl <;> simp [hg]
  parked cl := by
    simp only [State.cluster, AL.get, hc, find_map]
    cases AL.find? s.clusters cl <;> simp [hg]
  disp := by rw [hc, List.flatMap_map]; simp only [hg]

theorem foldl {α : Type} (g : State → α → State) (hg : ∀ s a, SamePlaces s (g s a)) (l : List α) :
    ∀ s, SamePlaces s (l.foldl g s) := by
  induction l with
  | nil => exact refl
  | cons a l ih => exact fun s => (hg s a).trans (ih _)

/-- The records of a list of clusters in which one is set to another with the same records. -/
theorem disp_set (l : AL Nat Cluster) (cl : Nat) (c : Cluster) (h : c.disp = (AL.get Cluster.empty l cl).disp) :
    (AL.set l cl c).flatMap (·.2.disp) = l.flatMap (·.2.disp) := by
  induction l with
  | nil => simpa [AL.set, AL.get, AL.find?, Cluster.empty] using h
  | cons p l ih =>
    obtain ⟨a, d⟩ := p
    by_cases ha : a = cl
    · simp_all [AL.set, AL.get, AL.find?]
    · have hl : c.disp = (AL.get Cluster.empty l cl).disp := by simpa [AL.get, AL.find?, ha] using h
      simp only [AL.set, ha, if_false, List.flatMap_cons, ih hl]

theorem modCluster (s : State) (cl : Nat) (g : Cluster → Cluster)
    (hg : ∀ c, (g c).pword = c.pword ∧ (g c).parked = c.parked ∧ (g c).disp = c.disp) : SamePlaces s (s.modCluster cl g) where
  frames := rfl
  poison _ h := h
  pword d := by
    rw [cluster_modCluster]
    split
    next h => rw [(hg _).1, h]
    next => rfl
  parked d := by
    rw [cluster_modCluster]
    split
    next h => rw [(hg _).2.1, h]
    next => rfl
  disp := disp_set s.clusters cl _ (hg _).2.2

theorem landWrite (s : State) (line : Nat) (cells : List Host.Cell) (d : Option Desc) (e : Option EncTag) :
    SamePlaces s (landWrite s line cells d e) := by
  refine of_map (fun p => if isHbm line then wakeRuns line p.2 else invalidateBanks line p.2) ?_ rfl ?_ rfl
  · intro p
    split <;> exact ⟨rfl, rfl, rfl⟩
  · intro k hk
    simp only [Machine.landWrite] at hk
    split at hk
    · exact (List.mem_filter.1 hk).1
    · exact hk

theorem landHeld (s : State) (line : Nat) (p : Nat → HeldStore → Bool) : SamePlaces s (landHeld s line p) :=
  (foldl _ (fun s (e : HeldStore) => landWrite s e.line e.bytes e.desc e.enc) _ s).trans
    (of_map (fun c => { c.2 with writeQ := c.2.writeQ.filter fun e => !(e.line == line && p c.1 e) })
      (fun _ => ⟨rfl, rfl, rfl⟩) rfl (fun _ h => h) rfl)

theorem landAll (s : State) : SamePlaces s (landAll s) := foldl _ (fun s _ => landHeld s _ _) _ s

theorem drainLine (s : State) (line : Nat) (p : Nat → HeldStore → Bool) : SamePlaces s (drainLine s line p) := by
  refine (landHeld s line p).trans ?_
  simp only [Machine.drainLine]
  split
  · exact landAll _
  · exact refl _

theorem drainWhere (s : State) (p : Nat → HeldStore → Bool) : SamePlaces s (drainWhere s p) :=
  foldl _ (fun s _ => drainLine s _ _) _ s

theorem visibleWrite (s : State) (line : Nat) (cells : List Host.Cell) (d : Option Desc) (e : Option EncTag) :
    SamePlaces s (visibleWrite s line cells d e) := by
  unfold Machine.visibleWrite
  refine trans ?_ (landWrite _ _ _ _ _)
  split
  · exact drainWhere _ _
  · exact drainLine _ _ _

theorem post (s : State) (f : Flit) : SamePlaces s (Machine.post s f) := by
  obtain ⟨hf, hc, hp⟩ := post_frames s f
  exact of_clusters hf hp hc

theorem postCpl (s : State) (fn a b c d : Nat) : SamePlaces s (postCpl s fn a b c d) := by
  unfold Machine.postCpl
  exact of_clusters rfl rfl rfl

theorem tellLaunch (s : State) (rid cls : Nat) : SamePlaces s (tellLaunch s rid cls) := by
  unfold Machine.tellLaunch
  split
  · split
    · exact postCpl _ _ _ _ _ _
    · exact refl s
  · exact refl s

theorem ringWrite (s : State) (p : Part) (r : BitVec 512) : SamePlaces s (ringWrite s p r) :=
  ((visibleWrite _ _ _ _ _).trans (visibleWrite _ _ _ _ _)).trans (post _ _)

/-- Taking a fault leaves the places of frames. -/
theorem takeFault (s : State) (w : FaultSite) (f : Flt) : SamePlaces s (takeFault s w f) := by
  unfold Machine.takeFault
  extract_lets pn p record s1
  split
  · exact (of_clusters rfl rfl rfl : SamePlaces s (s.modPart pn _)).trans (postCpl _ _ _ _ _ _)
  · refine trans (t := s1) (tellLaunch s w.rid _) ?_
    split
    · exact of_clusters rfl rfl rfl
    · exact ringWrite _ _ _

theorem commitStore (s : State) (cl : Nat) (e : LogStore) : SamePlaces s (commitStore s cl e) := by
  unfold Machine.commitStore
  extract_lets t d
  have hdrop : SamePlaces s t := by
    refine trans (t := if translates s e.line then Machine.landAll s else Machine.drainLine s e.line fun _ _ => true) ?_
      (of_clusters rfl rfl rfl)
    split
    · exact landAll s
    · exact drainLine s _ _
  split
  · exact hdrop.trans (landWrite _ _ _ _ _)
  · exact hdrop.trans (takeFault _ _ _)

theorem commitCluster (s : State) (rid cl : Nat) : SamePlaces s (commitCluster s rid cl) :=
  (foldl _ (fun s e => commitStore s cl e) _ s).trans
    (modCluster _ cl (fun c => { c with ilog := c.ilog.filter (·.rid != rid), undo := c.undo.filter (·.1 != rid) })
      fun _ => ⟨rfl, rfl, rfl⟩)

/-- An interval that becomes irrevocable leaves the places of frames. -/
theorem makeIrrevocable (s : State) (rid : Nat) : SamePlaces s (makeIrrevocable s rid) := by
  unfold Machine.makeIrrevocable
  split
  · exact (foldl _ (fun s cl => commitCluster s rid cl) _ s).trans (of_clusters rfl rfl rfl)
  · exact refl s

theorem setBank (s : State) (cl b : Nat) (k : Bank) : SamePlaces s (setBank s cl b k) :=
  modCluster s cl _ fun _ => by split <;> exact ⟨rfl, rfl, rfl⟩

theorem slotOk {rid : Nat} {g : Tag} {cl : Nat} (h : SamePlaces s t) (ho : SlotOk s rid g cl) : SlotOk t rid g cl := by
  obtain ⟨⟨hlive, hroom⟩, hgood⟩ := ho
  have hframe : frameAt t rid g = frameAt s rid g := by simp only [frameAt, State.frame, h.frames]
  have hused : frameUsed t cl = frameUsed s cl := by simp only [frameUsed, recordsIn, h.frames, h.parked, h.disp]
  have hcopy : copyRoom t cl = copyRoom s cl := by rw [copyRoom, copyRoom, hused, h.pword]
  refine ⟨⟨hframe.symm ▸ hlive, by rw [hframe, hcopy]; exact hroom⟩, fun hc i hi => ?_⟩
  rw [hframe] at hc
  have hline : frameLine t rid g cl (8 * i) = frameLine s rid g cl (8 * i) := by
    simp only [frameLine, copyOffset, frameClassAt, h.pword]
  have hclean := hgood hc i hi
  rw [hline]
  simp only [Bool.eq_false_iff, ne_eq, List.contains_iff_mem] at hclean ⊢
  exact fun hk => hclean (h.poison _ hk)

/-- What a node can send it can still send where arcs and places are the same. -/
theorem canEmit {c : Cur} {n : Nd} {b : Payload} {sc : Bool} (h : SamePlaces s t) (ha : SameArcs s t)
    (he : CanEmit s c n b sc) : CanEmit t c n b sc := by
  have hframe : ∀ rid g, frameAt t rid g = frameAt s rid g := fun rid g => by simp only [frameAt, State.frame, h.frames]
  have htag : tagOf t c n.t b = tagOf s c n.t b := by simp only [tagOf, hframe]
  have hdst : ∀ d g, DstOk s c d g sc → DstOk t c d g sc := by
    intro d g hd
    by_cases hs : d = .slot
    · subst hs
      exact ⟨hd.1, h.slotOk hd.2⟩
    · exact dstOk_same hd ha hs
  refine ⟨he.1, fun g hg => ?_⟩
  obtain ⟨hd, hde⟩ := he.2 g (htag ▸ hg)
  exact ⟨hdst _ g hd, hdst _ g hde⟩

end SamePlaces

/-! ### Nodes of the lookup matrix unit -/

section

variable {s s2 t : State} {c : Cur} {n : Nd} {a b : Opd} {x : Scalar}

/-- A lookup-matrix node whose meaning answers a state ends in it (R268). -/
theorem lmNode_ends {i : Instr} {op : Nat} {body : State → Cur → Opd → Opd → Res State}
    (he : exec i s = lmNode op n s body) (hc : Fires s c op) (hr : ReadsAB s c n a b s2) (ho : orderOk c.f.o = .ok ())
    (h : body s2 c a b = .ok t) : Ends i s c op t := by
  obtain ⟨s1, ha, hb⟩ := hr
  exact he.trans (runNode_ok hc.1 hc.2 (by simp only [bind, Except.bind, ha, hb, ho, h]))

/-- A scalar operand of class U (R90). -/
theorem scalarU_ok {ts : List TType} (h : asScalar a ts = .ok x) (hs : x.sc = false) : scalarU a ts = .ok x := by
  simp only [scalarU, clearOf, h, hs, need, bind, Except.bind]
  rfl

/-- The handle of a bank names it (R104, R268). -/
theorem bankHandle_ok {k : Nat} (h : asScalar b [.handle] = .ok x) (hs : x.sc = false) (hv : x.val.toNat = 2 * 2 ^ 56 + k)
    (hk : k < 2) : bankHandle b = .ok k := by
  have hkind : (x.val.toNat / 2 ^ 56 == 0x02) = true := by rw [hv, beq_iff_eq]; omega
  have hrest : (bits x.val.toNat 55 1 == 0) = true := by simp only [bits, hv, beq_iff_eq]; omega
  have hnum : bits x.val.toNat 0 0 = k := by simp only [bits, hv]; omega
  simp only [bankHandle, scalarU_ok h hs, bind, Except.bind, hkind, hrest, hnum, need]
  rfl

/-- The fields of a scratchpad pointer that is aligned to a line (R103, R271). -/
theorem padPointer_fields {v off : Nat} (hv : v = 0xFC * 2 ^ 56 + off) (hoff : off < 2 ^ 19) (hal : off % 64 = 0) :
    (v / 2 ^ 56 == 0xFC && bits v 55 19 == 0) = true ∧ (v % 64 == 0) = true ∧ bits v 18 0 = off := by
  simp only [bits, hv, Bool.and_eq_true, beq_iff_eq]
  omega

/-- The fields of the position of a fill (R273). -/
theorem fillPosition_fields {v x k : Nat} (hv : v = x + 2 ^ 11 * k) (hx : x < 2 ^ 11) (hk : k < 2) :
    (v / 2 ^ 12 == 0) = true ∧ bits v 11 11 = k ∧ bits v 10 0 = x := by
  simp only [bits, hv, beq_iff_eq]
  omega

theorem needOwner_ok {k : Nat} (h : (bankOf s c.u.cl k).owner = some c.f.rid) : needOwner s c k = .ok () := by
  simp only [needOwner, need, h, beq_self_eq_true, if_true]

theorem bankOf_setBank (s : State) (cl b : Nat) (k : Bank) : bankOf (setBank s cl b k) cl b = k := by
  unfold bankOf setBank
  rw [cluster_modCluster, if_pos rfl]
  split <;> rfl

/-- A bank stands in its cluster. -/
theorem bankOf_congr {cl b : Nat} (hA : (t.cluster cl).bankA = (s.cluster cl).bankA)
    (hB : (t.cluster cl).bankB = (s.cluster cl).bankB) : bankOf t cl b = bankOf s cl b := by
  simp only [bankOf, hA, hB]

/-! ### Builds -/

/-- A format of set F gives a build 16 or 32 values for each line, so that its run has at least 8 lines (R271). -/
theorem runLength_pos (planes : Bool) {e : Nat} (he : inF e) : 0 < runLength planes e := by
  rcases he with rfl | rfl <;> cases planes <;> decide

/-- The first line of a run. -/
theorem padLines_head (s : State) (cl off : Nat) {n : Nat} (hn : 0 < n) :
    (padLines s cl off n).head? = some ((padLines s cl off 1).headD (0, 0)) := by
  obtain ⟨m, rfl⟩ : ∃ m, n = m + 1 := ⟨n - 1, by omega⟩
  simp only [padLines, List.range_succ_eq_map, List.map_cons, List.head?_cons]
  rfl

/-- Lines without an uncorrectable error can be read (R356). -/
theorem needPool_ok {cl off n addr : Nat} (h : ∀ i, i < n → s.poison.contains (poolKey cl (off + 64 * i)) = false) :
    needPool s cl off n addr = .ok () := by
  have hnone : ((List.range n).find? fun i => s.poison.contains (poolKey cl (off + 64 * i))) = none :=
    List.find?_eq_none.2 fun i hi => by rw [h i (List.mem_range.1 hi)]; exact Bool.false_ne_true
  unfold needPool
  rw [hnone]

/-- A run inside the scratchpad, of lines of one format of set F and without an error, is read (R271). -/
theorem buildRun_ok {cl off e : Nat} {planes : Bool} {l : List Line} (he : inF e)
    (hsize : off + 64 * runLength planes e ≤ padSize s cl) (hl : padLines s cl off (runLength planes e) = l)
    (hfmt : ∀ z ∈ l, z.2.fmt = e) (hp : ∀ i, i < runLength planes e → s.poison.contains (poolKey cl (off + 64 * i)) = false) :
    buildRun s cl off planes = .ok (e, l) := by
  have hpos := runLength_pos planes he
  have hhead : ((padLines s cl off 1).headD (0, 0)).2.fmt = e := by
    have h := padLines_head s cl off hpos
    rw [hl] at h
    exact hfmt _ (List.mem_of_head? h)
  have hset : (e == 0x04 || e == 0x05) = true := by rcases he with rfl | rfl <;> rfl
  have hfirst : decide (off + 64 ≤ padSize s cl) = true := decide_eq_true (by omega)
  have hnone : (l.find? fun z => z.2.fmt != e) = none := List.find?_eq_none.2 fun z hz => by simp [hfmt z hz]
  simp only [buildRun, hhead, hset, hfirst, decide_eq_true hsize, needPool_ok hp, hl, hnone, need, bind, Except.bind, if_true]
  rfl

/-- The bank a build starts with: the shape of its geometry word, and invalid until it completes (R267, R271). -/
theorem startBuild_bank (s : State) (cl b : Nat) (k : Bank) (r : LmRun) :
    bankOf (startBuild s cl b k r) cl b = { k with valid := false, filled := 0, srcLines := 0 } := by
  refine (bankOf_congr ?_ ?_).trans (bankOf_setBank s cl b { k with valid := false, filled := 0, srcLines := 0 }) <;>
    rw [startBuild, cluster_modCluster, if_pos rfl]

theorem startBuild_build (s : State) (cl b : Nat) (k : Bank) (r : LmRun) :
    ((startBuild s cl b k r).cluster cl).build = some r := by
  rw [startBuild, cluster_modCluster, if_pos rfl]

/-- The end of a build sets its bank valid, unless a write met the build (R145). -/
theorem finishBuild_bank {cl : Nat} {r : LmRun} (h : finishBuild s cl r = .ok t) :
    (bankOf t cl (r.aux.getD 3 0)).valid = !r.dirty ∧ (bankOf t cl (r.aux.getD 3 0)).filled = 0 := by
  unfold finishBuild at h
  extract_lets off b k built at h
  have hbuilt : ∀ s n fmt, (bankOf (built s n fmt) cl b).valid = !r.dirty ∧ (bankOf (built s n fmt) cl b).filled = 0 :=
    fun s n fmt => by simp only [built, bankOf_setBank, and_self]
  split at h
  · cases h
    exact hbuilt _ _ _
  · rcases of_ite_eq h with h | h
    · cases h
      exact hbuilt _ _ _
    · cases h

/-- The end of a build whose run is read writes the tables of its bank (R271). -/
theorem finishBuild_mem {cl fmt : Nat} {r : LmRun} {l : List Line}
    (hr : buildRun s cl (r.aux.getD 1 0) (bankOf s cl (r.aux.getD 3 0)).planes = .ok (fmt, l)) (h : finishBuild s cl r = .ok t) :
    t.mem = (writeTables s cl (r.aux.getD 3 0) (bankOf s cl (r.aux.getD 3 0)) (activations fmt l)).mem := by
  simp only [finishBuild, hr, Except.ok.injEq] at h
  subst h
  rfl

/-! ### Fills -/

theorem logging_makeIrrevocable (s : State) (rid : Nat) : logging (makeIrrevocable s rid) rid = false := by
  unfold makeIrrevocable
  split
  next => simp only [logging, region_modRegion, if_true, Bool.not_true, Bool.and_false]
  next h => exact Bool.eq_false_iff.2 h

/-- What a fill of position `x` writes of its line's data (R273). -/
def fillMem (m : Memory) (cl k x : Nat) (planes : Bool) (d : Nat) : Memory :=
  if planes then Memory.writeN (Memory.writeN m (tableKey cl k (2 * x) 0) 32 d) (tableKey cl k (2 * x + 1) 0) 32 (d / 2 ^ 256)
  else Memory.writeN m (tableKey cl k (x / 8) (32 * (x % 8))) 64 d

/-- In pair mode a fill writes 32 entries of a table. -/
theorem fillMem_pairs {m : Memory} (cl k x : Nat) {d : Nat} (hm : m.wf = true) (hd : d < 2 ^ (8 * 64)) :
    Memory.readN (fillMem m cl k x false d) (tableKey cl k (x / 8) (32 * (x % 8))) 64 = d := by
  rw [fillMem, if_neg Bool.false_ne_true, readN_writeN _ _ _ hm, Nat.mod_eq_of_lt hd]

/-- In bit-plane mode a fill writes the 16 entries of two tables. -/
theorem fillMem_planes {m : Memory} (cl k x : Nat) {d : Nat} (hm : m.wf = true) (hd : d < 2 ^ (8 * 64)) :
    Memory.readN (fillMem m cl k x true d) (tableKey cl k (2 * x) 0) 32 = d % 2 ^ (8 * 32) ∧
      Memory.readN (fillMem m cl k x true d) (tableKey cl k (2 * x + 1) 0) 32 = d / 2 ^ 256 := by
  have hw := writeN_wf (tableKey cl k (2 * x) 0) 32 d hm
  have hbelow : tableKey cl k (2 * x) 0 + 32 ≤ tableKey cl k (2 * x + 1) 0 := by
    simp only [tableKey]
    omega
  rw [show 8 * 64 = 8 * 32 + 8 * 32 from rfl, Nat.pow_add] at hd
  rw [fillMem, if_pos rfl]
  refine ⟨?_, ?_⟩
  · rw [readN_writeN_outside _ _ hw (.inl hbelow), readN_writeN _ _ _ hm]
  · rw [readN_writeN _ _ _ hw, Nat.mod_eq_of_lt (Nat.div_lt_of_lt_mul hd)]

/-- A bank that a fill leaves valid, in the shape of its geometry word (R267, R273). -/
def filledBank (k : Bank) (w : Nat) : Bank :=
  { k.byWord w with valid := true, auto := false, filled := 1, srcLines := 0, src := none }

/-- The state in which a fill sends its marker: its line written, its bank valid, and no interval of its region revocable (R273). -/
def filledState (s : State) (rid cl k x w : Nat) (d : Nat) : State :=
  let s := makeIrrevocable s rid
  setBank { s with mem := fillMem s.mem cl k x (bitAt w 3) d } cl k
    (filledBank (bankOf s cl k) w)

/-- What a firing could send it can still send once its fill is written. -/
theorem canEmit_filledState {x k w d : Nat} {p : Payload} {sc : Bool} (h : CanEmit s c n p sc) :
    CanEmit (filledState s c.f.rid c.u.cl k x w d) c n p sc := by
  have hmem : ∀ (s : State) m, SamePlaces s { s with mem := m } := fun _ _ => .of_clusters rfl rfl rfl
  exact (((SamePlaces.makeIrrevocable s c.f.rid).trans (hmem _ _)).trans (SamePlaces.setBank _ _ _ _)).canEmit
    (((sameArcs_makeIrrevocable s c.f.rid).trans (sameArcs_units rfl rfl)).trans (sameArcs_modCluster _ _ _)) h

/-- Sending leaves the memory and the banks that a fill has written, as no interval of the region is revocable. -/
theorem finish_filledState {x k w d : Nat} {p q : Payload}
    (h : finish (filledState s c.f.rid c.u.cl k x w d) c n p q = .ok t) :
    t.mem = fillMem (makeIrrevocable s c.f.rid).mem c.u.cl k x (bitAt w 3) d ∧
      bankOf t c.u.cl k = filledBank (bankOf (makeIrrevocable s c.f.rid) c.u.cl k) w := by
  have hroom : HasRoom c 2 (filledState s c.f.rid c.u.cl k x w d) := fun hl => by
    have hoff : logging (filledState s c.f.rid c.u.cl k x w d) c.f.rid = false := logging_makeIrrevocable s c.f.rid
    rw [hoff] at hl
    cases hl
  have hf := finish_frame hroom h
  obtain ⟨hmem, -, -, -⟩ := hf.memory
  have hbank : bankOf (filledState s c.f.rid c.u.cl k x w d) c.u.cl k =
      filledBank (bankOf (makeIrrevocable s c.f.rid) c.u.cl k) w := bankOf_setBank _ _ _ _
  refine ⟨hmem, (bankOf_congr ?_ ?_).trans hbank⟩
  · exact (congrArg Cluster.bankA hf.ownCluster :)
  · exact (congrArg Cluster.bankB hf.ownCluster :)

end

/-- Settles O38: a build reads its run and starts, its end sets the bank and writes each table's row, and a fill writes its line
once its region's interval is irrevocable. -/
theorem tablesAreBuiltAndFilled : Obligations.TablesAreBuiltAndFilled := by
  refine ⟨?starts, ?ends, ?entries, ?fills⟩
  case starts =>
    intro n auto s c a b s2 x y off k e l hc hr ho hx hxs hxv hoff hal hy hys hyv hk hown hlook hbuild w lines he hsize hl hfmt
      hpoison s3
    have hrun : buildRun s2 c.u.cl off (bitAt (geometry s2 c.u.cl k) 3) = .ok (e, l) := buildRun_ok he hsize hl hfmt hpoison
    have hlen : l.length = lines := by rw [← hl, padLines, List.length_map, List.length_range]
    obtain ⟨hpool, halign, hlow⟩ := padPointer_fields hxv hoff hal
    have hfree : (!lookUses s2 c.u.cl k && (s2.cluster c.u.cl).build.isNone) = true := by rw [hlook, hbuild]; rfl
    refine ⟨startBuild s3 c.u.cl k ((bankOf s3 c.u.cl k).byWord w)
      (buildOf (.lmBuild n auto) (c.f.withOpds a b) 0 c.u.cl off lines k auto),
      lmNode_ends (Eq.refl (execLmBuild n auto s)) hc hr ho ?_, rfl, rfl, rfl, startBuild_build _ _ _ _ _, ?_⟩
    · simp only [scalarU_ok (ts := ptrTypes) hx hxs, bankHandle_ok hy hys hyv hk, hpool, halign, needOwner_ok hown, hfree, hlow,
        hrun, hlen, need, needWait, bind, Except.bind, if_true]
      rfl
    · rw [startBuild_bank]
      exact ⟨rfl, rfl, rfl, rfl⟩
  case ends =>
    intro s cl x n s2 hb hi _ hfin hemit
    obtain ⟨t, ht⟩ := finish_ok (p := marker 1 false) hemit
    refine ⟨t, ht, ?_, finishBuild_bank hfin⟩
    show execLmBuildComplete cl s = _
    rcases hi with ⟨auto, hi⟩ | ⟨sc, hi⟩ <;>
      simp only [execLmBuildComplete, hb, hi, bind, Option.bind, Except.bind, hfin, runToken, ht, conclude] <;> rfl
  case entries =>
    intro s cl x s2 b off fmt l hm _ _ hb hoff hrun hfin k an r g e hr hg he
    subst hb hoff
    have hentry := writeTables_entry (cl := cl) (b := x.aux.getD 3 0) k (activations fmt l) hm hr hg he
    rwa [EntryIs, ← finishBuild_mem hrun hfin] at hentry
  case fills =>
    intro n s c a b s2 d e src y x k hm hc hr ho ha he hy hys hyv hk hown hlook hbuild w hx hemit
    have hposition : decide (x < if bitAt (geometry s2 c.u.cl k) 3 then 64 else 1024) = true := decide_eq_true hx
    obtain ⟨hrange, hbank, hpos⟩ := fillPosition_fields hyv (Nat.lt_of_lt_of_le hx (by split <;> decide)) hk
    have hfree : (!lookUses s2 c.u.cl k && buildBank s2 c.u.cl != some k) = true := by
      rw [hlook, bne_iff_ne.2 hbuild]
      rfl
    obtain ⟨t, ht⟩ := finish_ok (p := marker 1 false) (canEmit_filledState (x := x) (k := k) (w := w) (d := d.toNat) hemit)
    obtain ⟨hmem, hbankt⟩ := finish_filledState ht
    have hwf := makeIrrevocable_wf c.f.rid hm
    refine ⟨t, lmNode_ends (Eq.refl (execLmFill n s)) hc hr ho ?_, ?_⟩
    · simp only [ha, scalarU_ok hy hys, hbank, hpos, hrange, needOwner_ok hown, hfree, he, hposition, need, needWait, bind,
        Except.bind, if_true, ne_eq, not_true_eq_false, if_false]
      exact ht
    · rw [hbankt, hmem]
      exact ⟨rfl, rfl, rfl, rfl, fun hp => hp ▸ fillMem_pairs _ _ _ hwf d.isLt, fun hp => hp ▸ fillMem_planes _ _ _ hwf d.isLt⟩

end Sys2Proof.Proofs

/-! ## Every step keeps memory canonical

What a step may answer holds memory in its canonical form (O59). Computations are taken apart by rules for what they answer; each
operation on the state has one lemma, that it keeps memory canonical; the instructions and events are composed of these. -/

namespace Sys2Proof.Proofs

open Sys2Proof Sys2Proof.Machine Sys2Proof.Laws

/-! ### What a computation may answer -/

/-- Whatever a computation answers, when it does not stop, has a property. -/
def Yields {ε α : Type} (P : α → Prop) (x : Except ε α) : Prop := ∀ a, x = .ok a → P a

/-- Whatever a step answers, when it can be made, has a property. -/
def Leaves {α : Type} (P : α → Prop) (x : Option α) : Prop := ∀ a, x = some a → P a

/-- The next state of a step that ends has its memory in canonical form. -/
def EndsOk (x : Answer) : Prop := ∀ t, x = .next t → t.MemOk

/-- A state that a computation answers beside something else has its memory in canonical form. -/
def SndOk {α : Type} (x : α × State) : Prop := x.2.MemOk

theorem SndOk.mk {α : Type} {a : α} {s : State} (h : s.MemOk) : SndOk (a, s) := h

theorem SndOk.of_eq {α : Type} {x : α × State} {a : α} {s : State} (h : SndOk x) (e : x = (a, s)) : s.MemOk := by
  subst e
  exact h

/-- The same of a state that comes third. -/
def ThirdOk {α β : Type} (x : α × β × State) : Prop := x.2.2.MemOk

theorem ThirdOk.mk {α β : Type} {a : α} {b : β} {s : State} (h : s.MemOk) : ThirdOk (a, b, s) := h

theorem ThirdOk.of_eq {α β : Type} {x : α × β × State} {a : α} {b : β} {s : State} (h : ThirdOk x) (e : x = (a, b, s)) :
    s.MemOk := by
  subst e
  exact h

namespace Yields

variable {ε α β : Type} {P : α → Prop} {Q : β → Prop} {x : Except ε α} {f : α → Except ε β} {a : α} {e : ε}

theorem ok (h : P a) : Yields P (.ok a : Except ε α) := by
  rintro _ ⟨⟩
  exact h

theorem error : Yields P (.error e : Except ε α) := nofun

theorem bind (hx : Yields P x) (hf : ∀ a, P a → Yields Q (f a)) : Yields Q (x >>= f) := by
  cases x with
  | ok a => exact hf a (hx a rfl)
  | error e => exact error

/-- A computation that answers no state needs no rule. -/
theorem skip (hf : ∀ a, Yields Q (f a)) : Yields Q (x >>= f) :=
  bind (P := fun _ => True) (fun _ _ => trivial) fun a _ => hf a

theorem map {g : α → β} (hx : Yields P x) (hg : ∀ a, P a → Q (g a)) : Yields Q (x.map g) := by
  cases x with
  | ok a => exact ok (hg a (hx a rfl))
  | error e => exact error

/-- A fold of computations keeps what each of them keeps. -/
theorem foldlM {γ : Type} {g : α → γ → Except ε α} (hg : ∀ a b, P a → Yields P (g a b)) (l : List γ) :
    ∀ a, P a → Yields P (l.foldlM g a) := by
  induction l with
  | nil => exact fun a h => ok h
  | cons b l ih =>
    intro a h
    rw [List.foldlM_cons]
    exact bind (hg a b h) ih

/-- A loop of computations keeps what each pass of it keeps. -/
theorem forIn {γ : Type} {g : γ → α → Except ε (ForInStep α)} (hg : ∀ b a, P a → Yields (fun r => P r.value) (g b a))
    (l : List γ) : ∀ a, P a → Yields P (ForIn.forIn l a g) := by
  induction l with
  | nil => exact fun a h => ok h
  | cons b l ih =>
    intro a h
    rw [List.forIn_cons]
    refine bind (hg b a h) fun r hr => ?_
    cases r with
    | done a => exact ok hr
    | yield a => exact ih a hr

end Yields

namespace Leaves

variable {α β : Type} {P : α → Prop} {Q : β → Prop} {x : Option α} {f : α → Option β} {a : α}

theorem some (h : P a) : Leaves P (some a) := by
  rintro _ ⟨⟩
  exact h

theorem none : Leaves P (none : Option α) := nofun

theorem bind (hx : Leaves P x) (hf : ∀ a, P a → Leaves Q (f a)) : Leaves Q (x >>= f) := by
  cases x with
  | some a => exact hf a (hx a rfl)
  | none => exact none

/-- A search that answers no state needs no rule. -/
theorem skip (hf : ∀ a, Leaves Q (f a)) : Leaves Q (x >>= f) :=
  bind (P := fun _ => True) (fun _ _ => trivial) fun a _ => hf a

theorem map {g : α → β} (hg : ∀ a, Q (g a)) : Leaves Q (x.map g) := by
  cases x with
  | some a => exact some (hg a)
  | none => exact none

/-- What a step that is made leads to. -/
theorem map_of {g : α → β} (hx : Leaves P x) (hg : ∀ a, P a → Q (g a)) : Leaves Q (x.map g) := by
  cases x with
  | some a => exact some (hg a (hx a rfl))
  | none => exact none

theorem getD {d : α} (hx : Leaves P x) (hd : P d) : P (x.getD d) := by
  cases x with
  | some a => exact hx a rfl
  | none => exact hd

end Leaves

/-- A choice of states has what both of them have. -/
theorem ite_of {α : Type} {P : α → Prop} {c : Prop} [Decidable c] {x y : α} (hx : P x) (hy : P y) : P (if c then x else y) := by
  split
  · exact hx
  · exact hy

/-- A fold of steps keeps memory canonical where each of them does. -/
theorem foldl_ok {α : Type} {f : State → α → State} {l : List α} {s : State} (h : s.MemOk)
    (hf : ∀ s a, s.MemOk → (f s a).MemOk) : (l.foldl f s).MemOk := foldl_wf f hf l s h

section

variable {s t : State} {c : Cur} {u : UId} {rid cl : Nat} {g : Tag} {d e : Dst} {p q b : Payload} {n : Nd}

/-! ### Changes of other parts -/

theorem modUnit_wf {f : HwUnit → HwUnit} (h : s.MemOk) : (s.modUnit u f).MemOk := h

theorem modCluster_wf {f : Cluster → Cluster} (h : s.MemOk) : (s.modCluster cl f).MemOk := h

theorem modRegion_wf {f : Region → Region} (h : s.MemOk) : (s.modRegion rid f).MemOk := h

theorem modPart_wf {p : Nat} {f : Part → Part} (h : s.MemOk) : (s.modPart p f).MemOk := h

theorem setFrame_wf {die fr : Nat} {f : Frame} (h : s.MemOk) : (s.setFrame rid die fr f).MemOk := h

/-! ### Translation, frames and tokens -/

theorem touchTlb_wf {v : Nat} (h : s.MemOk) : (touchTlb s u rid v).MemOk := by
  unfold touchTlb
  split <;> exact h

/-- The definition is unfolded as a function: applied to its arguments it would make the kernel evaluate the walk. -/
theorem finishWalk_wf {a : Nat} (h : s.MemOk) : SndOk (finishWalk s u rid a) := by
  generalize hf : finishWalk = f
  delta finishWalk at hf
  subst hf
  beta_reduce
  cases walk s rid a with
  | leaf size e lines => exact .mk (modUnit_wf (ite_of (drainWhere_wf _ h) h))
  | _ => exact .mk h

theorem ensureCopy_wf (h : s.MemOk) : Yields State.MemOk (ensureCopy s rid g cl) := by
  intro t ht
  rw [State.MemOk, ensureCopy_mem ht]
  exact h

theorem writeSlot_wf {slot k : Nat} {v : Word} (h : s.MemOk) : Yields State.MemOk (writeSlot s rid g cl slot v k) :=
  .skip fun _ => .bind (ensureCopy_wf h) fun _ h1 => .skip fun _ => .ok (ite_of (changeFrame_wf _ _ _ _ h1) h1)

theorem readSlot_wf {slot : Nat} (h : s.MemOk) : Yields SndOk (readSlot s rid g cl slot) :=
  .skip fun _ => .bind (ensureCopy_wf h) fun _ h1 => .skip fun _ => .ok h1

theorem sendArc_wf {k : Nat} (h : s.MemOk) : Yields State.MemOk (sendArc s c k p g) :=
  ite_of (ite_of .error (.ok (post_wf _ h))) (.ok h)

theorem sendTo_wf (h : s.MemOk) : Yields State.MemOk (sendTo s c d p g) := by
  cases d with
  | arc k => exact sendArc_wf h
  | slot => exact ite_of .error (writeSlot_wf h)
  | ret => exact ite_of (ite_of .error (.ok (post_wf _ h))) (.ok h)
  | term => exact .ok (post_wf _ h)
  | none => exact .ok h

theorem sendBoth_wf (h : s.MemOk) : Yields State.MemOk (sendBoth s c d e p g) :=
  .bind (sendTo_wf h) fun _ h1 => ite_of (.ok h1) (sendTo_wf h1)

/-! ### Rolling a region back -/

theorem writeSpill_wf {r : Rec} (h : s.MemOk) : (writeSpill s r).MemOk := by
  refine foldl_ok h fun s i h => ?_
  split
  · exact visibleWrite_wf _ _ _ _ h
  · exact h

theorem enqueueRecord_wf {r : Rec} (h : s.MemOk) : Leaves State.MemOk (enqueueRecord s r) := by
  unfold enqueueRecord
  split
  · exact .some h
  · exact ite_of (.some h) (.map fun _ => writeSpill_wf h)

theorem requeue_wf {img : BitVec 1280} (h : s.MemOk) : (requeue s rid img).MemOk := (enqueueRecord_wf h).getD h

theorem parkRecord_wf {r : Rec} (h : s.MemOk) : Leaves State.MemOk (parkRecord s cl r) :=
  ite_of (.some h) (.map fun _ => writeSpill_wf h)

theorem discardTokens_wf {records : Bool} (h : s.MemOk) : (discardTokens s rid records).MemOk := by
  have hd := drainWhere_wf (fun _ e => e.rid == rid) h
  unfold discardTokens
  generalize drainWhere s _ = s1 at hd ⊢
  exact ite_of hd hd

theorem applyUndo_wf {v : Undo} (h : s.MemOk) : (applyUndo s rid v).MemOk := by
  cases v with
  | pool k old => exact writeCells_wf _ h
  | _ => exact h

theorem keepInFlight_wf {units : AL UId HwUnit} (h : s.MemOk) : (keepInFlight s rid units).MemOk :=
  foldl_ok h fun _ _ h => ite_of h h

theorem rollback_wf (h : s.MemOk) : (rollback s rid).MemOk := by
  unfold rollback
  extract_lets r undo s1 s2 s3 s4 s5
  have h1 : s1.MemOk := keepInFlight_wf (discardTokens_wf h)
  have h3 : s3.MemOk := foldl_ok (s := s2) h1 fun _ _ h => applyUndo_wf h
  have h4 : s4.MemOk := foldl_ok h3 fun _ _ h => h
  have h5 : s5.MemOk := foldl_ok h4 fun _ _ h => h
  split
  · exact h5
  · exact requeue_wf h5

theorem faultOrRollback_wf {w : FaultSite} {f : Flt} (h : s.MemOk) : (faultOrRollback s w f).MemOk :=
  ite_of (takeFault_wf _ _ (rollback_wf h)) (takeFault_wf _ _ h)

/-! ### Operands, results and nodes -/

theorem readSrc_wf {a : Src} (h : s.MemOk) : Yields SndOk (readSrc s c a) := by
  cases a with
  | fs k => exact .bind (readSlot_wf h) fun _ h1 => .ok h1
  | _ => exact .ok h

theorem finish_wf (h : s.MemOk) : Yields State.MemOk (finish s c n b p) := .skip fun _ => sendBoth_wf h

theorem finish3_wf {n : N3} (h : s.MemOk) : Yields State.MemOk (finish3 s c n b p) := .skip fun _ => sendTo_wf h

theorem finishPair_wf {p q : Option Payload} (h : s.MemOk) : Yields State.MemOk (finishPair s c n b p q) := by
  refine .skip fun t => ?_
  extract_lets second
  have hsecond : ∀ s, s.MemOk → Yields State.MemOk (second s) := by
    intro s h
    cases q with
    | none => exact .ok h
    | some y => exact ite_of (.ok h) (sendTo_wf h)
  cases p with
  | none => exact hsecond s h
  | some x => exact .bind (sendTo_wf h) hsecond

theorem countRetired_wf {op : Nat} (h : s.MemOk) : (countRetired s c op).MemOk := ite_of h h

/-- A node keeps memory canonical where its meaning does. -/
theorem runNode_wf {op : Nat} {a b : Src} {body : State → Cur → Res State} (h : s.MemOk)
    (hb : ∀ s c, s.MemOk → Yields State.MemOk (body s c)) : EndsOk (runNode op a b s body) := by
  intro t ht
  cases hc : s.cur with
  | none => simp [runNode, hc] at ht
  | some c =>
    rcases runNode_cases hc ht with rfl | ⟨f, rfl⟩ | ⟨v, hv, rfl⟩
    · exact h
    · exact faultOrRollback_wf (ite_of h (countRetired_wf h))
    · exact countRetired_wf (hb s.base c h v hv)

theorem runEvent_wf {name : String} {x : Option State} (hx : Leaves State.MemOk x) : EndsOk (runEvent name x) := by
  intro t ht
  cases x with
  | none => cases ht
  | some v =>
    cases ht
    exact hx _ rfl

end
end Sys2Proof.Proofs

namespace Sys2Proof.Proofs

open Sys2Proof Sys2Proof.Machine Sys2Proof.Laws

section

variable {s t : State} {c : Cur} {u : UId} {rid cl : Nat} {g : Tag} {d e : Dst} {p q b : Payload} {n : Nd}

/-! ### Tags, frames and stalled allocations -/

theorem takeIndex_wf {k : Nat} (h : s.MemOk) : Yields SndOk (takeIndex s c k) := by
  refine .skip fun _ => .bind (ensureCopy_wf h) fun s1 h1 => ?_
  extract_lets r f
  split
  · exact .error
  · split
    · exact .error
    · split
      · exact .ok (.mk h1)
      · exact .ok (.mk (changeFrame_wf _ _ _ _ h1))

theorem stallOn_wf {i : Instr} {k : Nat} (h : s.MemOk) : (stallOn s c i k).MemOk := setFrame_wf h

theorem newFrame_wf {die fr r : Nat} {j : Word} {w : BitVec 32} (h : s.MemOk) : (newFrame s rid die fr cl j w g r).MemOk :=
  setFrame_wf (modRegion_wf (logUndo_wf _ _ _ (s := cleanCopy s rid (Tag.mk die fr 0) cl) h))

theorem tallocEmit_wf {k : Nat} (h : s.MemOk) : Yields State.MemOk (tallocEmit s c n k) := finish_wf h

theorem fcompEmit_wf {k : Nat} (h : s.MemOk) : Yields State.MemOk (fcompEmit s c n b k) := sendTo_wf h

theorem fallocEmit_wf {k : Nat} (h : s.MemOk) : Yields State.MemOk (fallocEmit s c n k) := finish_wf (newFrame_wf h)

theorem callEmit_wf {callee k : Nat} (h : s.MemOk) : Yields State.MemOk (callEmit s c n p q callee k) :=
  .bind (sendTo_wf (newFrame_wf h)) fun _ h1 => ite_of (.ok h1) (sendTo_wf h1)

theorem stallDone_wf {st : Stall} {k : Nat} (h : s.MemOk) : Yields State.MemOk (stallDone s st k) := by
  unfold stallDone
  extract_lets c
  split
  · exact tallocEmit_wf h
  · exact fcompEmit_wf h
  · exact fallocEmit_wf h
  · split
    · exact callEmit_wf h
    · exact .error
  · exact .ok h

theorem keepStall_wf {st : Stall} {k : Nat} (h : s.MemOk) : (keepStall s st k).MemOk := modCluster_wf h

theorem handIndex_wf {run : List Nat} {ix : Nat} {l : List (Nat × Nat × Stall)} {key : Nat × Nat} (h : s.MemOk) :
    (handIndex s rid cl g run ix l key).MemOk := by
  induction l generalizing s with
  | nil => exact changeFrame_wf _ _ _ _ h
  | cons w l ih =>
    have h1 : (changeFrame s rid cl g ((frameAt s rid g).handed w ix)).MemOk := changeFrame_wf _ _ _ _ h
    unfold handIndex
    dsimp only
    split
    next v hv => exact stallDone_wf h1 v hv
    next => exact keepStall_wf h1
    next e _ => exact ih (faultOrRollback_wf (setFrame_wf h))

theorem handFrame_wf {die fr : Nat} {l : List (Nat × Stall)} (h : s.MemOk) : (handFrame s rid die fr l).MemOk := by
  induction l generalizing s with
  | nil => exact h
  | cons w l ih =>
    unfold handFrame
    extract_lets s0 kept
    have h0 : s0.MemOk := h
    split
    · split
      next v hv => exact stallDone_wf h0 v hv
      next => exact h
      next e _ => exact ih (faultOrRollback_wf h0)
    · exact h

theorem releaseFrame_wf {die fr : Nat} (h : s.MemOk) : (releaseFrame s rid die fr).MemOk := handFrame_wf (logUndo_wf _ _ _ h)

theorem resumeStall_wf {st : Stall} {k : Nat} (h : s.MemOk) : Leaves State.MemOk (resumeStall s st k) := by
  unfold resumeStall
  split
  next v hv => exact .some (stallDone_wf h v hv)
  next => exact .none
  next e _ =>
    extract_lets t r f index
    have ht : t.MemOk := faultOrRollback_wf h
    have hi : index.MemOk := by
      unfold index
      split
      · exact handIndex_wf ht
      · exact ht
    split
    · exact .some hi
    · exact .some hi
    · exact .some (releaseFrame_wf ht)
    · refine .some ?_
      split
      · exact releaseFrame_wf ht
      · exact ht
    · exact .some ht

theorem owedArrival_wf {j : Word} (h : s.MemOk) : (owedArrival s rid cl g j).MemOk :=
  ite_of h (modUnit_wf (s := (makeIrrevocable s rid).fresh.2) (makeIrrevocable_wf rid h))

theorem freeFrame_wf (h : s.MemOk) : Yields State.MemOk (freeFrame s rid cl g) :=
  .skip fun _ => .skip fun _ => .skip fun _ => .ok (owedArrival_wf (changeFrame_wf _ _ _ _ h))

theorem giveIndex_wf {ix : Nat} (h : s.MemOk) : Yields State.MemOk (giveIndex s c ix) := by
  refine .skip fun _ => .bind (ensureCopy_wf h) fun s1 h1 => ?_
  extract_lets r f
  split
  · exact .error
  · refine .skip fun _ => ?_
    split
    · exact .error
    · exact .ok (handIndex_wf h1)

theorem broadcastSlot_wf {v : Word} (h : s.MemOk) : Yields State.MemOk (broadcastSlot s c v) :=
  .skip fun _ => .bind (ensureCopy_wf h) fun _ h1 => .ok (changeFrame_wf _ _ _ _ h1)

/-! ### Element instructions -/

theorem node2_wf {op : Nat} {f : Opd → Opd → Res Scalar} (h : s.MemOk) : EndsOk (node2 op n s f) :=
  runNode_wf h fun _ _ h => .bind (readSrc_wf h) fun _ h1 => .bind (readSrc_wf h1) fun _ h2 => .skip fun _ => finish_wf h2

theorem node3_wf {op : Nat} {n : N3} {f : Opd → Opd → Opd → Res Scalar} (h : s.MemOk) : EndsOk (node3 op n s f) :=
  runNode_wf h fun _ _ h => .bind (readSrc_wf h) fun _ h1 => .bind (readSrc_wf h1) fun _ h2 => .bind (readSrc_wf h2)
    fun _ h3 => .skip fun _ => finish3_wf h3

theorem cvtScale_wf {o : OutFmt} {a : Opd} (h : s.MemOk) : Yields SndOk (cvtScale s c o n a) := ite_of (readSrc_wf h) (.ok h)

theorem nodeCvt_wf {op : Nat} {o : OutFmt} {u fz : Bool} {m : Rnd} (h : s.MemOk) : EndsOk (nodeCvt op o n u fz m s) :=
  runNode_wf h fun _ _ h => .bind (readSrc_wf h) fun _ h1 => .bind (cvtScale_wf h1) fun _ h2 => .skip fun _ =>
    .bind (finishPair_wf h2) fun _ h3 => .ok (ite_of h3 h3)

theorem execSwitch_wf (h : s.MemOk) : EndsOk (execSwitch n s) :=
  runNode_wf h fun _ _ h => .bind (readSrc_wf h) fun _ h1 => .bind (readSrc_wf h1) fun _ h2 => .skip fun _ => .skip fun _ =>
    .skip fun _ => .skip fun _ => sendTo_wf h2

theorem execMerge_wf (h : s.MemOk) : EndsOk (execMerge n s) := runNode_wf h fun _ _ h => finish_wf h

theorem execDup_wf (h : s.MemOk) : EndsOk (execDup n s) :=
  runNode_wf h fun _ _ h => .bind (readSrc_wf h) fun _ h1 => .skip fun _ => .skip fun _ =>
    .bind (sendBoth_wf h1) fun _ h2 => .foldlM (fun _ _ h => ite_of (sendTo_wf h) (.ok h)) _ _ h2

theorem execGate_wf (h : s.MemOk) : EndsOk (execGate n s) :=
  runNode_wf h fun _ _ h => .bind (readSrc_wf h) fun _ h1 => .bind (readSrc_wf h1) fun _ h2 => .skip fun _ => .skip fun _ =>
    .skip fun _ => finish_wf h2

theorem execSink_wf (h : s.MemOk) : EndsOk (execSink n s) :=
  runNode_wf h fun _ _ h => .bind (readSrc_wf h) fun _ h1 => .bind (readSrc_wf h1) fun _ h2 => .ok h2

theorem execFcomp_wf (h : s.MemOk) : EndsOk (execFcomp n s) := by
  refine runNode_wf h fun _ _ h => .bind (readSrc_wf h) fun _ h1 => .bind (readSrc_wf h1) fun _ h2 => .skip fun _ =>
    .skip fun _ => .skip fun _ => ?_
  extract_lets k r
  split
  · exact .error
  · refine .skip fun _ => ite_of (.bind (takeIndex_wf h2) fun got h3 => ?_) (sendTo_wf h2)
    obtain ⟨_ | ix, s3⟩ := got
    · exact .ok (stallOn_wf h3)
    · exact fcompEmit_wf h3

theorem execSteer_wf (h : s.MemOk) : EndsOk (execSteer n s) :=
  runNode_wf h fun _ _ h => .bind (readSrc_wf h) fun _ h1 => .bind (readSrc_wf h1) fun _ h2 => .skip fun _ => .skip fun _ =>
    .skip fun _ => .skip fun _ => sendTo_wf h2

theorem execTalloc_wf (h : s.MemOk) : EndsOk (execTalloc n s) := by
  refine runNode_wf h fun _ _ h => .bind (takeIndex_wf h) fun got h1 => ?_
  obtain ⟨_ | ix, s1⟩ := got
  · exact .ok (stallOn_wf h1)
  · exact tallocEmit_wf h1

theorem execTfree_wf (h : s.MemOk) : EndsOk (execTfree n s) :=
  runNode_wf h fun _ _ h => .bind (readSrc_wf h) fun _ h1 => .skip fun _ => .bind (giveIndex_wf h1) fun _ h2 => finish_wf h2

theorem execFalloc_wf (h : s.MemOk) : EndsOk (execFalloc n s) := by
  refine runNode_wf h fun _ _ h => .skip fun fr => ?_
  cases fr with
  | none => exact .ok h
  | some fr => exact .skip fun _ => fallocEmit_wf h

theorem execFfree_wf (h : s.MemOk) : EndsOk (execFfree n s) :=
  runNode_wf h fun _ _ h => .bind (readSrc_wf h) fun _ h1 => .skip fun _ => .bind (freeFrame_wf h1) fun _ h2 => finish_wf h2

theorem execCall_wf (h : s.MemOk) : EndsOk (execCall n s) := by
  refine runNode_wf h fun _ _ h => ?_
  split
  · exact .error
  · refine .bind (readSrc_wf h) fun _ h1 => .bind (readSrc_wf h1) fun _ h2 => .skip fun _ => .skip fun _ => .skip fun fr => ?_
    cases fr with
    | none => exact .ok h2
    | some fr => exact .skip fun _ => callEmit_wf h2

theorem execRet_wf (h : s.MemOk) : EndsOk (execRet n s) :=
  runNode_wf h fun _ _ h => .bind (readSrc_wf h) fun _ h1 => .skip fun _ => .skip fun _ =>
    .bind (sendTo_wf h1) fun _ h2 => freeFrame_wf h2

theorem execFbcast_wf (h : s.MemOk) : EndsOk (execFbcast n s) :=
  runNode_wf h fun _ _ h => .bind (readSrc_wf h) fun _ h1 => .skip fun _ => .bind (broadcastSlot_wf h1) fun _ h2 => finish_wf h2

theorem execTagv_wf (h : s.MemOk) : EndsOk (execTagv n s) := runNode_wf h fun _ _ h => finish_wf h

end
end Sys2Proof.Proofs

namespace Sys2Proof.Proofs

open Sys2Proof Sys2Proof.Machine Sys2Proof.Laws

section

variable {s t : State} {c : Cur} {u : UId} {rid cl k : Nat} {a : Access} {m : MemForm} {p q b : Payload} {n : Nd} {x : Stream}

/-! ### Accesses of a memory port -/

theorem issueAccess_wf {i : Instr} (h : s.MemOk) : Yields State.MemOk (issueAccess s c m i) := by
  refine .bind (readSrc_wf h) fun _ h1 => .bind (readSrc_wf h1) fun r h2 => .skip fun _ => .skip fun _ => .skip fun _ =>
    .skip fun _ => .skip fun _ => ?_
  extract_lets s1 s2 f next
  have h1 : s1.MemOk := ite_of h2 h2
  have h2 : s2.MemOk := ite_of (makeIrrevocable_wf _ h1) h1
  have hnext : ∀ v, Yields State.MemOk (next v) := fun v => .skip fun _ => .ok (modUnit_wf (s := s2.fresh.2) h2)
  exact ite_of (.skip hnext) (.skip hnext)

theorem sendLoad_wf (h : s.MemOk) : Yields State.MemOk (sendLoad s u a m p q) := finishPair_wf h

theorem sendStore_wf (h : s.MemOk) : Yields State.MemOk (sendStore s u a m p) := finish_wf h

theorem dropAccess_wf (h : s.MemOk) : (dropAccess s u k).MemOk := h

theorem setAccess_wf (h : s.MemOk) : (setAccess s u a).MemOk := h

theorem bufferLine_wf {t : Target} (h : s.MemOk) : (bufferLine s u t rid).MemOk := modUnit_wf h

theorem buffersOnStore_wf {line : Nat} {cells : List Host.Cell} {desc : Option Desc} (h : s.MemOk) :
    (buffersOnStore s u line cells desc).MemOk := h

theorem drainOthers_wf {line : Nat} (h : s.MemOk) : (drainOthers s cl line).MemOk := drainLine_wf _ _ h

theorem drainOwn_wf {line : Nat} (h : s.MemOk) : (drainOwn s cl line).MemOk := drainLine_wf _ _ h

theorem drainAccepted_wf {line : Nat} (h : s.MemOk) : (drainAccepted s cl line).MemOk := drainLine_wf _ _ h

theorem dropBuffers_wf (h : s.MemOk) : (dropBuffers s cl).MemOk := h

theorem storeCells_wf {t : Target} {cells : List Host.Cell} {desc : Option Desc} {rule : Admit} (h : s.MemOk) :
    Yields State.MemOk (storeCells s u a m t cells desc rule) := by
  unfold storeCells
  extract_lets rid enc so full s1 e s2 s3 un
  have h1 : s1.MemOk := ite_of (makeIrrevocable_wf _ h) h
  have h3 : s3.MemOk := buffersOnStore_wf (visibleWrite_wf _ _ _ _ h1)
  exact .skip fun _ => ite_of (sendStore_wf (dropAccess_wf (modCluster_wf h1))) (ite_of (sendStore_wf (dropAccess_wf h3))
    (.skip fun _ => ite_of (sendStore_wf h1) (ite_of (sendStore_wf h1) (.ok h1))))

theorem dropHeldStore_wf (h : s.MemOk) : (dropHeldStore s u k).MemOk := by
  unfold dropHeldStore
  split <;> exact h

theorem storeArrives_wf (h : s.MemOk) : Yields State.MemOk (storeArrives s u a m) := by
  unfold storeArrives
  extract_lets s1 s2
  have h1 : s1.MemOk := by
    unfold s1
    split
    · exact drainLine_wf _ _ h
    · exact h
  exact ite_of (.ok h1) (sendStore_wf (dropAccess_wf h1))

/-- A plain load may buffer the line that it read, and changes nothing else. -/
theorem plainLoad_wf {t : Target} (h : s.MemOk) : ThirdOk (plainLoad s u a t k) := by
  unfold plainLoad
  split
  · exact ite_of (.mk h) (.mk h)
  · exact .mk (ite_of h (bufferLine_wf h))

theorem accessAt_wf {t : Target} (h : s.MemOk) : Yields State.MemOk (accessAt s u a m t) := by
  unfold accessAt
  extract_lets v rid so s1 s2 acquired _ _ _ atomic _ fetched
  have h1 : s1.MemOk := ite_of (makeIrrevocable_wf _ h) h
  have h2 : s2.MemOk := ite_of (drainOthers_wf h1) h1
  have hacquired : acquired.MemOk := drainAccepted_wf (dropBuffers_wf h2)
  have hatomic : atomic.MemOk := drainLine_wf _ _ (makeIrrevocable_wf _ h2)
  have hfetched : fetched.MemOk := ite_of h2 (bufferLine_wf h2)
  clear_value s1 s2 acquired atomic fetched
  refine .skip fun _ => .skip fun _ => .skip fun _ => ?_
  split
  case h_1 | h_3 | h_4 =>
    refine .skip fun _ => ?_
    split
    next hload => exact .skip fun _ => sendLoad_wf (dropAccess_wf ((plainLoad_wf h2).of_eq hload))
  case h_2 => exact .skip fun _ => .skip fun _ => sendLoad_wf (dropAccess_wf hacquired)
  case h_5 | h_6 => exact .skip fun _ => .skip fun _ => storeCells_wf h2
  case h_7 => exact .skip fun _ => storeCells_wf h2
  case h_8 => exact .skip fun _ => ite_of (storeCells_wf h2) (.skip fun _ => .skip fun _ => storeCells_wf h2)
  case h_9 => exact .skip fun _ => storeCells_wf h2
  case h_10 =>
    exact .skip fun _ => .skip fun _ => sendLoad_wf (dropAccess_wf (buffersOnStore_wf (visibleWrite_wf _ _ _ _ hatomic)))
  case h_11 => exact sendStore_wf (dropAccess_wf hfetched)
  case h_12 => exact .ok h2

theorem quietPrefetch_wf (h : s.MemOk) : (quietPrefetch s u a m).MemOk := by
  unfold quietPrefetch
  extract_lets s1
  have h1 : s1.MemOk := h
  split
  next hsend => exact sendStore_wf h1 _ hsend
  next => exact h1

theorem pageRecord_wf {w : FaultSite} {level pte line addr : Nat} (h : s.MemOk) : (pageRecord s w level pte line addr).MemOk :=
  ite_of h (takeFault_wf _ _ (s := { s with pageRecs := _ }) h)

theorem accessPageFault_wf {level pte line : Nat} (h : s.MemOk) : (accessPageFault s u a m level pte line).MemOk :=
  ite_of (quietPrefetch_wf h) (ite_of (ite_of (pageRecord_wf (modUnit_wf (dropAccess_wf h))) (pageRecord_wf (setAccess_wf h)))
    (pageRecord_wf (setAccess_wf h)))

theorem accessFound_wf {f : Found} (h : s.MemOk) : (accessFound s u a m f).MemOk := by
  unfold accessFound
  split
  · exact setAccess_wf h
  · exact accessPageFault_wf h
  · exact ite_of (quietPrefetch_wf h) (setAccess_wf h)
  · exact ite_of (quietPrefetch_wf h) (takeFault_wf _ _ (dropAccess_wf h))
  · extract_lets s1
    have h1 : s1.MemOk := ite_of (makeIrrevocable_wf _ h) h
    split
    next hr => exact accessAt_wf h1 _ hr
    next => exact ite_of (quietPrefetch_wf h1) (faultOrRollback_wf (dropAccess_wf h1))
    next => exact h1

theorem performMem_wf (h : s.MemOk) : (performMem s u a m).MemOk := by
  refine ite_of ?_ (accessFound_wf (touchTlb_wf h))
  split
  next hr => exact storeArrives_wf h _ hr
  next => exact takeFault_wf _ _ (dropHeldStore_wf (dropAccess_wf h))
  next => exact h

/-! ### Streams -/

theorem setStream_wf {y : Option Stream} (h : s.MemOk) : (setStream s u k y).MemOk := by
  unfold setStream
  refine modUnit_wf ?_
  split
  · exact logUndo_wf _ _ _ h
  · exact h

theorem findNow_wf {v : Nat} (h : s.MemOk) : SndOk (findNow s u rid k v) := by
  unfold findNow
  split
  · exact .mk h
  · split
    · split
      · exact finishWalk_wf h
      · exact .mk h
    · exact .mk (touchTlb_wf h)

theorem streamRead_wf {t : Target} {j v : Nat} (h : s.MemOk) : Yields ThirdOk (streamRead s u x j t v) := by
  unfold streamRead
  extract_lets so s1
  have h1 : s1.MemOk := ite_of (makeIrrevocable_wf _ h) h
  refine .skip fun _ => .skip fun _ => .skip fun _ => .skip fun _ => ?_
  split
  next hload => exact .skip fun _ => .skip fun _ => .ok (.mk ((plainLoad_wf h1).of_eq hload))

theorem streamSend_wf {d : LineData} {e : Desc} (h : s.MemOk) : Yields State.MemOk (streamSend s u x m d e) :=
  .skip fun _ => .bind (sendTo_wf h) fun _ h1 => .foldlM (fun _ _ h => ite_of (sendTo_wf h) (.ok h)) _ _ h1

/-- The read of a stream's line leaves memory canonical, whether the line is read or the read stops in some state. -/
def LineReadOk (r : Except State (LineData × Desc × State)) : Prop := (∀ t, r = .error t → t.MemOk) ∧ Yields ThirdOk r

theorem LineReadOk.stop (h : s.MemOk) : LineReadOk (.error s) := by
  refine ⟨?_, .error⟩
  rintro _ ⟨⟩
  exact h

theorem LineReadOk.read {r : LineData × Desc × State} (h : ThirdOk r) : LineReadOk (.ok r) := by
  refine ⟨?_, .ok h⟩
  rintro _ ⟨⟩

theorem streamLoad_wf {j : Nat} (h : s.MemOk) : LineReadOk (streamLoad s u k x j m) := by
  unfold streamLoad
  extract_lets v site stop
  have hstop : ∀ s f, s.MemOk → LineReadOk (stop s f) := fun _ _ h => .stop (takeFault_wf _ _ (setStream_wf h))
  split
  · exact hstop _ _ h
  · exact .stop h
  · split
    next f s1 hf =>
    have h1 : s1.MemOk := (findNow_wf h).of_eq hf
    split
    · exact .stop h
    · exact .stop (pageRecord_wf (setStream_wf h1))
    · exact .stop (setStream_wf h1)
    · exact hstop _ _ h
    · extract_lets s2
      have h2 : s2.MemOk := ite_of (makeIrrevocable_wf _ h1) h1
      split
      · exact .stop (faultOrRollback_wf (setStream_wf h2))
      · exact .stop h
      next hr => exact .read (streamRead_wf h2 _ hr)

theorem streamPut_wf {j : Nat} {d : LineData} {e : Desc} (h : s.MemOk) : (streamPut s u k x j d e).MemOk := modUnit_wf h

theorem streamIssue_wf (h : s.MemOk) : (streamIssue s u k x).MemOk := modUnit_wf h

theorem streamHead_wf (h : s.MemOk) : (streamHead s u k x m).MemOk := by
  have hl : LineReadOk (streamLoad s u k x 0 m) := streamLoad_wf h
  unfold streamHead
  split
  next hr => exact hl.1 _ hr
  next hr => exact streamPut_wf (hl.2 _ hr)

theorem streamAhead_wf (h : s.MemOk) : Leaves State.MemOk (streamAhead s u k x m) := by
  unfold streamAhead
  have h1 : s.free.2.MemOk := h
  generalize s.free = r at h1 ⊢
  dsimp only
  split
  · exact .none
  · exact .some (streamHead_wf h1)
  · split
    next hr => exact .some (streamPut_wf ((streamLoad_wf h1).2 _ hr))
    next => exact ite_of .none (.some (streamHead_wf h1))

theorem streamSent_wf {r : Res State} (h : s.MemOk) (hr : Yields State.MemOk r) : (streamSent s u k x m r).MemOk := by
  unfold streamSent
  split
  · exact hr _ rfl
  · exact takeFault_wf _ _ (setStream_wf h)
  · exact h

theorem streamStart_wf (h : s.MemOk) : (streamStart s u k x m).MemOk := by
  have hl : LineReadOk (streamLoad s u k x 0 m) := streamLoad_wf h
  unfold streamStart
  split
  next hr => exact hl.1 _ hr
  next hr =>
    have ht := hl.2 _ hr
    exact ite_of (setStream_wf ht) (takeFault_wf _ _ (setStream_wf ht))

theorem streamStep_wf (h : s.MemOk) : Leaves State.MemOk (streamStep s u k x m) := by
  refine ite_of (ite_of (.some (streamStart_wf h)) .none) (ite_of (.some (streamSent_wf h ?_)) ?_)
  · exact .skip fun _ => sendTo_wf (setStream_wf h)
  · split
    · exact .some (streamSent_wf h (.bind (streamSend_wf h) fun _ h1 => .ok (setStream_wf h1)))
    · exact ite_of (.some (streamIssue_wf (s := s.free.2) h)) (streamAhead_wf (s := s.free.2) h)

/-! ### The nodes of a memory port -/

theorem nodeMem_wf {i : Instr} (h : s.MemOk) : EndsOk (nodeMem m i s) := runNode_wf h fun _ _ h => issueAccess_wf h

theorem execFencePub_wf {sc : Scope} (h : s.MemOk) : EndsOk (execFencePub n sc s) :=
  runNode_wf h fun s _ h => .skip fun _ => .skip fun _ => .ok (modUnit_wf (s := s.fresh.2) h)

theorem execFenceAcq_wf {sc : Scope} (h : s.MemOk) : EndsOk (execFenceAcq n sc s) :=
  runNode_wf h fun _ _ h => .skip fun _ => finish_wf (dropBuffers_wf h)

theorem execStrm_wf {sc : Scope} (h : s.MemOk) : EndsOk (execStrm n sc s) := by
  refine runNode_wf h fun _ _ h => .bind (readSrc_wf h) fun _ h1 => .skip fun _ => .skip fun _ => .skip fun _ => ?_
  split
  · exact .error
  · exact .ok (modUnit_wf (logUndo_wf _ _ _ h1))

end
end Sys2Proof.Proofs

namespace Sys2Proof.Proofs

open Sys2Proof Sys2Proof.Machine Sys2Proof.Laws

section

variable {s t : State} {c : Cur} {u : UId} {rid cl k : Nat} {a : Access} {m : MemForm} {p q b : Payload} {n : Nd} {f : Firing}

/-! ### Tiles and bank claims -/

theorem setTile_wf {x : Tile} (h : s.MemOk) : (setTile s cl k x).MemOk := by
  unfold setTile
  split
  · exact modCluster_wf (logUndo_wf _ _ _ h)
  · exact h

theorem tileTake_wf {x : Tile} {d : LineData} {e : Desc} (h : s.MemOk) : (tileTake s cl k x d e).MemOk :=
  setTile_wf (visibleWrite_wf _ _ _ _ (logUndo_wf _ _ _ h))

theorem tileRefill_wf (h : s.MemOk) : (tileRefill s cl k).MemOk := by
  refine foldl_ok h fun s q h => ?_
  split
  · exact ite_of (tileTake_wf (modCluster_wf h)) h
  · exact h

theorem tilesRefill_wf (h : s.MemOk) : (tilesRefill s cl).MemOk := foldl_ok h fun _ _ h => tileRefill_wf h

theorem tileLine_wf {f : Flit} (h : s.MemOk) : Leaves State.MemOk (tileLine s f) := by
  refine .skip fun x => ?_
  split
  · exact .none
  · exact ite_of (.some (takeFault_wf _ _ h)) (ite_of (.some (tileTake_wf h)) (.some (modCluster_wf h)))

theorem tileUse_wf {x : Tile} (h : s.MemOk) : (tileUse s cl k x).MemOk := setTile_wf h

theorem tileDone_wf (h : s.MemOk) : (tileDone s cl k).MemOk := by
  unfold tileDone
  split <;> exact h

theorem conclude_wf {w : FaultSite} {r : Res State} (h : s.MemOk) (hr : Yields State.MemOk r) :
    Leaves State.MemOk (conclude s w r) := by
  unfold conclude
  split
  · exact .some (hr _ rfl)
  · exact .some (faultOrRollback_wf h)
  · exact .none

theorem setBank_wf {x : Bank} (h : s.MemOk) : (setBank s cl k x).MemOk := modCluster_wf h

theorem clearKeys_wf {lo n : Nat} (h : s.MemOk) : (clearKeys s lo n).MemOk := filter_wf _ h

theorem zeroTables_wf (h : s.MemOk) : (zeroTables s cl k).MemOk := clearKeys_wf h

theorem claimToken_wf (h : s.MemOk) : Yields State.MemOk (claimToken s u f) := finish_wf h

theorem grantBank_wf (h : s.MemOk) : (grantBank s cl k u f).MemOk := by
  unfold grantBank
  extract_lets x
  refine ite_of ?_ (setBank_wf h)
  split
  next hr => exact conclude_wf h (claimToken_wf (setBank_wf h)) _ hr
  next => exact h

theorem releaseBank_wf (h : s.MemOk) : (releaseBank s cl k).MemOk := by
  unfold releaseBank
  extract_lets x s1
  have h1 : s1.MemOk := setBank_wf h
  split
  · exact h1
  · exact grantBank_wf h1

/-! ### The end of a region -/

theorem dropHeld_wf (h : s.MemOk) : (dropHeld s rid).MemOk := h

theorem releaseAll_wf (h : s.MemOk) : (releaseAll s rid).MemOk := by
  unfold releaseAll
  extract_lets s1 s2
  have h1 : s1.MemOk := h
  refine modRegion_wf (foldl_ok h1 fun s p h => ?_)
  extract_lets s3 s4
  have h4 : s4.MemOk := ite_of (releaseBank_wf (modCluster_wf h)) (modCluster_wf h)
  exact ite_of (releaseBank_wf h4) h4

theorem clearRun_wf (h : s.MemOk) : (clearRun s rid).MemOk := by
  unfold clearRun
  extract_lets r other
  split
  · exact h
  · exact ite_of h (modPart_wf h)

theorem finishRegion_wf (h : s.MemOk) : (finishRegion s rid).MemOk := by
  unfold finishRegion
  extract_lets s1 s2 s3 tag s4
  have h1 : s1.MemOk := ite_of (commitLogs_wf _ h) h
  have h3 : s3.MemOk := clearRun_wf (releaseAll_wf (discardTokens_wf h1))
  clear_value tag
  split
  · exact postCpl_wf _ _ _ _ _ (modRegion_wf h3)
  · exact modRegion_wf h3

theorem settle_wf (h : s.MemOk) : (settle s).MemOk := by
  refine foldl_ok h fun s p h => ?_
  extract_lets s1
  have h1 : s1.MemOk := ite_of (dropHeld_wf h) h
  exact ite_of (finishRegion_wf h1) h1

theorem endRegion_wf (h : s.MemOk) : (endRegion s rid).MemOk :=
  modRegion_wf (dropHeld_wf (ite_of (commitLogs_wf _ h) h))

theorem runWork_wf {name : String} {x : Option State} (hx : Leaves State.MemOk x) : EndsOk (runWork name x) :=
  runEvent_wf (.map_of hx fun _ h => settle_wf h)

theorem execFinish_wf (h : s.MemOk) : EndsOk (execFinish rid s) := runEvent_wf (ite_of (.some (finishRegion_wf h)) .none)

/-! ### The start of a region -/

theorem reportRefusal_wf {x : Option LoadFailure} (h : s.MemOk) : (reportRefusal s x).MemOk := by
  unfold reportRefusal
  split <;> exact h

theorem refusedLaunch_wf {st : Nat} {own : BitVec 2048} (h : s.MemOk) : (refusedLaunch s k st own).MemOk :=
  ite_of h (reportRefusal_wf h)

theorem writePad_wf {off v : Nat} {e : Desc} (h : s.MemOk) : (writePad s rid cl off v e).MemOk :=
  ite_of (visibleWrite_wf _ _ _ _ h) (takeFault_wf _ _ h)

theorem writePads_wf {x : Code} (h : s.MemOk) : (writePads s rid cl x k).MemOk :=
  foldl_ok h fun _ _ h => ite_of (foldl_ok h fun _ _ h => writePad_wf h) h

theorem loadCluster_wf {x : Code} (h : s.MemOk) : (loadCluster s rid cl x k).MemOk := by
  have ht := fun f => tilesRefill_wf (cl := cl) (modCluster_wf (cl := cl) (f := f) h)
  exact writePads_wf (ite_of (ite_of (clearKeys_wf (zeroTables_wf (zeroTables_wf (ht _)))) (ht _)) h)

theorem loadOrWake_wf {x : Code} (h : s.MemOk) : (loadOrWake s rid cl x k).MemOk := ite_of (loadCluster_wf h) (modCluster_wf h)

theorem loadWoken_wf (h : s.MemOk) : (loadWoken s cl).MemOk := by
  unfold loadWoken
  refine foldl_ok (modCluster_wf h) fun s rid h => ?_
  extract_lets r
  split
  · split
    · exact ite_of (loadCluster_wf h) h
    · exact h
  · exact h

theorem startRegion_wf {eff : BitVec 2048} {l : LaunchCode} {img : BitVec 1280} {held : Bool} (h : s.MemOk) :
    SndOk (startRegion s k eff l img held) := by
  unfold startRegion
  have h1 : s.fresh.2.MemOk := h
  generalize s.fresh = r at h1 ⊢
  dsimp only
  refine .mk (s := { (_ : State) with cfgNet := _ }) (foldl_ok (foldl_ok ?_ fun _ _ h => loadOrWake_wf h) fun _ _ h => modUnit_wf h)
  exact h1

theorem admitEntry_wf (h : s.MemOk) : (admitEntry s rid).MemOk := by
  unfold admitEntry
  split
  · exact h
  · refine ite_of ?_ h
    split
    next hr => exact modRegion_wf (enqueueRecord_wf h _ hr)
    next => exact h

theorem ctxStoreLine_wf {v : Nat} {d : LineData} {e : Desc} (h : s.MemOk) : Leaves State.MemOk (ctxStoreLine s rid v d e) := by
  refine ite_of .none ?_
  split
  · split
    · exact .some (visibleWrite_wf _ _ _ _ h)
    · exact .none
  · exact .none

theorem writeHeap_wf {x : Code} (h : s.MemOk) : (writeHeap s rid x).1.MemOk := by
  refine List.foldlRecOn (motive := fun acc : State × Bool => acc.1.MemOk) _ _ h fun acc h p _ => ?_
  refine ite_of (P := fun acc : State × Bool => acc.1.MemOk) ?_ h
  split
  next hr => exact ctxStoreLine_wf h _ hr
  next => exact h

end
end Sys2Proof.Proofs

namespace Sys2Proof.Proofs

open Sys2Proof Sys2Proof.Machine Sys2Proof.Laws

section

variable {s t : State} {c : Cur} {u : UId} {rid cl k : Nat} {a : Access} {m : MemForm} {p q b : Payload} {n : Nd} {f : Firing}

/-! ### The engine port's own accesses -/

theorem liftRes_wf {α : Type} {P : α → Prop} {r : Res α} (hr : Yields P r) : Yields P (liftRes r) := by
  unfold liftRes
  split
  · exact .ok (hr _ rfl)
  · exact .error
  · exact .error

theorem engAt_wf {v x align : Nat} {rd wr ord : Bool} (h : s.MemOk) :
    Yields (α := Target × State) SndOk (engAt s u rid v x align rd wr ord) := by
  refine .skip fun _ => ?_
  split
  next f s1 hf =>
  have h1 : s1.MemOk := (findNow_wf h).of_eq hf
  split
  · exact .error
  · exact .error
  · exact .error
  · exact .error
  · exact .skip fun _ => .skip fun _ => .skip fun _ => .skip fun _ => .ok (.mk (ite_of (makeIrrevocable_wf _ h1) h1))

theorem engRead_wf {v x align : Nat} {ord : Bool} (h : s.MemOk) : Yields ThirdOk (engRead s u rid v x align ord) :=
  .bind (engAt_wf h) fun _ h1 => .skip fun _ => .skip fun _ => .ok (.mk (drainOwn_wf h1))

theorem engLine_wf {v : Nat} {ord : Bool} (h : s.MemOk) : Yields ThirdOk (engLine s u rid v ord) :=
  .bind (engRead_wf h) fun _ h1 => .ok h1

theorem engBlock_wf {v x : Nat} {ord : Bool} (h : s.MemOk) : Yields ThirdOk (engBlock s u rid v x ord) :=
  .bind (engAt_wf h) fun _ h1 => .skip fun _ => .skip fun _ => .ok (.mk (drainLine_wf _ _ h1))

theorem engWrite_wf {x : Target} {off n v : Nat} (h : s.MemOk) : (engWrite s rid x off n v).MemOk := visibleWrite_wf _ _ _ _ h

theorem engStoreLine_wf {v : Nat} {d : LineData} {e : Desc} {ord : Bool} (h : s.MemOk) :
    Yields State.MemOk (engStoreLine s u rid v d e ord) :=
  .bind (engAt_wf h) fun _ h1 => .skip fun _ => .ok (visibleWrite_wf _ _ _ _ h1)

theorem engImage_wf {v : Nat} {ord : Bool} (h : s.MemOk) : Yields SndOk (engImage s u rid v ord) := by
  have hloop : ∀ i (r : Nat × State), SndOk r → Yields (fun r => SndOk r.value) (do
      let (x, _, s) ← engRead r.2 u rid (v + 32 * i) 32 32 ord
      pure (ForInStep.yield (r.1 + x * 2 ^ (256 * i), s))) :=
    fun _ _ h => .bind (engRead_wf h) fun _ h1 => .ok (.mk h1)
  exact .bind (.forIn hloop [0, 1, 2, 3, 4] (0, s) (.mk h)) fun _ h1 => .ok h1

theorem pushOp_wf {i : Instr} (h : s.MemOk) : (pushOp s c i p q).MemOk := modUnit_wf (s := s.fresh.2) h

theorem dropOp_wf (h : s.MemOk) : (dropOp s u k).MemOk := modUnit_wf h

theorem setOp_wf (h : s.MemOk) : (setOp s u a).MemOk := modUnit_wf h

theorem opSend_wf (h : s.MemOk) : Yields State.MemOk (opSend s u a n p) := liftRes_wf (finish_wf h)

theorem opSendPair_wf {p q : Option Payload} (h : s.MemOk) : Yields State.MemOk (opSendPair s u a n p q) :=
  liftRes_wf (finishPair_wf h)

/-- The state in which a step of an operation stops, and what it answers, have memory in canonical form. -/
structure OpResOk (x : OpRes) : Prop where
  stops : x.at'.MemOk
  ends : Yields State.MemOk x.r

theorem OpResOk.of {r : EngM State} (h : s.MemOk) (hr : Yields State.MemOk r) : OpResOk ⟨s, a, r⟩ := ⟨h, hr⟩

theorem opEnd_wf {x : OpRes} (h : OpResOk x) : Leaves State.MemOk (opEnd u x) := by
  have hs := h.stops
  have hr := h.ends
  unfold opEnd
  extract_lets at' a
  split
  next e => exact .some (dropOp_wf (hr _ e))
  next => exact .some (faultOrRollback_wf (dropOp_wf hs))
  next => exact .some (takeFault_wf _ _ (dropOp_wf hs))
  next => exact .some (pageRecord_wf (setOp_wf hs))
  next => exact .some (setOp_wf hs)
  next => exact .some (setOp_wf hs)
  next => exact .none
  next => exact .some (modRegion_wf (setOp_wf hs))

theorem queuePush_wf {v : Nat} {w : Word} {ty : TType} {ord : Bool} (h : s.MemOk) :
    Yields (Leaves State.MemOk) (queuePush s u rid v w ty ord) := by
  refine .bind (engBlock_wf h) fun _ h1 => .skip fun _ => ite_of (.ok .none) (.bind (engAt_wf h1) fun _ h2 => .skip fun _ =>
    .skip fun _ => .ok (.some (engWrite_wf (engWrite_wf (drainLine_wf _ _ h2)))))

theorem queuePop_wf {v : Nat} {ord : Bool} (h : s.MemOk) : Yields SndOk (queuePop s u rid v ord) :=
  .bind (engBlock_wf h) fun _ h1 => .skip fun _ => ite_of (.ok (.mk h1)) (.bind (engRead_wf h1) fun _ h2 =>
    .ok (.mk (engWrite_wf h2)))

theorem tryEvent_wf {code data : Nat} (h : s.MemOk) : Leaves State.MemOk (tryEvent s k code data) := by
  unfold tryEvent
  extract_lets q lost v form
  have hl : lost.MemOk := h
  refine ite_of (.some hl) ?_
  split
  next hr => exact queuePush_wf h _ hr
  next => exact .none
  next => exact .none
  next => exact .some hl

theorem postEvent_wf {code data : Nat} (h : s.MemOk) : (postEvent s k code data).MemOk := ite_of ((tryEvent_wf h).getD h) h

theorem postHeld_wf (h : s.MemOk) : Leaves State.MemOk (postHeld s k) := by
  unfold postHeld
  split
  · exact .none
  · exact tryEvent_wf (modPart_wf h)

theorem release_wf (h : s.MemOk) : (release s u rid).MemOk := drainWhere_wf _ h

theorem drainUn_wf {sc : Scope} (h : s.MemOk) : (drainUn s rid cl sc).MemOk := drainWhere_wf _ h

/-! ### The events of memory ports -/

theorem execMemoryAccessPerformed_wf (h : s.MemOk) : EndsOk (execMemoryAccessPerformed u k s) :=
  runWork_wf (.skip fun _ => .skip fun _ => ite_of (.some (performMem_wf h)) .none)

/-- The walk is replaced by any function that keeps memory canonical, so that the kernel does not evaluate it. -/
theorem execPageWalkComplete_wf (h : s.MemOk) : EndsOk (execPageWalkComplete u k s) := by
  obtain ⟨fw, hfw, hw⟩ : ∃ fw, finishWalk = fw ∧ ∀ s u rid a, s.MemOk → SndOk (fw s u rid a) :=
    ⟨_, rfl, fun _ _ _ _ h => finishWalk_wf h⟩
  unfold execPageWalkComplete
  rw [hfw]
  refine runWork_wf (.skip fun a => .skip fun m => ite_of ?_ .none)
  split
  · split
    next hf => exact .some (accessFound_wf ((hw _ _ _ _ h).of_eq hf))
  · exact .none

theorem wakeAccess_wf {st : AccSt} (h : s.MemOk) : Leaves State.MemOk (wakeAccess s u k st) := by
  unfold wakeAccess
  split
  · exact .skip fun _ => ite_of (.some (performMem_wf h)) .none
  · exact .skip fun _ => ite_of (.some (setOp_wf h)) .none

theorem execHeldAccessWake_wf (h : s.MemOk) : EndsOk (execHeldAccessWake u k s) := runWork_wf (wakeAccess_wf h)

theorem execMigrationWaitEnd_wf (h : s.MemOk) : EndsOk (execMigrationWaitEnd u k s) := runWork_wf (wakeAccess_wf h)

theorem execUnStoreDrainTimeout_wf (h : s.MemOk) : EndsOk (execUnStoreDrainTimeout cl k s) :=
  runEvent_wf (.skip fun _ => ite_of (.some (drainLine_wf _ _ h)) .none)

theorem execReadBufferExpiry_wf (h : s.MemOk) : EndsOk (execReadBufferExpiry u k s) :=
  runEvent_wf (ite_of (.some (modUnit_wf h)) .none)

theorem replayEntry_wf {pre post : List SideEntry} {e : SideEntry} (h : s.MemOk) : (replayEntry s u pre e post m).MemOk := by
  unfold replayEntry
  extract_lets put
  have hput : ∀ s l, s.MemOk → (put s l).MemOk := fun _ _ h => modUnit_wf h
  split
  next id s0 h0 =>
  have h0 : s0.MemOk := SndOk.of_eq (x := s.fresh) h h0
  extract_lets a
  split
  next f s1 hf =>
  have h1 : s1.MemOk := (findNow_wf h0).of_eq hf
  split
  · exact h
  · exact pageRecord_wf (hput _ _ h1)
  · exact hput _ _ h1
  · exact takeFault_wf _ _ (hput _ _ h1)
  · extract_lets s2
    have h2 : s2.MemOk := modUnit_wf (hput _ _ h1)
    split
    next hr => exact accessAt_wf h2 _ hr
    next => exact faultOrRollback_wf (hput _ _ h1)
    next => exact h

theorem execSideLogReplay_wf (h : s.MemOk) : EndsOk (execSideLogReplay u s) :=
  runWork_wf (.skip fun _ => .skip fun _ => .some (replayEntry_wf h))

theorem execSideLogWaitEnd_wf (h : s.MemOk) : EndsOk (execSideLogWaitEnd u s) :=
  runWork_wf (.skip fun _ => .skip fun _ => ite_of (.some (performMem_wf h)) .none)

theorem execStreamLine_wf (h : s.MemOk) : EndsOk (execStreamLine u k s) :=
  runWork_wf (.skip fun _ => .skip fun _ => ite_of (streamStep_wf h) .none)

theorem execTileDrainEnd_wf (h : s.MemOk) : EndsOk (execTileDrainEnd cl k s) :=
  runEvent_wf (.skip fun _ => ite_of (.some (tileRefill_wf (setTile_wf h))) .none)

theorem execFenceDrainComplete_wf (h : s.MemOk) : EndsOk (execFenceDrainComplete u k s) := by
  refine runWork_wf (.skip fun a => ?_)
  split
  · exact conclude_wf (dropAccess_wf (drainUn_wf h)) (finish_wf (dropAccess_wf (drainUn_wf h)))
  · exact .none

end
end Sys2Proof.Proofs

namespace Sys2Proof.Proofs

open Sys2Proof Sys2Proof.Machine Sys2Proof.Laws

section

variable {s t : State} {u : UId} {rid cl k i : Nat} {f : Flit}

/-! ### Tokens at their units -/

/-- The state that the offer of a token leaves has its memory in canonical form. -/
def DeliveryOk : Delivery → Prop
  | .taken s | .stays s => s.MemOk
  | .waits => True

theorem DeliveryOk.of_taken {x : Delivery} (h : DeliveryOk x) (e : x = .taken s) : s.MemOk := by
  subst e
  exact h

theorem DeliveryOk.of_stays {x : Delivery} (h : DeliveryOk x) (e : x = .stays s) : s.MemOk := by
  subst e
  exact h

theorem formFiring_wf {x : Firing} (h : s.MemOk) : (formFiring s u f x).MemOk :=
  ite_of (modUnit_wf (s := s.fresh.2) h) (modUnit_wf h)

theorem matchToken_wf (h : s.MemOk) : Leaves State.MemOk (matchToken s u f) := by
  unfold matchToken
  extract_lets hw dead
  split
  next slot sd _ =>
  have hdead : ∀ rid, Leaves State.MemOk (dead rid) := fun _ => .some (takeFault_wf _ _ h)
  split
  · exact hdead _
  · extract_lets st need others found s1
    have h1 : s1.MemOk := modUnit_wf h
    exact ite_of (.some h) (ite_of (hdead _) (ite_of (.some (formFiring_wf h)) (ite_of (.some (formFiring_wf h1))
      (ite_of (.some (modUnit_wf h)) (ite_of (.some (modUnit_wf h)) .none)))))

theorem offer_wf (h : s.MemOk) : DeliveryOk (offer s u f) := by
  refine ite_of (P := DeliveryOk) (modUnit_wf h) (ite_of (P := DeliveryOk) trivial ?_)
  split
  · refine ite_of (P := DeliveryOk) ?_ trivial
    split
    next hm => exact matchToken_wf (modUnit_wf h) _ hm
    next => trivial
  · split
    next hm => exact matchToken_wf h _ hm
    next => exact modUnit_wf (s := s) h

theorem deliver_wf (h : s.MemOk) : Leaves State.MemOk (deliver s f) := by
  unfold deliver
  split
  · split
    next hd => exact .some ((offer_wf h).of_taken hd)
    next => exact .none
    next => exact .none
  · refine ite_of (tileLine_wf h) (ite_of ?_ .none)
    split
    next hw => exact .some (writeSlot_wf h _ hw)
    next => exact .none
    next => exact .some (faultOrRollback_wf h)

theorem drainList_wf {l : List Flit} (h : s.MemOk) : (drainList s u l).MemOk := by
  induction l generalizing s with
  | nil => exact h
  | cons f l ih =>
    unfold drainList
    split
    next hd => exact ih ((offer_wf h).of_taken hd)
    next hd =>
      have ht := (offer_wf h).of_stays hd
      exact ht
    next => exact h

theorem drainIngress_wf (h : s.MemOk) : (drainIngress s u).MemOk := drainList_wf (modUnit_wf h)

/-! ### Flits -/

theorem takeNet_wf (h : s.MemOk) : (takeNet s i).MemOk := h

theorem landSent_wf (h : s.MemOk) : (landSent s f).MemOk := ite_of h (drainWhere_wf _ h)

theorem toWakeBuf_wf (h : s.MemOk) : Leaves State.MemOk (toWakeBuf s f) := ite_of (.some (modCluster_wf h)) .none

theorem execTokenArrival_wf (h : s.MemOk) : EndsOk (execTokenArrival i s) := by
  refine runEvent_wf (.skip fun f => ite_of .none ?_)
  extract_lets s0 s1
  have h0 : s0.MemOk := takeNet_wf (landSent_wf h)
  have h1 : s1.MemOk := modCluster_wf h0
  clear_value s0 s1
  split
  · exact .none
  · exact toWakeBuf_wf h0
  · split
    · split
      next hd => exact .some ((offer_wf h1).of_taken hd)
      next hd =>
        have ht := (offer_wf h1).of_stays hd
        exact .some ht
      next => exact .none
    · exact deliver_wf h1

theorem execTileLineArrival_wf (h : s.MemOk) : EndsOk (execTileLineArrival i s) := by
  refine runEvent_wf (.skip fun f => ite_of .none ?_)
  extract_lets s0
  have h0 : s0.MemOk := takeNet_wf (landSent_wf h)
  clear_value s0
  split
  · exact .none
  · exact toWakeBuf_wf h0
  · exact tileLine_wf (modCluster_wf h0)

theorem execSinkTokenArrival_wf (h : s.MemOk) : EndsOk (execSinkTokenArrival i s) := by
  refine runEvent_wf (.skip fun f => ite_of .none ?_)
  have h0 : (takeNet s i).MemOk := takeNet_wf h
  generalize takeNet s i = s0 at h0
  exact ite_of (.some h0) (.some (ite_of (endRegion_wf (modRegion_wf h0)) (modRegion_wf h0)))

theorem sluiceDrop_wf {src b header : Nat} (h : s.MemOk) : (sluiceDrop s src cl b header).MemOk :=
  ite_of (modPart_wf h) (postEvent_wf (modPart_wf (modPart_wf h)))

theorem execSluiceDrop_wf (h : s.MemOk) : EndsOk (execSluiceDrop i s) :=
  runEvent_wf (ite_of
    (.skip fun _ => .skip fun _ => ite_of .none (.some (sluiceDrop_wf h)))
    (.skip fun _ => .skip fun _ => .some (sluiceDrop_wf h)))

theorem execReservedFkindFlit_wf {hdr : BitVec 128} (h : s.MemOk) : EndsOk (execReservedFkindFlit cl hdr s) :=
  runEvent_wf (ite_of .none (.some (takeFault_wf _ _ h)))

/-! ### Configuration -/

theorem resendPart_wf (h : s.MemOk) : (resendPart s rid u).MemOk := by
  unfold resendPart
  extract_lets r
  split
  · exact h
  · split
    · exact h
    · exact h

theorem failPart_wf (h : s.MemOk) : (failPart s rid u).MemOk := by
  unfold failPart
  extract_lets n s1 s2
  have h2 : s2.MemOk := modUnit_wf (s := s1) h
  exact ite_of (resendPart_wf h2) (takeFault_wf _ _ h2)

theorem execConfigPacket_wf (h : s.MemOk) : EndsOk (execConfigPacket i s) := by
  refine runEvent_wf (.skip fun p => ?_)
  extract_lets w s1 s2 u hu s3 s4
  have h2 : s2.MemOk := h
  have h3 : s3.MemOk := ite_of h2 (modUnit_wf h2)
  have h4 : s4.MemOk := modUnit_wf h3
  exact ite_of .none (ite_of (.some (failPart_wf h3)) (ite_of (.some (foldl_ok h4 fun _ _ h => modCluster_wf h)) (.some h4)))

theorem execConfigSeal_wf (h : s.MemOk) : EndsOk (execConfigSeal i s) := by
  refine runEvent_wf (.skip fun p => ?_)
  extract_lets w s1 s2 u hu s3 s4
  have h2 : s2.MemOk := h
  have h3 : s3.MemOk := modUnit_wf h2
  have h4 : s4.MemOk := ite_of (takeFault_wf _ _ h3) h3
  exact ite_of .none (ite_of (.some (admitEntry_wf (drainIngress_wf h4))) (.some (failPart_wf h2)))

theorem doubleFault_wf (h : s.MemOk) : (doubleFault s k).MemOk := by
  unfold doubleFault
  exact postCpl_wf _ _ _ _ _ h

theorem execConfigWordUncorrectable_wf (h : s.MemOk) : EndsOk (execConfigWordUncorrectable u s) :=
  runEvent_wf (ite_of .none (ite_of (.some (doubleFault_wf h)) (.some (resendPart_wf (modUnit_wf h)))))

/-! ### Waits for frame copies -/

theorem execFrameCopyRoomFreed_wf (h : s.MemOk) : EndsOk (execFrameCopyRoomFreed cl s) := by
  refine runEvent_wf ?_
  split
  · exact .none
  · exact ite_of (resumeStall_wf (modCluster_wf h)) .none

theorem execLastCopyReleased_wf {die fr : Nat} (h : s.MemOk) : EndsOk (execLastCopyReleased rid die fr s) :=
  runEvent_wf (ite_of (.some (releaseFrame_wf h)) .none)

theorem execBreakpointHalt_wf (h : s.MemOk) : EndsOk (execBreakpointHalt rid s) :=
  runEvent_wf (ite_of (.some (modRegion_wf h)) .none)

end
end Sys2Proof.Proofs

namespace Sys2Proof.Proofs

open Sys2Proof Sys2Proof.Machine Sys2Proof.Laws

section

variable {s t : State} {c : Cur} {u : UId} {rid cl k i : Nat} {a : Access} {n : Nd} {sc : Scope} {r : Rec}

/-! ### Task instructions -/

theorem issueOp_wf {op : Nat} {i : Instr} {ta tb : List TType} {b : Bool} (h : s.MemOk) : EndsOk (issueOp op n i ta tb b s) :=
  runNode_wf h fun _ _ h => .bind (readSrc_wf h) fun _ h1 => .bind (readSrc_wf h1) fun _ h2 => .skip fun _ => .skip fun _ =>
    .skip fun _ => .skip fun _ => .ok (pushOp_wf (ite_of (makeIrrevocable_wf _ h2) h2))

theorem execSpawn_wf (h : s.MemOk) : EndsOk (execSpawn n s) := issueOp_wf h

theorem execSuspend_wf (h : s.MemOk) : EndsOk (execSuspend n s) := issueOp_wf h

theorem execJinit_wf (h : s.MemOk) : EndsOk (execJinit n sc s) := issueOp_wf h

theorem execJarrive_wf (h : s.MemOk) : EndsOk (execJarrive n sc s) := issueOp_wf h

theorem execBarArrive_wf (h : s.MemOk) : EndsOk (execBarArrive n sc s) := issueOp_wf h

theorem execBarWait_wf (h : s.MemOk) : EndsOk (execBarWait n sc s) := issueOp_wf h

theorem execQPush_wf (h : s.MemOk) : EndsOk (execQPush n sc s) := issueOp_wf h

theorem execQPop_wf {p : Bool} (h : s.MemOk) : EndsOk (execQPop n p sc s) := issueOp_wf h

theorem execLaunch_wf (h : s.MemOk) : EndsOk (execLaunch n sc s) := issueOp_wf h

theorem execCut_wf (h : s.MemOk) : EndsOk (execCut n s) := issueOp_wf h

/-! ### What the task operations do -/

theorem enqueueParked_wf {g : BitVec 1280 → BitVec 1280} (h : s.MemOk) : Leaves State.MemOk (enqueueParked s cl r g) :=
  enqueueRecord_wf (modCluster_wf h)

theorem performSpawn_wf (h : s.MemOk) : OpResOk (performSpawn s u a n) := by
  refine ⟨h, .bind (engImage_wf h) fun x h1 => .skip fun rid => ?_⟩
  have hrest : Yields State.MemOk (match enqueueRecord x.2 ⟨0, liveImage x.1 0, rid, false, false, none, 0, none⟩ with
      | none => .error .spill
      | some s => opSend s u a n (marker 1 false)) := by
    split
    next => exact .error
    next he => exact opSend_wf (enqueueRecord_wf h1 _ he)
  exact ite_of (.skip fun _ => hrest) hrest

theorem performSuspend_wf (h : s.MemOk) : OpResOk (performSuspend s u a n) := by
  refine ⟨h, .skip fun _ => .bind (engImage_wf h) fun x h1 => .skip fun rid => .bind (engBlock_wf h1) fun _ h2 =>
    .skip fun _ => ?_⟩
  refine ite_of ?_ ?_
  · split
    next => exact .error
    next he => exact opSend_wf (enqueueRecord_wf h2 _ he)
  · split
    next => exact .error
    next he => exact opSend_wf (engWrite_wf (parkRecord_wf h2 _ he))

theorem performJinit_wf (h : s.MemOk) : OpResOk (performJinit s u a n sc) :=
  ⟨h, .bind (engBlock_wf h) fun _ h1 => .skip fun _ => opSend_wf (engWrite_wf h1)⟩

theorem wakeParked_wf {g : BitVec 1280 → BitVec 1280} (h : s.MemOk) : Yields State.MemOk (wakeParked s cl r g) := by
  unfold wakeParked
  split
  · exact .error
  · split
    next he => exact .ok (enqueueParked_wf h _ he)
    next => exact .error

theorem arriveEnd_wf {t : Target} {parent : Nat} (h : s.MemOk) : Yields State.MemOk (arriveEnd s u a n sc t parent) := by
  unfold arriveEnd
  split
  · exact opSend_wf (engWrite_wf h)
  · exact .bind (wakeParked_wf h) fun _ h1 => opSend_wf (engWrite_wf h1)

theorem performJarrive_wf (h : s.MemOk) : OpResOk (performJarrive s u a n sc) := by
  have hr : (release s u a.f.rid).MemOk := release_wf h
  unfold performJarrive
  refine ite_of ⟨h, .error⟩ ?_
  split
  · exact ⟨h, .error⟩
  next s1 he =>
  have h1 : s1.MemOk := engBlock_wf hr _ he
  extract_lets count parent s2
  have h2 : s2.MemOk := engWrite_wf h1
  refine ite_of ⟨h1, arriveEnd_wf h1⟩ (ite_of ⟨h, .error⟩ ?_)
  split
  · exact ⟨h, .error⟩
  next he => exact ite_of ⟨h2, arriveEnd_wf h2⟩ ⟨h, .ok (opSend_wf h2 _ he)⟩

theorem wakeWatchers_wf (h : s.MemOk) : (wakeWatchers s rid k).MemOk := foldl_ok h fun _ _ h => modUnit_wf h

theorem performBarArrive_wf (h : s.MemOk) : OpResOk (performBarArrive s u a n sc) :=
  ⟨h, .bind (engBlock_wf (release_wf h)) fun _ h1 => .skip fun _ =>
    opSendPair_wf (ite_of (wakeWatchers_wf (engWrite_wf h1)) (engWrite_wf h1))⟩

theorem performBarWait_wf (h : s.MemOk) : OpResOk (performBarWait s u a n sc) :=
  ⟨h, .skip fun _ => .bind (engRead_wf h) fun _ h1 => ite_of (opSendPair_wf (dropBuffers_wf h1))
    (ite_of (.ok (modUnit_wf h1)) .error)⟩

theorem performQPush_wf (h : s.MemOk) : OpResOk (performQPush s u a n sc) := by
  refine ⟨h, .bind (queuePush_wf (release_wf h)) fun x h1 => ?_⟩
  split
  · exact opSendPair_wf h
  · exact opSendPair_wf (h1 _ rfl)

theorem performQPop_wf {p : Bool} (h : s.MemOk) : OpResOk (performQPop s u a n p) := by
  refine ⟨h, .bind (queuePop_wf h) fun x h1 => ?_⟩
  split
  · exact opSendPair_wf h1
  · exact opSendPair_wf (dropBuffers_wf h1)

/-! ### Launch -/

theorem engBlock256_wf {v : Nat} {ord : Bool} (h : s.MemOk) : Yields SndOk (engBlock256 s u rid v ord) := by
  have hloop : ∀ i (r : Nat × State), SndOk r → Yields (fun r => SndOk r.value) (do
      let (x, _, s') ← engRead r.2 u rid (v + 64 * i) 64 64 ord
      pure (ForInStep.yield (r.1 + x * 2 ^ (512 * i), s'))) :=
    fun _ _ h => .bind (engRead_wf h) fun _ h1 => .ok (.mk h1)
  exact .bind (.forIn hloop [0, 1, 2, 3] (0, s) (.mk h)) fun _ h1 => .ok h1

theorem dropHostBuffers_wf (h : s.MemOk) : (dropHostBuffers s rid).MemOk := foldl_ok h fun _ _ h => dropBuffers_wf h

theorem performLaunch_wf (h : s.MemOk) : OpResOk (performLaunch s u a n sc) := by
  refine ite_of ⟨h, ite_of (opSend_wf h) .error⟩ ?_
  extract_lets s0 read
  have h0 : s0.MemOk := drainUn_wf (release_wf h)
  have hread : Yields ThirdOk read := .skip fun _ => .skip fun _ => .bind (engBlock256_wf h0) fun _ h1 =>
    .bind (engImage_wf h1) fun _ h2 => .ok (.mk h2)
  clear_value s0 read
  split
  · exact ⟨h0, .error⟩
  next img s1 =>
  have h1 : s1.MemOk := hread (_, img, s1) rfl
  extract_lets st
  refine ite_of ⟨refusedLaunch_wf h0, .error⟩ ⟨h0, ?_⟩
  split
  · exact .error
  · split
    next hs =>
      have h2 := (startRegion_wf h1).of_eq hs
      exact .ok h2

/-! ### Dispatch -/

theorem beginRegion_wf (h : s.MemOk) : (beginRegion s rid).MemOk := ite_of h (modRegion_wf (dropHostBuffers_wf h))

theorem dispatchRecord_wf (h : s.MemOk) : (dispatchRecord s cl r).MemOk := by
  unfold dispatchRecord
  extract_lets die s1 fr s2 t
  have h1 : s1.MemOk := dropBuffers_wf (beginRegion_wf h)
  have h2 : s2.MemOk := newFrame_wf h1
  clear_value s1 s2
  refine ite_of h2 ?_
  split
  next s3 he =>
    have h3 : Yields State.MemOk (needLive s1 r.rid t >>= fun _ => ensureCopy s1 r.rid t cl) := .skip fun _ => ensureCopy_wf h1
    have h4 : s3.MemOk := h3 _ he
    exact h4
  next => exact faultOrRollback_wf h1
  next => exact h1

theorem refillQueue_wf (h : s.MemOk) : (refillQueue s cl).MemOk := by
  unfold refillQueue
  extract_lets oldest
  split
  · exact h
  · split
    · exact modCluster_wf (modRegion_wf h)
    · exact h

theorem execRecordDispatch_wf (h : s.MemOk) : EndsOk (execRecordDispatch cl s) := by
  refine runEvent_wf ?_
  extract_lets c rest
  have hrest : ∀ r, (rest r).MemOk := fun _ => refillQueue_wf (modCluster_wf h)
  split
  · exact .none
  · extract_lets skip
    refine ite_of (.some (dispatchRecord_wf (modCluster_wf (hrest _)))) (ite_of .none ?_)
    split
    · exact .none
    · exact .some (dispatchRecord_wf (modCluster_wf (hrest _)))

theorem execSpillWatchdog_wf (h : s.MemOk) : EndsOk (execSpillWatchdog rid s) := by
  refine runEvent_wf ?_
  extract_lets r waits
  split
  · exact ite_of (.some (takeFault_wf _ _ (modRegion_wf h))) .none
  · exact .none

/-! ### Cuts -/

theorem execIntervalCommitComplete_wf (h : s.MemOk) : EndsOk (execIntervalCommitComplete u k s) := by
  refine runWork_wf (.skip fun a => ?_)
  split
  · refine ite_of .none ?_
    extract_lets s1 alone img s2 p
    have h1 : s1.MemOk := dropOp_wf (commitLogs_wf _ h)
    have h2 : s2.MemOk := modRegion_wf h1
    exact ite_of (.some (modRegion_wf (requeue_wf h2)))
      (conclude_wf h2 (.bind (sendTo_wf h2) fun _ h3 => ite_of (.ok h3) (sendTo_wf h3)))
  · exact .none

end
end Sys2Proof.Proofs

namespace Sys2Proof.Proofs

open Sys2Proof Sys2Proof.Machine Sys2Proof.Laws

section

variable {s t : State} {c : Cur} {u : UId} {rid cl k i op : Nat} {a : Access} {n : Nd} {b : Opd} {f : Bool} {r : Rnd}

/-! ### Line units -/

theorem consumeTile_wf (h : s.MemOk) : (consumeTile cl s k).MemOk := by
  unfold consumeTile
  split
  · exact tileDone_wf (tileUse_wf h)
  · exact h

/-- A line-unit node keeps memory canonical where its meaning does. -/
theorem runLines_wf {body : State → Cur → Opd → Opd → Res State} (h : s.MemOk)
    (hb : ∀ s c a b, s.MemOk → Yields State.MemOk (body s c a b)) : EndsOk (runLines op n s body) := by
  unfold runLines
  split
  · intro _ e
    cases e
  next c _ =>
    extract_lets s0 tiles s1
    have h0 : s0.MemOk := h
    have h1 : s1.MemOk := foldl_ok h0 fun _ _ h => consumeTile_wf h
    refine ite_of (P := EndsOk) (fun t e => ?_) ?_
    · cases e
      exact h
    · have hx : Yields State.MemOk (do
          let (a, s) ← readSrc s1 c n.a
          let (b, s) ← readSrc s c n.b
          body s c a b) := .bind (readSrc_wf h1) fun _ h2 => .bind (readSrc_wf h2) fun _ h3 => hb _ _ _ _ h3
      split
      next ht =>
        rintro _ ⟨⟩
        exact countRetired_wf (hx _ ht)
      next =>
        rintro _ ⟨⟩
        exact faultOrRollback_wf (countRetired_wf h1)
      next =>
        rintro _ ⟨⟩
        exact h

theorem emitLines_wf {l : List Line} (h : s.MemOk) : Yields State.MemOk (emitLines s c n b l) :=
  .foldlM (fun _ _ h => finish_wf h) l s h

theorem lines2_wf {exempt : Bool} {d : Desc → Desc} {g : Cur → State → Nat → List Nat → List Nat → Option (List Nat)}
    (h : s.MemOk) : EndsOk (lines2 op n exempt d s g) :=
  runLines_wf h fun _ _ _ _ h => .skip fun _ => .skip fun _ => .skip fun _ => emitLines_wf h

theorem lines1_wf {g : Nat → List Nat → Option (List Nat)} (h : s.MemOk) : EndsOk (lines1 op n s g) :=
  runLines_wf h fun _ _ _ _ h => .skip fun _ => .skip fun _ => emitLines_wf h

theorem reduceLines_wf {g : RedLanes → Payload} (h : s.MemOk) : EndsOk (reduceLines op n s g) :=
  runLines_wf h fun _ _ _ _ h => .skip fun _ => .skip fun _ => finish_wf h

theorem cvtEmit_wf {r : Line × List Bool} (h : s.MemOk) : Yields State.MemOk (cvtEmit s c n b r) :=
  .skip fun _ => .bind (sendTo_wf h) fun s1 h1 =>
    .foldlM (fun _ _ h => ite_of (.ok (modUnit_wf h)) (ite_of (.ok h) (sendTo_wf h))) _ s1 h1

theorem execVcvt_wf (h : s.MemOk) : EndsOk (execVcvt n f r s) :=
  runLines_wf h fun _ _ _ _ h => .skip fun _ => .skip fun _ => .skip fun l => .foldlM (fun _ _ h => cvtEmit_wf h) l _ h

theorem execVscl_wf (h : s.MemOk) : EndsOk (execVscl n f r s) :=
  runLines_wf h fun _ _ _ _ h => .skip fun _ => .skip fun _ => .skip fun _ => emitLines_wf h

theorem execVbcast_wf {m : BitVec 3} (h : s.MemOk) : EndsOk (execVbcast n m s) :=
  runLines_wf h fun _ _ _ _ h => .skip fun _ => emitLines_wf h

theorem execVext_wf {m : BitVec 3} (h : s.MemOk) : EndsOk (execVext n m s) :=
  runLines_wf h fun _ _ _ _ h => .skip fun _ => .skip fun _ => .skip fun l => .foldlM (fun _ _ h => finish_wf h) l _ h

theorem execVperm_wf {m : BitVec 3} (h : s.MemOk) : EndsOk (execVperm n m s) :=
  runLines_wf h fun _ _ _ _ h => .skip fun _ => .skip fun _ => .skip fun _ => emitLines_wf h

theorem accAdd_wf {v : List FV} (h : s.MemOk) : (accAdd s f k v).MemOk := by
  unfold accAdd
  exact visibleWrite_wf _ _ _ _ h

theorem execRacc_wf (h : s.MemOk) : EndsOk (execRacc n f r s) := by
  refine runLines_wf h fun s c a b h => .skip fun _ => .skip fun off => .skip fun parts => ?_
  extract_lets l o w base
  refine .skip fun _ => ?_
  split
  · exact .error
  · exact finish_wf (foldl_ok (makeIrrevocable_wf _ h) fun _ _ h => accAdd_wf h)

end
end Sys2Proof.Proofs

namespace Sys2Proof.Proofs

open Sys2Proof Sys2Proof.Machine Sys2Proof.Laws

section

variable {s t : State} {c : Cur} {u : UId} {rid cl k i op bank : Nat} {a b : Opd} {n : Nd} {r : LmRun} {sc : Scope} {x : Bool}

/-! ### Bank claims -/

theorem setMem_wf {m : Memory} (h : m.wf = true) : State.MemOk { s with mem := m } := h

theorem lmNode_wf {body : State → Cur → Opd → Opd → Res State} (h : s.MemOk)
    (hb : ∀ s c a b, s.MemOk → Yields State.MemOk (body s c a b)) : EndsOk (lmNode op n s body) :=
  runNode_wf h fun _ _ h => .bind (readSrc_wf h) fun _ h1 => .bind (readSrc_wf h1) fun _ h2 => .skip fun _ => hb _ _ _ _ h2

theorem runToken_wf {p : Payload} (h : s.MemOk) : Yields State.MemOk (runToken s u r n p) := finish_wf h

theorem execLmClaim_wf (h : s.MemOk) : EndsOk (execLmClaim n s) :=
  lmNode_wf h fun _ _ _ _ h => .skip fun _ => ite_of (finish_wf h) (ite_of (.ok (setBank_wf h))
    (ite_of (finish_wf (setBank_wf h)) (.ok (grantBank_wf (setBank_wf h)))))

theorem execLmRelease_wf (h : s.MemOk) : EndsOk (execLmRelease n s) :=
  lmNode_wf h fun _ _ _ _ h => .skip fun _ => .skip fun _ => .skip fun _ => finish_wf (releaseBank_wf h)

theorem execClaimClearComplete_wf (h : s.MemOk) : EndsOk (execClaimClearComplete cl bank s) := by
  refine runWork_wf ?_
  extract_lets k s1
  have h1 : s1.MemOk := zeroTables_wf (setBank_wf h)
  refine ite_of ?_ ?_
  · split
    · exact ite_of (conclude_wf h1 (claimToken_wf h1)) (.some (setBank_wf h1))
    · exact .some h1
  · split
    · exact ite_of .none (.some (grantBank_wf h))
    · exact .none

/-! ### Building tables -/

theorem writeTables_wf {k : Bank} {acts : List FV} (h : s.MemOk) : (writeTables s cl bank k acts).MemOk := by
  unfold writeTables
  extract_lets an m
  exact foldl_ok h fun s r h => foldl_ok h fun s g h => putTable_wf _ _ _ _ _ h

theorem startBuild_wf {k : Bank} (h : s.MemOk) : (startBuild s cl bank k r).MemOk := modCluster_wf (setBank_wf h)

theorem execLmBuild_wf (h : s.MemOk) : EndsOk (execLmBuild n x s) :=
  lmNode_wf h fun _ _ _ _ h => .skip fun _ => .skip fun _ => .skip fun _ => .skip fun _ => .skip fun _ => .skip fun _ =>
    .skip fun _ => .ok (startBuild_wf (makeIrrevocable_wf _ h))

theorem finishBuild_wf (h : s.MemOk) : Yields State.MemOk (finishBuild s cl r) := by
  unfold finishBuild
  extract_lets off b k built
  have hbuilt : ∀ s n fmt, s.MemOk → (built s n fmt).MemOk := fun _ _ _ h => setBank_wf h
  split
  · exact .ok (hbuilt _ _ _ (writeTables_wf h))
  · exact ite_of (.ok (hbuilt _ _ _ h)) .error

theorem execLmFill_wf (h : s.MemOk) : EndsOk (execLmFill n s) := by
  refine lmNode_wf h fun s c a b h => .skip fun p => .skip fun pos => ?_
  extract_lets v k cl w x s1 kept
  have h1 : s1.MemOk := makeIrrevocable_wf _ h
  clear_value s1
  split
  next d e _ =>
  refine .skip fun _ => .skip fun _ => .skip fun _ => ?_
  extract_lets mem s2 written
  have h2 : s2.MemOk :=
    setBank_wf (ite_of (P := fun m => Memory.wf m = true) (writeN_wf _ _ _ (writeN_wf _ _ _ h1)) (writeN_wf _ _ _ h1))
  have hw : ∀ v, Yields State.MemOk (written v) := fun _ => .skip fun _ => finish_wf h2
  exact ite_of (.skip fun _ => hw ()) (hw ())

/-! ### Passes -/

theorem execLmArm_wf {l cc : Bool} (h : s.MemOk) : EndsOk (execLmArm n l cc s) :=
  lmNode_wf h fun _ _ _ _ h => .skip fun _ => .skip fun _ => .skip fun _ => .skip fun _ => finish_wf (modCluster_wf h)

theorem loadAcc_wf {pick m : Nat} (h : s.MemOk) : (loadAcc s cl pick m).MemOk := by
  unfold loadAcc
  extract_lets src
  exact ite_of h (ite_of (clearKeys_wf h) (writeN_wf _ _ _ h))

theorem startPass_wf {bad : Option Flt} {rows cols : Nat} {more : State → State} (h : s.MemOk)
    (hm : ∀ s, s.MemOk → (more s).MemOk) : (startPass s c op n bad rows cols r more).MemOk := by
  unfold startPass
  extract_lets cl p stop
  have hstop : ∀ f, (stop f).MemOk := fun _ => faultOrRollback_wf (modCluster_wf h)
  split
  · exact hstop _
  · refine ite_of (hstop _) ?_
    split
    · exact hstop _
    · exact hm _ (modCluster_wf (loadAcc_wf (makeIrrevocable_wf _ h)))

theorem execLmLook_wf {k : BitVec 3} {p : Bool} (h : s.MemOk) : EndsOk (execLmLook n k p s) :=
  lmNode_wf h fun _ _ _ _ h => .skip fun _ => .skip fun _ => .skip fun _ => .skip fun _ => .skip fun _ =>
    .ok (startPass_wf h fun _ h => h)

theorem accumulate_wf {v : FV} (h : s.MemOk) : (accumulate s cl i v).MemOk := by
  unfold accumulate
  exact writeN_wf _ _ _ h

theorem lookUse_wf {k : Bank} {p : Bool} {planes : Nat} {t : Tile} {l : List Line} (h : s.MemOk) :
    (lookUse s cl bank k p planes t l).MemOk := by
  unfold lookUse
  extract_lets ps steps
  exact foldl_ok h fun _ _ h => foldl_ok h fun _ _ h => foldl_ok h fun _ _ h => foldl_ok h fun _ _ h => accumulate_wf h

theorem stopPass_wf (h : s.MemOk) : (stopPass s cl r).MemOk := by
  unfold stopPass
  extract_lets s1
  have h1 : s1.MemOk := modUnit_wf (modCluster_wf h)
  split
  · exact tileDone_wf h1
  · exact h1

theorem passFault_wf {f : Flt} (h : s.MemOk) : (passFault s cl r f).MemOk := faultOrRollback_wf (stopPass_wf h)

theorem useDone_wf (h : s.MemOk) : Leaves State.MemOk (useDone s cl r n k) := by
  unfold useDone
  extract_lets s1 s2
  have h2 : s2.MemOk := modCluster_wf (consumeTile_wf h)
  exact ite_of (conclude_wf (stopPass_wf h2) (runToken_wf (stopPass_wf h2))) (.some h2)

theorem lookStep_wf {planes : Nat} {p : Bool} (h : s.MemOk) : Leaves State.MemOk (lookStep s cl r n planes p) := by
  unfold lookStep
  extract_lets b tn k lines
  refine .skip fun t => ite_of .none ?_
  split
  · exact .some (passFault_wf h)
  · exact .none
  · refine ite_of (ite_of (.some (passFault_wf h)) (ite_of .none (.some (modCluster_wf (modUnit_wf h))))) ?_
    split
    · exact .some (passFault_wf h)
    · exact useDone_wf (lookUse_wf h)

theorem execLmDirect_wf {f : BitVec 2} (h : s.MemOk) : EndsOk (execLmDirect n f s) := by
  refine lmNode_wf h fun s c a b h => ?_
  extract_lets cl
  refine .skip fun ta => .skip fun tw => .skip fun _ => .skip fun _ => .ok (startPass_wf h fun s h => ?_)
  split
  · exact tileUse_wf h
  · exact h

theorem directStep_wf {f : BitVec 2} (h : s.MemOk) : Leaves State.MemOk (directStep s cl r n f) := by
  unfold directStep
  extract_lets an wn per cols fmt ps la lw bad s1
  refine .skip fun t => ite_of .none ?_
  have h1 : s1.MemOk := foldl_ok h fun _ _ h => foldl_ok h fun _ _ h => foldl_ok h fun _ _ h => accumulate_wf h
  clear_value bad
  split
  · exact .some (passFault_wf h)
  · exact useDone_wf h1

theorem execPassTileUse_wf (h : s.MemOk) : EndsOk (execPassTileUse cl s) := by
  refine runWork_wf (.skip fun r => ite_of .none ?_)
  split
  · exact lookStep_wf h
  · exact directStep_wf h
  · exact .none

theorem execLmBuildComplete_wf (h : s.MemOk) : EndsOk (execLmBuildComplete cl s) := by
  refine runWork_wf (.skip fun x => ?_)
  extract_lets s1 u
  have h1 : s1.MemOk := modCluster_wf h
  clear_value s1
  split
  · exact conclude_wf h1 (.bind (finishBuild_wf h1) fun _ h2 => runToken_wf h2)
  · exact conclude_wf h1 (.bind (finishBuild_wf h1) fun _ h2 => runToken_wf h2)
  · refine .skip fun r => ?_
    split
    · exact .some (passFault_wf h1)
    · exact .none
    next hb =>
      have h2 := finishBuild_wf h1 _ hb
      exact ite_of (lookStep_wf h2) (ite_of (.some (passFault_wf h2)) (.some (modCluster_wf (modUnit_wf h2))))
  · exact .none

/-! ### Drains, spill and reload -/

theorem pushRun_wf (h : s.MemOk) : (pushRun s c r).MemOk := modCluster_wf h

theorem execLmDrain_wf (h : s.MemOk) : EndsOk (execLmDrain n x sc s) := by
  refine lmNode_wf h fun s c a b h => .skip fun ka => .skip fun mb => ?_
  extract_lets k m cl hu ps lit s1 go
  have hgo : ∀ route base, (go route base).MemOk := fun _ _ => pushRun_wf (makeIrrevocable_wf _ h)
  exact .skip fun _ => .skip fun _ => ite_of (.ok (hgo _ _)) (ite_of (.skip fun _ => .skip fun _ => .ok (hgo _ _)) (ite_of (.ok (hgo _ _)) .error))

theorem lmStore_wf {rid v : Nat} {d : LineData} {e : Desc} {ord : Bool} {site : FaultSite} (h : s.MemOk) :
    Yields State.MemOk (lmStore s u rid v d e sc ord site) :=
  .bind (engAt_wf h) fun _ h1 => .skip fun _ => ite_of (.ok (modCluster_wf (ite_of (makeIrrevocable_wf _ h1) h1)))
    (.ok (visibleWrite_wf _ _ _ _ (ite_of (makeIrrevocable_wf _ h1) h1)))

theorem execLmSpill_wf (h : s.MemOk) : EndsOk (execLmSpill n sc s) :=
  lmNode_wf h fun _ _ _ _ h => .skip fun _ => .skip fun _ => .skip fun _ => .skip fun _ => .skip fun _ => .ok (pushRun_wf h)

theorem execLmReload_wf (h : s.MemOk) : EndsOk (execLmReload n sc s) :=
  lmNode_wf h fun _ _ _ _ h => .skip fun _ => .skip fun _ => .skip fun _ => .skip fun _ => .skip fun _ =>
    .ok (pushRun_wf (makeIrrevocable_wf _ h))

theorem setRun_wf (h : s.MemOk) : (setRun s cl i r).MemOk := modCluster_wf h

theorem dropRun_wf (h : s.MemOk) : (dropRun s cl i).MemOk := modCluster_wf h

theorem drainStep_wf (h : s.MemOk) : Yields State.MemOk (drainStep s cl i r n x sc) := by
  unfold drainStep
  extract_lets u route base m src d sent key
  have hsent : ∀ s, s.MemOk → Yields State.MemOk (sent s) := by
    intro s h
    unfold sent
    extract_lets s2
    have h2 : s2.MemOk := ite_of (clearKeys_wf h) h
    exact ite_of (liftRes_wf (runToken_wf (dropRun_wf h2))) (.ok (setRun_wf h2))
  exact ite_of (.bind (lmStore_wf h) hsent) (ite_of (.bind (P := State.MemOk) (.ok (visibleWrite_wf _ _ _ _ h)) hsent)
    (.bind (liftRes_wf (sendArc_wf h)) hsent))

theorem spillStep_wf (h : s.MemOk) : Yields State.MemOk (spillStep s cl i r n sc) := by
  unfold spillStep
  extract_lets u b
  split
  refine .bind (lmStore_wf h) fun s1 h1 => ?_
  exact ite_of (liftRes_wf (runToken_wf (dropRun_wf h1))) (.ok (setRun_wf h1))

theorem reloadStep_wf (h : s.MemOk) : Yields State.MemOk (reloadStep s cl i r n) := by
  unfold reloadStep
  extract_lets u b h0
  refine .bind (engLine_wf h) fun x h1 => ?_
  split
  next d e s1 =>
  replace h1 : s1.MemOk := h1
  extract_lets k v kept shaped off s2 foundDesc rebuilt s3
  have h2 : s2.MemOk := dropRun_wf (setBank_wf h1)
  have h3 : s3.MemOk := setMem_wf (writeN_wf _ _ _ h1)
  clear_value s2 s3 k v shaped
  have hr : Yields State.MemOk (rebuilt ()) := by
    unfold rebuilt
    split
    · exact ite_of (.ok (startBuild_wf h2)) (.ok (takeFault_wf _ _ h2))
    · exact .ok (faultOrRollback_wf h2)
    · exact .error
  refine ite_of (.skip fun _ => ite_of (.ok (setRun_wf (setBank_wf h1))) (ite_of (ite_of .error hr) ?_)) (ite_of ?_ ?_)
  · exact liftRes_wf (runToken_wf (dropRun_wf (zeroTables_wf (setBank_wf h1))))
  · exact liftRes_wf (runToken_wf (dropRun_wf (setBank_wf h3)))
  · exact .ok (setRun_wf h3)

theorem runStep_wf (h : s.MemOk) : Leaves State.MemOk (runStep s cl i) := by
  refine .skip fun r => ite_of .none ?_
  extract_lets u y
  have hy : Yields State.MemOk y := by
    unfold y
    split
    · exact drainStep_wf h
    · exact spillStep_wf h
    · exact reloadStep_wf h
    · exact .error
  clear_value y
  split
  · exact .some (hy _ rfl)
  · exact .some (faultOrRollback_wf (dropRun_wf h))
  · exact .some (takeFault_wf _ _ (dropRun_wf h))
  · exact .some (pageRecord_wf (setRun_wf h))
  · exact .some (setRun_wf h)
  all_goals exact .none

theorem execLmDrainLine_wf (h : s.MemOk) : EndsOk (execLmDrainLine cl s) := by
  refine runWork_wf fun t ht => ?_
  obtain ⟨_, _, ht⟩ := List.exists_of_findSome?_eq_some ht
  exact runStep_wf h _ ht

theorem execLmStat_wf (h : s.MemOk) : EndsOk (execLmStat n s) :=
  lmNode_wf h fun _ _ _ _ h => .skip fun _ => finish_wf h

end
end Sys2Proof.Proofs

namespace Sys2Proof.Proofs

open Sys2Proof Sys2Proof.Machine Sys2Proof.Laws

section

variable {s t : State} {c : Cur} {u : UId} {rid cl k v i op : Nat} {a : Access} {n : Nd} {r : Rec} {sc : Scope} {ord : Bool}

/-! ### Command lines and copies -/

theorem pushOpAs_wf {i : Instr} {st : AccSt} {w : Option Nat} {l r : Payload} (h : s.MemOk) :
    (pushOpAs s c i st w l r).MemOk := modUnit_wf (s := s.fresh.2) h

theorem readCommand_wf {chk : State → Nat → Res Unit} (h : s.MemOk) : Yields ThirdOk (readCommand s u rid v ord chk) :=
  .bind (engLine_wf h) fun _ h1 => .skip fun _ => .ok h1

theorem issueCommand_wf {i : Instr} {tb : List TType} {chk : State → Cur → Nat → Res Unit} (h : s.MemOk) :
    EndsOk (issueCommand op n i tb chk s) := by
  refine runNode_wf h fun s c h => .bind (readSrc_wf h) fun _ h1 => .bind (readSrc_wf h1) fun x h2 => ?_
  split
  next b s2 =>
  replace h2 : s2.MemOk := h2
  refine .skip fun x => .skip fun y => .skip fun _ => ?_
  extract_lets w s3
  have h3 : s3.MemOk := makeIrrevocable_wf _ h2
  refine .skip fun _ => .skip fun _ => ?_
  clear_value s3
  split
  next hr => exact .ok (pushOp_wf ((readCommand_wf h3 _ hr)))
  next => exact .error
  next => exact .error
  next => exact .ok (pageRecord_wf (pushOpAs_wf h3))
  next => exact .ok (pushOpAs_wf h3)
  next => exact .error

theorem withCommand_wf {chk : State → Nat → Res Unit} {go : State → Access → Nat → OpRes} (h : s.MemOk)
    (hg : ∀ s a v, s.MemOk → OpResOk (go s a v)) : OpResOk (withCommand s u a chk go) := by
  unfold withCommand
  split
  · exact hg _ _ _ h
  · split
    next hr => exact hg _ _ _ (readCommand_wf h _ hr)
    next => exact ⟨h, .error⟩

theorem execCp_wf (h : s.MemOk) : EndsOk (execCp n sc s) := issueCommand_wf h

theorem copyLine_wf (h : s.MemOk) : Yields (α := State × Bool) (fun x => x.1.MemOk) (copyLine s u a v i) :=
  .bind (engAt_wf h) fun _ h1 => .bind (engLine_wf h1) fun _ h2 => .bind (engAt_wf h2) fun _ h3 =>
    .bind (engStoreLine_wf h3) fun _ h4 => .ok h4

theorem copyStep_wf {m : Nat} (h : s.MemOk) : OpResOk (copyStep s u a n m v) := by
  unfold copyStep
  extract_lets left
  split
  next k s1 hs =>
  have h1 : s1.MemOk := SndOk.of_eq (x := s.free) h hs
  extract_lets j
  split
  · exact ⟨h1, .error⟩
  next hc =>
    have h2 := copyLine_wf h1 _ hc
    exact ⟨h2, ite_of (opSend_wf h2) .error⟩

theorem performCp_wf (h : s.MemOk) : OpResOk (performCp s u a n sc) := withCommand_wf h fun _ _ _ h => copyStep_wf h

/-! ### Near-memory commands -/

theorem execNmAdd_wf (h : s.MemOk) : EndsOk (execNmAdd n sc s) := issueCommand_wf h

theorem execNmAxpy_wf (h : s.MemOk) : EndsOk (execNmAxpy n sc s) := issueCommand_wf h

theorem execNmScl_wf (h : s.MemOk) : EndsOk (execNmScl n sc s) := issueCommand_wf h

theorem execNmCvt_wf (h : s.MemOk) : EndsOk (execNmCvt n sc s) := issueCommand_wf h

theorem nmStore_wf {d : LineData} {e : Desc} (h : s.MemOk) : Yields State.MemOk (nmStore s u rid v d e ord) := engStoreLine_wf h

theorem nmArith_wf {o : NmOp} (h : s.MemOk) : Yields State.MemOk (nmArith s u a o v i) := by
  unfold nmArith
  extract_lets ord rid py fmt f updated px
  have hu : ∀ x, SndOk x → Yields State.MemOk (updated x) := fun _ h => .skip fun _ =>
    .bind (engLine_wf (drainLine_wf _ _ h)) fun _ h1 => .skip fun _ => nmStore_wf h1
  exact ite_of (.bind (.ok (.mk h)) hu) (.bind (.bind (engLine_wf h) fun _ h1 => .skip fun _ => .ok (.mk h1)) hu)

theorem nmConvert_wf (h : s.MemOk) : Yields State.MemOk (nmConvert s u a v i) := by
  unfold nmConvert
  extract_lets ord rid px fmt
  refine .bind (engLine_wf h) fun x h1 => ?_
  split
  next d e s1 =>
  replace h1 : s1.MemOk := h1
  refine .skip fun _ => ?_
  split
  · extract_lets part parts sat w
    exact .bind (.foldlM (fun _ _ h => nmStore_wf h) _ _ h1) fun _ h2 => .ok (modUnit_wf h2)
  · exact .error

theorem nmStep_wf {o : NmOp} {m : Nat} (h : s.MemOk) : OpResOk (nmStep s u a n o m v) := by
  have hx : Yields State.MemOk (if o = .cvt then nmConvert s u a v a.aux else nmArith s u a o v a.aux) :=
    ite_of (nmConvert_wf h) (nmArith_wf h)
  unfold nmStep
  split
  · exact ⟨h, .error⟩
  next hc =>
    have h2 := hx _ hc
    exact ⟨h2, ite_of (opSend_wf h2) .error⟩

theorem performNm_wf {o : NmOp} (h : s.MemOk) : OpResOk (performNm s u a n o sc) := withCommand_wf h fun _ _ _ h => nmStep_wf h

/-! ### Windows and remote operations -/

theorem serveWindow_wf {w off peer : Nat} {own : Bool} {op : RemoteOp} {d : LineData} {e : Desc} (h : s.MemOk) :
    Leaves ThirdOk (serveWindow s w off own peer op d e ord) := by
  refine .skip fun x => ?_
  extract_lets m writes reads admitted key old s1 rid
  have h1 : s1.MemOk := by
    unfold s1
    split
    · exact setMem_wf (writeN_wf _ _ _ h)
    · exact h
  refine ite_of .none (ite_of (.some (.mk h1)) ?_)
  split
  next t _ =>
    extract_lets s2 desc old s3
    have h2 : s2.MemOk := ite_of (drainLine_wf _ _ h) h
    have h3 : s3.MemOk := by
      unfold s3
      split
      · exact visibleWrite_wf _ _ _ _ h2
      · exact h2
    exact ite_of .none (.some (.mk h3))
  next => exact .none

theorem execRemoteRequestArrival_wf {r : RemoteReq} (h : s.MemOk) : EndsOk (execRemoteRequestArrival r s) := by
  refine runEvent_wf (ite_of .none (.some ?_))
  split
  next hs => exact (serveWindow_wf h _ hs)
  next => exact h

theorem issueRemote_wf {i : Instr} {size : Nat} {chk : Opd → Res Payload} (h : s.MemOk) : EndsOk (issueRemote op n i size chk s) :=
  runNode_wf h fun _ _ h => .bind (readSrc_wf h) fun _ h1 => .bind (readSrc_wf h1) fun _ h2 => .skip fun _ => .skip fun _ =>
    .skip fun _ => .skip fun _ => .ok (pushOp_wf (makeIrrevocable_wf _ h2))

theorem execXrGet_wf {k l : Bool} (h : s.MemOk) : EndsOk (execXrGet n k l s) := issueRemote_wf h

theorem execXrPut_wf {l : Bool} (h : s.MemOk) : EndsOk (execXrPut n l s) := issueRemote_wf h

theorem execXrAmo_wf {w : Bool} {o : BitVec 3} (h : s.MemOk) : EndsOk (execXrAmo n w o s) := issueRemote_wf h

theorem wakeRecord_wf {g : BitVec 1280 → BitVec 1280} (h : s.MemOk) : Yields State.MemOk (wakeRecord s u k g) := by
  unfold wakeRecord
  split
  · exact .ok h
  · exact wakeParked_wf h

theorem remoteEnd_wf {ans : RemoteAnswer} (h : s.MemOk) : Yields State.MemOk (remoteEnd s u a ans) := by
  unfold remoteEnd
  extract_lets mk v
  refine ite_of .error ?_
  split
  · exact ite_of (.bind (wakeRecord_wf h) fun _ h1 => opSendPair_wf h1) (opSendPair_wf h)
  · exact opSend_wf h
  · exact opSendPair_wf h
  · exact .error

theorem parkFor_wf {ptr cause more : Nat} (h : s.MemOk) : Yields State.MemOk (parkFor s u a ptr cause more) := by
  refine .bind (engImage_wf h) fun x h1 => ?_
  split
  next img s1 =>
  replace h1 : s1.MemOk := h1
  refine .skip fun rid => .skip fun _ => ?_
  split
  next hp => exact .ok (parkRecord_wf h1 _ hp)
  next => exact .error

theorem remoteStep_wf (h : s.MemOk) : Leaves State.MemOk (remoteStep s u a) := by
  unfold remoteStep
  extract_lets v park parked b f
  have hp : Yields State.MemOk parked := ite_of (parkFor_wf h) (.ok h)
  clear_value parked
  split
  · exact opEnd_wf ⟨h, .error⟩
  next s1 =>
  have h1 : s1.MemOk := hp _ rfl
  refine ite_of (ite_of .none ?_) (ite_of (.some (setOp_wf h1)) (opEnd_wf ⟨h1, .error⟩))
  split
  split
  · exact opEnd_wf ⟨h1, .error⟩
  next hs => exact .some (setOp_wf (serveWindow_wf h1 _ hs))

theorem remoteLocalEnd_wf (h : s.MemOk) : Leaves State.MemOk (remoteLocalEnd s u a) := by
  unfold remoteLocalEnd
  split
  · exact ite_of (opEnd_wf (.of h (remoteEnd_wf h))) .none
  · exact .none

theorem execXrGetReturn_wf {ans : RemoteAnswer} (h : s.MemOk) : EndsOk (execXrGetReturn u k ans s) :=
  runWork_wf (.skip fun _ => ite_of (opEnd_wf ⟨h, remoteEnd_wf h⟩) .none)

end
end Sys2Proof.Proofs

namespace Sys2Proof.Proofs

open Sys2Proof Sys2Proof.Machine Sys2Proof.Laws

section

variable {s t : State} {c : Cur} {u : UId} {rid cl k v i oid op page : Nat} {a : Access} {n : Nd} {r : Rec} {sc : Scope} {ord : Bool}

/-! ### Culvert -/

theorem execCvIn_wf (h : s.MemOk) : EndsOk (execCvIn n s) := issueCommand_wf h

theorem execCvOut_wf (h : s.MemOk) : EndsOk (execCvOut n s) := issueCommand_wf h

theorem execCvOpen_wf {x nm : Bool} (h : s.MemOk) : EndsOk (execCvOpen n x nm s) := issueOp_wf h

theorem execCvClose_wf {x : Bool} (h : s.MemOk) : EndsOk (execCvClose n x s) :=
  runNode_wf h fun _ _ h => .bind (readSrc_wf h) fun _ h1 => .skip fun _ => .skip fun _ => .skip fun _ => .skip fun _ =>
    .ok (pushOp_wf (makeIrrevocable_wf _ h1))

theorem performCvOpen_wf {x new : Bool} (h : s.MemOk) : OpResOk (performCvOpen s u a n x new) := by
  refine ⟨h, .skip fun _ => ?_⟩
  split
  next k s1 hs =>
  have h1 : s1.MemOk := SndOk.of_eq (x := s.free) h hs
  extract_lets hn opened o
  have ho : ∀ x, SndOk x → Yields State.MemOk (opened x) := fun _ h => opSendPair_wf h
  clear_value opened
  refine ite_of (.bind (.skip fun _ => ?_) ho) ?_
  · split
    next hf =>
      have h2 := SndOk.of_eq (x := s1.fresh) h1 hf
      exact .ok h2
  · split
    · exact .bind (.ok (.mk h1)) ho
    · exact .error

theorem cvCloseStep_wf {del : Bool} (h : s.MemOk) : Leaves State.MemOk (cvCloseStep s u a n del) := by
  unfold cvCloseStep
  extract_lets hn cx out s1 out1
  have h1 : s1.MemOk := h
  clear_value s1
  refine ite_of (ite_of (opEnd_wf (.of h (opSend_wf h))) .none) (ite_of .none ?_)
  split
  · exact opEnd_wf (.of h .error)
  · exact ite_of (.some (setOp_wf h1)) (opEnd_wf (.of h1 (opSend_wf h1)))

theorem execCulvertDeletionComplete_wf (h : s.MemOk) : EndsOk (execCulvertDeletionComplete oid s) :=
  runEvent_wf (.skip fun _ => ite_of (.some (clearKeys_wf h)) .none)

theorem writeFlash_wf {o : CvObject} {l : List Line} (h : s.MemOk) : (writeFlash s oid page o l).MemOk := by
  unfold writeFlash
  extract_lets s1 o1
  have h1 : s1.MemOk := foldl_ok h fun _ _ h => setMem_wf (writeN_wf _ _ _ (writeN_wf _ _ _ h))
  exact h1

theorem readPage_wf {m : Nat} (h : s.MemOk) : Yields SndOk (readPage s u rid v ord m) := by
  induction m generalizing s with
  | zero => exact .ok (.mk h)
  | succ m ih => exact .bind (engLine_wf h) fun _ h1 => .bind (ih h1) fun _ h2 => .ok (.mk h2)

theorem storePage_wf {l : List Line} (h : s.MemOk) : Yields State.MemOk (storePage s u rid v ord l) :=
  .foldlM (fun _ _ h => engStoreLine_wf h) _ s h

theorem cvInStart_wf (h : s.MemOk) : Leaves State.MemOk (cvInStart s u a n) := by
  unfold cvInStart
  refine ite_of .none ?_
  extract_lets x
  have hx : OpResOk x := withCommand_wf h fun _ _ _ h => .of h (ite_of (.ok h) (parkFor_wf h))
  have hs := hx.stops
  have hr := hx.ends
  clear_value x
  split
  next e => exact .some (setOp_wf (hr _ e))
  next => exact opEnd_wf ⟨hs, .error⟩

theorem cvInLoop_wf {o : CvObject} {m : Nat} (h : s.MemOk) : OpResOk (cvInLoop u n v oid o m s a) := by
  induction m generalizing s a with
  | zero => exact .of h (.bind (wakeRecord_wf h) fun _ h1 => opSend_wf h1)
  | succ m ih =>
    unfold cvInLoop
    extract_lets j page
    refine ite_of (.of h .error) ?_
    split
    next hp => exact ih (storePage_wf h _ hp)
    next => exact .of h .error

theorem execCvInComplete_wf (h : s.MemOk) : EndsOk (execCvInComplete u k s) := by
  refine runWork_wf (.skip fun a => ?_)
  split
  · refine ite_of ?_ .none
    extract_lets v
    split
    · exact opEnd_wf (cvInLoop_wf h)
    · exact opEnd_wf (.of h .error)
  · exact .none

theorem cvOutLoop_wf {m : Nat} (h : s.MemOk) : OpResOk (cvOutLoop u n v oid m s a) := by
  induction m generalizing s a with
  | zero => exact .of h (opSend_wf h)
  | succ m ih =>
    unfold cvOutLoop
    extract_lets j
    split
    next hp _ => exact ih (writeFlash_wf ((readPage_wf h _ hp)))
    · exact .of h .error
    · exact .of h .error

theorem cvGo_wf {good : Bool} (h : s.MemOk) : OpResOk (performCvOut.cvGo u n s a v good) := by
  unfold performCvOut.cvGo
  split
  · exact cvOutLoop_wf h
  · exact .of h .error

theorem performCvOut_wf (h : s.MemOk) : OpResOk (performCvOut s u a n) := by
  refine ite_of (.of h .error) (withCommand_wf h fun s a v h => ite_of (cvGo_wf h) ?_)
  extract_lets b ctxm
  split
  · exact .of h .error
  · exact cvGo_wf h

/-! ### System instructions -/

theorem execTrap_wf {k : BitVec 4} (h : s.MemOk) : EndsOk (execTrap n k s) :=
  runNode_wf h fun _ _ _ => .skip fun _ => .error

theorem execBrk_wf (h : s.MemOk) : EndsOk (execBrk n s) := by
  refine runNode_wf h fun s c h => .bind (readSrc_wf h) fun x h1 => ?_
  split
  next a s1 =>
  replace h1 : s1.MemOk := h1
  refine ite_of ?_ (finish_wf h1)
  split
  next k s2 hs =>
  have h2 : s2.MemOk := SndOk.of_eq (x := s1.fresh) h1 hs
  exact .ok (modUnit_wf h2)

theorem execPostHeld_wf (h : s.MemOk) : EndsOk (execPostHeld k s) := runEvent_wf (postHeld_wf h)

theorem execUncorrectable_wf {line : Nat} (h : s.MemOk) : EndsOk (execUncorrectable line s) := by
  unfold execUncorrectable
  extract_lets stored t
  have ht : t.MemOk := h
  clear_value t
  refine runEvent_wf (ite_of (.some ?_) .none)
  split
  · exact doubleFault_wf ht
  · exact ht

theorem execRdctr_wf {k : BitVec 4} (h : s.MemOk) : EndsOk (execRdctr n k s) := runNode_wf h fun _ _ h => finish_wf h

theorem setPendBit_wf {p q : Nat} {b : Bool} (h : s.MemOk) : (setPendBit s p q b).MemOk := by
  unfold setPendBit
  split
  · exact visibleWrite_wf _ _ _ _ h
  · exact h

theorem writeQslot_wf {p i : Nat} {w : Word} (h : s.MemOk) : (writeQslot s p i w).MemOk := by
  unfold writeQslot
  extract_lets old keep s1 moved s2 run pend w
  have h1 : s1.MemOk := ite_of (setPendBit_wf h) h
  have h2 : s2.MemOk := ite_of (setPendBit_wf h1) h1
  exact modPart_wf h2

theorem writePriv_wf {p num : Nat} {w : Word} (h : s.MemOk) :
    Leaves (α := State × Bool) (fun x => x.1.MemOk) (writePriv s p num w) := by
  unfold writePriv
  extract_lets put e
  have hput : ∀ g, Leaves (α := State × Bool) (fun x => x.1.MemOk) (put g) := fun _ => .some (modPart_wf h)
  exact ite_of (ite_of (.some h) (hput _)) (ite_of (hput _) (ite_of (ite_of (.some h) (hput _)) (ite_of (hput _) (ite_of (hput _)
    (ite_of (hput _) (ite_of (ite_of (.some h) (hput _)) (ite_of (hput _) (ite_of (ite_of .none (.some (writeQslot_wf h)))
      (ite_of (hput _) .none)))))))))

theorem execCsrRd_wf (h : s.MemOk) : EndsOk (execCsrRd n s) := by
  refine runNode_wf h fun s c h => .bind (readSrc_wf h) fun x h1 => .skip fun _ => .skip fun _ => ?_
  split
  · exact finish_wf h1
  · exact .error

theorem execCsrWr_wf (h : s.MemOk) : EndsOk (execCsrWr n s) := by
  refine runNode_wf h fun s c h => .bind (readSrc_wf h) fun x h1 => .bind (readSrc_wf h1) fun y h2 => .skip fun _ =>
    .skip fun _ => .skip fun _ => ?_
  split
  next hw => exact finish_wf (writePriv_wf (makeIrrevocable_wf _ h2) _ hw)
  next => exact .error

theorem writeFn_wf {fn off : Nat} {w : Word} (h : s.MemOk) : Leaves State.MemOk (writeFn s fn off w) := by
  unfold writeFn
  extract_lets hg put ring
  have hput : ∀ g, Leaves State.MemOk (put g) := fun _ => .some h
  clear_value put
  exact ite_of (hput _) (ite_of (hput _) (ite_of (hput _) (ite_of (.some h) .none)))

theorem execRegisterWrite_wf {p num : Nat} (h : s.MemOk) : EndsOk (execRegisterWrite p num v s) :=
  runEvent_wf (ite_of (writeFn_wf h) (ite_of (.map_of (writePriv_wf h) fun _ h => h) .none))

/-! ### Notifies and the fault ring -/

theorem notify_wf {p q : Nat} (h : s.MemOk) : (notify s p q).MemOk := by
  unfold notify
  extract_lets w room
  split
  · exact modPart_wf h
  · exact postEvent_wf (setPendBit_wf h)

theorem execQueueNotify_wf {p q : Nat} (h : s.MemOk) : EndsOk (execQueueNotify p q s) :=
  runEvent_wf (ite_of (.some (notify_wf h)) .none)

theorem execFaultRingRoom_wf (h : s.MemOk) : EndsOk (execFaultRingRoom k s) := by
  refine runEvent_wf ?_
  split
  · exact .none
  · exact ite_of .none (.some (ringWrite_wf _ _ (modPart_wf h)))

/-! ### Publish and scrub -/

theorem issueRanged_wf {i : Instr} {ta tb : List TType} {ok : Nat → Nat → Bool} (h : s.MemOk) :
    EndsOk (issueRanged op n i ta tb ok s) :=
  runNode_wf h fun _ _ h => .bind (readSrc_wf h) fun _ h1 => .bind (readSrc_wf h1) fun _ h2 => .skip fun _ => .skip fun _ =>
    .skip fun _ => .skip fun _ => .skip fun _ => .ok (pushOp_wf (makeIrrevocable_wf _ h2))

theorem execPublish_wf (h : s.MemOk) : EndsOk (execPublish n s) := issueRanged_wf h

theorem acquireLines_wf {m : Nat} (h : s.MemOk) : Yields SndOk (acquireLines s u rid v ord m) := by
  induction m generalizing s v with
  | zero => exact .ok (.mk h)
  | succ m ih => exact .bind (engLine_wf h) fun _ h1 => .bind (ih h1) fun _ h2 => .ok (.mk h2)

theorem sealCode_wf {cx m : Nat} {l : List Line} (h : s.MemOk) : SndOk (sealCode s cx l m) := by
  unfold sealCode
  extract_lets c st
  refine ite_of (.mk (ite_of (reportRefusal_wf h) h)) ?_
  have hw : (writeHeap s (ctxRid cx) c).1.MemOk := writeHeap_wf h
  split
  next t ok hx =>
  have ht : t.MemOk := by
    rw [hx] at hw
    exact hw
  refine ite_of (.mk ht) ?_
  split
  next id t1 hf =>
  have h1 : t1.MemOk := SndOk.of_eq (x := t.fresh) ht hf
  exact .mk (s := { t1 with hg := _ }) h1

theorem performPublish_wf (h : s.MemOk) : OpResOk (performPublish s u a n) := by
  refine .of h (.skip fun _ => .bind (acquireLines_wf (dropBuffers_wf h)) fun x h1 => ?_)
  split
  next l s1 =>
  replace h1 : s1.MemOk := h1
  extract_lets code cx
  split
  · exact .error
  · split
    next hs => exact opSend_wf ((sealCode_wf h1).of_eq hs)

theorem execScrubZero_wf (h : s.MemOk) : EndsOk (execScrubZero n s) := issueRanged_wf h

theorem execScrubWait_wf (h : s.MemOk) : EndsOk (execScrubWait n s) := issueRanged_wf h

theorem zeroLoop_wf {m : Nat} (h : s.MemOk) : OpResOk (zeroLoop u n m s a) := by
  induction m generalizing s a with
  | zero => exact .of h (opSend_wf h)
  | succ m ih =>
    unfold zeroLoop
    split
    next he => exact ih (engStoreLine_wf h _ he)
    next => exact .of h .error

theorem performScrubZero_wf (h : s.MemOk) : OpResOk (performScrubZero s u a n) := zeroLoop_wf h

theorem performScrubWait_wf (h : s.MemOk) : OpResOk (performScrubWait s u a n) := .of h (ite_of (opSend_wf h) .error)

end
end Sys2Proof.Proofs

namespace Sys2Proof.Proofs

open Sys2Proof Sys2Proof.Machine Sys2Proof.Laws

section

variable {s t : State} {c : Cur} {u : UId} {rid cl k v i p : Nat} {a : Access} {n : Nd} {ord : Bool} {g : Image}

/-! ### Leaving the fabric -/

theorem zeroSram_wf {pick : Nat → Bool} (h : s.MemOk) : (zeroSram s pick).MemOk := by
  unfold zeroSram
  extract_lets s1 hit
  have h1 : s1.MemOk := drainWhere_wf _ h
  clear_value s1
  exact filter_wf _ h1

theorem emptyTlbs_wf (h : s.MemOk) : (emptyTlbs s p).MemOk := by
  unfold emptyTlbs
  extract_lets s1
  have h1 : s1.MemOk := drainWhere_wf _ h
  clear_value s1
  exact h1

theorem askYield_wf {dest : SaveTo} {since : Nat} (h : s.MemOk) : (askYield s rid dest since).MemOk := ite_of h h

theorem yieldToo_wf (h : s.MemOk) : (yieldToo s rid).MemOk := by
  unfold yieldToo
  split
  · exact askYield_wf h
  · exact h

theorem leaveFabric_wf (h : s.MemOk) : (leaveFabric s rid).MemOk := by
  unfold leaveFabric
  extract_lets mine t
  have ht : t.MemOk := releaseAll_wf h
  clear_value t
  exact ht

theorem dropPackets_wf (h : s.MemOk) : (dropPackets s rid).MemOk := h

theorem loseRegion_wf {reason : Nat} {record : Bool} (h : s.MemOk) : (loseRegion s rid reason record).MemOk := by
  unfold loseRegion
  extract_lets r s1 s2 s3 s4
  have h3 : s3.MemOk := modRegion_wf (clearRun_wf (dropPackets_wf (leaveFabric_wf (discardTokens_wf h))))
  have h4 : s4.MemOk := by
    unfold s4
    split
    · exact postCpl_wf _ _ _ _ _ h3
    · exact h3
  exact ite_of (takeFault_wf _ _ h4) h4

theorem saveRegion_wf (h : s.MemOk) : (saveRegion s rid).MemOk := by
  unfold saveRegion
  extract_lets r s1 s2 s3 slot
  have h1 : s1.MemOk := drainUn_wf h
  have h2 : s2.MemOk := ite_of (commitLogs_wf _ h1) h1
  have h3 : s3.MemOk := foldl_ok h2 fun _ _ h => dropBuffers_wf h
  clear_value s3
  split
  next id s4 hf =>
  have h4 : s4.MemOk := SndOk.of_eq (x := s3.fresh) h3 hf
  extract_lets img clusters s5 s6 s7 hg
  have h5 : s5.MemOk := releaseAll_wf h4
  have h7 : s7.MemOk := modRegion_wf (dropPackets_wf (discardTokens_wf h5))
  clear_value s7
  exact h7

/-! ### Restores -/

theorem putCells_wf {f : Host.Cell → Host.Cell} {l : List Host.Cell} {m : Memory} (h : m.wf = true) :
    Memory.wf (l.foldl (fun m c => putCell m (f c)) m) = true :=
  List.foldlRecOn (motive := fun m => Memory.wf m = true) l _ h fun _ h _ _ => write_wf _ _ h

theorem restoreBank_wf (h : s.MemOk) : (restoreBank s rid cl k).MemOk := by
  unfold restoreBank
  extract_lets k1 kept s1 off fault
  have h1 : s1.MemOk := setBank_wf h
  have h2 : off.MemOk := setBank_wf h1
  have hf : ∀ f, (fault f).MemOk := fun _ => takeFault_wf _ _ h2
  clear_value fault off
  refine ite_of h1 ?_
  split
  · exact ite_of (writeTables_wf h1) (hf _)
  · exact hf _
  · exact h2

theorem restoreRegion_wf (h : s.MemOk) : (restoreRegion s p g).MemOk := by
  unfold restoreRegion
  extract_lets q mv rid r units nodes r' s1 empty s2 s3 at' moved s4 s5
  have h1 : s1.MemOk := h
  have h2 : s2.MemOk := foldl_ok h1 fun _ _ h => h
  have h3 : s3.MemOk := foldl_ok h2 fun s x h => by
    extract_lets cl lm t
    have ht : t.MemOk := modCluster_wf h
    exact ite_of (clearKeys_wf (clearKeys_wf ht)) ht
  have h4 : s4.MemOk := putCells_wf (f := fun c => (moveKey g.west q.west c.1, c.2)) h3
  have h5 : s5.MemOk := foldl_ok h4 fun s x h => ite_of (restoreBank_wf (restoreBank_wf h)) h
  exact admitEntry_wf h5

theorem restoreOnto_wf (h : s.MemOk) : (restoreOnto s p g).MemOk := by
  unfold restoreOnto
  split
  · refine ite_of (yieldToo_wf (restoreRegion_wf h)) ?_
    split
    next id s1 hf =>
    have h1 : s1.MemOk := SndOk.of_eq (x := s.fresh) h hf
    exact h1
  · exact yieldToo_wf (restoreRegion_wf h)

/-! ### Pre-emption -/

theorem execPhaseBoundarySave_wf (h : s.MemOk) : EndsOk (execPhaseBoundarySave rid s) :=
  runEvent_wf (ite_of (.some (saveRegion_wf h)) .none)

theorem execQuiescenceReport_wf (h : s.MemOk) : EndsOk (execQuiescenceReport rid s) :=
  runEvent_wf (ite_of (.some (saveRegion_wf h)) .none)

theorem forceRegion_wf (h : s.MemOk) : (forceRegion s rid).MemOk :=
  ite_of h (ite_of (finishRegion_wf h) (ite_of (saveRegion_wf h) (ite_of (saveRegion_wf (rollback_wf h)) (loseRegion_wf h))))

theorem execForcedPreemption_wf (h : s.MemOk) : EndsOk (execForcedPreemption p s) := by
  refine runEvent_wf ?_
  extract_lets q l
  have hl : ∀ s, s.MemOk → (l.foldl forceRegion s).MemOk := fun _ h => foldl_ok h fun _ _ h => forceRegion_wf h
  clear_value l
  split
  · exact ite_of (.some (hl _ (modPart_wf (postEvent_wf h)))) (ite_of .none (.some (hl _ h)))
  · exact ite_of .none (.some (hl _ h))

theorem execSlotBoundary_wf (h : s.MemOk) : EndsOk (execSlotBoundary p s) := by
  refine runEvent_wf ?_
  extract_lets q t i en s1 s2 q1 ent owner since s3
  have h1 : s1.MemOk := modPart_wf h
  have h2 : s2.MemOk := ite_of (modPart_wf h1) h1
  have h3 : s3.MemOk := modPart_wf h2
  clear_value s2 s3
  refine ite_of .none (ite_of (.some h2) ?_)
  split
  · exact .some (ite_of h2 (modPart_wf h2))
  · refine ite_of (.some h2) (.some ?_)
    split
    · exact foldl_ok h3 fun _ _ h => askYield_wf h
    · exact h3

theorem swapComps_wf {old : Option Nat} {new : Nat} (h : s.MemOk) : (swapComps s p old new).MemOk := by
  unfold swapComps
  extract_lets zero kept
  refine foldl_ok h fun s cl h => ite_of ?_ h
  extract_lets hg s1
  have h1 : s1.MemOk := by
    unfold s1
    split
    · exact h
    · exact h
  exact modCluster_wf h1

theorem execHolderChange_wf (h : s.MemOk) : EndsOk (execHolderChange p s) := by
  refine runEvent_wf ?_
  extract_lets q old
  split
  · exact .none
  next y _ =>
  extract_lets s1 s2 s3
  have h1 : s1.MemOk := swapComps_wf (zeroSram_wf (emptyTlbs_wf h))
  have h3 : s3.MemOk := postEvent_wf (modPart_wf h1)
  refine ite_of .none (.some (foldl_ok h3 fun s rid h => ?_))
  split
  · exact ite_of (restoreRegion_wf h) h
  · exact h

/-! ### Gates of sources -/

theorem execGateSrcClose_wf (h : s.MemOk) : EndsOk (execGateSrcClose n s) := issueOp_wf h

theorem execGateSrcOpen_wf (h : s.MemOk) : EndsOk (execGateSrcOpen n s) := issueOp_wf h

theorem execGateSrcFreeze_wf (h : s.MemOk) : EndsOk (execGateSrcFreeze n s) := issueOp_wf h

theorem execGateSrcEvict_wf (h : s.MemOk) : EndsOk (execGateSrcEvict n s) := issueOp_wf h

theorem gateEnd_wf (h : s.MemOk) : Yields State.MemOk (gateEnd s u a n) := opSend_wf h

theorem performGate_wf {evict : Bool} (h : s.MemOk) : OpResOk (performGate s u a n evict) :=
  .of h (.skip fun _ => .skip fun _ => gateEnd_wf (ite_of (loseRegion_wf h) (modRegion_wf h)))

theorem imageLoop_wf {id : Nat} {l : List LineData} (h : s.MemOk) : OpResOk (imageLoop u n id l s a) := by
  induction l generalizing s a with
  | nil => exact .of h (gateEnd_wf h)
  | cons d l ih =>
    unfold imageLoop
    split
    next t s1 he =>
      extract_lets s2 note hg
      have h1 : s1.MemOk := engAt_wf h _ he
      have h2 : s2.MemOk := visibleWrite_wf _ _ _ _ h1
      clear_value s2
      exact ih h2
    next => exact .of h .error

theorem gateCloseStep_wf (h : s.MemOk) : Leaves State.MemOk (gateCloseStep s u a n) := by
  refine ite_of ?_ ?_
  · split
    · exact opEnd_wf (.of h .error)
    · exact ite_of (.some (setOp_wf (askYield_wf h))) (opEnd_wf (.of h .error))
  · extract_lets rid
    refine ite_of .none ?_
    split
    · exact ite_of (opEnd_wf (.of h .error)) (ite_of (opEnd_wf (.of h .error)) (opEnd_wf (imageLoop_wf h)))
    · exact opEnd_wf (.of h (gateEnd_wf h))

theorem imageAt_wf {g m : Nat} (h : s.MemOk) : Yields SndOk (imageAt s u rid g v ord m) := by
  induction m generalizing s v with
  | zero => exact .ok (.mk h)
  | succ m ih =>
    exact .bind (engAt_wf h) fun _ h1 => .skip fun _ => .skip fun _ =>
      .bind (ih (drainOwn_wf h1)) fun _ h2 => .ok (.mk h2)

theorem performGateOpen_wf (h : s.MemOk) : OpResOk (performGateOpen s u a n) := by
  refine .of h ?_
  extract_lets p
  refine .skip fun rid => ?_
  extract_lets st
  refine ite_of (.skip fun _ => gateEnd_wf (modRegion_wf h)) (.skip fun _ => .skip fun _ => .bind (imageAt_wf h) fun x h1 => ?_)
  split
  next hd s1 =>
  replace h1 : s1.MemOk := h1
  extract_lets bad
  refine ite_of .error (.bind (imageAt_wf h1) fun y h2 => ?_)
  split
  next l s2 =>
  replace h2 : s2.MemOk := h2
  split
  · exact .error
  · exact ite_of .error (gateEnd_wf (restoreOnto_wf h2))

end
end Sys2Proof.Proofs

namespace Sys2Proof.Proofs

open Sys2Proof Sys2Proof.Machine Sys2Proof.Laws

section

variable {s t : State} {u : UId} {rid cx k v i p fn : Nat} {a : Access} {n : Nd} {c : Cmd} {x : Ctx}

/-! ### Commands of the Headgate -/

theorem fresh_wf (h : s.MemOk) : SndOk s.fresh := h

theorem free_wf (h : s.MemOk) : SndOk s.free := h

theorem modFn_wf {g : FnRegs → FnRegs} (h : s.MemOk) : (modFn s fn g).MemOk := h

theorem writeHost_wf {l : List Byte} (h : s.MemOk) : (writeHost s k l).MemOk :=
  setMem_wf (List.foldlRecOn (motive := fun m => Memory.wf m = true) _ _ h fun _ h _ _ => write_wf _ _ h)

theorem execHostStore_wf {l : List Byte} (h : s.MemOk) : EndsOk (execHostStore k l s) := runEvent_wf (.some (writeHost_wf h))

theorem completeCmd_wf {status detail result : Nat} (h : s.MemOk) : (completeCmd s c status detail result).MemOk :=
  postCpl_wf _ _ _ _ _ (modFn_wf h)

theorem takeCmd_wf (h : s.MemOk) : (takeCmd s c).MemOk := modFn_wf h

/-- The state that a command ends in has its memory in canonical form. -/
def CmdEndOk (e : CmdEnd) : Prop := e.st.MemOk

theorem CmdEndOk.done (h : s.MemOk) : CmdEndOk (done v s) := h

theorem runCommand_wf {name : String} {code : Nat} {pf : Bool} {body : State → CmdM CmdEnd} (h : s.MemOk)
    (hb : ∀ s, s.MemOk → Yields CmdEndOk (body s)) : EndsOk (runCommand name code c pf s body) := by
  refine runEvent_wf (ite_of ?_ .none)
  extract_lets s1
  have h1 : s1.MemOk := takeCmd_wf h
  clear_value s1
  have hx : Yields CmdEndOk (precheck s1 c pf >>= fun _ => body s1) := .skip fun _ => hb _ h1
  split
  next he => exact .some (completeCmd_wf (hx _ he))
  next => exact .some (completeCmd_wf h1)

theorem bindSlot_wf {keys : List Nat} (h : s.MemOk) : (bindSlot s k v keys).MemOk := h

theorem newNonce_wf (h : s.MemOk) : SndOk (newNonce s) := h

/-! ### Supervisors -/

theorem loadSupervisor_wf (h : s.MemOk) : (loadSupervisor s p k).MemOk := by
  unfold loadSupervisor
  extract_lets fw cx eff code s1
  have h1 : s1.MemOk := bindSlot_wf h
  clear_value s1
  split
  next id s2 hf =>
  have h2 : s2.MemOk := (fresh_wf h1).of_eq hf
  extract_lets hg s3
  have h3 : s3.MemOk := h2
  clear_value s3
  split
  next hs => exact visibleWrite_wf _ _ _ _ (modPart_wf ((startRegion_wf h3).of_eq hs))

theorem unloadSupervisor_wf (h : s.MemOk) : (unloadSupervisor s p).MemOk := by
  unfold unloadSupervisor
  split
  · exact h
  · extract_lets slot s1 hg
    have h1 : s1.MemOk := modRegion_wf (loseRegion_wf (modPart_wf h))
    clear_value s1
    exact h1

/-! ### Teardown -/

theorem teardown_wf (h : s.MemOk) : (teardown s cx x).MemOk := by
  unfold teardown
  extract_lets mine s1 hg
  have h1 : s1.MemOk := foldl_ok h fun _ _ h => ite_of (loseRegion_wf h) h
  clear_value s1
  exact h1

theorem beginScrub_wf (h : s.MemOk) : (beginScrub s cx x p).MemOk := by
  unfold beginScrub
  extract_lets scrub s1
  have h1 : s1.MemOk := modPart_wf h
  clear_value s1
  split
  next g s2 hf =>
  have h2 : s2.MemOk := (fresh_wf h1).of_eq hf
  exact h2

theorem zeroStep_wf (h : s.MemOk) : Leaves State.MemOk (zeroStep s cx x p) := by
  unfold zeroStep
  split
  · exact .some h
  · exact .some (beginScrub_wf h)
  · exact .none

theorem zeroHbm_wf (h : s.MemOk) : (zeroHbm s k v).MemOk := by
  unfold zeroHbm
  extract_lets inside meta'
  exact filter_wf _ h

theorem zeroPhys_wf {hi fuel lo : Nat} (h : s.MemOk) : (zeroPhys s p hi fuel lo).MemOk := by
  induction fuel generalizing s lo with
  | zero => exact h
  | succ fuel ih => exact ite_of h (ih (zeroHbm_wf h))

/-- A state that a computation answers before something else has its memory in canonical form. -/
def FstOk {α : Type} (x : State × α) : Prop := x.1.MemOk

theorem FstOk.of_eq {α : Type} {x : State × α} {b : α} (h : FstOk x) (e : x = (s, b)) : s.MemOk := by
  subst e
  exact h

theorem scrubUnit_wf {x : Scrub} (h : s.MemOk) : FstOk (scrubUnit s p x) := by
  unfold scrubUnit
  split
  · exact h
  · split
    exact foldl_ok h fun _ _ h => zeroPhys_wf h

theorem endScrub_wf {x : Scrub} (h : s.MemOk) : (endScrub s p x).MemOk := by
  unfold endScrub
  extract_lets s1 hg out s2
  have h1 : s1.MemOk := modPart_wf h
  have h2 : s2.MemOk := by
    unfold s2
    clear_value s1
    split
    · split
      · exact h1
      · exact h1
    · exact h1
  clear_value s2
  exact ite_of h2 h2

theorem clearPart_wf {cfg map : Nat} (h : s.MemOk) : (clearPart s p cfg map).MemOk := by
  unfold clearPart
  extract_lets s1 new
  have h1 : s1.MemOk := unloadSupervisor_wf h
  clear_value s1
  exact h1

theorem partSetEnd_wf (h : s.MemOk) : (partSetEnd s p).MemOk := by
  refine ite_of h ?_
  split
  · exact ite_of (completeCmd_wf (clearPart_wf h)) h
  · exact h

theorem execScrubUnitDone_wf (h : s.MemOk) : EndsOk (execScrubUnitDone p s) := by
  refine runEvent_wf ?_
  split
  · exact .none
  · split
    next k s1 hf =>
    have h1 : s1.MemOk := (free_wf h).of_eq hf
    split
    next s2 y hs =>
    have h2 : s2.MemOk := by
      split at hs
      · split at hs
        · cases hs
          exact zeroSram_wf h1
        · exact (scrubUnit_wf h1).of_eq hs
      · exact (scrubUnit_wf h1).of_eq hs
    exact ite_of (.some (partSetEnd_wf (endScrub_wf h2))) (.some (modPart_wf h2))

theorem teardownStep_wf (h : s.MemOk) : (teardownStep s c).MemOk := by
  unfold teardownStep
  split
  · exact completeCmd_wf h
  · split
    · exact completeCmd_wf h
    next hz =>
      have h1 := zeroStep_wf h _ hz
      exact ite_of (completeCmd_wf h1) h1

theorem EndsOk.next (h : s.MemOk) : EndsOk (.next s) := by
  rintro _ ⟨⟩
  exact h

theorem EndsOk.refused {e : Refusal} : EndsOk (.refused e) := by
  intro _ e
  cases e

theorem execTeardown_wf (h : s.MemOk) : EndsOk (execTeardown c s) := by
  refine ite_of (.next (teardownStep_wf h)) (ite_of (.next ?_) .refused)
  split
  · exact completeCmd_wf (takeCmd_wf h)
  · exact modFn_wf (teardown_wf (takeCmd_wf h))

/-! ### Partitions -/

theorem reblock_wf (h : s.MemOk) : (reblock s p).MemOk := h

theorem makePart_wf {cfg map slot : Nat} (h : s.MemOk) : (makePart s p cfg map slot).MemOk := by
  unfold makePart
  extract_lets s1
  have h1 : s1.MemOk := unloadSupervisor_wf h
  clear_value s1
  split
  next k s2 hf =>
  have h2 : s2.MemOk := (free_wf h1).of_eq hf
  exact loadSupervisor_wf (reblock_wf h2)

theorem partSetStep_wf (h : s.MemOk) : Leaves State.MemOk (partSetStep s p) := by
  unfold partSetStep
  split
  · exact .map_of (zeroStep_wf h) fun _ h => partSetEnd_wf h
  · exact ite_of .none (.some (partSetEnd_wf h))

theorem execPartSet_wf (h : s.MemOk) : EndsOk (execPartSet c s) := by
  unfold execPartSet
  extract_lets cfg map p n q checks
  refine ite_of (runEvent_wf (partSetStep_wf h)) (ite_of (.next (partSetEnd_wf (modFn_wf ?_))) ?_)
  · exact foldl_ok (takeCmd_wf h) fun _ _ h => teardown_wf h
  · refine runCommand_wf h fun s h => .skip fun _ => .skip fun _ => .skip fun _ => ite_of (.ok (.done (clearPart_wf h))) ?_
    split
    · exact .error
    · exact .skip fun _ => .skip fun _ => .ok (.done (makePart_wf h))

theorem execCalSet_wf (h : s.MemOk) : EndsOk (execCalSet c s) :=
  runCommand_wf h fun _ h => .skip fun _ => .ok h

theorem execPower_wf (h : s.MemOk) : EndsOk (execPower c s) :=
  runCommand_wf h fun _ h => .skip fun _ => .skip fun _ => .ok (.done (modPart_wf h))

theorem execUnassignedCommand_wf (h : s.MemOk) : EndsOk (execUnassignedCommand c s) :=
  runEvent_wf (ite_of (.some (completeCmd_wf (takeCmd_wf h))) .none)

/-! ### Virtual devices, contexts and code -/

theorem execVdCreate_wf (h : s.MemOk) : EndsOk (execVdCreate c s) := by
  refine runCommand_wf h fun s h => .skip fun _ => .skip fun _ => .skip fun _ => .skip fun _ => .skip fun _ => .skip fun _ =>
    .skip fun _ => ?_
  split
  · exact .error
  · split
    next key s1 hf =>
    have h1 : s1.MemOk := (fresh_wf h).of_eq hf
    split
    next k s2 hf =>
    have h2 : s2.MemOk := (free_wf h1).of_eq hf
    exact .ok h2

theorem execVdDestroy_wf (h : s.MemOk) : EndsOk (execVdDestroy c s) := by
  refine runCommand_wf h fun s h => ?_
  split
  · exact .error
  · exact .skip fun _ => .skip fun _ => .ok h

theorem execCtxCreate_wf (h : s.MemOk) : EndsOk (execCtxCreate c s) := by
  refine runCommand_wf h fun s h => .skip fun v => .skip fun _ => .skip fun _ => .skip fun _ => .skip fun _ => .skip fun _ => ?_
  split
  · exact .error
  · split
    next cx s1 hf =>
    have h1 : s1.MemOk := (fresh_wf (bindSlot_wf h)).of_eq hf
    exact .ok h1

theorem execCodeLoad_wf (h : s.MemOk) : EndsOk (execCodeLoad c s) := by
  refine ite_of .refused (runCommand_wf h fun s h => .skip fun y => .skip fun _ => ?_)
  split
  next st t hs =>
  have ht := (sealCode_wf h).of_eq hs
  exact .ok (ite_of (P := CmdEndOk) ht ht)

theorem execSched_wf (h : s.MemOk) : EndsOk (execSched c s) :=
  runCommand_wf h fun _ h => .skip fun _ => .ok (.done (modPart_wf h))

theorem execLaunchCmd_wf (h : s.MemOk) : EndsOk (execLaunchCmd c s) := by
  refine runCommand_wf h fun s h => .skip fun y => .skip fun _ => ?_
  split
  next id s1 hf =>
  have h1 : s1.MemOk := (fresh_wf h).of_eq hf
  exact .ok h1

theorem execPause_wf (h : s.MemOk) : EndsOk (execPause c s) :=
  runCommand_wf h fun _ h => .skip fun _ => .ok (.done (foldl_ok h fun _ _ h => modRegion_wf h))

theorem execResume_wf (h : s.MemOk) : EndsOk (execResume c s) :=
  runCommand_wf h fun _ h => .skip fun _ => .ok (.done (foldl_ok h fun _ _ h => modRegion_wf h))

theorem evictEnd_wf {v : VDev} (h : s.MemOk) : (evictEnd s c v).MemOk := by
  unfold evictEnd
  split
  next nonce s1 hf =>
  have h1 : s1.MemOk := (newNonce_wf h).of_eq hf
  exact ite_of (completeCmd_wf h1) (completeCmd_wf (writeHost_wf h1))

theorem execEvict_wf (h : s.MemOk) : EndsOk (execEvict c s) := by
  refine ite_of (runEvent_wf ?_) (ite_of (.next ?_) .refused)
  · split
    · exact .some (completeCmd_wf h)
    · exact ite_of .none (.some (evictEnd_wf h))
  · split
    · exact completeCmd_wf (takeCmd_wf h)
    · exact modFn_wf (foldl_ok (takeCmd_wf h) fun _ _ h => askYield_wf h)

theorem restoreAll_wf {v : VDev} {l : List (Nat × Image)} (h : s.MemOk) : Yields CmdEndOk (restoreAll s v l) := by
  unfold restoreAll
  split
  · exact .error
  · exact ite_of .error (.ok (.done (foldl_ok h fun _ _ h => restoreOnto_wf h)))

theorem execRestore_wf (h : s.MemOk) : EndsOk (execRestore c s) := by
  refine runCommand_wf h fun s h => .skip fun v => .skip fun _ => .skip fun _ => ite_of (restoreAll_wf h) ?_
  split
  · exact .error
  · exact ite_of .error (restoreAll_wf h)

/-! ### Windows and registers -/

theorem execWinOpen_wf (h : s.MemOk) : EndsOk (execWinOpen c s) := by
  refine runCommand_wf h fun s h => .skip fun _ => ?_
  split
  · exact .error
  · split
    · exact .error
    · exact .skip fun _ => .skip fun _ => .skip fun _ => .ok h

theorem execWinClose_wf (h : s.MemOk) : EndsOk (execWinClose c s) := by
  refine runCommand_wf h fun s h => .skip fun _ => ?_
  split
  · exact .error
  · split
    · exact .error
    · exact .skip fun _ => .ok h

theorem setWerr_wf (h : s.MemOk) : (setWerr s fn).MemOk := modFn_wf h

theorem execHostWindowRead_wf {off len : Nat} (h : s.MemOk) : EndsOk (execHostWindowRead fn off len s) := by
  refine runEvent_wf (.some ?_)
  split
  · exact h
  · exact setWerr_wf h

theorem windowWrite_wf {off : Nat} {d : List Byte} (h : s.MemOk) : Leaves State.MemOk (windowWrite s fn off d) := by
  refine .skip fun w => ite_of .none ?_
  split
  · exact ite_of .none (.some (visibleWrite_wf _ _ _ _ h))
  · exact .none

theorem execHostWindowWrite_wf {off : Nat} {d : List Byte} (h : s.MemOk) : EndsOk (execHostWindowWrite fn off d s) :=
  runEvent_wf (.some ((windowWrite_wf h).getD (setWerr_wf h)))

theorem execHgCmdtailWrite_wf {w : Word} (h : s.MemOk) : EndsOk (execHgCmdtailWrite fn w s) :=
  runEvent_wf (.some (modFn_wf h))

theorem execHostRead_wf {off : Nat} (h : s.MemOk) : EndsOk (execHostRead fn off s) := runEvent_wf (.map fun _ => h)

theorem execHgCmdstatRead_wf (h : s.MemOk) : EndsOk (execHgCmdstatRead fn s) := runEvent_wf (.some h)

/-! ### Attestation and the firmware's instructions -/

theorem execAttest_wf (h : s.MemOk) : EndsOk (execAttest c s) := by
  refine runCommand_wf h fun s h => ?_
  extract_lets go last
  have hgo : ∀ x, Yields CmdEndOk (go x) := by
    refine fun x => .skip fun _ => ?_
    split
    next salt s1 hf =>
    have h1 : s1.MemOk := (free_wf h).of_eq hf
    exact .ok (.done (writeHost_wf h1))
  have hlast : Yields CmdEndOk (last ()) := hgo _
  clear_value last go
  refine ite_of ?_ ?_
  · split
    · exact ite_of hlast (.skip fun _ => hlast)
    · exact hlast
  · split
    · exact .error
    · split
      · exact .error
      · exact .skip fun _ => .skip fun _ => hgo _

theorem execHgTake_wf (h : s.MemOk) : EndsOk (execHgTake n s) := issueRanged_wf h

theorem execHgPost_wf (h : s.MemOk) : EndsOk (execHgPost n s) := issueRanged_wf h

theorem execHgQuote_wf (h : s.MemOk) : EndsOk (execHgQuote n s) := issueRanged_wf h

theorem takeLaunch_wf {l : Launch} (h : s.MemOk) : SndOk (takeLaunch s l k) := by
  unfold takeLaunch
  extract_lets par
  split
  · extract_lets own img st
    refine ite_of (.mk (refusedLaunch_wf h)) ?_
    split
    · exact .mk h
    · split
      next hs => exact .mk (modPart_wf (yieldToo_wf (modRegion_wf ((startRegion_wf h).of_eq hs))))
  · exact .mk h
  · exact .mk h

theorem performHgTake_wf (h : s.MemOk) : OpResOk (performHgTake s u a n) := by
  unfold performHgTake
  extract_lets q w answer
  have ha : ∀ s v, s.MemOk → Yields State.MemOk (answer s v) := fun _ _ h => opSend_wf h
  clear_value answer
  refine .of h (ite_of (ha _ _ h) ?_)
  split
  · exact ha _ _ h
  · extract_lets s1 handle
    have h1 : s1.MemOk := h
    clear_value s1
    split
    next hs => exact ha _ _ ((takeLaunch_wf h1).of_eq hs)
    next hs => exact ha _ _ (postCpl_wf _ _ _ _ _ ((takeLaunch_wf h1).of_eq hs))

theorem performHgPost_wf (h : s.MemOk) : OpResOk (performHgPost s u a n) := by
  unfold performHgPost
  extract_lets code answer
  have ha : ∀ s v, s.MemOk → Yields State.MemOk (answer s v) := fun _ _ h => opSend_wf h
  clear_value answer
  refine .of h ?_
  split
  · exact ite_of (ha _ _ (postCpl_wf _ _ _ _ _ h)) (ha _ _ h)
  · exact ha _ _ h

theorem quoteLoop_wf {l : List LineData} (h : s.MemOk) : OpResOk (quoteLoop u n l s a) := by
  induction l generalizing s a with
  | nil => exact .of h (opSend_wf h)
  | cons d l ih =>
    unfold quoteLoop
    split
    next he => exact ih (engStoreLine_wf h _ he)
    next => exact .of h .error

theorem performHgQuote_wf (h : s.MemOk) : OpResOk (performHgQuote s u a n) := by
  unfold performHgQuote
  split
  · exact quoteLoop_wf h
  · split
    · exact .of h .error
    next he =>
      have h1 := engLine_wf h _ he
      split
      next hf =>
      have h2 := (free_wf h1).of_eq hf
      exact quoteLoop_wf h2

end
end Sys2Proof.Proofs

namespace Sys2Proof.Proofs

open Sys2Proof Sys2Proof.Machine Sys2Proof.Laws

section

variable {s t : State} {u : UId} {rid cl k v i p : Nat} {a : Access} {n : Nd} {c : Cmd}

/-! ### The debugger -/

theorem setComp_wf {d : VDev} {w : BitVec 256} (h : s.MemOk) : (setComp s d cl i w).MemOk := by
  unfold setComp
  extract_lets new hg s1
  have h1 : s1.MemOk := h
  clear_value s1
  exact ite_of (modCluster_wf h1) h1

theorem execDebugSet_wf (h : s.MemOk) : EndsOk (execDebugSet c s) :=
  runCommand_wf h fun _ h => .skip fun _ => .skip fun _ => .skip fun _ => .ok (.done (setComp_wf h))

theorem execDebugClear_wf (h : s.MemOk) : EndsOk (execDebugClear c s) :=
  runCommand_wf h fun _ h => .skip fun _ => .skip fun _ => .skip fun _ => .ok (.done (setComp_wf h))

theorem execDebugStep_wf (h : s.MemOk) : EndsOk (execDebugStep c s) :=
  runCommand_wf h fun _ h => .skip fun _ => .skip fun _ => .skip fun _ => .skip fun _ => .skip fun _ =>
    .ok (.done (modRegion_wf (modUnit_wf h)))

theorem execDebugResume_wf (h : s.MemOk) : EndsOk (execDebugResume c s) :=
  runCommand_wf h fun _ h => .skip fun _ => .skip fun _ => .skip fun _ => .skip fun _ => .ok h

theorem execDebugHalt_wf (h : s.MemOk) : EndsOk (execDebugHalt c s) :=
  runCommand_wf h fun _ h => .skip fun _ => .skip fun _ => .skip fun _ => .ok (.done (modRegion_wf h))

theorem debugBytes_wf {d : VDev} {l : List Byte} (h : s.MemOk) : SndOk (debugBytes s c d l) := by
  refine ite_of ?_ (.mk h)
  split
  next nonce s1 hf => exact .mk ((newNonce_wf h).of_eq hf)

theorem execDebugRead_wf (h : s.MemOk) : EndsOk (execDebugRead c s) := by
  refine ite_of .refused (runCommand_wf h fun s h => .skip fun _ => .skip fun _ => .skip fun _ => .skip fun _ => .skip fun _ => ?_)
  split
  next hd => exact .skip fun _ => .ok (.done (writeHost_wf ((debugBytes_wf h).of_eq hd)))

theorem execDebugRelease_wf (h : s.MemOk) : EndsOk (execDebugRelease c s) :=
  runCommand_wf h fun _ h => .skip fun _ => .skip fun _ => .skip fun _ => .ok (.done (modRegion_wf h))

/-! ### Power -/

theorem execClusterPowerGate_wf (h : s.MemOk) : EndsOk (execClusterPowerGate cl s) :=
  runEvent_wf (ite_of (.some (modCluster_wf (zeroSram_wf h))) .none)

theorem execClusterWakeStart_wf (h : s.MemOk) : EndsOk (execClusterWakeStart cl s) :=
  runEvent_wf (ite_of (.some (modCluster_wf h)) .none)

theorem wakeDeliver_wf {x : State × List Flit} {f : Flit} (h : FstOk x) : FstOk (wakeDeliver x f) := by
  have hx : Leaves State.MemOk (if f.kind = 5 then tileLine x.1 f else deliver x.1 f) := ite_of (tileLine_wf h) (deliver_wf h)
  refine ite_of (P := FstOk) h ?_
  split
  next he => exact hx _ he
  next => exact h

theorem execClusterWakeEnd_wf (h : s.MemOk) : EndsOk (execClusterWakeEnd cl s) := by
  refine runEvent_wf ?_
  extract_lets c s1 s2
  have h2 : s2.MemOk := loadWoken_wf (modCluster_wf (zeroSram_wf h))
  have hf : FstOk (c.wakeBuf.foldl wakeDeliver (s2, [])) :=
    List.foldlRecOn (motive := FstOk) _ _ h2 fun _ h _ _ => wakeDeliver_wf h
  refine ite_of ?_ .none
  split
  next s3 back he =>
  have h3 := hf.of_eq he
  exact .some h3

theorem execBankPowerGate_wf {bank : Nat} (h : s.MemOk) : EndsOk (execBankPowerGate cl bank s) :=
  runEvent_wf (ite_of (.some (zeroTables_wf (setBank_wf h))) .none)

/-! ### Grants -/

theorem passGrant_wf (h : s.MemOk) : (passGrant s rid).MemOk := by
  unfold passGrant
  split
  · exact h
  · exact ite_of (modUnit_wf (modRegion_wf h)) h

theorem execGrantIdleReturn_wf (h : s.MemOk) : EndsOk (execGrantIdleReturn u s) := by
  refine runEvent_wf ?_
  split
  · exact ite_of (.some (passGrant_wf (modUnit_wf h))) .none
  · exact .none

/-! ### Boot, reset and recovery -/

theorem resetDevice_wf (h : s.MemOk) : (resetDevice s).MemOk := by
  unfold resetDevice
  exact filter_wf _ h

theorem execReset_wf (h : s.MemOk) : EndsOk (execReset s) := runEvent_wf (.some (resetDevice_wf h))

theorem execPowerGood_wf (h : s.MemOk) : EndsOk (execPowerGood s) := runEvent_wf (ite_of .none (ite_of (.some h) (.some h)))

theorem execHgRecoveryWrite_wf {w : Word} {len : BitVec 32} (h : s.MemOk) : EndsOk (execHgRecoveryWrite w len s) :=
  runEvent_wf (.some (ite_of h h))

theorem execRecoveryFetchDone_wf {e : Bool} (h : s.MemOk) : EndsOk (execRecoveryFetchDone e s) :=
  runEvent_wf (ite_of .none (.some (ite_of (resetDevice_wf h) h)))

/-! ### Links, time and drives -/

theorem execKnDevnumWrite_wf {w : Word} (h : s.MemOk) : EndsOk (execKnDevnumWrite w s) := runEvent_wf (.some (ite_of h h))

theorem execKnRouteWrite_wf {w : Word} (h : s.MemOk) : EndsOk (execKnRouteWrite k w s) :=
  runEvent_wf (ite_of .none (.some (ite_of h h)))

theorem execKnanoloFlitAuthFailure_wf (h : s.MemOk) : EndsOk (execKnanoloFlitAuthFailure k s) :=
  runEvent_wf (ite_of .none (.some h))

theorem execSyncMessage_wf (h : s.MemOk) : EndsOk (execSyncMessage k s) := runEvent_wf (.some h)

theorem execTimeSyncLoss_wf (h : s.MemOk) : EndsOk (execTimeSyncLoss s) :=
  runEvent_wf (ite_of .none (.some (foldl_ok h fun _ _ h => ite_of (postCpl_wf _ _ _ _ _ h) h)))

theorem execDriveFailure_wf (h : s.MemOk) : EndsOk (execDriveFailure k s) := runEvent_wf (.some h)

/-! ### Queued operations -/

theorem performOp_wf (h : s.MemOk) : Leaves State.MemOk (performOp s u a) := by
  unfold performOp
  split
  next => exact opEnd_wf (performSpawn_wf h)
  next => exact opEnd_wf (performSuspend_wf h)
  next => exact opEnd_wf (performJinit_wf h)
  next => exact opEnd_wf (performJarrive_wf h)
  next => exact opEnd_wf (performBarArrive_wf h)
  next => exact opEnd_wf (performBarWait_wf h)
  next => exact opEnd_wf (performQPush_wf h)
  next => exact opEnd_wf (performQPop_wf h)
  next => exact opEnd_wf (performLaunch_wf h)
  next => exact opEnd_wf (performCp_wf h)
  next => exact opEnd_wf (performNm_wf h)
  next => exact opEnd_wf (performNm_wf h)
  next => exact opEnd_wf (performNm_wf h)
  next => exact opEnd_wf (performNm_wf h)
  next => exact ite_of (remoteStep_wf h) (remoteLocalEnd_wf h)
  next => exact ite_of (remoteStep_wf h) (remoteLocalEnd_wf h)
  next => exact ite_of (remoteStep_wf h) (remoteLocalEnd_wf h)
  next => exact ite_of (cvInStart_wf h) .none
  next => exact opEnd_wf (performCvOut_wf h)
  next => exact opEnd_wf (performCvOpen_wf h)
  next => exact cvCloseStep_wf h
  next => exact opEnd_wf (performPublish_wf h)
  next => exact opEnd_wf (performScrubZero_wf h)
  next => exact opEnd_wf (performScrubWait_wf h)
  next => exact opEnd_wf (performHgTake_wf h)
  next => exact opEnd_wf (performHgPost_wf h)
  next => exact opEnd_wf (performHgQuote_wf h)
  next => exact gateCloseStep_wf h
  next => exact opEnd_wf (performGateOpen_wf h)
  next => exact opEnd_wf (performGate_wf h)
  next => exact opEnd_wf (performGate_wf h)
  next => exact .none

theorem execEngineOperationComplete_wf (h : s.MemOk) : EndsOk (execEngineOperationComplete u k s) :=
  runWork_wf (.skip fun _ => ite_of (performOp_wf h) .none)

theorem endSpillWatch_wf (h : s.MemOk) : (endSpillWatch s rid).MemOk := ite_of h (modRegion_wf h)

theorem retryOp_wf (h : s.MemOk) : Leaves State.MemOk (retryOp s u a) := by
  unfold retryOp
  extract_lets st b s1 tried
  have h1 : s1.MemOk := setOp_wf h
  clear_value s1
  have ht : ∀ t, t.MemOk → Leaves State.MemOk (tried t) := by
    intro t h
    unfold tried
    split
    · exact ite_of .none (.some (endSpillWatch_wf h))
    · exact .some (endSpillWatch_wf h)
  clear_value tried
  split
  · exact ite_of (.bind (performOp_wf h1) ht) (.bind (P := State.MemOk) (.some h1) ht)
  · exact .bind (performOp_wf h1) ht

theorem execParkWaitEnd_wf (h : s.MemOk) : EndsOk (execParkWaitEnd u s) := runWork_wf (.skip fun _ => retryOp_wf h)

theorem unspill_wf (h : s.MemOk) : Leaves State.MemOk (unspill s rid) :=
  .skip fun _ => .skip fun _ => ite_of (.some (modCluster_wf (modRegion_wf h))) .none

theorem execSpillRoomFreed_wf (h : s.MemOk) : EndsOk (execSpillRoomFreed rid s) := by
  refine runWork_wf ?_
  split
  next hu => exact .some (unspill_wf h _ hu)
  next =>
    intro t ht
    obtain ⟨_, _, ht⟩ := List.exists_of_findSome?_eq_some ht
    obtain ⟨_, _, ht⟩ := List.exists_of_findSome?_eq_some ht
    exact ite_of (retryOp_wf h) .none _ ht

theorem execBarrierEvent_wf (h : s.MemOk) : EndsOk (execBarrierEvent cl k s) :=
  runWork_wf (.skip fun _ => .some ((performOp_wf (modUnit_wf h)).getD (modUnit_wf h)))

end
end Sys2Proof.Proofs

namespace Sys2Proof.Proofs

open Sys2Proof Sys2Proof.Machine Sys2Proof.Laws

section

variable {s t : State} {u : UId} {c : Cmd} {f : Firing}

/-! ### A step -/

/-- Every instruction and every event keeps memory canonical. -/
theorem exec_wf {i : Instr} (h : s.MemOk) : EndsOk (exec i s) := by
  cases i with
  | add | sub | mul | mulhi | div | rem | min | max | abs | neg | lea | mov | and | or | xor | andn | not | shl | shr | sar |
    rotl | clz | popc | bfx | cmp | faddF32 | fsubF32 | fmulF32 | fminF32 | fmaxF32 | fnegF32 | fabsF32 | fcmpF32 | frcpF32 |
    fsqrtF32 | fexp2F32 | flog2F32 | faddBf16x4 | fsubBf16x4 | fmulBf16x4 | fminBf16x4 | fmaxBf16x4 | fnegBf16x4 | fabsBf16x4
    | fcmpBf16x4 | frcpBf16x4 | fsqrtBf16x4 | fexp2Bf16x4 | flog2Bf16x4 | faddE4x8 | fsubE4x8 | fmulE4x8 | fminE4x8 |
    fmaxE4x8 | fcmpE4x8 | faddE5x8 | fsubE5x8 | fmulE5x8 | fminE5x8 | fmaxE5x8 | fcmpE5x8 | scl | uscl | pack | unpk | ojoin
    =>
    unfold exec
    exact node2_wf h
  | bfi | sel | fmaF32 | fmaBf16x4 | dotBf16 | dotE4x8 | dotE5x8 =>
    unfold exec
    exact node3_wf h
  | cvtI64 | cvtI32 | cvtI16x4 | cvtI8x8 | cvtF32 | cvtBf16x4 | cvtE4x8 | cvtE5x8 | cvtQn4x16 =>
    unfold exec
    exact nodeCvt_wf h
  | switch => exact execSwitch_wf h
  | merge => exact execMerge_wf h
  | dup => exact execDup_wf h
  | gate => exact execGate_wf h
  | sink => exact execSink_wf h
  | fcomp => exact execFcomp_wf h
  | steer => exact execSteer_wf h
  | talloc => exact execTalloc_wf h
  | tfree => exact execTfree_wf h
  | falloc => exact execFalloc_wf h
  | ffree => exact execFfree_wf h
  | call => exact execCall_wf h
  | ret => exact execRet_wf h
  | fbcast => exact execFbcast_wf h
  | tagv => exact execTagv_wf h
  | ldB | ldH | ldW | ldD | stB | stH | stW | stD | ldAcq | stRel | ldl | stl | stlm | ldd | std | pf | aadd | aand | aor |
    axor | amin | amax | aswp | acas | afadd =>
    unfold exec
    exact nodeMem_wf h
  | fencePub => exact execFencePub_wf h
  | fenceAcq => exact execFenceAcq_wf h
  | strm => exact execStrm_wf h
  | vadd | vsub | vmul | vfma | vmin | vmax | vcmp | vsel | vand | vor | vxor | vshl | vshr =>
    unfold exec
    exact lines2_wf h
  | vabs | vneg | vexp2 | vlog2 | vrcp | vrsqrt =>
    unfold exec
    exact lines1_wf h
  | vcvt => exact execVcvt_wf h
  | vscl => exact execVscl_wf h
  | vbcast =>
    unfold exec
    exact execVbcast_wf h
  | vext =>
    unfold exec
    exact execVext_wf h
  | vperm =>
    unfold exec
    exact execVperm_wf h
  | rsum | rmin | rmax =>
    unfold exec
    exact reduceLines_wf h
  | racc =>
    unfold exec
    exact execRacc_wf h
  | lmClaim => exact execLmClaim_wf h
  | lmRelease => exact execLmRelease_wf h
  | lmFill => exact execLmFill_wf h
  | lmBuild => exact execLmBuild_wf h
  | lmArm => exact execLmArm_wf h
  | lmLook => exact execLmLook_wf h
  | lmDirect => exact execLmDirect_wf h
  | lmDrain => exact execLmDrain_wf h
  | lmSpill => exact execLmSpill_wf h
  | lmReload => exact execLmReload_wf h
  | lmStat => exact execLmStat_wf h
  | cp => exact execCp_wf h
  | nmAdd => exact execNmAdd_wf h
  | nmAxpy => exact execNmAxpy_wf h
  | nmScl => exact execNmScl_wf h
  | nmCvt => exact execNmCvt_wf h
  | xrGet => exact execXrGet_wf h
  | xrPut => exact execXrPut_wf h
  | xrAmo => exact execXrAmo_wf h
  | cvIn => exact execCvIn_wf h
  | cvOut => exact execCvOut_wf h
  | cvOpen => exact execCvOpen_wf h
  | cvClose => exact execCvClose_wf h
  | spawn => exact execSpawn_wf h
  | suspend => exact execSuspend_wf h
  | jinit => exact execJinit_wf h
  | jarrive => exact execJarrive_wf h
  | barArrive => exact execBarArrive_wf h
  | barWait => exact execBarWait_wf h
  | qPush => exact execQPush_wf h
  | qPop => exact execQPop_wf h
  | launch => exact execLaunch_wf h
  | cut => exact execCut_wf h
  | trap => exact execTrap_wf h
  | brk => exact execBrk_wf h
  | rdctr => exact execRdctr_wf h
  | csrRd => exact execCsrRd_wf h
  | csrWr => exact execCsrWr_wf h
  | publish => exact execPublish_wf h
  | hgTake => exact execHgTake_wf h
  | hgPost => exact execHgPost_wf h
  | hgQuote => exact execHgQuote_wf h
  | scrubZero => exact execScrubZero_wf h
  | scrubWait => exact execScrubWait_wf h
  | gateSrcClose => exact execGateSrcClose_wf h
  | gateSrcOpen => exact execGateSrcOpen_wf h
  | gateSrcFreeze => exact execGateSrcFreeze_wf h
  | gateSrcEvict => exact execGateSrcEvict_wf h
  | tokenArrival => exact execTokenArrival_wf h
  | breakpointHalt => exact execBreakpointHalt_wf h
  | reservedFkindFlit => exact execReservedFkindFlit_wf h
  | sluiceDrop => exact execSluiceDrop_wf h
  | configPacket => exact execConfigPacket_wf h
  | configSeal => exact execConfigSeal_wf h
  | configWordUncorrectable => exact execConfigWordUncorrectable_wf h
  | frameCopyRoomFreed => exact execFrameCopyRoomFreed_wf h
  | lastCopyReleased => exact execLastCopyReleased_wf h
  | recordDispatch => exact execRecordDispatch_wf h
  | parkWaitEnd => exact execParkWaitEnd_wf h
  | spillRoomFreed => exact execSpillRoomFreed_wf h
  | spillWatchdog => exact execSpillWatchdog_wf h
  | sinkTokenArrival => exact execSinkTokenArrival_wf h
  | memoryAccessPerformed => exact execMemoryAccessPerformed_wf h
  | unStoreDrainTimeout => exact execUnStoreDrainTimeout_wf h
  | readBufferExpiry => exact execReadBufferExpiry_wf h
  | pageWalkComplete => exact execPageWalkComplete_wf h
  | heldAccessWake => exact execHeldAccessWake_wf h
  | migrationWaitEnd => exact execMigrationWaitEnd_wf h
  | sideLogReplay => exact execSideLogReplay_wf h
  | sideLogWaitEnd => exact execSideLogWaitEnd_wf h
  | streamLine => exact execStreamLine_wf h
  | tileLineArrival => exact execTileLineArrival_wf h
  | tileDrainEnd => exact execTileDrainEnd_wf h
  | fenceDrainComplete => exact execFenceDrainComplete_wf h
  | intervalCommitComplete => exact execIntervalCommitComplete_wf h
  | engineOperationComplete => exact execEngineOperationComplete_wf h
  | cvInComplete => exact execCvInComplete_wf h
  | xrGetReturn => exact execXrGetReturn_wf h
  | remoteRequestArrival => exact execRemoteRequestArrival_wf h
  | barrierEvent => exact execBarrierEvent_wf h
  | claimClearComplete => exact execClaimClearComplete_wf h
  | lmBuildComplete => exact execLmBuildComplete_wf h
  | passTileUse => exact execPassTileUse_wf h
  | lmDrainLine => exact execLmDrainLine_wf h
  | grantIdleReturn => exact execGrantIdleReturn_wf h
  | slotBoundary => exact execSlotBoundary_wf h
  | forcedPreemption => exact execForcedPreemption_wf h
  | phaseBoundarySave => exact execPhaseBoundarySave_wf h
  | quiescenceReport => exact execQuiescenceReport_wf h
  | holderChange => exact execHolderChange_wf h
  | queueNotify => exact execQueueNotify_wf h
  | faultRingRoom => exact execFaultRingRoom_wf h
  | registerWrite => exact execRegisterWrite_wf h
  | hgCmdtailWrite => exact execHgCmdtailWrite_wf h
  | hgCmdstatRead => exact execHgCmdstatRead_wf h
  | hgRecoveryWrite => exact execHgRecoveryWrite_wf h
  | recoveryFetchDone => exact execRecoveryFetchDone_wf h
  | knDevnumWrite => exact execKnDevnumWrite_wf h
  | knRouteWrite => exact execKnRouteWrite_wf h
  | hostWindowRead => exact execHostWindowRead_wf h
  | hostWindowWrite => exact execHostWindowWrite_wf h
  | partSet => exact execPartSet_wf h
  | calSet => exact execCalSet_wf h
  | vdCreate => exact execVdCreate_wf h
  | vdDestroy => exact execVdDestroy_wf h
  | ctxCreate => exact execCtxCreate_wf h
  | codeLoad => exact execCodeLoad_wf h
  | sched => exact execSched_wf h
  | launchCmd => exact execLaunchCmd_wf h
  | pause => exact execPause_wf h
  | resume => exact execResume_wf h
  | evict => exact execEvict_wf h
  | restore => exact execRestore_wf h
  | teardown => exact execTeardown_wf h
  | scrubUnitDone => exact execScrubUnitDone_wf h
  | winOpen => exact execWinOpen_wf h
  | winClose => exact execWinClose_wf h
  | attest => exact execAttest_wf h
  | debugSet => exact execDebugSet_wf h
  | debugClear => exact execDebugClear_wf h
  | debugStep => exact execDebugStep_wf h
  | debugResume => exact execDebugResume_wf h
  | debugHalt => exact execDebugHalt_wf h
  | debugRead => exact execDebugRead_wf h
  | debugRelease => exact execDebugRelease_wf h
  | power => exact execPower_wf h
  | unassignedCommand => exact execUnassignedCommand_wf h
  | clusterPowerGate => exact execClusterPowerGate_wf h
  | clusterWakeStart => exact execClusterWakeStart_wf h
  | clusterWakeEnd => exact execClusterWakeEnd_wf h
  | bankPowerGate => exact execBankPowerGate_wf h
  | powerGood => exact execPowerGood_wf h
  | reset => exact execReset_wf h
  | knanoloFlitAuthFailure => exact execKnanoloFlitAuthFailure_wf h
  | syncMessage => exact execSyncMessage_wf h
  | timeSyncLoss => exact execTimeSyncLoss_wf h
  | driveFailure => exact execDriveFailure_wf h
  | culvertDeletionComplete => exact execCulvertDeletionComplete_wf h

/-- So does every command of the Headgate. -/
theorem execCommand_wf (h : s.MemOk) : EndsOk (execCommand c s) := by
  unfold execCommand
  split
  next => exact execPartSet_wf h
  next => exact execCalSet_wf h
  next => exact execVdCreate_wf h
  next => exact execVdDestroy_wf h
  next => exact execCtxCreate_wf h
  next => exact execCodeLoad_wf h
  next => exact execSched_wf h
  next => exact execLaunchCmd_wf h
  next => exact execPause_wf h
  next => exact execResume_wf h
  next => exact execEvict_wf h
  next => exact execRestore_wf h
  next => exact execTeardown_wf h
  next => exact execWinOpen_wf h
  next => exact execWinClose_wf h
  next => exact execAttest_wf h
  next => exact execPower_wf h
  next => exact execDebugSet_wf h
  next => exact execDebugClear_wf h
  next => exact execDebugStep_wf h
  next => exact execDebugResume_wf h
  next => exact execDebugHalt_wf h
  next => exact execDebugRead_wf h
  next => exact execDebugRelease_wf h
  next => exact execUnassignedCommand_wf h

/-- The state that an attempt to issue leads to has its memory in canonical form. -/
def IssuingOk : Issuing → Prop
  | .grant s | .runs _ s => s.MemOk
  | .nothing | .waits | .bad _ => True

theorem IssuingOk.of_grant {x : Issuing} (h : IssuingOk x) (e : x = .grant s) : s.MemOk := by
  subst e
  exact h

theorem IssuingOk.of_runs {x : Issuing} {i : Instr} (h : IssuingOk x) (e : x = .runs i s) : s.MemOk := by
  subst e
  exact h

theorem askGrant_wf (h : s.MemOk) : Leaves State.MemOk (askGrant s u f) :=
  ite_of .none (ite_of (.some (modUnit_wf h)) (.some (modUnit_wf (modRegion_wf h))))

theorem takeHead_wf {l : List Firing} (h : s.MemOk) : (takeHead s u f l).MemOk := by
  unfold takeHead
  extract_lets n s1 r s2
  have h1 : s1.MemOk := modUnit_wf h
  have h2 : s2.MemOk := ite_of (modRegion_wf h1) h1
  clear_value s2
  exact h2

theorem tryIssue_wf (h : s.MemOk) : IssuingOk (tryIssue s u) := by
  unfold tryIssue
  split
  · trivial
  · refine ite_of (P := IssuingOk) (ite_of (P := IssuingOk) trivial ?_) (ite_of (P := IssuingOk) trivial ?_)
    · split
      next ha => exact askGrant_wf h _ ha
      next => trivial
    · split
      · exact takeHead_wf (modUnit_wf h)
      · trivial

theorem EndsOk.fault {e : Fault} : EndsOk (.fault e) := by
  intro _ e
  cases e

theorem attempt_wf {m : Move} (h : s.MemOk) : EndsOk (attempt s m) := by
  unfold attempt
  split
  next => exact exec_wf h
  next =>
    split
    next => exact .fault
    next => exact .next h
    next ht => exact .next ((tryIssue_wf h).of_grant ht)
    next => exact .refused
    next i t ht =>
      have he := exec_wf (i := i) ((tryIssue_wf h).of_runs ht)
      split
      next hx => exact .next (ite_of h (he _ hx))
      next => exact he
  next =>
    split
    · exact execCommand_wf h
    · exact .refused
  next => exact execClusterPowerGate_wf h
  next => exact execBankPowerGate_wf h
  next => exact execPowerGood_wf h
  next => exact execRecoveryFetchDone_wf h
  next => exact execCulvertDeletionComplete_wf h
  next => exact execTimeSyncLoss_wf h
  next => exact execFinish_wf h
  next => exact execPostHeld_wf h
  next => exact execUncorrectable_wf h
  next => exact execHostStore_wf h
  next => exact execHostRead_wf h

theorem tick_wf (h : s.MemOk) : (tick s).MemOk := by
  unfold tick
  extract_lets t
  exact drainWhere_wf _ h

/-- A step is an attempt at some move, or time alone passes. -/
theorem step_wf (h : s.MemOk) : EndsOk (step s) := by
  unfold step nextStep
  split
  next l _ =>
    have h1 : State.MemOk { s with agenda := l } := h
    exact attempt_wf h1
  · split
    · exact attempt_wf h
    · extract_lets t
      have ht : t.MemOk := tick_wf h
      clear_value t
      split
      · exact attempt_wf ht
      · exact .next ht

end

/-- Settles O59: a step is an attempt at a move, and each instruction, event and command keeps memory canonical. -/
theorem everyStepKeepsMemoryCanonical : Obligations.EveryStepKeepsMemoryCanonical :=
  fun _ _ h hs => step_wf h _ hs

end Sys2Proof.Proofs

/-! ## Fences and streams -/

namespace Sys2Proof.Proofs

open Sys2Proof Sys2Proof.Machine Sys2Proof.Laws

section Fences

variable {s : State} {c : Cur}

theorem markerWord_code (sc : Scope) : markerWord sc.code.toNat false = BitVec.ofNat 64 sc.code.toNat := by
  cases sc <;> rfl

/-- `fence.pub` takes the last entry of its port's access queue (R136, R230). -/
theorem fencePub_ends (n : Nd) (sc : Scope) (hf : Fires s c 0x99) (ho : orderOk c.f.o = .ok ())
    (hr : accessRoom (s.unit c.u) = true) :
    Ends (.fencePub n sc) s c 0x99 ((s.base.fresh.2).modUnit c.u fun h =>
      { h with access := h.access ++ [⟨s.nextId, .fencePub n sc, c.f, .parking, none, none, false, 0⟩] }) := by
  show execFencePub n sc s = _
  refine runNode_ok hf.1 hf.2 ?_
  have hw : needWait (accessRoom (s.base.unit c.u)) = .ok () := by rw [show s.base.unit c.u = s.unit c.u from rfl, hr]; rfl
  simp only [ho, hw, bind, Except.bind]
  rfl

/-- The read buffers of a cluster's memory ports go, and no others (R135, R136). -/
theorem dropBuffers_readBuf (s : State) (cl : Nat) (u : UId) :
    ((dropBuffers s cl).unit u).readBuf = if u.cl = cl ∧ u.kind = .mp then [] else (s.unit u).readBuf := by
  have hmap : (dropBuffers s cl).units =
      s.units.map fun p => (p.1, if p.1.cl = cl ∧ p.1.kind = .mp then { p.2 with readBuf := [] } else p.2) := by
    refine List.map_congr_left fun p _ => ?_
    split <;> rfl
  unfold State.unit AL.get
  rw [hmap, find_map]
  cases AL.find? s.units u with
  | none => exact (ite_self _).symm
  | some h =>
    simp only [Option.map_some, Option.getD_some]
    split <;> rfl

/-- `fence.acq` drops its cluster's read buffers and sends its token (R136, R230). -/
theorem fenceAcq_ends (n : Nd) (sc : Scope) (hf : Fires s c 0x9A) (ho : orderOk c.f.o = .ok ())
    (he : CanSay (dropBuffers s.base c.u.cl) c n) :
    ∃ t, Says (dropBuffers s.base c.u.cl) c n sc.code.toNat .marker t ∧ Ends (.fenceAcq n sc) s c 0x9A t := by
  obtain ⟨t, ht⟩ := finish_ok (p := plain (BitVec.ofNat 64 sc.code.toNat) .marker) he
  refine ⟨t, ht, ?_⟩
  show execFenceAcq n sc s = _
  refine runNode_ok hf.1 hf.2 ?_
  simp only [ho, bind, Except.bind, marker, markerWord_code]
  exact ht

end Fences

section Streams

variable {s s1 : State} {c : Cur}

/-- With room in the interval log a recorded undo entry changes only the clusters (R361). -/
theorem logUndo_clusters {rid cl : Nat} (h : LogRoom s rid cl) (u : Undo) :
    logUndo s rid cl u = { s with clusters := (logUndo s rid cl u).clusters } := by
  unfold logUndo
  split
  next hl => rw [if_neg (Nat.ne_of_gt (Nat.lt_of_lt_of_le Nat.two_pos (h hl)))]; rfl
  next => rfl

/-- The lowest index of a range at which a Boolean condition holds is found. -/
theorem find_range_least {p : Nat → Bool} {m k : Nat} (hk : k < m) (hp : p k = true) (hl : ∀ j, j < k → p j = false) :
    (List.range m).find? p = some k :=
  List.find?_range_eq_some.mpr ⟨hp, List.mem_range.mpr hk, fun j hj => by simp [hl j hj]⟩

/-- The stream that a firing of `strm` begins: it reads its descriptor at the pointer first (R231). -/
def newStream (c : Cur) (n : Nd) (sc : Scope) (x : Scalar) : Stream :=
  ⟨0, { c.f with l := some (.scal x) }, .strm n sc, 0, 0, false, none, false, []⟩

/-- `strm` takes the lowest stream context that is free (R231). -/
theorem strm_ends {n : Nd} {sc : Scope} {a : Opd} {x : Scalar} {g : Form} {k : Nat} (hf : Fires s c 0x9B)
    (ha : ReadsA s c n a s1) (hx : asScalar a [.u64, .i64] = .ok x) (hs : x.sc = false) (ho : orderOk c.f.o = .ok ())
    (hp : checkPointer s1 c.u c.f.rid x.val.toNat 64 64 = .ok g) (hk : k < 4)
    (hfree : AL.find? (s1.unit c.u).streams k = none) (hused : ∀ j, j < k → AL.find? (s1.unit c.u).streams j ≠ none) :
    Ends (.strm n sc) s c 0x9B ((logUndo s1 c.f.rid c.u.cl (.stream c.u k none)).modUnit c.u fun h =>
      { h with streams := AL.set h.streams k (newStream c n sc x) }) := by
  have hfind : ((List.range 4).find? fun j => (AL.find? (s1.unit c.u).streams j).isNone) = some k :=
    find_range_least hk (by simp [hfree]) fun j hj => by
      simpa only [Option.isNone_eq_false_iff, Option.isSome_iff_ne_none] using hused j hj
  show execStrm n sc s = _
  refine runNode_ok hf.1 hf.2 ?_
  simp only [ha, scalarU_ok hx hs, ho, hp, hfind, bind, Except.bind]
  rfl

end Streams

/-- Settles O18: each node runs to the end of its meaning; of `fence.pub` and `strm` it then remains what one changed unit
leaves alone. -/
theorem fencesAndStreamsIssue : Obligations.FencesAndStreamsIssue := by
  refine ⟨fun n sc s c hf ho hr => ?_, fun n sc s c hf ho he => ?_,
    fun n sc s c a s1 x g k hf ha hx hs ho hp hroom hk hfree hused => ?_⟩
  · refine ⟨_, fencePub_ends n sc hf ho hr, ?_, ⟨rfl, rfl, rfl, rfl, rfl, rfl, rfl, rfl, rfl, rfl⟩, ⟨rfl, rfl, rfl, rfl⟩,
      rfl, rfl, rfl⟩
    rw [unit_modUnit, if_pos rfl]
    rfl
  · obtain ⟨t, hsay, hend⟩ := fenceAcq_ends n sc hf ho he
    exact ⟨_, t, dropBuffers_readBuf s.base c.u.cl, rfl, hsay, hend⟩
  · have hend := strm_ends (sc := sc) hf ha hx hs ho hp hk hfree hused
    rw [logUndo_clusters hroom] at hend
    refine ⟨_, hend, ⟨rfl, rfl, rfl, rfl, rfl, rfl, rfl, rfl, rfl, rfl⟩, ⟨rfl, rfl, rfl, rfl⟩, rfl, rfl,
      fun u hu => ?_, fun j => ?_⟩
    · rw [unit_modUnit, if_neg (Ne.symm hu)]
      rfl
    · rw [unit_modUnit, if_pos rfl, find_set]
      simp only [eq_comm (a := k)]
      rfl

end Sys2Proof.Proofs

/-! ## A region listed twice

`NoneEnding` reads of each listed number the region that the number stands for, which is its first entry; `settle` looks at every
entry. Where the list of regions holds a number twice and only its second entry ends, `NoneEnding` holds and `settle` discards what
is held of the region (R58): a statement under `NoneEnding` that gives the next state exactly, without `settle`, then fails. -/

namespace Sys2Proof.Proofs

open Sys2Proof Sys2Proof.Machine Sys2Proof.Laws

/-- A memory port of cluster 0. -/
def port0 : UId := ⟨0, .mp, 0⟩

/-- A node whose token goes to the termination sink. -/
def toSink : Nd := ⟨.keep, .left, .right, .term, .none⟩

theorem canEmit_toSink (s : State) (c : Cur) (b : Payload) (sc : Bool) : CanEmit s c toSink b sc :=
  ⟨nofun, fun _ _ => ⟨trivial, trivial⟩⟩

/-- An access of region 5 with a pointer, the operand 0 and an ordering input, in an access queue under a number and in a state. -/
def queueEntry (i : Instr) (ptr : Word) (id : Nat) (st : AccSt) (aux : Nat) : Access :=
  ⟨id, i, ⟨0, 5, 0, some (plain ptr .u64), some (plain 0 .i64), some (marker 4 false), none, 0, 0, 0⟩, st, none,
    none, false, aux⟩

/-- A load of region 5 that is held. -/
def heldLoad : Access := queueEntry (.ldD toSink true .clu) 0 8 .held 0

/-- Region 5 is active in cluster 0, in a logged interval or not, by its first entry in the list of regions; by its second it ends.
A port of the cluster holds an access and a held load of the region. -/
def listedTwice (logged : Bool) (c : Cluster) (a : Access) : State :=
  let r : Region := { Region.none with num := 1, st := .active, host := [0], logged }
  { State.reset with
    nextId := 30
    regions := [(5, r), (5, { r with st := .ending })]
    clusters := [(0, c)]
    units := [(port0, { HwUnit.empty with access := [a, heldLoad] })] }

theorem noneEnding_listedTwice (logged : Bool) (c : Cluster) (a : Access) : NoneEnding (listedTwice logged c a) := by
  intro p hp
  have hp5 : p.1 = 5 := by
    simp only [listedTwice, List.mem_cons, List.not_mem_nil, or_false] at hp
    rcases hp with rfl | rfl <;> rfl
  rw [hp5]
  exact (by decide : RegionSt.active ≠ .ending)

/-- Whether the port still holds the load. -/
def keepsLoad (t : State) : Bool := (accessNo t port0 heldLoad.id).isSome

/-- Whether the port still holds the load in the state that an answer gives. -/
def nextKeepsLoad (o : Answer) : Bool :=
  match o with
  | .next t => keepsLoad t
  | _ => false

/-! ### A store that arrives -/

/-- A store of one byte to an RC page, accepted under number 20 for access 7. -/
def acceptedStore : HeldStore := ⟨20, 5, [(0x7F, 1)], 0x40, none, false, none, port0, 7, 0⟩

/-- The access of that store, whose token of scope cluster has left. -/
def acceptedAccess : Access := queueEntry (.stB toSink .clu) 0x7F 7 .accepted 20

/-- The device in which the store arrives while region 5 is listed twice. -/
def arriving : State := listedTwice false { Cluster.empty with writeQ := [acceptedStore] } acceptedAccess

/-- The held load goes with the step in which the store arrives. -/
theorem arriving_drops : nextKeepsLoad (exec (.memoryAccessPerformed port0 7) arriving) = false := by decide +kernel

/-- The drain of the store and the end of its access leave the held load. -/
theorem arriving_keeps : keepsLoad (dropAccess (drainStore arriving acceptedStore) port0 7) = true := by decide +kernel

/-- Refutes O22: in `arriving` region 5 is listed twice, the second time as one that ends, so that the step in which the accepted
store arrives also discards a held load of the region, where the statement's second clause gives the state in which the store has
drained and its access has ended, and no more. -/
theorem not_hbmStoresAreQueuedAndThenDrain : ¬ Obligations.HbmStoresAreQueuedAndThenDrain := by
  rintro ⟨-, harrive, -⟩
  obtain ⟨t, hexec, ht⟩ := harrive arriving port0 acceptedAccess ⟨0x84, toSink, .clu, .store 1⟩ acceptedStore
    (by decide +kernel) rfl rfl (noneEnding_listedTwice _ _ _) (by decide +kernel) rfl (by decide +kernel)
    (fun _ => canEmit_toSink _ _ _ _)
  rw [if_pos (by decide)] at ht
  have hdrops : keepsLoad t = false := (congrArg nextKeepsLoad hexec).symm.trans arriving_drops
  rw [ht, show acceptedAccess.id = 7 from rfl, arriving_keeps] at hdrops
  cases hdrops

/-! ### A store of a logged interval -/

/-- A store of region 5 to the first word of its cluster's pool. -/
def loggedAccess : Access := queueEntry (.stD toSink .clu) (0xFC * 2 ^ 56) 7 .queued 0

/-- The device in which the store is performed, in a logged interval whose cluster has one page of log, while region 5 is listed
twice. -/
def storing : State := listedTwice true { Cluster.empty with pword := 0x01000000 } loggedAccess

/-- Where the store goes. -/
def firstWord : Target := ⟨poolKey 0 0, true, 0, 0, 0, .rc, 0, true, true⟩

theorem storing_performs : Performs storing port0 loggedAccess ⟨0x87, toSink, .clu, .store 8⟩ firstWord :=
  ⟨by decide +kernel, rfl, rfl, by decide +kernel, noneEnding_listedTwice _ _ _, fun _ => rfl, fun _ => rfl, .inl rfl,
    fun _ => rfl⟩

/-- The held load goes with the step in which the store is performed. -/
theorem storing_drops : nextKeepsLoad (exec (.memoryAccessPerformed port0 7) storing) = false := by decide +kernel

/-- A token that is sent leaves the held load. -/
theorem keepsLoad_finish {s t : State} {f : Firing} {n : Nd} {b p : Payload} (hr : HasRoom ⟨port0, f⟩ 2 s)
    (h : finish s ⟨port0, f⟩ n b p = .ok t) : keepsLoad t = keepsLoad s := by
  have hunit := (finish_frame hr h).ownUnit
  have haccess : (t.unit port0).access = (s.unit port0).access := (congrArg HwUnit.access hunit :)
  simp only [keepsLoad, accessNo, haccess]

/-- Refutes O24: in `storing` region 5 is listed twice, the second time as one that ends, so that the step in which the store enters
the interval log also discards a held load of the region, where the statement's first clause gives the state that the store's
entry, the end of its access and its token make, and no more. -/
theorem not_loggedStoresWaitForTheCommit : ¬ Obligations.LoggedStoresWaitForTheCommit := by
  rintro ⟨hlog, -⟩
  obtain ⟨t, hfinish, hexec, -⟩ := hlog storing port0 loggedAccess _ _ (cellsOf (poolKey 0 0) 8 0) none storing_performs
    rfl (by decide +kernel) (.inl rfl) ⟨⟨by decide +kernel, by decide +kernel, by decide +kernel⟩, by decide +kernel, rfl⟩
    (canEmit_toSink _ _ _ _)
  have hdrops : keepsLoad t = false := (congrArg nextKeepsLoad hexec).symm.trans storing_drops
  rw [keepsLoad_finish (fun _ => by decide +kernel) hfinish] at hdrops
  exact absurd hdrops (by decide +kernel)

end Sys2Proof.Proofs

/-! ## Node words and their instructions

Decoding and encoding are inverse to one another (O54, O55). A row of the decoder keeps the opcode and the selects of a word's
fields in the instruction that it reads, whatever it does with the modifier; that the instruction has the word's modifier too is
a check that `decode` makes itself (R181). -/

namespace Sys2Proof.Proofs

open Sys2Proof Sys2Proof.Laws

/-! ### Every instruction is read from its word -/

/-- Settles O54: each encoded node has a row that reads its word (`Encoding`), and an event of the device has no word. -/
theorem encodedInstructionsDecode : Obligations.EncodedInstructionsDecode
  | .add .. => Encoding.add _ _ _ _ | .sub .. => Encoding.sub _ _ _ _ | .mul .. => Encoding.mul _ _ _ _
  | .mulhi .. => Encoding.mulhi _ _ _ | .div .. => Encoding.div _ _ _ _ | .rem .. => Encoding.rem _ _ _
  | .min .. => Encoding.min _ _ _ | .max .. => Encoding.max _ _ _ | .abs .. => Encoding.abs _ _ _
  | .neg .. => Encoding.neg _ _ _ | .lea .. => Encoding.lea _ _ | .mov .. => Encoding.mov _ _ | .and .. => Encoding.and _ _
  | .or .. => Encoding.or _ _ | .xor .. => Encoding.xor _ _ | .andn .. => Encoding.andn _ _ | .not .. => Encoding.not _ _
  | .shl .. => Encoding.shl _ _ | .shr .. => Encoding.shr _ _ | .sar .. => Encoding.sar _ _ | .rotl .. => Encoding.rotl _ _
  | .clz .. => Encoding.clz _ _ | .popc .. => Encoding.popc _ _ | .bfx .. => Encoding.bfx _ _ _ | .bfi .. => Encoding.bfi _ _
  | .cmp .. => Encoding.cmp _ _ _ | .sel .. => Encoding.sel _ | .faddF32 .. => Encoding.faddF32 _ _ _
  | .fsubF32 .. => Encoding.fsubF32 _ _ _ | .fmulF32 .. => Encoding.fmulF32 _ _ _ | .fmaF32 .. => Encoding.fmaF32 _ _ _
  | .fminF32 .. => Encoding.fminF32 _ _ _ | .fmaxF32 .. => Encoding.fmaxF32 _ _ _ | .fnegF32 .. => Encoding.fnegF32 _ _
  | .fabsF32 .. => Encoding.fabsF32 _ _ | .fcmpF32 .. => Encoding.fcmpF32 _ _ | .frcpF32 .. => Encoding.frcpF32 _ _ _
  | .fsqrtF32 .. => Encoding.fsqrtF32 _ _ _ | .fexp2F32 .. => Encoding.fexp2F32 _ _ _
  | .flog2F32 .. => Encoding.flog2F32 _ _ _ | .faddBf16x4 .. => Encoding.faddBf16x4 _ _ _
  | .fsubBf16x4 .. => Encoding.fsubBf16x4 _ _ _ | .fmulBf16x4 .. => Encoding.fmulBf16x4 _ _ _
  | .fmaBf16x4 .. => Encoding.fmaBf16x4 _ _ _ | .fminBf16x4 .. => Encoding.fminBf16x4 _ _ _
  | .fmaxBf16x4 .. => Encoding.fmaxBf16x4 _ _ _ | .fnegBf16x4 .. => Encoding.fnegBf16x4 _ _
  | .fabsBf16x4 .. => Encoding.fabsBf16x4 _ _ | .fcmpBf16x4 .. => Encoding.fcmpBf16x4 _ _
  | .frcpBf16x4 .. => Encoding.frcpBf16x4 _ _ _ | .fsqrtBf16x4 .. => Encoding.fsqrtBf16x4 _ _ _
  | .fexp2Bf16x4 .. => Encoding.fexp2Bf16x4 _ _ _ | .flog2Bf16x4 .. => Encoding.flog2Bf16x4 _ _ _
  | .dotBf16 .. => Encoding.dotBf16 _ _ | .faddE4x8 .. => Encoding.faddE4x8 _ _ _ | .fsubE4x8 .. => Encoding.fsubE4x8 _ _ _
  | .fmulE4x8 .. => Encoding.fmulE4x8 _ _ _ | .fminE4x8 .. => Encoding.fminE4x8 _ _ _
  | .fmaxE4x8 .. => Encoding.fmaxE4x8 _ _ _ | .fcmpE4x8 .. => Encoding.fcmpE4x8 _ _ | .dotE4x8 .. => Encoding.dotE4x8 _ _
  | .faddE5x8 .. => Encoding.faddE5x8 _ _ _ | .fsubE5x8 .. => Encoding.fsubE5x8 _ _ _
  | .fmulE5x8 .. => Encoding.fmulE5x8 _ _ _ | .fminE5x8 .. => Encoding.fminE5x8 _ _ _
  | .fmaxE5x8 .. => Encoding.fmaxE5x8 _ _ _ | .fcmpE5x8 .. => Encoding.fcmpE5x8 _ _ | .dotE5x8 .. => Encoding.dotE5x8 _ _
  | .cvtI64 .. => Encoding.cvtI64 _ _ _ _ | .cvtI32 .. => Encoding.cvtI32 _ _ _ _ | .cvtI16x4 .. => Encoding.cvtI16x4 _ _ _ _
  | .cvtI8x8 .. => Encoding.cvtI8x8 _ _ _ _ | .cvtF32 .. => Encoding.cvtF32 _ _ _ _
  | .cvtBf16x4 .. => Encoding.cvtBf16x4 _ _ _ _ | .cvtE4x8 .. => Encoding.cvtE4x8 _ _ _ _
  | .cvtE5x8 .. => Encoding.cvtE5x8 _ _ _ _ | .cvtQn4x16 .. => Encoding.cvtQn4x16 _ _ _ _ | .scl .. => Encoding.scl _ _ _
  | .uscl .. => Encoding.uscl _ _ _ | .pack .. => Encoding.pack _ _ | .unpk .. => Encoding.unpk _ _
  | .switch .. => Encoding.switch _ | .merge .. => Encoding.merge _ | .dup .. => Encoding.dup _ | .gate .. => Encoding.gate _
  | .sink .. => Encoding.sink _ | .fcomp .. => Encoding.fcomp _ | .steer .. => Encoding.steer _
  | .ojoin .. => Encoding.ojoin _ | .talloc .. => Encoding.talloc _ | .tfree .. => Encoding.tfree _
  | .falloc .. => Encoding.falloc _ | .ffree .. => Encoding.ffree _ | .call .. => Encoding.call _ | .ret .. => Encoding.ret _
  | .fbcast .. => Encoding.fbcast _ | .tagv .. => Encoding.tagv _ | .ldB .. => Encoding.ldB _ _ _
  | .ldH .. => Encoding.ldH _ _ _ | .ldW .. => Encoding.ldW _ _ _ | .ldD .. => Encoding.ldD _ _ _
  | .stB .. => Encoding.stB _ _ | .stH .. => Encoding.stH _ _ | .stW .. => Encoding.stW _ _ | .stD .. => Encoding.stD _ _
  | .ldAcq .. => Encoding.ldAcq _ _ _ | .stRel .. => Encoding.stRel _ _ _ | .ldl .. => Encoding.ldl _ _
  | .stl .. => Encoding.stl _ _ | .stlm .. => Encoding.stlm _ _ | .ldd .. => Encoding.ldd _ _ | .std .. => Encoding.std _ _
  | .pf .. => Encoding.pf _ | .aadd .. => Encoding.aadd _ _ _ | .aand .. => Encoding.aand _ _ _
  | .aor .. => Encoding.aor _ _ _ | .axor .. => Encoding.axor _ _ _ | .amin .. => Encoding.amin _ _ _
  | .amax .. => Encoding.amax _ _ _ | .aswp .. => Encoding.aswp _ _ _ | .acas .. => Encoding.acas _ _ _
  | .afadd .. => Encoding.afadd _ _ _ | .fencePub .. => Encoding.fencePub _ _ | .fenceAcq .. => Encoding.fenceAcq _ _
  | .strm .. => Encoding.strm _ _ | .vadd .. => Encoding.vadd _ _ _ _ | .vsub .. => Encoding.vsub _ _ _ _
  | .vmul .. => Encoding.vmul _ _ _ _ | .vfma .. => Encoding.vfma _ _ _ | .vmin .. => Encoding.vmin _ _ _ _
  | .vmax .. => Encoding.vmax _ _ _ _ | .vabs .. => Encoding.vabs _ _ _ _ | .vneg .. => Encoding.vneg _ _ _ _
  | .vexp2 .. => Encoding.vexp2 _ _ _ | .vlog2 .. => Encoding.vlog2 _ _ _ | .vrcp .. => Encoding.vrcp _ _ _
  | .vrsqrt .. => Encoding.vrsqrt _ _ _ | .vcmp .. => Encoding.vcmp _ _ | .vsel .. => Encoding.vsel _ _
  | .vand .. => Encoding.vand _ _ | .vor .. => Encoding.vor _ _ | .vxor .. => Encoding.vxor _ _
  | .vshl .. => Encoding.vshl _ _ | .vshr .. => Encoding.vshr _ _ _ | .vcvt .. => Encoding.vcvt _ _ _
  | .vscl .. => Encoding.vscl _ _ _ | .vbcast .. => Encoding.vbcast _ _ | .vext .. => Encoding.vext _ _
  | .vperm .. => Encoding.vperm _ _ | .rsum .. => Encoding.rsum _ _ | .rmin .. => Encoding.rmin _ _ _ _
  | .rmax .. => Encoding.rmax _ _ _ _ | .racc .. => Encoding.racc _ _ _ | .lmClaim .. => Encoding.lmClaim _
  | .lmRelease .. => Encoding.lmRelease _ | .lmFill .. => Encoding.lmFill _ | .lmBuild .. => Encoding.lmBuild _ _
  | .lmArm .. => Encoding.lmArm _ _ _ | .lmLook .. => Encoding.lmLook _ _ _ | .lmDirect .. => Encoding.lmDirect _ _
  | .lmDrain .. => Encoding.lmDrain _ _ _ | .lmSpill .. => Encoding.lmSpill _ _ | .lmReload .. => Encoding.lmReload _ _
  | .lmStat .. => Encoding.lmStat _ | .cp .. => Encoding.cp _ _ | .nmAdd .. => Encoding.nmAdd _ _
  | .nmAxpy .. => Encoding.nmAxpy _ _ | .nmScl .. => Encoding.nmScl _ _ | .nmCvt .. => Encoding.nmCvt _ _
  | .xrGet .. => Encoding.xrGet _ _ _ | .xrPut .. => Encoding.xrPut _ _ | .xrAmo .. => Encoding.xrAmo _ _ _
  | .cvIn .. => Encoding.cvIn _ | .cvOut .. => Encoding.cvOut _ | .cvOpen .. => Encoding.cvOpen _ _ _
  | .cvClose .. => Encoding.cvClose _ _ | .spawn .. => Encoding.spawn _ | .suspend .. => Encoding.suspend _
  | .jinit .. => Encoding.jinit _ _ | .jarrive .. => Encoding.jarrive _ _ | .barArrive .. => Encoding.barArrive _ _
  | .barWait .. => Encoding.barWait _ _ | .qPush .. => Encoding.qPush _ _ | .qPop .. => Encoding.qPop _ _ _
  | .launch .. => Encoding.launch _ _ | .cut .. => Encoding.cut _ | .trap .. => Encoding.trap _ _ | .brk .. => Encoding.brk _
  | .rdctr .. => Encoding.rdctr _ _ | .csrRd .. => Encoding.csrRd _ | .csrWr .. => Encoding.csrWr _
  | .publish .. => Encoding.publish _ | .hgTake .. => Encoding.hgTake _ | .hgPost .. => Encoding.hgPost _
  | .hgQuote .. => Encoding.hgQuote _ | .scrubZero .. => Encoding.scrubZero _ | .scrubWait .. => Encoding.scrubWait _
  | .gateSrcClose .. => Encoding.gateSrcClose _ | .gateSrcOpen .. => Encoding.gateSrcOpen _
  | .gateSrcFreeze .. => Encoding.gateSrcFreeze _ | .gateSrcEvict .. => Encoding.gateSrcEvict _
  | .tokenArrival .. | .breakpointHalt .. | .reservedFkindFlit .. | .sluiceDrop .. | .configPacket .. | .configSeal ..
  | .configWordUncorrectable .. | .frameCopyRoomFreed .. | .lastCopyReleased .. | .recordDispatch .. | .parkWaitEnd ..
  | .spillRoomFreed .. | .spillWatchdog .. | .sinkTokenArrival .. | .memoryAccessPerformed .. | .unStoreDrainTimeout ..
  | .readBufferExpiry .. | .pageWalkComplete .. | .heldAccessWake .. | .migrationWaitEnd .. | .sideLogReplay ..
  | .sideLogWaitEnd .. | .streamLine .. | .tileLineArrival .. | .tileDrainEnd .. | .fenceDrainComplete ..
  | .intervalCommitComplete .. | .engineOperationComplete .. | .cvInComplete .. | .xrGetReturn .. | .remoteRequestArrival ..
  | .barrierEvent .. | .claimClearComplete .. | .lmBuildComplete .. | .passTileUse .. | .lmDrainLine .. | .grantIdleReturn ..
  | .slotBoundary .. | .forcedPreemption .. | .phaseBoundarySave .. | .quiescenceReport .. | .holderChange ..
  | .queueNotify .. | .faultRingRoom .. | .registerWrite .. | .hgCmdtailWrite .. | .hgCmdstatRead .. | .hgRecoveryWrite ..
  | .recoveryFetchDone .. | .knDevnumWrite .. | .knRouteWrite .. | .hostWindowRead .. | .hostWindowWrite .. | .partSet ..
  | .calSet .. | .vdCreate .. | .vdDestroy .. | .ctxCreate .. | .codeLoad .. | .sched .. | .launchCmd .. | .pause ..
  | .resume .. | .evict .. | .restore .. | .teardown .. | .scrubUnitDone .. | .winOpen .. | .winClose .. | .attest ..
  | .debugSet .. | .debugClear .. | .debugStep .. | .debugResume .. | .debugHalt .. | .debugRead .. | .debugRelease ..
  | .power .. | .unassignedCommand .. | .clusterPowerGate .. | .clusterWakeStart .. | .clusterWakeEnd .. | .bankPowerGate ..
  | .powerGood | .reset | .knanoloFlitAuthFailure .. | .syncMessage .. | .timeSyncLoss | .driveFailure ..
  | .culvertDeletionComplete .. => Encoding.of_none rfl

/-- Settles O56: each word is that of a well-formed instruction, which it decodes to by O54. -/
theorem wordsOfTheSpecDecode : Obligations.WordsOfTheSpecDecode := by
  refine ⟨?_, ?_, ?_, ?_, ?_, ?_, ?_⟩ <;> exact encodedInstructionsDecode _ _ rfl rfl

/-! ### Codes of the select fields -/

theorem srcCode_ofCode (c : BitVec 4) : (Src.ofCode c).code = c := by
  revert c
  decide

theorem dstCode_of_ofCode {c : BitVec 4} {d : Dst} (h : Dst.ofCode? c = some d) : d.code = c := by
  revert c d
  decide

theorem tagCode_of_ofCode {c : BitVec 4} {t : TagAct} (h : TagAct.ofCode? c = some t) : t.code = c := by
  revert c t
  decide

/-- A word is the word of its fields (R150). -/
theorem toWord_ofWord (w : BitVec 32) : (Fields.ofWord w).toWord = w := by
  simp only [Fields.ofWord, Fields.toWord, BitVec.extractLsb'_append_extractLsb'_eq_extractLsb']
  exact BitVec.extractLsb'_eq_self

/-! ### What a row of the decoder keeps -/

/-- Fields with another opcode and modifier. -/
def withOp (f : Fields) (op : BitVec 8) (k : BitVec 4) : Fields := { f with op, k }

/-- What a row reads, if anything, is an instruction with the fields given, under a modifier of its own. -/
def Keeps (g : BitVec 4 → Fields) (r : Except LoadStatus Instr) : Prop := ∀ i, r = .ok i → ∃ k, i.fields = some (g k)

namespace Keeps

variable {g : BitVec 4 → Fields} {f : Fields} {op : BitVec 8} {c k : BitVec 4} {i : Instr} {e : LoadStatus}

theorem ok (h : i.fields = some (g k)) : Keeps g (.ok i) := by
  rintro _ ⟨⟩
  exact ⟨k, h⟩

theorem error : Keeps g (.error e) := by
  rintro _ ⟨⟩

theorem withScope {mk : Scope → Except LoadStatus Instr} (h : ∀ s, Keeps g (mk s)) : Keeps g (withScope c mk) := by
  unfold Sys2Proof.withScope
  split
  · exact h _
  · exact error

/-- The selects of a node with two destinations are those that its instruction holds. -/
theorem two {mk : Nd → Except LoadStatus Instr} (h : ∀ n, Keeps (view2 op n) (mk n)) : Keeps (withOp f op) (two f mk) := by
  unfold Sys2Proof.two
  split
  next d e t hd he ht =>
    have hview : withOp f op = view2 op ⟨t, Src.ofCode f.a, Src.ofCode f.b, d, e⟩ := by
      funext k
      simp only [withOp, view2, srcCode_ofCode, dstCode_of_ofCode hd, dstCode_of_ofCode he, tagCode_of_ofCode ht]
    exact hview ▸ h _
  · exact error
  · exact error

/-- The same for a three-operand form. -/
theorem three {mk : N3 → Except LoadStatus Instr} (h : ∀ n, Keeps (view3 op n) (mk n)) :
    Keeps (withOp f op) (three f mk) := by
  unfold Sys2Proof.three
  split
  next d t hd ht =>
    have hview : withOp f op = view3 op ⟨t, Src.ofCode f.a, Src.ofCode f.b, Src.ofCode f.x, d⟩ := by
      funext k
      simp only [withOp, view3, srcCode_ofCode, dstCode_of_ofCode hd, tagCode_of_ofCode ht]
    exact hview ▸ h _
  · exact error
  · exact error

end Keeps

/-- A row of the opcode byte's high digit `hi` keeps the opcode and the selects of a word's fields at each low digit. -/
def RowKeeps (hi : Nat) (row : Nat → Fields → Except LoadStatus Instr) : Prop :=
  ∀ lo f, Keeps (withOp f (BitVec.ofNat 8 (16 * hi + lo))) (row lo f)

theorem row0_keeps : RowKeeps 0 row0 := by
  intro lo f
  unfold row0
  split
  case h_13 => exact .error
  all_goals exact .two fun _ => .ok rfl

theorem row1_keeps : RowKeeps 1 row1 := by
  intro lo f
  unfold row1
  split
  case h_13 | h_15 => exact .three fun _ => .ok rfl
  case h_16 => exact .error
  all_goals exact .two fun _ => .ok rfl

theorem row2_keeps : RowKeeps 2 row2 := by
  intro lo f
  unfold row2
  split
  case h_4 => exact .three fun _ => .ok rfl
  case h_14 => exact .error
  all_goals exact .two fun _ => .ok rfl

theorem row3_keeps : RowKeeps 3 row3 := by
  intro lo f
  unfold row3
  split
  case h_4 | h_14 => exact .three fun _ => .ok rfl
  case h_15 => exact .error
  all_goals exact .two fun _ => .ok rfl

theorem row4_keeps : RowKeeps 4 row4 := by
  intro lo f
  unfold row4
  split
  case h_7 | h_14 => exact .three fun _ => .ok rfl
  case h_15 => exact .error
  all_goals exact .two fun _ => .ok rfl

theorem row5_keeps : RowKeeps 5 row5 := by
  intro lo f
  unfold row5
  split
  case h_14 => exact .error
  all_goals exact .two fun _ => .ok rfl

theorem row6_keeps : RowKeeps 6 row6 := by
  intro lo f
  unfold row6
  split
  case h_9 => exact .error
  all_goals exact .two fun _ => .ok rfl

theorem row7_keeps : RowKeeps 7 row7 := by
  intro lo f
  unfold row7
  split
  case h_9 => exact .error
  all_goals exact .two fun _ => .ok rfl

theorem row8_keeps : RowKeeps 8 row8 := by
  intro lo f
  unfold row8
  split
  case h_16 => exact .two fun _ => .ok rfl
  case h_17 => exact .error
  all_goals exact .two fun _ => .withScope fun _ => .ok rfl

theorem row9_keeps : RowKeeps 9 row9 := by
  intro lo f
  unfold row9
  split
  case h_13 => exact .error
  all_goals exact .two fun _ => .withScope fun _ => .ok rfl

theorem rowA_keeps : RowKeeps 10 rowA := by
  intro lo f
  unfold rowA
  split
  case h_17 => exact .error
  all_goals exact .two fun _ => .ok rfl

theorem rowB_keeps : RowKeeps 11 rowB := by
  intro lo f
  unfold rowB
  split
  case h_13 => exact .error
  all_goals exact .two fun _ => .ok rfl

theorem rowC_keeps : RowKeeps 12 rowC := by
  intro lo f
  unfold rowC
  split
  case h_8 | h_9 | h_10 => exact .two fun _ => .withScope fun _ => .ok rfl
  case h_12 => exact .error
  all_goals exact .two fun _ => .ok rfl

theorem rowE_keeps : RowKeeps 14 rowE := by
  intro lo f
  unfold rowE
  split
  case h_1 | h_2 | h_3 | h_4 | h_5 | h_15 | h_16 => exact .two fun _ => .withScope fun _ => .ok rfl
  case h_17 => exact .error
  all_goals exact .two fun _ => .ok rfl

theorem rowF_keeps : RowKeeps 15 rowF := by
  intro lo f
  unfold rowF
  split
  case h_1 | h_2 | h_3 | h_4 | h_5 => exact .two fun _ => .withScope fun _ => .ok rfl
  case h_10 => exact ite_of (P := Keeps _) (.two fun _ => .ok rfl) (.two fun _ => .ok rfl)
  case h_12 | h_13 | h_14 =>
    split
    any_goals exact .two fun _ => .ok rfl
    exact .error
  case h_15 => exact .error
  all_goals exact .two fun _ => .ok rfl

theorem RowKeeps.keeps {hi : Nat} {row : Nat → Fields → Except LoadStatus Instr} {f : Fields} (h : RowKeeps hi row)
    (hhi : f.op.toNat / 16 = hi) : Keeps (withOp f f.op) (row (f.op.toNat % 16) f) := by
  have hop : BitVec.ofNat 8 (16 * hi + f.op.toNat % 16) = f.op := by
    rw [← hhi, Nat.div_add_mod, BitVec.ofNat_toNat, BitVec.setWidth_eq]
  have hrow := h (f.op.toNat % 16) f
  rwa [hop] at hrow

/-- The instruction of a word holds the word's opcode and selects (R150, R167). -/
theorem rowOf_keeps (f : Fields) : Keeps (withOp f f.op) (rowOf f) := by
  unfold rowOf
  extract_lets lo
  split
  next h => exact row0_keeps.keeps h
  next h => exact row1_keeps.keeps h
  next h => exact row2_keeps.keeps h
  next h => exact row3_keeps.keeps h
  next h => exact row4_keeps.keeps h
  next h => exact row5_keeps.keeps h
  next h => exact row6_keeps.keeps h
  next h => exact row7_keeps.keeps h
  next h => exact row8_keeps.keeps h
  next h => exact row9_keeps.keeps h
  next h => exact rowA_keeps.keeps h
  next h => exact rowB_keeps.keeps h
  next h => exact rowC_keeps.keeps h
  next h => exact rowE_keeps.keeps h
  next h => exact rowF_keeps.keeps h
  next => exact .error

/-! ### Every word that decodes is the word of its instruction -/

/-- What `decode` looks at before it answers an instruction (R166, R181). -/
theorem decode_ok {w : BitVec 32} {i : Instr} (h : decode w = .ok i) :
    rowOf (Fields.ofWord w) = .ok i ∧ (∀ f, i.fields = some f → f.k = w.extractLsb' 0 4) ∧ i.WellFormed := by
  unfold decode at h
  split at h
  · cases h
  next j hrow =>
    split at h
    · cases h
    next f hf =>
      split at h
      · cases h
      next hk =>
        split at h
        · cases h
        next hcheck =>
          cases h
          refine ⟨hrow, fun g hg => ?_, hcheck⟩
          cases hf.symm.trans hg
          exact not_not.mp hk

/-- Settles O55: the row keeps the word's opcode and selects, `decode` itself compares the modifier, and a word is the word of
its fields. -/
theorem decodedWordsEncodeBack : Obligations.DecodedWordsEncodeBack := by
  intro w i h
  obtain ⟨hrow, hmodifier, hwf⟩ := decode_ok h
  obtain ⟨k, hfields⟩ := rowOf_keeps _ i hrow
  have hk : k = w.extractLsb' 0 4 := hmodifier _ hfields
  subst hk
  exact ⟨hwf, by rw [encode, hfields]; exact congrArg some (toWord_ofWord w)⟩

end Sys2Proof.Proofs

/-! ## Configuration load

What becomes of a unit's part (O28): nothing that happens while the unit takes up the tokens that waited for it, a fault among
it, changes whether its part is complete or sent again. -/

namespace Sys2Proof.Proofs

open Sys2Proof Sys2Proof.Machine Sys2Proof.Laws

/-! ### The load of a unit's part -/

/-- How far the load of a unit's part is (R165): whether it is complete, whether it is sent again, and its failed sends. -/
def loadOf (h : HwUnit) : Bool × Bool × Nat := (h.complete, h.reload, h.fails)

/-- The load of a unit's part stands at a point. -/
def LoadIs (u : UId) (x : Bool × Bool × Nat) (s : State) : Prop := loadOf (s.unit u) = x

section

variable {s t : State} {u v : UId} {x : Bool × Bool × Nat} {rid line : Nat} {f : Flit}

theorem loadIs_iff {a b : Bool} {n : Nat} :
    LoadIs u (a, b, n) s ↔ (s.unit u).complete = a ∧ (s.unit u).reload = b ∧ (s.unit u).fails = n := by
  simp only [LoadIs, loadOf, Prod.mk.injEq]

theorem unit_modUnit_self (s : State) (u : UId) (g : HwUnit → HwUnit) : (s.modUnit u g).unit u = g (s.unit u) := by
  rw [unit_modUnit, if_pos rfl]

theorem LoadIs.of_units (h : LoadIs u x s) (e : t.units = s.units) : LoadIs u x t := by
  unfold LoadIs State.unit at *
  rwa [e]

theorem modUnit_load {g : HwUnit → HwUnit} (hg : ∀ h, loadOf (g h) = loadOf h) (h : LoadIs u x s) :
    LoadIs u x (s.modUnit v g) := by
  unfold LoadIs at *
  rw [unit_modUnit]
  split
  next e => rwa [hg, e]
  next => exact h

theorem foldl_load {α : Type} {g : State → α → State} {l : List α} (h : LoadIs u x s)
    (hg : ∀ s a, LoadIs u x s → LoadIs u x (g s a)) : LoadIs u x (l.foldl g s) :=
  l.foldlRecOn g h fun s hs a _ => hg s a hs

/-! ### Writes and faults -/

theorem landWrite_load {cells : List Host.Cell} {d : Option Desc} {e : Option EncTag} (h : LoadIs u x s) :
    LoadIs u x (landWrite s line cells d e) := by
  cases hbm : isHbm line with
  | false => exact h.of_units (by simp [landWrite, hbm])
  | true =>
    have hunits : (landWrite s line cells d e).units = s.units.map fun p => (p.1, wakeOn line p.2) := by simp [landWrite, hbm]
    unfold LoadIs State.unit AL.get at *
    rw [hunits, find_map]
    cases hu : AL.find? s.units u with
    | none => rwa [hu] at h
    | some k => rwa [hu] at h

theorem landHeld_load {p : Nat → HeldStore → Bool} (h : LoadIs u x s) : LoadIs u x (landHeld s line p) :=
  LoadIs.of_units (foldl_load h fun _ _ h => landWrite_load h) rfl

theorem landAll_load (h : LoadIs u x s) : LoadIs u x (landAll s) := foldl_load h fun _ _ h => landHeld_load h

theorem drainLine_load {p : Nat → HeldStore → Bool} (h : LoadIs u x s) : LoadIs u x (drainLine s line p) :=
  ite_of (landAll_load (landHeld_load h)) (landHeld_load h)

theorem drainWhere_load {p : Nat → HeldStore → Bool} (h : LoadIs u x s) : LoadIs u x (drainWhere s p) :=
  foldl_load h fun _ _ h => drainLine_load h

theorem visibleWrite_load {cells : List Host.Cell} {d : Option Desc} {e : Option EncTag} (h : LoadIs u x s) :
    LoadIs u x (visibleWrite s line cells d e) :=
  landWrite_load (ite_of (drainWhere_load h) (drainLine_load h))

theorem post_load (h : LoadIs u x s) : LoadIs u x (post s f) := ite_of h (h.of_units rfl)

theorem postCpl_units (s : State) (fn a b c d : Nat) : (postCpl s fn a b c d).units = s.units := by
  unfold postCpl
  rfl

theorem postCpl_load {fn a b c d : Nat} (h : LoadIs u x s) : LoadIs u x (postCpl s fn a b c d) :=
  h.of_units (postCpl_units s fn a b c d)

theorem tellLaunch_load {cls : Nat} (h : LoadIs u x s) : LoadIs u x (tellLaunch s rid cls) := by
  unfold tellLaunch
  split
  · exact ite_of (postCpl_load h) h
  · exact h

theorem ringWrite_load {p : Part} {r : BitVec 512} (h : LoadIs u x s) : LoadIs u x (ringWrite s p r) :=
  post_load (visibleWrite_load (visibleWrite_load h))

/-- A fault leaves the load of every part as it is. -/
theorem takeFault_load {w : FaultSite} {e : Flt} (h : LoadIs u x s) : LoadIs u x (takeFault s w e) :=
  ite_of (postCpl_load (h.of_units rfl)) (ite_of ((tellLaunch_load h).of_units rfl) (ringWrite_load (tellLaunch_load h)))

/-! ### Tokens that waited for the part -/

theorem addReady_load (h : HwUnit) (y : Firing) : loadOf (addReady h y) = loadOf h := by
  unfold addReady
  extract_lets q
  split <;> rfl

theorem formFiring_load {y : Firing} (h : LoadIs u x s) : LoadIs u x (formFiring s v f y) :=
  ite_of (modUnit_load (fun _ => rfl) (h.of_units rfl)) (modUnit_load (fun k => addReady_load k _) h)

theorem matchToken_load (h : LoadIs u x s) : Leaves (LoadIs u x) (matchToken s v f) := by
  unfold matchToken
  extract_lets hw dead
  split
  next slot sd _ =>
  have hdead : ∀ rid, Leaves (LoadIs u x) (dead rid) := fun _ => .some (takeFault_load h)
  split
  · exact hdead _
  · extract_lets st need others found s1
    have h1 : LoadIs u x s1 := modUnit_load (fun _ => rfl) h
    exact ite_of (.some h) (ite_of (hdead _) (ite_of (.some (formFiring_load h)) (ite_of (.some (formFiring_load h1))
      (ite_of (.some (modUnit_load (fun _ => rfl) h)) (ite_of (.some (modUnit_load (fun _ => rfl) h)) .none)))))

/-- Wherever a token that is offered is taken or stays on its link, the state has a property. -/
def Offered (P : State → Prop) : Delivery → Prop
  | .taken s | .stays s => P s
  | .waits => True

theorem offer_load (h : LoadIs u x s) : Offered (LoadIs u x) (offer s v f) := by
  refine ite_of (P := Offered _) (modUnit_load (fun _ => rfl) h) (ite_of (P := Offered _) trivial ?_)
  split
  · refine ite_of (P := Offered _) ?_ trivial
    split
    next hm => exact matchToken_load (modUnit_load (g := fun k => { k with refused := none }) (fun _ => rfl) h) _ hm
    next => trivial
  · split
    next hm => exact matchToken_load h _ hm
    next => exact modUnit_load (fun _ => rfl) h

theorem drainList_load {l : List Flit} (h : LoadIs u x s) : LoadIs u x (drainList s v l) := by
  induction l generalizing s with
  | nil => exact h
  | cons f l ih =>
    have ho : Offered (LoadIs u x) (offer s v f) := offer_load h
    unfold drainList
    generalize offer s v f = o at ho
    cases o with
    | taken t => exact ih ho
    | stays t => exact LoadIs.of_units ho rfl
    | waits => exact h.of_units rfl

theorem drainIngress_load (h : LoadIs u x s) : LoadIs u x (drainIngress s v) :=
  drainList_load (modUnit_load (fun _ => rfl) h)

/-! ### The entry record -/

theorem writeSpill_load {r : Rec} (h : LoadIs u x s) : LoadIs u x (writeSpill s r) := by
  refine foldl_load h fun s i h => ?_
  split
  · exact visibleWrite_load h
  · exact h

theorem enqueueRecord_load {r : Rec} (h : LoadIs u x s) : Leaves (LoadIs u x) (enqueueRecord s r) := by
  unfold enqueueRecord
  split
  · exact .some h
  · exact ite_of (.some (h.of_units rfl)) (.map fun _ => writeSpill_load (h.of_units rfl))

theorem admitEntry_load (h : LoadIs u x s) : LoadIs u x (admitEntry s rid) := by
  unfold admitEntry
  split
  · exact h
  · refine ite_of ?_ h
    split
    next hr => exact (enqueueRecord_load h _ hr).of_units rfl
    next => exact h

end

/-! ### A part that is sent again -/

section

variable {s : State} {u : UId} {rid i : Nat} {p : Packet}

/-- Sending a part again only puts its packets on their way. -/
theorem resendPart_cfgNet (s : State) (rid : Nat) (u : UId) :
    resendPart s rid u = { s with cfgNet := (resendPart s rid u).cfgNet } := by
  unfold resendPart
  extract_lets r
  split
  · rfl
  · split <;> rfl

/-- A part that has failed is open, is sent again and counts one failure more (R165). -/
theorem failPart_load (s : State) (rid : Nat) (u : UId) :
    LoadIs u (false, true, (s.unit u).fails + 1) (failPart s rid u) := by
  unfold failPart
  extract_lets n s1 s2
  have h2 : LoadIs u (false, true, n) s2 := congrArg loadOf (unit_modUnit_self s1 u _)
  refine ite_of ?_ (takeFault_load h2)
  rw [resendPart_cfgNet]
  exact h2.of_units rfl

/-! ### Packets and seals -/

/-- The state in which a packet has left the network for its cluster. -/
def packetTaken (s : State) (i : Nat) (p : Packet) : State :=
  { s.modCluster p.cl fun c => { c with lastFlit := s.clock } with cfgNet := s.cfgNet.eraseIdx i }

/-- The tiles that a packet of kind 5 declares, in its cluster. -/
def tilesDeclared (s : State) (p : Packet) : State :=
  let w := p.line.toNat
  (List.range (Pk.count w)).foldl (fun s k =>
    s.modCluster p.cl fun c => { c with tiles := AL.set c.tiles (Pk.first w + k) (tileOf p.rid (Pk.entry w k)) }) s

theorem tilesDeclared_clusters (s : State) (p : Packet) :
    tilesDeclared s p = { s with clusters := (tilesDeclared s p).clusters } := by
  unfold tilesDeclared
  refine (List.range _).foldlRecOn (motive := fun t : State => t = { s with clusters := t.clusters }) _ rfl fun t ht k _ => ?_
  rw [ht]
  rfl

/-- The state in which a packet's entries are written into its unit, and the tiles it declares into its cluster (R164). -/
def packetWritten (s : State) (i : Nat) (p : Packet) : State :=
  let t := (packetTaken s i p).modUnit p.uid (putPacket p.rid p.line.toNat)
  if Pk.pkind p.line.toNat = 5 then tilesDeclared t p else t

/-- A packet that is written changes its unit, its cluster and what is on its way. -/
theorem packetWritten_eq (s : State) (i : Nat) (p : Packet) :
    packetWritten s i p = { (packetTaken s i p).modUnit p.uid (putPacket p.rid p.line.toNat) with
      clusters := (packetWritten s i p).clusters } := by
  unfold packetWritten
  extract_lets t
  split
  · exact tilesDeclared_clusters t p
  · rfl

/-- A good packet of an open part is written (R164). -/
theorem configPacket_good (hfirst : cfgFirst s i = some p) (hkind : Pk.pkind p.line.toNat ≠ 6)
    (hpart : (s.unit p.uid).part = p.rid) (hopen : (s.unit p.uid).complete = false) (hok : packetOk p.line.toNat = true) :
    exec (.configPacket i) s = .next (packetWritten s i p) := by
  have hpart' : ((packetTaken s i p).unit p.uid).part = p.rid := hpart
  have hopen' : ((packetTaken s i p).unit p.uid).complete = false := hopen
  show execConfigPacket i s = _
  simp only [execConfigPacket, hfirst, bind, Option.bind, if_neg hkind]
  rw [← packetTaken]
  simp only [hpart', hopen', hok, if_true, Bool.not_true, Bool.or_self, Bool.false_eq_true, if_false]
  unfold packetWritten
  extract_lets t
  split <;> rfl

/-- A packet that breaks its rules opens its part again (R165). -/
theorem configPacket_bad (hfirst : cfgFirst s i = some p) (hkind : Pk.pkind p.line.toNat ≠ 6)
    (hpart : (s.unit p.uid).part = p.rid) (hbad : packetOk p.line.toNat = false) :
    exec (.configPacket i) s = .next (failPart (packetTaken s i p) p.rid p.uid) := by
  have hpart' : ((packetTaken s i p).unit p.uid).part = p.rid := hpart
  show execConfigPacket i s = _
  simp only [execConfigPacket, hfirst, bind, Option.bind, if_neg hkind]
  rw [← packetTaken]
  simp only [hpart', hbad, if_true, Bool.not_false, Bool.or_true]
  rfl

/-- The state in which a unit's part is complete (R165). -/
def partSealed (s : State) (u : UId) : State :=
  s.modUnit u fun k => { k with complete := true, reload := false, fails := 0, wordLost := false }

theorem partSealed_load (s : State) (u : UId) : LoadIs u (true, false, 0) (partSealed s u) :=
  congrArg loadOf (unit_modUnit_self s u _)

/-- The same with the notice that a part which an uncorrectable word had opened is complete again (R354). -/
def partNoticed (s : State) (p : Packet) (lost : Bool) : State :=
  let t := partSealed s p.uid
  if lost then takeFault t ⟨some p.uid, p.uid.cl, 0, p.rid, 0, 0, 0, 0, 0, 0, none, 0⟩
    ⟨.configReloaded, kindCode p.uid.kind + p.uid.num * 2 ^ 8, 0⟩
  else t

theorem partNoticed_load (s : State) (p : Packet) (lost : Bool) : LoadIs p.uid (true, false, 0) (partNoticed s p lost) :=
  ite_of (takeFault_load (partSealed_load s p.uid)) (partSealed_load s p.uid)

/-- A good seal completes its part; then the tokens that waited are matched and the region's entry record may be enqueued (R165,
R245). -/
theorem configSeal_good (hfirst : cfgFirst s i = some p) (hkind : Pk.pkind p.line.toNat = 6)
    (hpart : (s.unit p.uid).part = p.rid) (hopen : (s.unit p.uid).complete = false) (hok : packetOk p.line.toNat = true)
    (hseal : sealOk p.line.toNat (s.region p.rid).sig.toNat (s.unit p.uid) = true) :
    exec (.configSeal i) s = .next
      (admitEntry (drainIngress (partNoticed (packetTaken s i p) p (s.unit p.uid).wordLost) p.uid) p.rid) := by
  have hall : (packetOk p.line.toNat && !((packetTaken s i p).unit p.uid).complete
      && ((packetTaken s i p).unit p.uid).part == p.rid
      && sealOk p.line.toNat ((packetTaken s i p).region p.rid).sig.toNat ((packetTaken s i p).unit p.uid)) = true := by
    show (packetOk p.line.toNat && !(s.unit p.uid).complete && (s.unit p.uid).part == p.rid
      && sealOk p.line.toNat (s.region p.rid).sig.toNat (s.unit p.uid)) = true
    rw [hok, hopen, hpart, hseal]
    simp
  show execConfigSeal i s = _
  simp only [execConfigSeal, hfirst, bind, Option.bind, hkind, ne_eq, not_true_eq_false, if_false]
  rw [← packetTaken, if_pos hall]
  rfl

/-- A bad seal opens its part again (R165). -/
theorem configSeal_bad (hfirst : cfgFirst s i = some p) (hkind : Pk.pkind p.line.toNat = 6)
    (hseal : sealOk p.line.toNat (s.region p.rid).sig.toNat (s.unit p.uid) = false) :
    exec (.configSeal i) s = .next (failPart (packetTaken s i p) p.rid p.uid) := by
  have hseal' : sealOk p.line.toNat ((packetTaken s i p).region p.rid).sig.toNat ((packetTaken s i p).unit p.uid) = false :=
    hseal
  show execConfigSeal i s = _
  simp only [execConfigSeal, hfirst, bind, Option.bind, hkind, ne_eq, not_true_eq_false, if_false]
  rw [← packetTaken]
  simp only [hseal', Bool.and_false, Bool.false_eq_true, if_false]
  rfl

/-! ### A word that cannot be corrected, and a halt -/

theorem bitAt_toNat {w : Nat} (x : BitVec w) (i : Nat) : bitAt x.toNat i = x.getLsbD i := by
  rw [BitVec.getLsbD, Nat.testBit_eq_decide_div_mod_eq, bitAt, beq_eq_decide]

theorem postCpl_parts (s : State) (fn a b c d : Nat) : (postCpl s fn a b c d).parts = s.parts := by
  unfold postCpl
  rfl

theorem doubleFault_units (s : State) (k : Nat) : (doubleFault s k).units = s.units := by
  rw [doubleFault, postCpl_units, modPart_units]

/-- A double fault freezes its partition (R352). -/
theorem doubleFault_freezes (s : State) (k : Nat) : ((doubleFault s k).part k).frozen = true := by
  have hpart : (doubleFault s k).part k =
      (s.modPart k fun q => { q with cfg := q.cfg ||| BitVec.ofNat 64 (2 ^ 62) }).part k := by
    rw [doubleFault, State.part, postCpl_parts, ← State.part]
  rw [hpart, part_modPart, Part.frozen, bitAt_toNat, BitVec.getLsbD_or]
  exact Bool.or_eq_true_iff.mpr (.inr (by decide))

/-- An uncorrectable word of a unit that is configured opens its part again, but for one of the partition's supervisor region
(R352, R354). -/
theorem configWordUncorrectable_ends (hdone : (s.unit u).complete = true) (hunit : unitInRange (kindCode u.kind) u.num = true) :
    exec (.configWordUncorrectable u) s = .next
      (if (s.part (s.region (s.unit u).part).part).supRid = some (s.unit u).part then
        doubleFault s (s.region (s.unit u).part).part
      else
        resendPart (s.modUnit u fun h => { h.restart h.part true with fails := 0, wordLost := true }) (s.unit u).part u) := by
  show execConfigWordUncorrectable u s = _
  simp only [execConfigWordUncorrectable, hdone, hunit, Bool.not_true, Bool.or_self, Bool.false_eq_true, if_false]
  split <;> rfl

/-- A region that holds a withheld firing and is not asked to yield halts (R385, R386). -/
theorem breakpointHalt_ends (hrun : (s.region rid).halted = false) (hyield : (s.region rid).yield = none)
    (hheld : ∃ p ∈ s.units, ∃ w ∈ p.2.withheld, w.2.rid = rid) :
    exec (.breakpointHalt rid) s = .next (s.modRegion rid fun r => { r with halted := true }) := by
  have hany : (s.units.any fun p => p.2.withheld.any (·.2.rid == rid)) = true := by
    simpa only [List.any_eq_true, beq_iff_eq] using hheld
  show execBreakpointHalt rid s = _
  simp only [execBreakpointHalt, hrun, hyield, hany, Option.isNone_none, Bool.not_false, Bool.and_self, if_true]
  rfl

end

/-- Settles O28: the load of the unit's part is followed through each event, and what else the event does leaves it as it is. -/
theorem configurationLoadSteps : Obligations.ConfigurationLoadSteps := by
  have failed := fun s i p => loadIs_iff.mp (failPart_load (packetTaken s i p) p.rid p.uid)
  refine ⟨fun s i p hfirst hkind hpart hopen hok => ⟨_, configPacket_good hfirst hkind hpart hopen hok, ?packet⟩,
    fun s i p hfirst hkind hpart hbad => ⟨_, configPacket_bad hfirst hkind hpart hbad, failed s i p⟩,
    fun s i p hfirst hkind hpart hopen =>
      ⟨fun hok hseal => ⟨_, configSeal_good hfirst hkind hpart hopen hok hseal, ?sealed⟩,
        fun hseal => ⟨_, configSeal_bad hfirst hkind hseal, failed s i p⟩⟩,
    fun s u hdone hunit hsup => ⟨_, configWordUncorrectable_ends hdone hunit, ?program⟩,
    fun s u hdone hunit hsup => ⟨_, configWordUncorrectable_ends hdone hunit, ?supervisor⟩,
    fun s rid hrun hyield hheld => ⟨_, breakpointHalt_ends hrun hyield hheld, ?halt, rfl, rfl, rfl⟩⟩
  case packet =>
    rw [packetWritten_eq]
    exact ⟨unit_modUnit_self (packetTaken s i p) p.uid _, rfl, rfl, rfl⟩
  case sealed =>
    exact (loadIs_iff.mp (admitEntry_load (drainIngress_load (partNoticed_load (packetTaken s i p) p _)))).imp_right And.right
  case program =>
    have hunit := unit_modUnit_self s u fun h => { h.restart h.part true with fails := 0, wordLost := true }
    rw [if_neg hsup, resendPart_cfgNet]
    exact ⟨congrArg HwUnit.complete hunit, congrArg HwUnit.reload hunit, congrArg HwUnit.words hunit,
      congrArg HwUnit.wordLost hunit, rfl⟩
  case supervisor =>
    rw [if_pos hsup]
    exact ⟨doubleFault_freezes s _, doubleFault_units s _⟩
  case halt => rw [region_modRegion, if_pos rfl]

end Sys2Proof.Proofs

/-! ## Integer nodes

The lane functions of the integer nodes as arithmetic on bit vectors, lane by lane (O1 to O3). -/

namespace Sys2Proof.Proofs

open Sys2Proof Sys2Proof.Machine Sys2Proof.Laws

/-! ### Exact lane results -/

theorem ofNat_toNat_self {k : Nat} (p : BitVec k) : BitVec.ofNat k p.toNat = p := by
  rw [BitVec.ofNat_toNat, BitVec.setWidth_eq]

theorem ofNat_mod_two_pow (k v : Nat) : BitVec.ofNat k (v % 2 ^ k) = BitVec.ofNat k v := by
  refine BitVec.eq_of_toNat_eq ?_
  rw [BitVec.toNat_ofNat, BitVec.toNat_ofNat, Nat.mod_mod]

theorem laneInt_toNat {k : Nat} (hk : 0 < k) (u : Bool) (p : BitVec k) : laneInt k u p.toNat = laneVal u p := by
  rw [laneInt_eq hk, ofNat_toNat_self]

theorem ofInt_laneVal {k : Nat} (u : Bool) (p : BitVec k) : BitVec.ofInt k (laneVal u p) = p := by
  cases u with
  | false => exact BitVec.ofInt_toInt
  | true => exact (BitVec.ofInt_natCast k p.toNat).trans (ofNat_toNat_self p)

section

variable {w : Width} {u sat : Bool} {op : Nat} {i : Instr} {n : Nd}

/-- Lane arithmetic on bit vectors: the exact result on what the lanes stand for, brought into the lane (R184). -/
theorem laneArith_toNat (u sat : Bool) (g : Int → Int → Int) (p q : BitVec (Width.shape w).1) :
    BitVec.ofNat (Width.shape w).1 (laneArith w u sat g p.toNat q.toNat) = laneOf _ u sat (g (laneVal u p) (laneVal u q)) := by
  rw [laneArith, laneFit_eq, laneInt_toNat (shape_pos w), laneInt_toNat (shape_pos w)]

theorem lane_mod_eq_zero {k : Nat} (q : BitVec k) : q.toNat % 2 ^ k = 0 ↔ q = 0 := by
  rw [Nat.mod_eq_of_lt q.isLt, ← BitVec.toNat_inj]
  rfl

theorem laneMulhi_toNat (u : Bool) (p q : BitVec (Width.shape w).1) :
    BitVec.ofNat (Width.shape w).1 (laneMulhi w u p.toNat q.toNat) =
      BitVec.ofInt _ (laneVal u p * laneVal u q / (2 : Int) ^ (Width.shape w).1) := by
  rw [laneMulhi, truncInt_eq, laneInt_toNat (shape_pos w), laneInt_toNat (shape_pos w), Nat.cast_pow, Nat.cast_ofNat]

/-- Division by zero gives a lane of ones (Table 07-2). -/
theorem laneDiv_toNat (u sat : Bool) (p q : BitVec (Width.shape w).1) :
    BitVec.ofNat (Width.shape w).1 (laneDiv w u sat p.toNat q.toNat) =
      if q = 0 then BitVec.allOnes _ else laneOf _ u sat (Int.tdiv (laneVal u p) (laneVal u q)) := by
  simp only [laneDiv, lane_mod_eq_zero]
  split
  · rw [← BitVec.toNat_allOnes, ofNat_toNat_self]
  · exact laneArith_toNat u sat Int.tdiv p q

/-- The remainder of a division by zero is the dividend (Table 07-2). -/
theorem laneRem_toNat (u : Bool) (p q : BitVec (Width.shape w).1) :
    BitVec.ofNat (Width.shape w).1 (laneRem w u p.toNat q.toNat) =
      if q = 0 then p else BitVec.ofInt _ (laneVal u p - laneVal u q * Int.tdiv (laneVal u p) (laneVal u q)) := by
  simp only [laneRem, lane_mod_eq_zero]
  split
  · rw [Nat.mod_eq_of_lt p.isLt, ofNat_toNat_self]
  · rw [laneArith_toNat, Int.tmod_def]
    rfl

/-- A node of two operands whose lanes are formed by lane arithmetic. -/
theorem arithNode2 {g : Int → Int → Int}
    {rel : BitVec (Width.shape w).1 → BitVec (Width.shape w).1 → BitVec (Width.shape w).1 → Prop}
    (he : ∀ s, exec i s = node2 op n s (intResult2 w u (laneArith w u sat g)))
    (hr : ∀ p q, rel p q (laneOf _ u sat (g (laneVal u p) (laneVal u q)))) : IntNode2 op i n w u rel :=
  intNode2_of he fun p q => by
    rw [laneArith_toNat]
    exact hr p q

/-- A node of one operand whose lanes are formed by lane arithmetic on signed lanes. -/
theorem arithNode1 {g : Int → Int → Int} {rel : BitVec (Width.shape w).1 → BitVec (Width.shape w).1 → Prop}
    (he : ∀ s, exec i s = node2 op n s fun a _ => intResult1 w (fun a => laneArith w false sat g a 0) a)
    (hr : ∀ p : BitVec (Width.shape w).1, rel p (laneOf _ false sat (g p.toInt 0))) : IntNode1 op i n w rel :=
  intNode1_of he fun p => by
    have harith := laneArith_toNat (w := w) false sat g p 0#_
    rw [BitVec.toNat_zero, show laneVal false 0#(Width.shape w).1 = 0 from BitVec.toInt_zero] at harith
    rw [harith]
    exact hr p

end

/-- Settles O1: each node's lane function on numbers is lane arithmetic on what the lanes stand for; `div` and `rem` part on a
divisor of zero. -/
theorem integerArithmeticAndOrderGiveExactLanes : Obligations.IntegerArithmeticAndOrderGiveExactLanes := by
  refine ⟨fun n u sat w => ⟨?add, ?sub, ?mul, ?mulhi, ?div, ?rem⟩, fun n u sat w => ⟨?min, ?max, ?abs, ?neg⟩⟩
  case add => exact arithNode2 (g := (· + ·)) (fun _ => rfl) fun _ _ => rfl
  case sub => exact arithNode2 (g := (· - ·)) (fun _ => rfl) fun _ _ => rfl
  case mul => exact arithNode2 (g := (· * ·)) (fun _ => rfl) fun _ _ => rfl
  case mulhi => exact intNode2_of (fun _ => rfl) (laneMulhi_toNat u)
  case div => exact intNode2_of (fun _ => rfl) (laneDiv_toNat u sat)
  case rem => exact intNode2_of (fun _ => rfl) (laneRem_toNat u)
  case min =>
    refine arithNode2 (sat := false) (g := fun x y => if x ≤ y then x else y) (fun _ => rfl) fun p q => ?_
    show BitVec.ofInt _ (if laneVal u p ≤ laneVal u q then laneVal u p else laneVal u q) = _
    by_cases h : laneVal u q < laneVal u p
    · rw [if_neg (Int.not_le.2 h), if_pos h, ofInt_laneVal]
    · rw [if_pos (Int.not_lt.1 h), if_neg h, ofInt_laneVal]
  case max =>
    refine arithNode2 (sat := false) (g := fun x y => if x ≤ y then y else x) (fun _ => rfl) fun p q => ?_
    show BitVec.ofInt _ (if laneVal u p ≤ laneVal u q then laneVal u q else laneVal u p) = _
    by_cases h : laneVal u p < laneVal u q
    · rw [if_pos (Int.le_of_lt h), if_pos h, ofInt_laneVal]
    · have hle : laneVal u q ≤ laneVal u p := Int.not_lt.1 h
      rw [if_neg h]
      split
      next hpq => rw [Int.le_antisymm hle hpq, ofInt_laneVal]
      next => exact ofInt_laneVal u p
  case abs =>
    refine arithNode1 (g := fun x _ => if x < 0 then -x else x) (fun _ => rfl) fun p => ?_
    congr 1
    split <;> omega
  case neg => exact arithNode1 (g := fun x _ => -x) (fun _ => rfl) fun _ => rfl

/-! ### Bits of a lane -/

section

variable {k : Nat}

theorem ofNat_andn (p q : BitVec k) : BitVec.ofNat k (p.toNat &&& (q.toNat ^^^ (2 ^ k - 1))) = p &&& ~~~q := by
  rw [← BitVec.toNat_allOnes, ← BitVec.toNat_xor, ← BitVec.toNat_and, ofNat_toNat_self, BitVec.xor_allOnes]

theorem ofNat_not (p : BitVec k) : BitVec.ofNat k (2 ^ k - 1 - p.toNat) = ~~~p := by
  rw [← BitVec.toNat_not, ofNat_toNat_self]

theorem ofNat_shl (p : BitVec k) (c : Nat) : BitVec.ofNat k (p.toNat * 2 ^ c) = p <<< c := by
  refine BitVec.eq_of_toNat_eq ?_
  rw [BitVec.toNat_ofNat, BitVec.toNat_shiftLeft, Nat.shiftLeft_eq]

theorem ofNat_shr (p : BitVec k) (c : Nat) : BitVec.ofNat k (p.toNat / 2 ^ c) = p >>> c := by
  rw [← Nat.shiftRight_eq_div_pow, ← BitVec.toNat_ushiftRight, ofNat_toNat_self]

theorem toSigned_toNat (hk : 0 < k) (p : BitVec k) : toSigned k p.toNat = p.toInt := by
  rw [toSigned_eq hk, ofNat_toNat_self]

theorem ofNat_sar (hk : 0 < k) (p : BitVec k) (c : Nat) :
    BitVec.ofNat k (truncInt k (toSigned k p.toNat / (2 ^ c : Nat))) = p.sshiftRight c := by
  rw [truncInt_eq, toSigned_toNat hk, BitVec.sshiftRight, Int.shiftRight_eq_div_pow]

/-- A rotation's two parts do not overlap, so that their sum is their union (Table 07-4). -/
theorem ofNat_rotl (hk : 0 < k) (p : BitVec k) (c : Nat) : BitVec.ofNat k (rotl k p.toNat c) = p.rotateLeft (c % k) := by
  have hr : c % k < k := Nat.mod_lt _ hk
  refine BitVec.eq_of_toNat_eq ?_
  rw [BitVec.toNat_ofNat, BitVec.toNat_rotateLeft, Nat.mod_mod, rotl, Nat.mod_eq_of_lt p.isLt]
  generalize c % k = r at hr
  have hsplit : 2 ^ k = 2 ^ (k - r) * 2 ^ r := by rw [← Nat.pow_add, Nat.sub_add_cancel (Nat.le_of_lt hr)]
  have hhigh : p.toNat * 2 ^ r % 2 ^ k = (p.toNat % 2 ^ (k - r)) <<< r := by
    rw [hsplit, Nat.mul_mod_mul_right, Nat.shiftLeft_eq]
  have hlow : p.toNat / 2 ^ (k - r) < 2 ^ r := by
    rw [Nat.div_lt_iff_lt_mul (Nat.two_pow_pos _), Nat.mul_comm, ← hsplit]
    exact p.isLt
  rw [Nat.shiftLeft_eq p.toNat, hhigh, Nat.shiftRight_eq_div_pow, Nat.shiftLeft_add_eq_or_of_lt hlow]
  refine Nat.mod_eq_of_lt (Nat.or_lt_two_pow ?_ ?_)
  · rw [← hhigh]
    exact Nat.mod_lt _ (Nat.two_pow_pos k)
  · exact Nat.lt_of_lt_of_le hlow (Nat.pow_le_pow_right Nat.two_pos (Nat.le_of_lt hr))

/-- What `clz` counts: the zero bits above the highest one bit, or the lane width (Table 07-4). -/
theorem clz_spec (p : BitVec k) : clz k p.toNat ≤ k ∧ p.toNat < 2 ^ (k - clz k p.toNat) ∧
    (clz k p.toNat < k → 2 ^ (k - clz k p.toNat - 1) ≤ p.toNat) := by
  rw [clz, Nat.mod_eq_of_lt p.isLt]
  split
  next h0 => simp [h0]
  next h0 =>
    have hlog : Nat.log2 p.toNat < k := (Nat.log2_lt h0).2 p.isLt
    rw [show k - (k - 1 - Nat.log2 p.toNat) = Nat.log2 p.toNat + 1 by omega, Nat.add_sub_cancel]
    exact ⟨by omega, Nat.lt_log2_self, fun _ => Nat.log2_self_le h0⟩

/-- `popc` counts the one bits of a lane (Table 07-4). -/
theorem popc_eq (k : Nat) : ∀ v, popc k v = ((List.range k).filter fun i => v.testBit i).length := by
  induction k with
  | zero => exact fun _ => rfl
  | succ k ih =>
    intro v
    rw [popc, ih, List.range_succ_eq_map, List.filter_cons, List.filter_map]
    simp only [Function.comp_def, Nat.testBit_zero, Nat.testBit_succ]
    split
    next h =>
      rw [List.length_cons, List.length_map, of_decide_eq_true h, Nat.add_comm]
    next h =>
      rw [List.length_map, Nat.mod_two_ne_one.1 fun e => h (decide_eq_true e), Nat.zero_add]

end

/-- Settles O2: each lane function on numbers is the operation on the lane's bits. -/
theorem bitOperationsActOnEachLane : Obligations.BitOperationsActOnEachLane := by
  intro n w
  have hk := shape_pos w
  refine ⟨?and, ?or, ?xor, ?andn, ?not, ?shl, ?shr, ?sar, ?rotl, ?clz, ?popc⟩
  case and => exact intNode2_of (fun _ => rfl) fun p q => by simp [BitVec.ofNat_and]
  case or => exact intNode2_of (fun _ => rfl) fun p q => by simp [BitVec.ofNat_or]
  case xor => exact intNode2_of (fun _ => rfl) fun p q => by simp [BitVec.ofNat_xor]
  case andn => exact intNode2_of (fun _ => rfl) ofNat_andn
  case not => exact intNode1_of (fun _ => rfl) ofNat_not
  case shl => exact intNode2_of (fun _ => rfl) fun p q => ofNat_shl p _
  case shr => exact intNode2_of (fun _ => rfl) fun p q => ofNat_shr p _
  case sar => exact intNode2_of (fun _ => rfl) fun p q => ofNat_sar hk p _
  case rotl => exact intNode2_of (fun _ => rfl) fun p q => ofNat_rotl hk p _
  case clz =>
    refine intNode1_of (fun _ => rfl) fun p => ?_
    obtain ⟨hle, hlt, hge⟩ := clz_spec p
    exact ⟨_, hle, rfl, hlt, hge⟩
  case popc => exact intNode1_of (fun _ => rfl) fun p => congrArg _ (popc_eq _ p.toNat)

/-! ### Bit fields -/

section

variable {k : Nat}

theorem bits_position (ctl : Nat) : bits ctl 5 0 = ctl % 64 := congrArg (· % 64) (Nat.div_one ctl)

theorem fieldLen_eq (k ctl : Nat) : fieldLen k ctl = fieldLength k ctl := by
  simp only [fieldLen, fieldLength, bits_position]
  rfl

/-- What `bfx` gives is the field's bits, extended with zeros or with its top bit (R188). -/
theorem bfx_fieldExtract (u : Bool) (p : BitVec k) (ctl : Nat) : FieldExtract u p ctl (BitVec.ofNat k (bfx k u p.toNat ctl)) := by
  intro i hi
  simp only [bfx, fieldLen_eq, bits_position]
  generalize fieldLength k ctl = len
  generalize ctl % 64 = pos
  have hfield : p.toNat / 2 ^ pos % 2 ^ len = (p.extractLsb' pos len).toNat := by
    rw [BitVec.extractLsb'_toNat, Nat.shiftRight_eq_div_pow]
  by_cases h0 : len = 0
  · rw [if_pos h0, if_pos h0, BitVec.getLsbD_zero]
  · have hlen : 0 < len := Nat.pos_of_ne_zero h0
    rw [if_neg h0, if_neg h0, hfield]
    cases u with
    | true =>
      rw [if_pos rfl, BitVec.ofNat_toNat, BitVec.getLsbD_setWidth, BitVec.getLsbD_extractLsb']
      by_cases hil : i < len <;> simp [hi, hil]
    | false =>
      rw [if_neg Bool.false_ne_true, truncInt_eq, toSigned_toNat hlen]
      show ((p.extractLsb' pos len).signExtend k).getLsbD i = _
      rw [BitVec.getLsbD_signExtend, BitVec.msb_eq_getLsbD_last, BitVec.getLsbD_extractLsb', BitVec.getLsbD_extractLsb',
        ← Nat.add_sub_assoc hlen]
      by_cases hil : i < len <;> simp [hi, hil, hlen]

/-- Lane 0 is the low bits of a value (R74). -/
theorem laneBv_zero (v : Nat) : laneBv k 0 v = BitVec.ofNat k v := by
  rw [laneBv, laneAt, Nat.mul_zero, Nat.pow_zero, Nat.div_one, ofNat_mod_two_pow]

theorem getLsbD_laneBv_zero {i : Nat} (v : Nat) (hi : i < k) : (laneBv k 0 v).getLsbD i = v.testBit i := by
  rw [laneBv_zero, BitVec.getLsbD_ofNat, decide_eq_true hi, Bool.true_and]

/-- The base below and above the field, and the low bits of the inserted value in it (R188). -/
theorem testBit_bfi (a b ctl i : Nat) : (bfi k a b ctl).testBit i =
    if ctl % 64 ≤ i ∧ i < ctl % 64 + fieldLength k ctl then b.testBit (i - ctl % 64) else a.testBit i := by
  simp only [bfi, fieldLen_eq, bits_position]
  generalize fieldLength k ctl = len
  generalize ctl % 64 = pos
  have hor : a % 2 ^ pos + b % 2 ^ len * 2 ^ pos + a / 2 ^ (pos + len) * 2 ^ (pos + len) =
      ((a >>> (pos + len)) <<< len ||| b % 2 ^ len) <<< pos ||| a % 2 ^ pos := by
    rw [← Nat.shiftLeft_add_eq_or_of_lt (Nat.mod_lt b (Nat.two_pow_pos len)),
      ← Nat.shiftLeft_add_eq_or_of_lt (Nat.mod_lt a (Nat.two_pow_pos pos)), Nat.shiftLeft_eq, Nat.shiftLeft_eq,
      Nat.shiftRight_eq_div_pow, Nat.pow_add, Nat.mul_comm (2 ^ pos) (2 ^ len)]
    ring
  rw [hor]
  simp only [Nat.testBit_or, Nat.testBit_shiftLeft, Nat.testBit_shiftRight, Nat.testBit_mod_two_pow]
  by_cases hlow : i < pos
  · simp [hlow, Nat.not_le.2 hlow]
  · have hpos : pos ≤ i := Nat.not_lt.1 hlow
    by_cases hin : i < pos + len
    · have hsub : i - pos < len := by omega
      simp [hlow, hpos, hin, hsub, Nat.not_le.2 hsub]
    · have hsub : ¬ i - pos < len := by omega
      have hidx : pos + len + (i - pos - len) = i := by omega
      simp [hlow, hpos, hin, hsub, Nat.not_lt.1 hsub, hidx]

end

section

variable {a b d : Opd} {x y z : Scalar}

/-- The widths of the nodes with one width bit have one lane. -/
theorem wide_lanes (wd : Bool) : (Width.shape (wide wd)).2 = 1 := by cases wd <;> rfl

/-- What `bfi` answers (R188). -/
theorem bfiResult_ok (wd : Bool) (hx : IntOpd (wide wd) a x) (hy : IntOpd (wide wd) b y) (hz : IntOpd (wide wd) d z) :
    ∃ r, bfiResult wd a b d = .ok r ∧ ∃ q, FieldInsert (laneBv (Width.shape (wide wd)).1 0 (intRead (wide wd) false x))
      (laneBv _ 0 (intRead (wide wd) false y)) (intRead (wide wd) false z) q ∧ IntLanes (wide wd) x.ty (fun _ => q) r := by
  obtain ⟨hx, hxs⟩ := hx
  obtain ⟨hy, hys⟩ := hy
  obtain ⟨hz, hzs⟩ := hz
  refine ⟨_, by simp only [bfiResult, hx, hy, hz, hxs, hys, hzs, bind, Except.bind, need]; rfl,
    BitVec.ofNat _ (bfi (Width.shape (wide wd)).1 (intRead (wide wd) false x) (intRead (wide wd) false y)
      (intRead (wide wd) false z) % 2 ^ (Width.shape (wide wd)).1), fun i hi => ?_, intLanes_ofNat ?_ fun j hj => ?_⟩
  · rw [ofNat_mod_two_pow, BitVec.getLsbD_ofNat, decide_eq_true hi, Bool.true_and, testBit_bfi,
      getLsbD_laneBv_zero _ hi, getLsbD_laneBv_zero _ (Nat.lt_of_le_of_lt (Nat.sub_le _ _) hi)]
  · rw [wide_lanes, Nat.mul_one]
    exact Nat.mod_lt _ (Nat.two_pow_pos _)
  · rw [wide_lanes] at hj
    obtain rfl : j = 0 := by omega
    rw [laneAt, Nat.mul_zero, Nat.pow_zero, Nat.div_one]

/-! ### Compare, select and address -/

theorem intCond_iff {k : Nat} (hk : 0 < k) (c : Cond) (p q : Nat) :
    intCond c k p q = true ↔ condHolds c (laneBv k 0 p) (laneBv k 0 q) := by
  rw [laneBv_zero, laneBv_zero]
  cases c <;> simp [intCond, condHolds, toSigned_eq hk, BitVec.toInt_inj]

/-- What `cmp` answers: 1 where its condition holds and 0 where not (R189). -/
theorem cmpResult_ok (wd : Bool) (c : Cond) (hx : asScalar a (intTypes (wide wd)) = .ok x)
    (hy : asScalar b (intTypes (wide wd)) = .ok y) (hs : x.sc = y.sc) :
    ∃ r, cmpResult wd c a b = .ok r ∧ r.ty = .control ∧ r.sc = false ∧ (r.val = 1 ∨ r.val = 0) ∧
      (r.val = 1 ↔ condHolds c (laneBv (Width.shape (wide wd)).1 0 (intRead (wide wd) false x))
        (laneBv _ 0 (intRead (wide wd) false y))) := by
  refine ⟨_, by simp only [cmpResult, hx, hy, hs, need_beq_self, bind, Except.bind]; rfl, rfl, rfl, ?_⟩
  rw [← intCond_iff (shape_pos _)]
  cases intCond c _ _ _ <;> decide

theorem truth_iff (x : Scalar) : truth x = true ↔ Truth x := by
  unfold truth Truth
  split
  · rw [bne_iff_ne, ne_eq, ne_eq, ← BitVec.toNat_inj, BitVec.toNat_setWidth]
    rfl
  · exact bne_iff_ne

/-- What `sel` answers (R190). -/
theorem selResult_ok (hx : asScalar a condTypes = .ok x) (hxs : x.sc = false) (hy : asScalar b allTypes = .ok y)
    (hz : asScalar d allTypes = .ok z) : selResult a b d = .ok (if truth x then y else z) := by
  simp only [selResult, hx, hxs, hy, hz, need, bind, Except.bind]
  rfl

/-- The scaled index of `lea`: an i32 is sign-extended first (R185). -/
theorem leaIndex_eq (y : Scalar) (k : Nat) : BitVec.ofNat 64 (intRead .i64 false y * 2 ^ k) =
    (if y.ty = .i32 then (y.val.setWidth 32).signExtend 64 else y.val) <<< k := by
  have hread : BitVec.ofNat 64 (intRead .i64 false y) = if y.ty = .i32 then (y.val.setWidth 32).signExtend 64 else y.val := by
    simp only [intRead]
    split
    · rw [if_neg Bool.false_ne_true, truncInt_eq, toSigned_eq (by decide), BitVec.ofNat_toNat]
      rfl
    · rw [ofNat_toNat_self]
  rw [← hread, ← ofNat_shl, BitVec.toNat_ofNat, BitVec.ofNat_mul, BitVec.ofNat_mul, ofNat_mod_two_pow]

/-- What `lea` answers: A and the scaled index, to 64 bits (R185). -/
theorem leaResult_ok (k : Nat) (hx : asScalar a [.u64, .i64] = .ok x) (hy : asScalar b [.i64, .u64, .i32, .tagix] = .ok y)
    (hxs : x.sc = false) (hys : y.sc = false) : leaResult k a b =
      .ok ⟨x.val + (if y.ty = .i32 then (y.val.setWidth 32).signExtend 64 else y.val) <<< k, .u64, false⟩ := by
  simp only [leaResult, hx, hy, hxs, hys, need, bind, Except.bind, ← leaIndex_eq]
  rfl

end

/-- Settles O3: the bits of a field one by one, and what the other result functions answer. -/
theorem bitFieldsCompareSelectAddressAndMove : Obligations.BitFieldsCompareSelectAddressAndMove := by
  refine ⟨⟨?bfx, ?bfi⟩, ?cmp, ?sel, ?lea, ?mov⟩
  case bfx =>
    intro n u wd
    refine intNode2_of (fun _ => rfl) fun p q => bfx_fieldExtract u p q.toNat
  case bfi =>
    intro n wd
    refine node3_of (fun _ => rfl) ?_
    rintro a b d ⟨x, y, z, hx, hy, hz⟩
    obtain ⟨r, hr, q, hq, hl⟩ := bfiResult_ok wd hx hy hz
    exact ⟨r, hr, x, y, z, hx, hy, hz, q, hq, hl⟩
  case cmp =>
    intro n wd c
    refine node2_of (fun _ => rfl) ?_
    rintro a b ⟨x, y, hx, hy, hs⟩
    obtain ⟨r, hr, hval⟩ := cmpResult_ok wd c hx hy hs
    exact ⟨r, hr, x, y, hx, hy, hval⟩
  case sel =>
    intro n
    refine node3_of (fun _ => rfl) ?_
    rintro a b d ⟨⟨x, hx, hxs⟩, ⟨y, hy⟩, z, hz⟩
    refine ⟨_, selResult_ok hx hxs hy hz, x, hx, fun h => ?_, fun h => ?_⟩
    · rw [if_pos ((truth_iff x).2 h), hy]
    · rw [if_neg (h ∘ (truth_iff x).1), hz]
  case lea =>
    intro n k
    refine node2_of (fun _ => rfl) ?_
    rintro a b ⟨x, y, hx, hy, hxs, hys⟩
    exact ⟨_, leaResult_ok k.toNat hx hy hxs hys, x, y, hx, hy, rfl⟩
  case mov =>
    intro n w
    exact node2_of (g := fun a _ => asScalar a allTypes) (fun _ => rfl) fun _ _ ⟨x, hx⟩ => ⟨x, hx, hx⟩

end Sys2Proof.Proofs

/-! ## Floating-point nodes

What the floating nodes answer lane by lane (O4 to O7), and where the approximated reciprocal and root lie (O8). -/

namespace Sys2Proof.Proofs

open Sys2Proof Sys2Proof.Machine Sys2Proof.Laws

section

variable {op : Nat} {i : Instr} {n : Nd} {f : LaneFmt}

/-! ### Lanes rounded once -/

/-- The lanes of a node that combines the exact values of two operands and rounds each result once (R82, R191). -/
theorem floatLanes_lanes2 (hf : Fits f) (m : Rnd) (fz sc : Bool) (g : FV → FV → FV) (x y : Scalar) :
    FloatLanes f sc (fun j => codeOf f m fz (g (laneFV f fz x j) (laneFV f fz y j)))
      ⟨lanes2 f m fz g x.val.toNat y.val.toNat, f.ty, sc⟩ := by
  rw [lanes2, values_eq, values_eq, zipWith_range]
  exact floatLanes_round hf m fz sc _

theorem lanesNodeE (hf : Fits f) (m : Rnd) (fz : Bool) (g : FV → FV → FV)
    (he : ∀ s, exec i s = node2 op n s (floatE f (lanes2 f m fz g))) :
    FloatNodeE op i n f fun x y j => codeOf f m fz (g (laneFV f fz x j) (laneFV f fz y j)) :=
  floatE_of he fun x y _ => floatLanes_lanes2 hf m fz x.sc g x y

theorem lanesNodeM (hf : Fits f) (m : Rnd) (fz : Bool) (g : FV → FV → FV)
    (he : ∀ s, exec i s = node2 op n s (floatM f (lanes2 f m fz g))) :
    FloatNodeM op i n f fun x y j => codeOf f m fz (g (laneFV f fz x j) (laneFV f fz y j)) :=
  floatM_of he fun x y => floatLanes_lanes2 hf m fz _ g x y

end

/-- Settles O4: every one of the nodes combines the lanes' exact values and rounds what it gets once. -/
theorem floatArithmeticRoundsEachLaneOnce : Obligations.FloatArithmeticRoundsEachLaneOnce := by
  intro n fz m
  exact ⟨lanesNodeE fits_f32 m fz (FV.add m) fun _ => rfl, lanesNodeE fits_bf16 m fz (FV.add m) fun _ => rfl,
    lanesNodeE fits_e4 m fz (FV.add m) fun _ => rfl, lanesNodeE fits_e5 m fz (FV.add m) fun _ => rfl,
    lanesNodeE fits_f32 m fz (fun x y => FV.add m x y.neg) fun _ => rfl,
    lanesNodeE fits_bf16 m fz (fun x y => FV.add m x y.neg) fun _ => rfl,
    lanesNodeE fits_e4 m fz (fun x y => FV.add m x y.neg) fun _ => rfl,
    lanesNodeE fits_e5 m fz (fun x y => FV.add m x y.neg) fun _ => rfl,
    lanesNodeM fits_f32 m fz FV.mul fun _ => rfl, lanesNodeM fits_bf16 m fz FV.mul fun _ => rfl,
    lanesNodeM fits_e4 m fz FV.mul fun _ => rfl, lanesNodeM fits_e5 m fz FV.mul fun _ => rfl⟩

section

variable {op : Nat} {i : Instr} {n : Nd} {f : LaneFmt}

/-! ### Minimum and maximum -/

/-- The lane that `fmin` or `fmax` picks of two (R192). -/
theorem minMax_eq (more nan : Bool) (p q : FV) : minMax more nan p q =
    if p = .nan ∧ q = .nan then .nan
    else if p = .nan then (if nan then .nan else q)
    else if q = .nan then (if nan then .nan else p)
    else if more then (if FV.cmp true p q < 0 then q else p) else (if 0 < FV.cmp true p q then q else p) := by
  cases p <;> cases q <;> simp [minMax]

theorem laneFV_flushIn (f : LaneFmt) (fz : Bool) (x : Scalar) (j : Nat) :
    f.fmt.flushIn fz (laneFV f false x j) = laneFV f fz x j := by
  have hkeep : ∀ v, f.fmt.flushIn false v = v := by
    intro v
    cases v <;> rfl
  rw [laneFV, hkeep, laneFV]

/-- The lane picked of two flushed ones, which rounding leaves as it is (R192). -/
theorem minMaxNode (hf : Fits f) (more nan fz : Bool) (he : ∀ s, exec i s = node2 op n s (fminmaxResult f more nan fz)) :
    FloatNodeE op i n f fun x y j => codeOf f .ne false (minMax more nan (laneFV f fz x j) (laneFV f fz y j)) := by
  have hnode := lanesNodeE hf .ne false (fun p q => minMax more nan (f.fmt.flushIn fz p) (f.fmt.flushIn fz q)) he
  simpa only [laneFV_flushIn] using hnode

end

/-- Settles O5: the lane picked is one of the two flushed operands or the canonical NaN, and rounding it leaves it. -/
theorem floatMinimumAndMaximum : Obligations.FloatMinimumAndMaximum := by
  intro n nan fz pick
  have hpick : pick = fun more f x y j => codeOf f .ne false (minMax more nan (laneFV f fz x j) (laneFV f fz y j)) := by
    funext more f x y j
    exact congrArg (codeOf f .ne false) (minMax_eq more nan _ _).symm
  rw [hpick]
  exact ⟨minMaxNode fits_f32 false nan fz fun _ => rfl, minMaxNode fits_bf16 false nan fz fun _ => rfl,
    minMaxNode fits_e4 false nan fz fun _ => rfl, minMaxNode fits_e5 false nan fz fun _ => rfl,
    minMaxNode fits_f32 true nan fz fun _ => rfl, minMaxNode fits_bf16 true nan fz fun _ => rfl,
    minMaxNode fits_e4 true nan fz fun _ => rfl, minMaxNode fits_e5 true nan fz fun _ => rfl⟩

section

variable {op : Nat} {i : Instr} {n : Nd} {f : LaneFmt} {a b : Opd} {x y : Scalar}

/-! ### Compare -/

/-- With a NaN the conditions 1 and 6 hold and no other does (R156). -/
theorem floatCond_unordered {p q : FV} (h : p = .nan ∨ q = .nan) (k : Cond) :
    floatCond k p q = (k == .ne || k == .c6) := by
  have hu : (p == .nan || q == .nan) = true := by simpa using h
  cases k <;> simp [floatCond, hu]

/-- Without a NaN an ordered condition is a sign of the order of the values (R156). -/
theorem floatCond_ordered {p q : FV} (hp : p ≠ .nan) (hq : q ≠ .nan) (k : Cond) :
    floatCond k p q = match k with
      | .eq => FV.cmp false p q == 0 | .ne => FV.cmp false p q != 0 | .lt => decide (FV.cmp false p q < 0)
      | .le => decide (FV.cmp false p q ≤ 0) | .gt => decide (0 < FV.cmp false p q)
      | .ge => decide (0 ≤ FV.cmp false p q) | .c6 => false | .c7 => true := by
  have hu : (p == .nan || q == .nan) = false := by simp [hp, hq]
  cases k <;> simp [floatCond, hu]

/-- What `fcmp` answers: one bit for each lane, zeros above them (R193). -/
theorem fcmpResult_ok (hn : f.n ≤ 64) (k : Cond) (hx : FloatOpd f a x) (hy : FloatOpd f b y) (hs : x.sc = y.sc) :
    ∃ r, fcmpResult f k a b = .ok r ∧ r.ty = .control ∧ r.sc = false ∧
      ∀ j, r.val.getLsbD j = (decide (j < f.n) && floatCond k (laneFV f false x j) (laneFV f false y j)) := by
  unfold FloatOpd at hx hy
  refine ⟨_, by simp only [fcmpResult, hx, hy, hs, need_beq_self, bind, Except.bind]; rfl, rfl, rfl, fun j => ?_⟩
  rw [values_eq, values_eq, zipWith_range, (laneMask_word (by simpa using hn)).2, List.getD_eq_getElem?_getD,
    List.getElem?_map]
  by_cases hj : j < f.n <;> simp [hj]

theorem fcmpNode (hn : f.n ≤ 64) (k : Cond) (he : ∀ s, exec i s = node2 op n s (fcmpResult f k)) :
    FloatCompare op i n f k := by
  refine node2_of he ?_
  rintro a b ⟨x, y, hx, hy, hs⟩
  obtain ⟨r, hr, hval⟩ := fcmpResult_ok hn k hx hy hs
  exact ⟨r, hr, x, y, hx, hy, hval⟩

end

/-- Settles O6: the conditions with a NaN and without one, and the mask that a compare packs of its lanes' conditions. -/
theorem floatCompareGivesOneBitForEachLane : Obligations.FloatCompareGivesOneBitForEachLane := by
  refine ⟨fun p q h => ⟨fun k hk => ?_, ?_, ?_⟩, fun p q hp hq => ?_, fun n k => ?_⟩
  · rw [floatCond_unordered h]
    revert k
    decide
  · exact floatCond_unordered h .ne
  · exact floatCond_unordered h .c6
  · simp only [floatCond_ordered hp hq, ← decide_not, Int.not_lt, bne, true_and]
  · exact ⟨fcmpNode (by decide) k fun _ => rfl, fcmpNode (by decide) k fun _ => rfl, fcmpNode (by decide) k fun _ => rfl,
      fcmpNode (by decide) k fun _ => rfl⟩

section

variable {op : Nat} {i : Instr} {n : Nd} {f : LaneFmt} {a : Opd} {x : Scalar}

/-! ### Signs and approximations -/

/-- `fneg` and `fabs` change the sign of the flushed value (R191). -/
theorem signNode (hf : Fits f) (fz : Bool) (g : FV → FV) (he : ∀ s, exec i s = node2 op n s fun a _ => fsignResult f fz g a) :
    FloatNode1 op i n f (fun _ => True) fun x j => codeOf f .ne false (g (laneFV f fz x j)) := by
  refine node2_of he ?_
  rintro a b ⟨x, hx, -⟩
  unfold FloatOpd at hx
  refine ⟨_, by simp only [fsignResult, hx, bind, Except.bind]; rfl, x, hx, ?_⟩
  rw [values_eq, List.map_map]
  exact floatLanes_round hf .ne false x.sc _

/-- An approximation of each lane, rounded once to the node's target format (R194). -/
theorem approxNode (hf : Fits f) (fz : Bool) (m : Rnd) (g : FV → Near) (target : Fmt)
    (ht : (if f.fmt = .f32 then Fmt.p12 else f.fmt) = target)
    (he : ∀ s, exec i s = node2 op n s fun a _ => approxResult f fz m g a) :
    FloatNode1 op i n f (· = false) fun x j =>
      (target.round m fz .arith (g (laneFV f fz x j)).1 (g (laneFV f fz x j)).2).1 := by
  refine node2_of he ?_
  rintro a b ⟨x, hx, hs⟩
  unfold FloatOpd at hx
  refine ⟨_, by simp only [approxResult, scalarU_ok hx hs, bind, Except.bind]; rfl, x, hx, ?_⟩
  rw [codes_eq, List.map_map, hs]
  subst ht
  exact floatLanes_range hf false _

end

/-- Settles O7: signs and approximations lane by lane; the FP32 forms of the latter round to P12. -/
theorem floatSignAndApproximations : Obligations.FloatSignAndApproximations := by
  intro n fz m
  have near32 {op i} (g : FV → Near) (he : ∀ s, exec i s = node2 op n s fun a _ => approxResult .f32 fz m g a) :=
    approxNode fits_f32 fz m g .p12 rfl he
  have near16 {op i} (g : FV → Near) (he : ∀ s, exec i s = node2 op n s fun a _ => approxResult .bf16 fz m g a) :=
    approxNode fits_bf16 fz m g .bf16 rfl he
  exact ⟨signNode fits_f32 fz FV.neg fun _ => rfl, signNode fits_bf16 fz FV.neg fun _ => rfl,
    signNode fits_f32 fz FV.abs fun _ => rfl, signNode fits_bf16 fz FV.abs fun _ => rfl,
    near32 frcp fun _ => rfl, near16 frcp fun _ => rfl, near32 fsqrt fun _ => rfl, near16 fsqrt fun _ => rfl,
    near32 fexp2 fun _ => rfl, near16 fexp2 fun _ => rfl, near32 flog2 fun _ => rfl, near16 flog2 fun _ => rfl⟩

/-! ### The reciprocal and the root -/

theorem frcp_fin (s : Bool) {m : Nat} (e : Int) (hm : 0 < m) : frcp (.fin s m e) =
    (.fin s (2 ^ (Nat.log2 m + 64) / m) (-e - (Nat.log2 m + 64 : Nat)), 2 ^ (Nat.log2 m + 64) % m != 0) :=
  if_neg (Nat.ne_of_gt hm)

/-- A quotient rounded down brackets the exact one, which it is where nothing remains. -/
theorem quotient_brackets (n : Nat) {m : Nat} (hm : 0 < m) :
    n / m * m ≤ n ∧ n < (n / m + 1) * m ∧ ((n % m != 0) = false ↔ n / m * m = n) := by
  refine ⟨Nat.div_mul_le_self n m, ?_, ?_⟩
  · rw [Nat.mul_comm]
    exact Nat.lt_mul_div_succ n hm
  · rw [bne_eq_false_iff_eq, ← Nat.dvd_iff_mod_eq_zero, Nat.dvd_iff_div_mul_eq]

/-- The root found bit by bit brackets the exact one, where the start and the bits left do. -/
theorem isqrt_brackets (n : Nat) : ∀ b r, r * r ≤ n → n < (r + 2 ^ b) * (r + 2 ^ b) →
    isqrt n b r * isqrt n b r ≤ n ∧ n < (isqrt n b r + 1) * (isqrt n b r + 1) := by
  intro b
  induction b with
  | zero => exact fun r hle hlt => ⟨hle, hlt⟩
  | succ b ih =>
    intro r hle hlt
    rw [isqrt]
    have hdouble : r + 2 ^ (b + 1) = r + 2 ^ b + 2 ^ b := by rw [Nat.pow_succ]; omega
    split
    next h => exact ih _ h (hdouble ▸ hlt)
    next h => exact ih r hle (Nat.not_le.1 h)

theorem fsqrt_fin {m : Nat} (e : Int) (hm : 0 < m) : fsqrt (.fin false m e) =
    let o := (e % 2).toNat
    let r := isqrt (m * 2 ^ (o + 96)) 64 0
    (.fin false r ((e - o - 96) / 2), r * r != m * 2 ^ (o + 96)) := by
  rw [fsqrt, if_neg (Nat.ne_of_gt hm), if_neg Bool.false_ne_true]

/-- The radicand of a significand below 2^30 has a root below 2^64. -/
theorem radicand_lt {m o : Nat} (ho : o < 2) (hm : m < 2 ^ 30) : m * 2 ^ (o + 96) < (0 + 2 ^ 64) * (0 + 2 ^ 64) :=
  calc m * 2 ^ (o + 96) < 2 ^ 30 * 2 ^ (o + 96) := Nat.mul_lt_mul_of_pos_right hm (Nat.two_pow_pos _)
    _ ≤ 2 ^ 30 * 2 ^ 97 := Nat.mul_le_mul_left _ (Nat.pow_le_pow_right Nat.two_pos (by omega))
    _ ≤ (0 + 2 ^ 64) * (0 + 2 ^ 64) := by decide

/-- Settles O8: the reciprocal is a quotient rounded down and the root is found bit by bit; the sticky flag is the comparison of
the product, or of the square, with the exact number. -/
theorem reciprocalAndRootBracketTheRealValue : Obligations.ReciprocalAndRootBracketTheRealValue := by
  refine ⟨fun s m e hm => ?_, fun m e hm => ?_⟩
  · obtain ⟨hle, hlt, hexact⟩ := quotient_brackets (2 ^ (Nat.log2 m + 64)) hm
    exact ⟨_, _, _, frcp_fin s e hm, hle, hlt, hexact⟩
  · have hodd : (e - ((e % 2).toNat : Int)) % 2 = 0 := by omega
    have hlt : (e % 2).toNat < 2 := by omega
    refine ⟨_, _, _, fsqrt_fin e hm, hodd, hlt, fun hsmall => ?_, bne_eq_false_iff_eq⟩
    exact isqrt_brackets _ 64 0 (Nat.zero_le _) (radicand_lt hlt hsmall)

end Sys2Proof.Proofs

/-! ## Graph control and calls

Where the graph-control nodes send their tokens (O11, O12), and what `call`, `fbcast` and `tagv` do (O15). Sending a token leaves
what configuration load gave every unit, and every frame's header. -/

namespace Sys2Proof.Proofs

open Sys2Proof Sys2Proof.Machine Sys2Proof.Laws

/-! ### Nodes that fault -/

/-- A node whose meaning faults takes the fault and has no other effect (R13); an uncorrectable error or a masked feature has
rules of its own (R169, R355). -/
theorem runNode_faults {op : Nat} {a b : Src} {s : State} {c : Cur} {body : State → Cur → Res State} {f : Flt}
    (hc : s.cur = some c) (hm : Unmasked s c op) (h : body s.base c = .error (.fault f))
    (hmask : f.cause ≠ .featureMasked) (hmem : f.cause ≠ .poolError ∧ f.cause ≠ .memError) :
    runNode op a b s body = .next (takeFault (countRetired s.base c op) (siteOf s c op a b) f) := by
  have hplain : faultOrRollback (countRetired s.base c op) (siteOf s c op a b) f =
      takeFault (countRetired s.base c op) (siteOf s c op a b) f :=
    (faultOrRollback_cases _ _ f).resolve_right fun ⟨he, _⟩ => he.elim hmem.1 hmem.2
  unfold runNode
  rw [hc]
  simp only [featureCheck_ok hm, bind, Except.bind, h, if_neg hmask, hplain]

section

variable {s s2 : State} {c : Cur} {n : Nd} {a b : Opd} {op : Nat} {i : Instr}

/-- A node of two operands whose result function faults takes the fault. -/
theorem node2_faults {g : Opd → Opd → Res Scalar} {cause : Cause} {detail : Nat} (he : ∀ s, exec i s = node2 op n s g)
    (hf : Fires s c op) (hr : ReadsAB s c n a b s2) (hg : g a b = flt cause detail) (hmask : cause ≠ .featureMasked)
    (hmem : cause ≠ .poolError ∧ cause ≠ .memError) : Faults i s c op n cause detail := by
  obtain ⟨s1, ha, hb⟩ := hr
  refine (he s).trans (runNode_faults hf.1 hf.2 ?_ hmask hmem)
  simp only [bind, Except.bind, ha, hb, hg]
  rfl

/-! ### Ordering tokens -/

theorem asScalar_token (x : Scalar) (ts : List TType) :
    asScalar ⟨.scal x, false⟩ ts = if ts.contains x.ty then .ok x else flt .type := rfl

/-- The value of an ordering token: its scope below its logged bit (Table 05-2). -/
theorem markerWord_toNat (scope : Nat) (logged : Bool) :
    (markerWord scope logged).toNat = scope % 8 + if logged then 8 else 0 := by
  have hscope : scope % 8 < 8 := Nat.mod_lt _ (by decide)
  rw [markerWord, BitVec.toNat_ofNat]
  cases logged <;> simp <;> omega

/-- What `ojoin` answers: the narrower scope and the OR of the logged bits (R128, R207). -/
theorem ojoinResult_ok {x y : Scalar} (hx : asScalar a [.marker] = .ok x) (hy : asScalar b [.marker] = .ok y)
    (hxs : x.sc = false) (hys : y.sc = false) :
    ∃ r, ojoinResult a b = .ok r ∧ r.ty = .marker ∧ r.sc = false ∧ r.val.toNat =
      min (x.val.toNat % 8) (y.val.toNat % 8) + (if x.val.getLsbD 3 || y.val.getLsbD 3 then 8 else 0) := by
  refine ⟨_, by simp only [ojoinResult, hx, hy, hxs, hys, need, bind, Except.bind]; rfl, rfl, rfl, ?_⟩
  rw [markerWord_toNat, bitAt_toNat, bitAt_toNat]
  omega

theorem ojoinResult_type {x y : Scalar} (h : x.ty ≠ .marker ∨ y.ty ≠ .marker) :
    ojoinResult ⟨.scal x, false⟩ ⟨.scal y, false⟩ = flt .type := by
  by_cases hx : x.ty = .marker
  · have hy : y.ty ≠ .marker := h.resolve_left fun k => k hx
    simp [ojoinResult, asScalar_token, hx, hy, bind, Except.bind, flt]
  · simp [ojoinResult, asScalar_token, hx, bind, Except.bind, flt]

theorem ojoinResult_scaled {x y : Scalar} (hx : x.ty = .marker) (hy : y.ty = .marker) (h : x.sc = true ∨ y.sc = true) :
    ojoinResult ⟨.scal x, false⟩ ⟨.scal y, false⟩ = flt .scaleMismatch := by
  have hneed : (!x.sc && !y.sc) = false := by rcases h with h | h <;> simp [h]
  simp [ojoinResult, asScalar_token, hx, hy, hneed, need, bind, Except.bind, flt]

end

/-- Settles O12: two ordering tokens are joined; the type is checked before the scaled bits. -/
theorem orderingTokensAreJoined : Obligations.OrderingTokensAreJoined := by
  refine ⟨fun n => ?joins, ?type, ?scaled⟩
  case joins =>
    refine node2_of (fun _ => rfl) ?_
    rintro a b ⟨x, y, hx, hy, hxs, hys⟩
    obtain ⟨r, hr, hval⟩ := ojoinResult_ok hx hy hxs hys
    exact ⟨r, hr, x, y, hx, hy, hval⟩
  case type =>
    rintro n s c _ _ s2 x y hf hr rfl rfl h
    exact node2_faults (fun _ => rfl) hf hr (ojoinResult_type h) nofun ⟨nofun, nofun⟩
  case scaled =>
    rintro n s c _ _ s2 x y hf hr rfl rfl hx hy h
    exact node2_faults (fun _ => rfl) hf hr (ojoinResult_scaled hx hy h) nofun ⟨nofun, nofun⟩

/-! ### What a unit was loaded with stays -/

/-- What neither a wake nor a change of the read buffers touches of a unit. -/
structure Steady {α : Type} (part : HwUnit → α) : Prop where
  wake : ∀ line h, part (wakeOn line h) = part h
  readBuf : ∀ h l, part { h with readBuf := l } = part h

theorem steady_lits : Steady HwUnit.lits := ⟨fun _ _ => rfl, fun _ _ => rfl⟩

theorem steady_arcs : Steady HwUnit.arcs := ⟨fun _ _ => rfl, fun _ _ => rfl⟩

/-- A part of a unit has a value. -/
def UnitHas {α : Type} (part : HwUnit → α) (u : UId) (x : α) (s : State) : Prop := part (s.unit u) = x

theorem UnitHas.of_units {α : Type} {part : HwUnit → α} {u : UId} {x : α} {s t : State} (h : UnitHas part u x s)
    (e : t.units = s.units) : UnitHas part u x t := by
  unfold UnitHas State.unit at *
  rwa [e]

/-- A change of units that keeps the part in each of them keeps it. -/
theorem UnitHas.of_map {α : Type} {part : HwUnit → α} {u : UId} {x : α} {s t : State} (h : UnitHas part u x s)
    (g : UId × HwUnit → HwUnit) (hg : ∀ p, part (g p) = part p.2) (e : t.units = s.units.map fun p => (p.1, g p)) :
    UnitHas part u x t := by
  unfold UnitHas State.unit AL.get at *
  rw [e, find_map]
  cases hu : AL.find? s.units u with
  | none => rwa [hu] at h
  | some k =>
    rw [hu] at h
    exact (hg (u, k)).trans h

theorem UnitHas.foldl {α β : Type} {part : HwUnit → α} {u : UId} {x : α} {g : State → β → State} {l : List β}
    {s : State} (h : UnitHas part u x s) (hg : ∀ s b, UnitHas part u x s → UnitHas part u x (g s b)) : UnitHas part u x (l.foldl g s) :=
  l.foldlRecOn g h fun s hs b _ => hg s b hs

section

variable {α : Type} {part : HwUnit → α} {u : UId} {x : α} {s t : State} {c : Cur} {rid cl line : Nat} {g : Tag} {d e : Dst}
  {p : Payload}

/-- A frame copy is made without touching a unit. -/
theorem ensureCopy_unit (h : ensureCopy s rid g cl = .ok t) (v : UId) : t.unit v = s.unit v := by
  unfold ensureCopy at h
  extract_lets f at h
  split at h
  · cases h
    rfl
  · split at h
    · cases h
      rfl
    · cases h

theorem ensureCopy_unitHas (h : UnitHas part u x s) : Yields (UnitHas part u x) (ensureCopy s rid g cl) :=
  fun _ ht => (congrArg part (ensureCopy_unit ht u)).trans h

theorem post_unitHas {f : Flit} (h : UnitHas part u x s) : UnitHas part u x (Machine.post s f) := ite_of h (h.of_units rfl)

theorem postCpl_unitHas {fn a b c d : Nat} (h : UnitHas part u x s) : UnitHas part u x (postCpl s fn a b c d) :=
  h.of_units (postCpl_units s fn a b c d)

theorem tellLaunch_unitHas {cls : Nat} (h : UnitHas part u x s) : UnitHas part u x (tellLaunch s rid cls) := by
  unfold tellLaunch
  split
  · exact ite_of (postCpl_unitHas h) h
  · exact h

section

variable (hp : Steady part)
include hp

theorem landWrite_unitHas {cells : List Host.Cell} {w : Option Desc} {k : Option EncTag} (h : UnitHas part u x s) :
    UnitHas part u x (landWrite s line cells w k) := by
  cases hbm : isHbm line with
  | false => exact h.of_units (by simp [landWrite, hbm])
  | true => exact h.of_map (fun q => wakeOn line q.2) (fun q => hp.wake line q.2) (by simp [landWrite, hbm])

theorem landHeld_unitHas {q : Nat → HeldStore → Bool} (h : UnitHas part u x s) : UnitHas part u x (landHeld s line q) :=
  UnitHas.of_units (h.foldl fun _ _ h => landWrite_unitHas hp h) rfl

theorem landAll_unitHas (h : UnitHas part u x s) : UnitHas part u x (landAll s) := h.foldl fun _ _ h => landHeld_unitHas hp h

theorem drainLine_unitHas {q : Nat → HeldStore → Bool} (h : UnitHas part u x s) : UnitHas part u x (drainLine s line q) :=
  ite_of (landAll_unitHas hp (landHeld_unitHas hp h)) (landHeld_unitHas hp h)

theorem drainWhere_unitHas {q : Nat → HeldStore → Bool} (h : UnitHas part u x s) : UnitHas part u x (drainWhere s q) :=
  h.foldl fun _ _ h => drainLine_unitHas hp h

theorem visibleWrite_unitHas {cells : List Host.Cell} {w : Option Desc} {k : Option EncTag} (h : UnitHas part u x s) :
    UnitHas part u x (visibleWrite s line cells w k) :=
  landWrite_unitHas hp (ite_of (drainWhere_unitHas hp h) (drainLine_unitHas hp h))

theorem ringWrite_unitHas {q : Part} {r : BitVec 512} (h : UnitHas part u x s) : UnitHas part u x (ringWrite s q r) :=
  post_unitHas (visibleWrite_unitHas hp (visibleWrite_unitHas hp h))

theorem takeFault_unitHas {w : FaultSite} {f : Flt} (h : UnitHas part u x s) : UnitHas part u x (takeFault s w f) :=
  ite_of (postCpl_unitHas (h.of_units rfl))
    (ite_of ((tellLaunch_unitHas h).of_units rfl) (ringWrite_unitHas hp (tellLaunch_unitHas h)))

theorem dropLine_unitHas (h : UnitHas part u x s) : UnitHas part u x (dropLine s cl line) := by
  refine h.of_map
    (fun q => if q.1.cl = cl ∧ q.1.kind = .mp then { q.2 with readBuf := q.2.readBuf.filter (·.key != line) } else q.2)
    (fun q => ?_) (List.map_congr_left fun q _ => ?_)
  · split
    · exact hp.readBuf _ _
    · rfl
  · split <;> rfl

theorem commitStore_unitHas {k : LogStore} (h : UnitHas part u x s) : UnitHas part u x (commitStore s cl k) :=
  have hdrop := dropLine_unitHas hp (cl := cl) (line := k.line)
    (ite_of (c := translates s k.line = true) (landAll_unitHas hp h) (drainLine_unitHas hp h))
  ite_of (landWrite_unitHas hp hdrop) (takeFault_unitHas hp hdrop)

theorem commitCluster_unitHas (h : UnitHas part u x s) : UnitHas part u x (commitCluster s rid cl) :=
  UnitHas.of_units (h.foldl fun _ _ h => commitStore_unitHas hp h) rfl

/-- An interval that becomes irrevocable leaves the part. -/
theorem makeIrrevocable_unitHas (h : UnitHas part u x s) : UnitHas part u x (makeIrrevocable s rid) :=
  ite_of (UnitHas.of_units (h.foldl fun _ _ h => commitCluster_unitHas hp h) rfl) h

theorem logUndo_unitHas {k : Undo} (h : UnitHas part u x s) : UnitHas part u x (logUndo s rid cl k) :=
  ite_of (ite_of (makeIrrevocable_unitHas hp h) (h.of_units rfl)) h

theorem writeSlot_unitHas {slot seq : Nat} {v : Word} (h : UnitHas part u x s) :
    Yields (UnitHas part u x) (writeSlot s rid g cl slot v seq) :=
  .skip fun _ => .bind (ensureCopy_unitHas h) fun _ h1 =>
    .skip fun _ => .ok (ite_of (UnitHas.of_units (logUndo_unitHas hp h1) rfl) h1)

theorem sendTo_unitHas (h : UnitHas part u x s) : Yields (UnitHas part u x) (sendTo s c d p g) := by
  cases d with
  | arc k => exact ite_of (ite_of .error (.ok (post_unitHas h))) (.ok h)
  | slot => exact ite_of .error (writeSlot_unitHas hp h)
  | ret => exact ite_of (ite_of .error (.ok (post_unitHas h))) (.ok h)
  | term => exact .ok (post_unitHas h)
  | none => exact .ok h

theorem sendBoth_unitHas (h : UnitHas part u x s) : Yields (UnitHas part u x) (sendBoth s c d e p g) :=
  .bind (sendTo_unitHas hp h) fun _ h1 => ite_of (.ok h1) (sendTo_unitHas hp h1)

end

end

/-- Reading an operand leaves every unit. -/
theorem readSrc_unit {s t : State} {c : Cur} {a : Src} {o : Opd} (h : readSrc s c a = .ok (o, t)) (u : UId) :
    t.unit u = s.unit u := by
  cases a with
  | fs k =>
    obtain ⟨⟨v, s1⟩, h1, h⟩ := ok_of_bind h
    cases h
    obtain ⟨_, _, h1⟩ := ok_of_bind h1
    obtain ⟨s2, h2, h1⟩ := ok_of_bind h1
    obtain ⟨_, _, h1⟩ := ok_of_bind h1
    cases h1
    exact ensureCopy_unit h2 u
  | _ =>
    cases h
    rfl

section

variable {s s1 s2 t : State} {c : Cur} {n : Nd} {a b : Opd} {x y : Scalar} {op : Nat} {i : Instr} {p : Payload} {g : Tag}

/-! ### Destinations of a token -/

/-- A node whose destination can take its token under its tag sends it there. -/
theorem sendTagged_ok {d : Dst} {arg : Payload} (htag : TagOk n.t arg)
    (hd : ∀ g, tagOf s c n.t arg = .ok g → DstOk s c d g p.scaled) :
    ∃ g t, tagOf s c n.t arg = .ok g ∧ sendTo s c d (outForm n.t p) g = .ok t := by
  obtain ⟨g, hg⟩ := tagOf_ok (s := s) (c := c) htag
  obtain ⟨t, ht, _⟩ := sendTo_ok (p := outForm n.t p) (dstOk_weaken (hd g hg) (outForm_scaled rfl))
  exact ⟨g, t, hg, ht⟩

/-- Each of a list of arcs is sent a token that it can take. -/
theorem sendList_ok {l : List Dst} : ∀ {s : State}, (∀ d ∈ l, d ≠ .slot) → (∀ d ∈ l, DstOk s c d g p.scaled) →
    ∃ t, sendList s c p g l = .ok t := by
  induction l with
  | nil => exact fun {s} _ _ => ⟨s, rfl⟩
  | cons d l ih =>
    intro s hl hd
    obtain ⟨s1, h1, harcs⟩ := sendTo_ok (hd d List.mem_cons_self)
    obtain ⟨t, ht⟩ := ih (s := s1) (fun e he => hl e (List.mem_cons_of_mem d he)) fun e he =>
      dstOk_same (hd e (List.mem_cons_of_mem d he)) harcs (hl e (List.mem_cons_of_mem d he))
    exact ⟨t, by rw [sendList, h1]; exact ht⟩

/-- A fold that sends on the destinations that pass a test sends on their list. -/
theorem foldlM_eq_sendList {test : Nat → Bool} {dst : Nat → Dst} {l : List Nat} : ∀ s : State,
    l.foldlM (fun s k => if test k then sendTo s c (dst k) p g else .ok s) s = sendList s c p g ((l.filter test).map dst) := by
  induction l with
  | nil => exact fun s => rfl
  | cons k l ih =>
    intro s
    rw [List.foldlM_cons, List.filter_cons]
    by_cases hk : test k = true
    · rw [if_pos hk, if_pos hk, List.map_cons, sendList]
      cases sendTo s c (dst k) p g with
      | ok s1 => exact ih s1
      | error e => rfl
    · rw [if_neg hk, if_neg hk]
      exact ih s

/-- The arcs on which `dup` sends beside its destinations, as its meaning tests them (R203). -/
theorem dupArcs_eq (s : State) (c : Cur) (n : Nd) : dupArcs s c n = ((List.range 8).filter fun k =>
    bitAt (AL.get 0 (s.unit c.u).lits 13).toNat k && n.d != .arc (BitVec.ofNat 3 k) && n.e != .arc (BitVec.ofNat 3 k)).map
      fun k => Dst.arc (BitVec.ofNat 3 k) := by
  rw [dupArcs, List.filter_map, List.filter_filter]
  congr 2
  funext k
  simp only [Function.comp_apply, bne, beq_eq_decide, ne_eq, Bool.decide_and, decide_not]
  ac_rfl

theorem ne_slot_of_mem_dupArcs {d : Dst} (h : d ∈ dupArcs s c n) : d ≠ .slot := by
  rw [dupArcs_eq, List.mem_map] at h
  obtain ⟨k, _, rfl⟩ := h
  nofun

theorem dstOk_arcs {d : Dst} {sc : Bool} (h : DstOk s c d g sc) (ha : (t.unit c.u).arcs = (s.unit c.u).arcs)
    {k : BitVec 3} (hk : d = .arc k) : DstOk t c d g sc := by
  subst hk
  simp only [DstOk, ha] at h ⊢
  exact h

/-! ### The nodes -/

theorem switch_ends (hf : Fires s c 0x60) (hr : ReadsAB s c n a b s2) (hx : ControlOpd a x)
    (hy : asScalar b allTypes = .ok y) (hg : tagOf s2 c n.t b.pay = .ok g)
    (ht : sendTo s2 c (if truth x then n.d else n.e) (outForm n.t (.scal y)) g = .ok t) : Ends (.switch n) s c 0x60 t := by
  obtain ⟨s1, ha, hb⟩ := hr
  obtain ⟨hx, hxs⟩ := hx
  show execSwitch n s = _
  refine runNode_ok hf.1 hf.2 ?_
  simp only [ha, hb, hx, hy, clearOf, hxs, hg, need, bind, Except.bind]
  exact ht

theorem gate_ends (hf : Fires s c 0x63) (hr : ReadsAB s c n a b s2) (hx : asScalar a allTypes = .ok x) (hxs : x.sc = false)
    (hy : asScalar b allTypes = .ok y) (ht : finish s2 c n b.pay (.scal y) = .ok t) : Ends (.gate n) s c 0x63 t := by
  obtain ⟨s1, ha, hb⟩ := hr
  show execGate n s = _
  refine runNode_ok hf.1 hf.2 ?_
  simp only [ha, hb, hx, hy, clearOf, hxs, need, bind, Except.bind]
  exact ht

theorem sink_ends (hf : Fires s c 0x64) (hr : ReadsAB s c n a b s2) : Ends (.sink n) s c 0x64 s2 := by
  obtain ⟨s1, ha, hb⟩ := hr
  show execSink n s = _
  refine runNode_ok hf.1 hf.2 ?_
  simp only [ha, hb, bind, Except.bind]
  rfl

/-- The token that reached a `merge` leaves as it arrived (R202). -/
theorem merge_ends {q : Payload} (hf : Fires s c 0x61) (hq : c.f.l = some q ∨ c.f.l = none ∧ c.f.r = some q)
    (ht : finish s.base c n q.clean q.clean = .ok t) : Ends (.merge n) s c 0x61 t := by
  have htoken : (c.f.l <|> c.f.r) = some q := by
    rcases hq with h | ⟨h, h'⟩
    · rw [h]
      rfl
    · rw [h, h']
      rfl
  show execMerge n s = _
  refine runNode_ok hf.1 hf.2 ?_
  simp only [htoken, Option.getD_some]
  exact ht

/-- `dup` reads its mask where the first two tokens have left, which is as it was (R203). -/
theorem dup_ends {t1 : State} (hf : Fires s c 0x62) (ha : ReadsA s c n a s1) (hx : asScalar a allTypes = .ok x)
    (hg : tagOf s1 c n.t (plain 0 .i64) = .ok g) (h1 : sendBoth s1 c n.d n.e (outForm n.t (.scal x)) g = .ok t1)
    (ht : sendList t1 c (outForm n.t (.scal x)) g (dupArcs s c n) = .ok t) : Ends (.dup n) s c 0x62 t := by
  have hlits : (t1.unit c.u).lits = (s.unit c.u).lits :=
    (sendBoth_unitHas steady_lits rfl t1 h1).trans (congrArg HwUnit.lits (readSrc_unit ha c.u))
  show execDup n s = _
  refine runNode_ok hf.1 hf.2 ?_
  simp only [ha, hx, hg, h1, hlits, bind, Except.bind]
  exact (foldlM_eq_sendList t1).trans (dupArcs_eq s c n ▸ ht)

/-- Where `steer` sends its token: on the arc that A numbers, if it is one of the 8 and valid, else on destination 0 (R205). -/
theorem steer_ends {d : Dst} (hf : Fires s c 0x66) (hr : ReadsAB s c n a b s2)
    (hx : asScalar a [.i32, .i64, .u64, .control] = .ok x) (hxs : x.sc = false) (hy : asScalar b allTypes = .ok y)
    (hg : tagOf s2 c n.t b.pay = .ok g)
    (hd : d = if steerValue x < 8 ∧ Arc.valid (AL.get 0 (s2.unit c.u).arcs (steerValue x)) = true
      then .arc (BitVec.ofNat 3 (steerValue x)) else n.d)
    (ht : sendTo s2 c d (outForm n.t (.scal y)) g = .ok t) : Ends (.steer n) s c 0x66 t := by
  obtain ⟨s1, ha, hb⟩ := hr
  show execSteer n s = _
  refine runNode_ok hf.1 hf.2 ?_
  simp only [ha, hb, hx, hy, clearOf, hxs, hg, need, bind, Except.bind, if_true, Bool.not_false, ← hd]
  exact ht

theorem steerValue_eq (x : Scalar) : steerValue x = if x.ty = .i32 then (x.val.setWidth 32).toNat else x.val.toNat := by
  rw [steerValue, BitVec.toNat_setWidth]

end

/-- Settles O11: each node's destinations can take its token, and its meaning sends the token there and nowhere else. -/
theorem graphControlRoutesTokens : Obligations.GraphControlRoutesTokens := by
  refine ⟨?switch, ?merge, ?dup, fun n => ?gate, fun n s c a b s2 hf hr => sink_ends hf hr, ?steer⟩
  case switch =>
    intro n s c a b s2 x y hf hr hx hy htag hd
    obtain ⟨g, t, hg, ht⟩ := sendTagged_ok (d := if truth x then n.d else n.e) (p := .scal y) htag fun g hg => by
      obtain ⟨hthen, helse⟩ := hd g hg
      by_cases h : truth x = true
      · rw [if_pos h]
        exact hthen ((truth_iff x).1 h)
      · rw [if_neg h]
        exact helse (h ∘ (truth_iff x).2)
    refine ⟨g, t, hg, fun h => ?_, fun h => ?_, switch_ends hf hr hx hy hg ht⟩
    · rwa [if_pos ((truth_iff x).2 h)] at ht
    · rwa [if_neg (h ∘ (truth_iff x).1)] at ht
  case merge =>
    intro n s c q hf hq p hemit
    obtain ⟨t, ht⟩ := finish_ok hemit
    exact ⟨t, ht, merge_ends hf hq ht⟩
  case dup =>
    intro n s c a s1 x hf ha hx htag hd
    obtain ⟨g, hg⟩ := tagOf_ok (s := s1) (c := c) htag
    have hdst : ∀ d ∈ n.d :: n.e :: dupArcs s c n, DstOk s1 c d g (outForm n.t (.scal x)).scaled :=
      fun d hmem => dstOk_weaken (hd d hmem g hg) (outForm_scaled (p := .scal x) rfl)
    obtain ⟨t1, h1⟩ := sendBoth_ok (hdst n.d (by simp)) (hdst n.e (by simp))
    obtain ⟨t, ht⟩ := sendList_ok (s := t1) (l := dupArcs s c n) (fun d => ne_slot_of_mem_dupArcs) fun d hmem => by
      obtain ⟨k, _, hk⟩ := List.mem_map.1 (dupArcs_eq s c n ▸ hmem)
      exact dstOk_arcs (hdst d (by simp [hmem])) (sendBoth_unitHas steady_arcs rfl t1 h1) hk.symm
    exact ⟨g, t1, t, hg, h1, ht, dup_ends hf ha hx hg h1 ht⟩
  case gate =>
    rintro s c a b s1 s2 hc hm ha hb ⟨⟨x, hx, hxs⟩, y, hy⟩ hemit
    obtain ⟨t, ht⟩ := finish_ok (p := .scal y) (hemit y hy)
    exact ⟨y, t, hy, ht, gate_ends ⟨hc, hm⟩ ⟨s1, ha, hb⟩ hx hxs hy ht⟩
  case steer =>
    intro n s c a b s2 x y hf hr hx hxs hy htag v d hd
    obtain ⟨g, t, hg, ht⟩ := sendTagged_ok (d := d) (p := .scal y) htag hd
    exact ⟨g, t, hg, ht, steer_ends hf hr hx hxs hy hg (by rw [steerValue_eq]) ht⟩

section

variable {s s1 s2 s3 t : State} {c : Cur} {n : Nd} {a b : Opd} {x y : Scalar} {p : Payload} {g : Tag} {rid die fr cl : Nat}

/-! ### Frames while tokens are sent -/

/-- An undo entry, even one that finds no room, leaves every frame (R361). -/
theorem logUndo_frames (s : State) (rid cl : Nat) (u : Undo) : (logUndo s rid cl u).frames = s.frames := by
  unfold logUndo
  split
  · split
    · exact (SamePlaces.makeIrrevocable s rid).frames
    · rfl
  · rfl

theorem frame_changeFrame (s : State) (rid cl : Nat) (g : Tag) (f : Frame) (r d k : Nat) :
    (changeFrame s rid cl g f).frame r d k = if (rid, g.die, g.frame) = (r, d, k) then f else s.frame r d k := by
  rw [changeFrame, frame_setFrame]
  simp only [State.frame, logUndo_frames]

theorem frameAt_changeFrame (s : State) (rid cl : Nat) (g : Tag) (f : Frame) : frameAt (changeFrame s rid cl g f) rid g = f := by
  rw [frameAt, frame_changeFrame, if_pos rfl]

/-- A cluster that is to hold a copy of a frame holds one (R51). -/
theorem mem_copies_ensureCopy (h : ensureCopy s rid g cl = .ok t) : cl ∈ (frameAt t rid g).copies := by
  unfold ensureCopy at h
  extract_lets f at h
  split at h
  next hk =>
    cases h
    exact List.contains_iff_mem.1 hk
  · split at h
    · cases h
      rw [frameAt, frame_setFrame, if_pos rfl]
      exact List.mem_append_right _ (List.mem_singleton_self cl)
    · cases h

/-- Where a cluster has its copy of a frame, making sure of a copy leaves that frame. -/
theorem frame_ensureCopy {r d k : Nat} (h : ensureCopy s rid g cl = .ok t) (hc : cl ∈ (s.frame r d k).copies) :
    t.frame r d k = s.frame r d k := by
  unfold ensureCopy at h
  extract_lets f at h
  split at h
  · cases h
    rfl
  next hk =>
    split at h
    · cases h
      rw [frame_setFrame]
      split
      next e =>
        simp only [Prod.mk.injEq] at e
        obtain ⟨rfl, rfl, rfl⟩ := e
        exact absurd (List.contains_iff_mem.2 hc) hk
      next => rfl
    · cases h

/-- A frame with a copy at the sending cluster keeps its header and its copies while that cluster sends tokens (R51, R52). -/
theorem sendTo_keepsFrame {d : Dst} {r e k : Nat} (h : sendTo s c d p g = .ok t) (hc : c.u.cl ∈ (s.frame r e k).copies) :
    frameHeader (t.frame r e k) = frameHeader (s.frame r e k) ∧ (t.frame r e k).copies = (s.frame r e k).copies := by
  by_cases hd : d = .slot
  · subst hd
    simp only [sendTo] at h
    split at h
    · cases h
    · obtain ⟨_, _, h⟩ := ok_of_bind h
      obtain ⟨s1, h1, h⟩ := ok_of_bind h
      obtain ⟨_, _, h⟩ := ok_of_bind h
      have hs1 := frame_ensureCopy h1 hc
      cases h
      rw [← hs1]
      split
      · rw [frame_changeFrame]
        split
        next e =>
          simp only [Prod.mk.injEq] at e
          obtain ⟨rfl, rfl, rfl⟩ := e
          exact ⟨rfl, rfl⟩
        next => exact ⟨rfl, rfl⟩
      · exact ⟨rfl, rfl⟩
  · obtain ⟨hframes, _, _⟩ := sendTo_frames h hd
    simp only [State.frame, hframes, and_self]

/-! ### Calls -/

/-- The frame that a call makes (R50, R209). -/
theorem frame_newFrame (s : State) (rid die fr cl : Nat) (join : Word) (retarc : BitVec 32) (rettag : Tag) (retRid : Nat) :
    (newFrame s rid die fr cl join retarc rettag retRid).frame rid die fr =
      { Frame.none with st := .live, join, retarc, rettag, recur := (s.region rid).recursive, retRid, copies := [cl] } := by
  rw [newFrame, frame_setFrame, if_pos rfl]

/-- With the budget open a firing takes the lowest frame that is free (R50, R53). -/
theorem frameToTake_ok (hb : framesUsed s rid die < frameBudget (s.region rid)) (hfr : fr < 4096)
    (hfree : (s.frame rid die fr).st = .free) (hl : ∀ k, k < fr → (s.frame rid die k).st ≠ .free) :
    frameToTake s rid die = .ok (some fr) := by
  have hfind : (List.range 4096).find? (fun k => (s.frame rid die k).st == .free) = some fr :=
    find_range_least hfr (beq_iff_eq.2 hfree) fun k hk => beq_eq_false_iff_ne.2 (hl k hk)
  rw [frameToTake, if_pos hb, lowestFree, hfind, Option.getD_some]

/-- The two arguments of a call leave for its new frame (R209). -/
theorem sendArguments_ok {d e : Dst} {x y : Scalar} (hx : x.sc = false) (hy : y.sc = false) (hd : DstOk s c d g false)
    (he : DstOk s c e g false) : ∃ s1 t, sendTo s c d (.scal x) g = .ok s1 ∧
      if e = d then t = s1 else sendTo s1 c e (.scal y) g = .ok t := by
  obtain ⟨s1, h1, harcs⟩ := sendTo_ok (p := .scal x) (dstOk_weaken hd (.inl hx))
  by_cases hde : e = d
  · exact ⟨s1, s1, h1, (if_pos hde).mpr rfl⟩
  · obtain ⟨t, ht, _⟩ := sendTo_ok (p := .scal y) (dstOk_weaken (dstOk_sendTo h1 harcs hde he) (.inl hy))
    exact ⟨s1, t, h1, (if_neg hde).mpr ht⟩

/-- A frame with a copy at the calling cluster keeps its header and its copies while the arguments leave. -/
theorem sendArguments_keepsFrame {d e : Dst} {q : Payload} {r k m : Nat} (h1 : sendTo s c d p g = .ok s1)
    (h : if e = d then t = s1 else sendTo s1 c e q g = .ok t) (hc : c.u.cl ∈ (s.frame r k m).copies) :
    frameHeader (t.frame r k m) = frameHeader (s.frame r k m) ∧ (t.frame r k m).copies = (s.frame r k m).copies := by
  obtain ⟨hh, hcopies⟩ := sendTo_keepsFrame h1 hc
  split at h
  · rw [h]
    exact ⟨hh, hcopies⟩
  · obtain ⟨hh', hcopies'⟩ := sendTo_keepsFrame h (hcopies ▸ hc)
    exact ⟨hh'.trans hh, hcopies'.trans hcopies⟩

/-- A call that may take a frame is its emission there (R209). -/
theorem call_ends {callee : Nat} (hf : Fires s c 0x74) (hcallee : calleeOf s.base c = some callee) (hr : ReadsAB s c n a b s2)
    (hx : asScalar a allTypes = .ok x) (hxs : x.sc = false) (hy : asScalar b allTypes = .ok y) (hys : y.sc = false)
    (htake : frameToTake s2 callee (dieOf c.u.cl) = .ok (some fr)) (hroom : copyRoom s2 c.u.cl = true)
    (ht : callEmit s2 c n (.scal x) (.scal y) callee fr = .ok t) : Ends (.call n) s c 0x74 t := by
  obtain ⟨s1, ha, hb⟩ := hr
  show execCall n s = _
  refine runNode_ok hf.1 hf.2 ?_
  simp only [hcallee, ha, hb, scalarU_ok hx hxs, scalarU_ok hy hys, htake, hroom, needWait, bind, Except.bind]
  exact ht

theorem call_faults (hf : Fires s c 0x74) (hcallee : calleeOf s.base c = none) :
    Faults (.call n) s c 0x74 n .callTarget (bits (AL.get 0 (s.unit c.u).lits 13).toNat 31 16) := by
  show execCall n s = _
  refine runNode_faults hf.1 hf.2 ?_ nofun ⟨nofun, nofun⟩
  simp only [hcallee]
  rfl

/-! ### Broadcasts -/

/-- Keys of a list that are all given one value read as it. -/
theorem get_foldl_set {α β γ : Type} [DecidableEq β] (d v : γ) (key : α → β) (l : List α) :
    ∀ (m : AL β γ) (k : β), (k ∈ l.map key ∨ AL.get d m k = v) →
      AL.get d (l.foldl (fun m a => AL.set m (key a) v) m) k = v := by
  induction l with
  | nil => exact fun m k h => h.resolve_left List.not_mem_nil
  | cons a l ih =>
    intro m k h
    refine ih _ k ?_
    rw [get_set]
    by_cases hk : key a = k
    · exact .inr (if_pos hk)
    · rw [if_neg hk]
      refine h.imp_left fun hmem => ?_
      exact (List.mem_cons.1 hmem).resolve_left (Ne.symm hk)

/-- A cluster that has a copy of a frame, or room for one, comes to hold it (R51). -/
theorem ensureCopy_of_copyOk (h : CopyOk s rid g cl) : ∃ t, ensureCopy s rid g cl = .ok t := by
  unfold ensureCopy
  by_cases hk : (frameAt s rid g).copies.contains cl = true
  · exact ⟨s, if_pos hk⟩
  · exact ⟨_, (if_neg hk).trans (if_pos (h.2.resolve_left hk))⟩

/-- What `fbcast` leaves in the firing's frame: its slot in every copy, this cluster's among them, and in those that will be
made (R52). -/
theorem broadcastSlot_ok (v : Word) (h : CopyOk s c.f.rid c.f.tag c.u.cl) :
    ∃ t, broadcastSlot s c v = .ok t ∧ c.u.cl ∈ (frameAt t c.f.rid c.f.tag).copies ∧
      (∀ cl ∈ (frameAt t c.f.rid c.f.tag).copies,
        AL.get 0 (frameAt t c.f.rid c.f.tag).slots (cl, bits (AL.get 0 (s.unit c.u).lits 12).toNat 6 0) = v) ∧
      AL.find? (frameAt t c.f.rid c.f.tag).bcast (bits (AL.get 0 (s.unit c.u).lits 12).toNat 6 0) = some v := by
  obtain ⟨s1, h1⟩ := ensureCopy_of_copyOk h
  refine ⟨_, by simp only [broadcastSlot, needLive_ok h.1, h1, bind, Except.bind]; rfl, ?_⟩
  rw [frameAt_changeFrame, ensureCopy_unit h1]
  refine ⟨List.mem_append_left _ (mem_copies_ensureCopy h1), fun cl hcl => ?_, ?_⟩
  · exact get_foldl_set 0 v (fun cl => (cl, _)) _ _ _ (.inl (List.mem_map_of_mem hcl))
  · rw [find_set, if_pos rfl]

theorem fbcast_ends {s' : State} (hf : Fires s c 0x76) (ha : ReadsA s c n a s1) (hx : asScalar a allTypes = .ok x)
    (hxs : x.sc = false) (hs : broadcastSlot s1 c x.val = .ok s') (ht : Says s' c n 0 .control t) :
    Ends (.fbcast n) s c 0x76 t := by
  show execFbcast n s = _
  refine runNode_ok hf.1 hf.2 ?_
  simp only [ha, scalarU_ok hx hxs, hs, bind, Except.bind]
  exact ht

end

/-- Settles O15: a call takes the lowest free frame, whose header and copy its arguments leave; a broadcast writes its slot in
every copy; `tagv` only sends. -/
theorem callBroadcastAndTag : Obligations.CallBroadcastAndTag := by
  refine ⟨?call, fun n s c hf hc => call_faults hf hc, ?fbcast, ?tagv⟩
  case call =>
    intro n s c callee a b s2 x y fr hf hcallee hr hx hxs hy hys hbudget hroom hfr hfree hleast die back s3 c' hd he
    obtain ⟨s4, t, h4, ht⟩ := sendArguments_ok hxs hys hd he
    have hframe : s3.frame callee die fr = { Frame.none with
        st := .live, join := 0, retarc := back, rettag := c.f.tag, recur := (s2.region callee).recursive, retRid := c.f.rid,
        copies := [c.u.cl] } := frame_newFrame _ _ _ _ _ _ _ _ _
    have hemit : callEmit s2 c n (.scal x) (.scal y) callee fr = .ok t := by
      show (sendTo s3 c' n.d (.scal x) (Tag.mk die fr 0) >>= fun s =>
        if n.e = n.d then pure s else sendTo s c' n.e (.scal y) (Tag.mk die fr 0)) = _
      rw [h4]
      by_cases hde : n.e = n.d
      · exact (if_pos hde).trans (congrArg _ ((if_pos hde).mp ht).symm)
      · exact (if_neg hde).trans ((if_neg hde).mp ht)
    obtain ⟨hheader, hcopies⟩ := sendArguments_keepsFrame h4 ht (r := callee) (k := die) (m := fr) (by
      rw [hframe]
      exact List.mem_singleton_self c.u.cl)
    rw [hframe] at hheader hcopies
    exact ⟨s4, t, h4, ht, call_ends hf hcallee hr hx hxs hy hys (frameToTake_ok hbudget hfr hfree hleast) hroom hemit,
      (congrArg Frame.st hheader :), (congrArg Frame.join hheader :), (congrArg Frame.rettag hheader :), hcopies,
      (congrArg Frame.retarc hheader :)⟩
  case fbcast =>
    intro n s c a s1 x hf ha hx hxs hcopy hsay
    obtain ⟨s', hs, hmem, hslots, hbcast⟩ := broadcastSlot_ok x.val hcopy
    obtain ⟨t, ht⟩ := finish_ok (p := plain (BitVec.ofNat 64 0) .control) (hsay s' hs)
    exact ⟨s', t, hs, hslots, hmem, hbcast, ht, fbcast_ends hf ha hx hxs hs ht⟩
  case tagv =>
    intro n s c hf hsay
    obtain ⟨t, ht⟩ := finish_ok (p := plain (BitVec.ofNat 64 c.f.tag.toNat) .i64) hsay
    refine ⟨t, ht, ?_⟩
    show execTagv n s = _
    exact runNode_ok hf.1 hf.2 ht

end Sys2Proof.Proofs

/-! ## Memory-port accesses

How a memory-port node issues its access and where its pointer faults (O16, O17), and how a scalar load types its bytes (O20). -/

namespace Sys2Proof.Proofs

open Sys2Proof Sys2Proof.Machine Sys2Proof.Laws

/-! ### The access of a node -/

/-- Every access but a stream is made by the one meaning of memory-port nodes (R214). -/
theorem exec_memForm {i : Instr} {m : MemForm} (h : memForm i = some m) (hk : m.kind ≠ .stream) (s : State) :
    exec i s = nodeMem m i s := by
  unfold memForm at h
  split at h
  case h_26 => cases h; exact absurd rfl hk
  case h_27 => cases h
  all_goals cases h; rfl

/-- The kinds of access that drop the read buffers of their cluster as they issue (R136). -/
def dropFor (k : MemKind) (s : State) (cl : Nat) : State :=
  if k = .loadAcq true ∨ k = .loadAcq false then dropBuffers s cl else s

/-- The kinds of access that make their logged interval irrevocable as they issue (R252). -/
def commitFor (k : MemKind) (s : State) (rid : Nat) : State := if k matches .atom _ _ then makeIrrevocable s rid else s

/-- The state with an access at the end of its port's queue, its operands read (R215). -/
def queueAccess (s : State) (c : Cur) (i : Instr) (x : Scalar) (y : Payload) : State :=
  s.fresh.2.modUnit c.u fun h => { h with access := h.access ++
    [⟨s.nextId, i, { c.f with l := some (.scal x), r := some y }, .queued, none, none, false, 0⟩] }

theorem dropFor_matches (k : MemKind) (s : State) (cl : Nat) :
    (if k matches .loadAcq _ then dropBuffers s cl else s) = dropFor k s cl := by
  cases k with
  | loadAcq w => cases w <;> rfl
  | _ => rfl

/-- No access both drops the read buffers and makes its interval irrevocable. -/
theorem commitFor_dropFor (k : MemKind) (s : State) (rid cl : Nat) :
    commitFor k (dropFor k s cl) rid = dropFor k (commitFor k s rid) cl := by
  cases k <;> rfl

section

variable {s s2 : State} {c : Cur} {i : Instr} {m : MemForm} {x : Scalar} {y : Payload}

/-- The check of a pointer at issue: steps 2 to 4 of Table 08-1, of which a prefetch takes the first (R226). -/
def pointerCheck (s : State) (c : Cur) (k : MemKind) (v : Nat) : Res Unit :=
  if k = .prefetch then need (formOf s c.u.cl v).isSome .address 0 v
  else (checkPointer s c.u c.f.rid v k.size k.size).map fun _ => ()

theorem pointerCheck_ok (h : PointerOk s c m x.val.toNat) : pointerCheck s c m.kind x.val.toNat = .ok () := by
  unfold PointerOk at h
  unfold pointerCheck
  split at h
  next hk => rw [if_pos hk, h]; rfl
  next hk =>
    obtain ⟨g, hg⟩ := h
    rw [if_neg hk, hg]
    rfl

/-- What an issue comes to once the operands are checked: the pointer's check, and then an entry of the queue (R214). -/
theorem issueAccess_eq (h : MemOperands s c m s2 x y) :
    issueAccess s.base c m i = (do
      pointerCheck s2 c m.kind x.val.toNat
      needWait (accessRoom (s2.unit c.u))
      return queueAccess (dropFor m.kind (commitFor m.kind s2 c.f.rid) c.u.cl) c i x y) := by
  obtain ⟨a, b, s1, ha, hb, hx, hsc, hy, ho, he⟩ := h
  have hclear : clearOf x = .ok () := by rw [clearOf, hsc]; rfl
  rw [← commitFor_dropFor, ← dropFor_matches]
  unfold pointerCheck issueAccess
  by_cases hk : m.kind = .prefetch
  · simp only [ha, hb, hx, hy, ho, he, hclear, if_pos hk, bind, Except.bind]
    rfl
  · simp only [ha, hb, hx, hy, ho, he, hclear, if_neg hk, bind, Except.bind]
    rfl

/-- A pointer whose check faults takes the fault (R13, R214). -/
theorem access_faults {cause : Cause} {v : Nat} (hm : memForm i = some m) (hk : m.kind ≠ .stream) (hf : Fires s c m.op)
    (ho : MemOperands s c m s2 x y) (h : pointerCheck s2 c m.kind x.val.toNat = flt cause 0 v)
    (hmask : cause ≠ .featureMasked) (hmem : cause ≠ .poolError ∧ cause ≠ .memError) :
    FaultsAt i s c m.op m.n cause v := by
  refine (exec_memForm hm hk s).trans (runNode_faults hf.1 hf.2 ?_ hmask hmem)
  rw [issueAccess_eq ho, h]
  rfl

/-- A pointer that passes its checks brings its access into the queue (R214, R215). -/
theorem access_ends (hm : memForm i = some m) (hk : m.kind ≠ .stream) (hf : Fires s c m.op) (ho : MemOperands s c m s2 x y)
    (hp : PointerOk s2 c m x.val.toNat) (hr : accessRoom (s2.unit c.u) = true) :
    Ends i s c m.op (queueAccess (dropFor m.kind (commitFor m.kind s2 c.f.rid) c.u.cl) c i x y) := by
  refine (exec_memForm hm hk s).trans (runNode_ok hf.1 hf.2 ?_)
  rw [issueAccess_eq ho, pointerCheck_ok hp, hr]
  rfl

end

/-! ### What an issue leaves in place -/

/-- A cluster's read buffers go, and nothing else of its units does (R136). -/
theorem unit_dropBuffers (s : State) (cl : Nat) (u : UId) : (dropBuffers s cl).unit u =
    if u.cl = cl ∧ u.kind = .mp then { s.unit u with readBuf := [] } else s.unit u := by
  have hmap : (dropBuffers s cl).units =
      s.units.map fun p => (p.1, if p.1.cl = cl ∧ p.1.kind = .mp then { p.2 with readBuf := [] } else p.2) := by
    refine List.map_congr_left fun p _ => ?_
    split <;> rfl
  unfold State.unit AL.get
  rw [hmap, find_map]
  cases AL.find? s.units u with
  | none => exact (ite_self _).symm
  | some h => rfl

/-- Only the units may change. -/
theorem dropFor_units (k : MemKind) (s : State) (cl : Nat) :
    dropFor k s cl = { s with units := (dropFor k s cl).units } := by
  unfold dropFor
  split <;> rfl

/-- Of a unit only its read buffer may change. -/
theorem dropFor_unit (k : MemKind) (s : State) (cl : Nat) (u : UId) :
    { (dropFor k s cl).unit u with readBuf := [] } = { s.unit u with readBuf := [] } := by
  have hdrop : { (dropBuffers s cl).unit u with readBuf := [] } = { s.unit u with readBuf := [] } := by
    rw [unit_dropBuffers]
    split <;> rfl
  unfold dropFor
  split
  · exact hdrop
  · rfl

theorem dropFor_readBuf (k : MemKind) (s : State) (cl : Nat) (u : UId) : ((dropFor k s cl).unit u).readBuf =
    if (k = .loadAcq true ∨ k = .loadAcq false) ∧ u.cl = cl ∧ u.kind = .mp then [] else (s.unit u).readBuf := by
  unfold dropFor
  split
  next hk =>
    rw [dropBuffers_readBuf]
    simp only [hk, true_and]
  next hk => rw [if_neg fun h => hk h.1]

/-- The access queue of the port takes the access, and the port otherwise stays (R215). -/
theorem queueAccess_unit (s : State) (c : Cur) (i : Instr) (x : Scalar) (y : Payload) (u : UId) :
    (queueAccess s c i x y).unit u = if c.u = u then { s.unit c.u with access := (s.unit c.u).access ++
      [⟨s.nextId, i, { c.f with l := some (.scal x), r := some y }, .queued, none, none, false, 0⟩] } else s.unit u := by
  rw [queueAccess, unit_modUnit]
  rfl

/-- An entry joins the access queue of a unit, and of the units the read buffers may change besides. -/
structure Enqueued (s t : State) (u : UId) (a : Access) : Prop where
  access : (t.unit u).access = (s.unit u).access ++ [a]
  others : ∀ v, v ≠ u → { t.unit v with readBuf := [] } = { s.unit v with readBuf := [] }
  own : { t.unit u with readBuf := [], access := [] } = { s.unit u with readBuf := [], access := [] }

theorem queueAccess_enqueued (k : MemKind) (s : State) (c : Cur) (i : Instr) (x : Scalar) (y : Payload) :
    Enqueued s (queueAccess (dropFor k s c.u.cl) c i x y) c.u
      ⟨s.nextId, i, { c.f with l := some (.scal x), r := some y }, .queued, none, none, false, 0⟩ where
  access := by
    have hid : (dropFor k s c.u.cl).nextId = s.nextId := by rw [dropFor_units]
    have haccess : ((dropFor k s c.u.cl).unit c.u).access = (s.unit c.u).access :=
      (congrArg HwUnit.access (dropFor_unit k s c.u.cl c.u) :)
    rw [queueAccess_unit, if_pos rfl, hid, haccess]
  others v hv := by
    rw [queueAccess_unit, if_neg (Ne.symm hv)]
    exact dropFor_unit k s c.u.cl v
  own := by
    rw [queueAccess_unit, if_pos rfl]
    exact congrArg (fun h : HwUnit => { h with access := [] }) (dropFor_unit k s c.u.cl c.u)

theorem queueAccess_readBuf (s : State) (c : Cur) (i : Instr) (x : Scalar) (y : Payload) (u : UId) :
    ((queueAccess s c i x y).unit u).readBuf = (s.unit u).readBuf := by
  rw [queueAccess_unit]
  split
  next h => rw [h]
  next => rfl

/-- Outside the units an issue only takes a number. -/
theorem queueAccess_eq (k : MemKind) (s : State) (c : Cur) (i : Instr) (x : Scalar) (y : Payload) :
    queueAccess (dropFor k s c.u.cl) c i x y =
      { s with nextId := s.nextId + 1, units := (queueAccess (dropFor k s c.u.cl) c i x y).units } := by
  unfold dropFor
  split <;> rfl

/-- Settles O16: an issue whose checks pass ends in the entry of the queue; of the units only that entry and the read buffers
change. -/
theorem memoryPortAccessTakesAQueueEntry : Obligations.MemoryPortAccessTakesAQueueEntry := by
  constructor
  case left =>
    intro n sc b w i m h
    exact (List.forall_iff_forall_mem (p := fun p : Instr × MemForm => memForm p.1 = some p.2)).mp (by simp [memForm]) _ h
  case right =>
    intro i m s c s2 x y hm hk hf ho hp hr s3
    have hqueued := queueAccess_enqueued m.kind s3 c i x y
    have heq := queueAccess_eq m.kind s3 c i x y
    refine ⟨_, access_ends hm hk hf ho hp hr, hqueued.access, ?device, ?memory, ?net, ?frames, ?clusters, hqueued.others,
      hqueued.own, fun u => (queueAccess_readBuf _ c i x y u).trans (dropFor_readBuf m.kind s3 c.u.cl u)⟩
    case device => exact heq ▸ ⟨rfl, rfl, rfl, rfl, rfl, rfl, rfl, rfl, rfl, rfl⟩
    case memory => exact heq ▸ ⟨rfl, rfl, rfl, rfl⟩
    case net => exact (congrArg State.net heq :)
    case frames => exact (congrArg State.frames heq :)
    case clusters => exact (congrArg State.clusters heq :)

/-! ### Pointers that fault -/

section

variable {s : State} {c : Cur} {k : MemKind} {v : Nat}

/-- A pointer of no form is an address fault, of a prefetch too (R102, R226). -/
theorem pointerCheck_noForm (h : formOf s c.u.cl v = none) : pointerCheck s c k v = flt .address 0 v := by
  unfold pointerCheck checkPointer
  rw [h]
  exact ite_self _

/-- The address or the pool offset of a pointer, which its alignment concerns (R121). -/
def formPlace : Form → Nat
  | .virt a => a
  | .pool _ off => off

theorem pointerCheck_misaligned {g : Form} (hk : k ≠ .prefetch) (h : formOf s c.u.cl v = some g)
    (ha : formPlace g % k.size ≠ 0) : pointerCheck s c k v = flt .alignment 0 v := by
  have hneed : need (formPlace g % k.size == 0) .alignment 0 v = flt .alignment 0 v := by
    rw [need, if_neg (by simpa using ha)]
  unfold pointerCheck checkPointer
  rw [if_neg hk, h]
  cases g with
  | virt | pool =>
    simp only [formPlace] at hneed
    simp only [hneed]
    rfl

/-- An aligned pointer beyond the scratchpad class is an address fault (R103). -/
theorem pointerCheck_beyondPad {cl off : Nat} (hk : k ≠ .prefetch) (h : formOf s c.u.cl v = some (.pool cl off))
    (ha : off % k.size = 0) (hpad : padSize s cl < off + k.size) : pointerCheck s c k v = flt .address 0 v := by
  unfold pointerCheck checkPointer poolTarget
  rw [if_neg hk, h]
  simp [need, ha, Nat.not_le.mpr hpad, flt, bind, Except.bind, Except.map]

end

/-- Settles O17: each fault is the first that the pointer's check finds. -/
theorem pointerChecksFaultInOrder : Obligations.PointerChecksFaultInOrder := by
  intro i m s c s2 x y hm hk hf ho v
  have hfault := fun {cause} (h : pointerCheck s2 c m.kind v = flt cause 0 v) => access_faults hm hk hf ho h
  exact ⟨fun h => hfault (pointerCheck_noForm h) nofun ⟨nofun, nofun⟩, fun hpf =>
    ⟨fun a h ha => hfault (pointerCheck_misaligned hpf h ha) nofun ⟨nofun, nofun⟩,
      fun cl off h ha => hfault (pointerCheck_misaligned hpf h ha) nofun ⟨nofun, nofun⟩,
      fun cl off h ha hpad => hfault (pointerCheck_beyondPad hpf h ha hpad) nofun ⟨nofun, nofun⟩⟩⟩

/-! ### Scalar loads -/

/-- The low bits of a number, read as signed, are those bits with the sign extended. -/
theorem ofNat_truncInt_toSigned {k : Nat} (hk : 0 < k) (v : Nat) :
    BitVec.ofNat 64 (truncInt 64 (toSigned k v)) = (BitVec.ofNat k v).signExtend 64 := by
  rw [truncInt_eq, toSigned_eq hk]
  rfl

/-- A doubleword has the packed type that its line's format declares (Table 08-3). -/
theorem loadToken_wide (fmt v : Nat) : loadToken (.load 8 false) fmt v = plain (BitVec.ofNat 64 v)
    (if fmt = 0x01 then .i8x8 else if fmt = 0x02 then .i16x4 else if fmt = 0x05 then .bf16x4 else if fmt = 0x07 then .e4x8
      else if fmt = 0x08 then .e5x8 else if fmt = 0x09 ∨ fmt = 0x10 then .qn4x16 else .i64) := by
  refine congrArg (plain (BitVec.ofNat 64 v)) ?_
  split
  case h_8 _ h1 h2 h5 h7 h8 h9 h10 =>
    rw [if_neg h1, if_neg h2, if_neg h5, if_neg h7, if_neg h8, if_neg (not_or.mpr ⟨h9, h10⟩)]
  all_goals rfl

/-- Settles O20: row by row of Table 08-3. -/
theorem scalarLoadsExtendAndTypeTheirBytes : Obligations.ScalarLoadsExtendAndTypeTheirBytes := by
  intro fmt v
  refine ⟨?signed, ?unsigned, rfl, rfl, ?wide, rfl⟩
  case signed =>
    rintro n (rfl | rfl | rfl)
    all_goals exact congrArg (plain · .i64) (ofNat_truncInt_toSigned (by decide) v)
  case unsigned =>
    rintro n (rfl | rfl)
    all_goals rfl
  case wide =>
    rintro k (rfl | rfl)
    all_goals exact loadToken_wide fmt v

end Sys2Proof.Proofs

/-! ## Accesses of a region listed twice

Loads, stores and atomics that are performed at once (O19, O21, O23): each statement gives the next state as the effect of the access
and its tokens, and the step also discards what is held of a region that the list of regions has a second time as one that ends. -/

namespace Sys2Proof.Proofs

open Sys2Proof Sys2Proof.Machine Sys2Proof.Laws

/-- An access of region 5 to the first word of its cluster's pool. -/
def poolAccess (i : Instr) : Access := queueEntry i (0xFC * 2 ^ 56) 7 .queued 0

/-- The device in which the access is performed while region 5 is listed twice. -/
def accessing (i : Instr) : State := listedTwice false Cluster.empty (poolAccess i)

theorem accessing_performs {i : Instr} {m : MemForm} (hm : memForm i = some m)
    (ht : accessTarget (accessing i) port0 (poolAccess i) m = .at firstWord) :
    Performs (accessing i) port0 (poolAccess i) m firstWord :=
  ⟨rfl, hm, rfl, ht, noneEnding_listedTwice _ _ _, fun _ => rfl, fun _ => rfl, .inl rfl, fun _ => rfl⟩

/-- Two tokens that are sent leave the held load. -/
theorem keepsLoad_finishPair {s t : State} {f : Firing} {n : Nd} {b p : Payload} {q : Option Payload}
    (hr : HasRoom ⟨port0, f⟩ 2 s) (h : finishPair s ⟨port0, f⟩ n b (some p) q = .ok t) : keepsLoad t = keepsLoad s := by
  have hunit := (finishPair_frame hr h).ownUnit
  have haccess : (t.unit port0).access = (s.unit port0).access := (congrArg HwUnit.access hunit :)
  simp only [keepsLoad, accessNo, haccess]

/-- A step that discards the held load leads to no state that still holds it. -/
theorem next_dropsLoad {o : Answer} {t : State} (hdrops : nextKeepsLoad o = false) (h : o = .next t) : keepsLoad t = false := by
  rw [h] at hdrops
  exact hdrops

/-- A load of a doubleword. -/
def loadWord : Instr := .ldD toSink true .clu

/-- Refutes O19: in `accessing loadWord` the step in which the load is performed also discards a held load of region 5, which is
listed a second time as one that ends; the statement's first clause gives the state in which the load has left its queue and its
tokens are sent, and no more. -/
theorem not_loadsSendWhatTheirClusterSees : ¬ Obligations.LoadsSendWhatTheirClusterSees := by
  rintro ⟨hload, -⟩
  obtain ⟨t, hfinish, hexec, -⟩ := hload (accessing loadWord) port0 (poolAccess loadWord) ⟨0x83, toSink, .clu, .load 8 true⟩ firstWord
    (accessing_performs rfl (by decide +kernel)) rfl (.inl ⟨8, true, rfl⟩) (fun _ => rfl) rfl (by decide +kernel)
    (canEmit_toSink _ _ _ _)
  have hdrops := next_dropsLoad (by decide +kernel) hexec
  rw [keepsLoad_finishPair (fun h => absurd h (by decide +kernel)) hfinish] at hdrops
  exact absurd hdrops (by decide +kernel)

/-- A store of a doubleword. -/
def storeWord : Instr := .stD toSink .clu

/-- Refutes O21: in `accessing storeWord` the step in which the store is performed also discards the held load of the region that is
listed twice; the statement gives the state that the bytes, the end of the access and its token make, and no more. -/
theorem not_poolStoresWriteTheirBytesAndNoOthers : ¬ Obligations.PoolStoresWriteTheirBytesAndNoOthers := by
  intro hstore
  obtain ⟨t, hfinish, hexec, -⟩ := hstore (accessing storeWord) port0 (poolAccess storeWord) ⟨0x87, toSink, .clu, .store 8⟩ firstWord
    (cellsOf (poolKey 0 0) 8 0) none (by decide +kernel) (accessing_performs rfl (by decide +kernel)) rfl (.inl rfl)
    ⟨⟨by decide +kernel, by decide +kernel, by decide +kernel⟩, by decide +kernel, rfl⟩ (by decide) (canEmit_toSink _ _ _ _)
  have hdrops := next_dropsLoad (by decide +kernel) hexec
  rw [keepsLoad_finish (fun h => absurd h (by decide +kernel)) hfinish] at hdrops
  exact absurd hdrops (by decide +kernel)

/-- An atomic addition to a doubleword. -/
def addWord : Instr := .aadd toSink false .clu

/-- Refutes O23: in `accessing addWord` the step in which the atomic is performed also discards the held load of the region that is
listed twice; the statement gives the state that the new value, the end of the access and its tokens make, and no more. -/
theorem not_atomicsUpdateOneOperand : ¬ Obligations.AtomicsUpdateOneOperand := by
  intro hatomic
  obtain ⟨t, hfinish, hexec, -⟩ := hatomic (accessing addWord) port0 (poolAccess addWord) ⟨0x90, toSink, .clu, .atom .add false⟩
    firstWord .add false (by decide +kernel) (accessing_performs rfl (by decide +kernel)) rfl rfl _ rfl
    ⟨by decide +kernel, by decide +kernel, by decide +kernel⟩ (by decide) (canEmit_toSink _ _ _ _)
  have hdrops := next_dropsLoad (by decide +kernel) hexec
  rw [keepsLoad_finishPair (fun h => absurd h (by decide +kernel)) hfinish] at hdrops
  exact absurd hdrops (by decide +kernel)

end Sys2Proof.Proofs

/-! ## Engine operations: a misaligned report and an operation that was held

What the statements on engine ports leave out (O41, O43): `hg.quote` asks for pointers aligned to a line, and the fault of an operation
that was held leaves out operand B. -/

namespace Sys2Proof.Proofs

open Sys2Proof Sys2Proof.Machine Sys2Proof.Laws

/-- The engine port of cluster 0. -/
def engine0 : UId := ⟨0, .eng, 0⟩

/-- An active region of cluster 0. -/
def activeRegion : Region := { Region.none with num := 1, st := .active, host := [0] }

/-! ### A report to a pointer that is not aligned -/

/-- A firing of region 5 whose operand A is a form-0xFC pointer one byte beyond a line and whose operand B is 0. -/
def misalignedQuote : Cur :=
  ⟨engine0, ⟨0, 5, 0, some (plain (0xFC * 2 ^ 56 + 1) .u64), some (plain 0 .u64), none, none, 0, 0, 0⟩⟩

/-- The device that issues the firing. -/
def quoting : State := { State.reset with nextId := 6, regions := [(5, activeRegion)], cur := some misalignedQuote }

/-- How many operations the engine port holds in the state that an answer gives. -/
def nextOps (o : Answer) : Option Nat :=
  match o with
  | .next t => some (t.unit engine0).ops.length
  | _ => none

/-- The pointer is out of the range of R382, and nothing is queued. -/
theorem quoting_faults : nextOps (exec (.hgQuote toSink) quoting) = some 0 := by decide +kernel

/-- Refutes O41: for `hg.quote` the statement asks of operand A only its form and of operand B only its range, where Table 14-8 has
both aligned to 64 bytes; in `quoting` A is not, and the node takes a command fault (R382) where the statement has it queued. -/
theorem not_engineOperationsAreQueued : ¬ Obligations.EngineOperationsAreQueued := by
  rintro ⟨-, hranged, -⟩
  obtain ⟨hqueued, -⟩ := hranged toSink 0xFD (.hgQuote toSink) _ _ _
    (.tail _ <| .tail _ <| .tail _ <| .tail _ <| .tail _ <| .head _) quoting misalignedQuote _ _ quoting.base
    ⟨0xFC * 2 ^ 56 + 1, .u64, false⟩ ⟨0, .u64, false⟩ ⟨rfl, nofun⟩ ⟨_, rfl, rfl⟩ rfl rfl rfl rfl rfl
  have hops := congrArg nextOps (hqueued (by decide) (by decide +kernel))
  rw [quoting_faults] at hops
  exact absurd hops (by decide +kernel)

/-! ### A transfer that was held -/

/-- A Culvert command of one page, through handle 7, from page 0 of its object. -/
def onePage : LineData := BitVec.ofNat 512 (2 ^ 128 + (0x04 * 2 ^ 56 + 7) * 2 ^ 256)

/-- A `cv.in` of region 5 in flight, with operand B 1, that was held at its issue and woken. -/
def wokenTransfer : Access :=
  ⟨7, .cvIn toSink, ⟨0, 5, 0, some (.line onePage 0 none), some (plain 1 .i64), none, none, 0, 0, 0⟩, .flight, none, none, true, 1⟩

/-- Handle 7 names an object of one page that was never written. The partition has a supervisor, region 9, whose fault entry is
configured. -/
def transferring : State :=
  { State.reset with
    nextId := 10
    regions := [(5, activeRegion)]
    parts := [(0, { Part.reset 0 with supRid := some 9 })]
    frames := [((9, 0, 0), { Frame.none with st := .live })]
    units := [(engine0, { HwUnit.empty with ops := [wokenTransfer] }),
      (⟨0, .el, 255⟩, { HwUnit.empty with complete := true, words := [(15, (0, 0))] })]
    out := { State.reset.out with handles := [((0, 7), 1)], objects := [(1, ⟨1, 0, 0, 1, false, [], [], false⟩)] } }

theorem noneEnding_transferring : NoneEnding transferring := by
  intro p hp
  obtain rfl := List.mem_singleton.mp hp
  decide +kernel

/-- The lowest byte of operand B in the first record of the fault ring of cluster 0 (Table 13-4). -/
def recordedB (t : State) : Byte := Memory.read t.mem (poolKey 0 0x40 + 48)

/-- The lowest byte of operand B in the first fault record in the state that an answer gives. -/
def nextRecordedB (o : Answer) : Option Byte :=
  match o with
  | .next t => some (recordedB t)
  | _ => none

/-- Of an operation that was held the record leaves operand B out (R349). -/
theorem transferring_records : nextRecordedB (exec (.cvInComplete engine0 7) transferring) = some 0 := by decide +kernel

/-- Refutes O43: in `transferring` the page of a `cv.in` that was held is bad; the statement's clause on bad pages has the fault's
record carry operand B, which the record of an operation that was held leaves out (R349). -/
theorem not_transfersEndWithTheirTokens : ¬ Obligations.TransfersEndWithTheirTokens := by
  rintro ⟨-, -, -, -, -, -, -, hpages, -⟩
  obtain ⟨hbad, -⟩ := hpages transferring engine0 wokenTransfer toSink onePage 0 none 1 ⟨1, 0, 0, 1, false, [], [], false⟩
    rfl rfl rfl rfl noneEnding_transferring (by decide) (by decide +kernel) (by decide +kernel)
  have hrecord := congrArg nextRecordedB (hbad (.inl rfl))
  rw [show wokenTransfer.id = 7 from rfl, transferring_records] at hrecord
  exact absurd hrecord (by decide +kernel)

end Sys2Proof.Proofs

/-! ## Lines

Line-unit nodes (O31 to O36): several tokens that one firing sends in a row, a firing that issues with its tiles, and the lanes of
the lines that a node joins. -/

namespace Sys2Proof.Proofs

open Sys2Proof Sys2Proof.Machine Sys2Proof.Laws

section

variable {s s1 t : State} {c : Cur} {n : Nd} {b p : Payload} {g : Tag} {d e : Dst} {sc : Bool} {rid cl r k m : Nat}

/-! ### Tokens in a row -/

/-- Every member of a list is taken in turn, where taking one leaves what the next needs. -/
theorem foldlM_ok {α : Type} {P : State → Prop} {f : State → α → Res State} {l : List α} :
    ∀ {s : State}, (∀ s, ∀ x ∈ l, P s → ∃ t, f s x = .ok t ∧ P t) → P s → ∃ t, l.foldlM f s = .ok t ∧ P t := by
  induction l with
  | nil => exact fun {s} _ hs => ⟨s, rfl, hs⟩
  | cons x l ih =>
    intro s hf hs
    obtain ⟨s1, h1, hs1⟩ := hf s x List.mem_cons_self hs
    obtain ⟨t, ht, hPt⟩ := ih (fun s y hy => hf s y (List.mem_cons_of_mem x hy)) hs1
    exact ⟨t, by rw [List.foldlM_cons, h1]; exact ht, hPt⟩

theorem ensureCopy_header (h : ensureCopy s rid g cl = .ok t) (r k m : Nat) :
    frameHeader (t.frame r k m) = frameHeader (s.frame r k m) := by
  unfold ensureCopy at h
  extract_lets f at h
  split at h
  · cases h
    rfl
  · split at h
    · cases h
      rw [frame_setFrame]
      split
      next e =>
        simp only [Prod.mk.injEq] at e
        obtain ⟨rfl, rfl, rfl⟩ := e
        rfl
      next => rfl
    · cases h

/-- A token leaves the header of every frame, among it what forms tags (R42, R52). -/
theorem sendTo_header (h : sendTo s c d p g = .ok t) (r k m : Nat) :
    frameHeader (t.frame r k m) = frameHeader (s.frame r k m) := by
  by_cases hd : d = .slot
  · subst hd
    simp only [sendTo] at h
    split at h
    · cases h
    · obtain ⟨_, _, h⟩ := ok_of_bind h
      obtain ⟨s1, h1, h⟩ := ok_of_bind h
      obtain ⟨_, _, h⟩ := ok_of_bind h
      rw [← ensureCopy_header h1]
      cases h
      split
      · rw [frame_changeFrame]
        split
        next e =>
          simp only [Prod.mk.injEq] at e
          obtain ⟨rfl, rfl, rfl⟩ := e
          rfl
        next => rfl
      · rfl
  · obtain ⟨hframes, _, _⟩ := sendTo_frames h hd
    simp only [State.frame, hframes]

theorem tagOf_congr (h : ∀ r k m, frameHeader (t.frame r k m) = frameHeader (s.frame r k m)) (a : TagAct) (b : Payload) :
    tagOf t c a b = tagOf s c a b := by
  have hlink : (frameAt t c.f.rid c.f.tag).link = (frameAt s c.f.rid c.f.tag).link := (congrArg Frame.link (h _ _ _) :)
  have hret : (frameAt t c.f.rid c.f.tag).rettag = (frameAt s c.f.rid c.f.tag).rettag := (congrArg Frame.rettag (h _ _ _) :)
  simp only [tagOf, hlink, hret]

theorem SamePlaces.logUndo (s : State) (rid cl : Nat) (u : Undo) : SamePlaces s (logUndo s rid cl u) := by
  unfold Machine.logUndo
  split
  · split
    · exact SamePlaces.makeIrrevocable s rid
    · exact SamePlaces.modCluster s cl _ fun _ => ⟨rfl, rfl, rfl⟩
  · exact SamePlaces.refl s

/-- A cluster that holds a copy of a live frame, with no line in error, can write it after an entry of the copy has changed. -/
theorem slotOk_changeFrame {f : Frame} (h : SlotOk s rid g cl) (hst : f.st = (frameAt s rid g).st) (hc : cl ∈ f.copies)
    (hgood : ∀ i, i < 260 → s.poison.contains (frameLine s rid g cl (8 * i)) = false) :
    SlotOk (changeFrame s rid cl g f) rid g cl := by
  have hp := SamePlaces.logUndo s rid cl (.frame g.die g.frame (frameAt s rid g))
  refine ⟨⟨?_, .inl ?_⟩, fun _ i hi => ?_⟩
  · rw [frameAt_changeFrame, hst]
    exact h.1.1
  · rw [frameAt_changeFrame]
    exact List.contains_iff_mem.2 hc
  · have hline : frameLine (changeFrame s rid cl g f) rid g cl (8 * i) = frameLine s rid g cl (8 * i) := by
      simp only [frameLine, copyOffset, frameClassAt, changeFrame, cluster_setFrame, hp.pword]
    have hclean := hgood i hi
    rw [hline]
    simp only [Bool.eq_false_iff, ne_eq, List.contains_iff_mem] at hclean ⊢
    exact fun hk => hclean (hp.poison _ hk)

/-- A frame slot that was written can be written again (R52). -/
theorem slotOk_writeSlot {slot seq : Nat} {v : Word} (h : SlotOk s rid g cl) (hw : writeSlot s rid g cl slot v seq = .ok t) :
    SlotOk t rid g cl := by
  obtain ⟨s1, h1, -, hgood⟩ := ensureCopy_ok h.1.2 h.2
  have hmem := mem_copies_ensureCopy h1
  have hst : (frameAt s1 rid g).st = (frameAt s rid g).st := (congrArg Frame.st (ensureCopy_header h1 rid g.die g.frame) :)
  have hlive := hst.trans h.1.1
  have hs1 : SlotOk s1 rid g cl := ⟨⟨hlive, .inl (List.contains_iff_mem.2 hmem)⟩, fun _ => hgood⟩
  obtain ⟨_, _, hw⟩ := ok_of_bind hw
  obtain ⟨s1', h1', hw⟩ := ok_of_bind hw
  obtain rfl : s1 = s1' := Except.ok.inj (h1.symm.trans h1')
  obtain ⟨_, _, hw⟩ := ok_of_bind hw
  cases hw
  split
  · exact slotOk_changeFrame hs1 rfl hmem hgood
  · exact hs1

/-- A destination can take a token after another one was sent under the same tag, to it or elsewhere. -/
theorem dstOk_again (h : sendTo s c d p g = .ok t) (hd : DstOk s c d g p.scaled) (he : DstOk s c e g sc) : DstOk t c e g sc := by
  obtain ⟨t', ht', harcs⟩ := sendTo_ok hd
  obtain rfl : t = t' := Except.ok.inj (h.symm.trans ht')
  by_cases hde : e = d
  · subst hde
    by_cases hs : e = .slot
    · subst hs
      simp only [sendTo, hd.1, Bool.false_eq_true, if_false] at h
      exact ⟨he.1, slotOk_writeSlot he.2 h⟩
    · exact dstOk_same he harcs hs
  · exact dstOk_sendTo h harcs hde he

/-- What a node can send it can still send after a token to one of its destinations. -/
theorem canEmit_sendTo (h : CanEmit s c n b sc) (hg : tagOf s c n.t b = .ok g) (hd : DstOk s c d g p.scaled)
    (hs : sendTo s c d p g = .ok t) : CanEmit t c n b sc := by
  have htag := tagOf_congr (c := c) (sendTo_header hs) n.t b
  refine ⟨h.1, fun g' hg' => ?_⟩
  obtain rfl : g = g' := Except.ok.inj (hg.symm.trans (htag ▸ hg'))
  obtain ⟨h1, h2⟩ := h.2 g hg
  exact ⟨dstOk_again hs hd h1, dstOk_again hs hd h2⟩

/-- A node that can send a token without a scaled bit sends it, and can then send another. -/
theorem finish_again (h : CanEmit s c n b false) (hp : p.scaled = false) :
    ∃ t, finish s c n b p = .ok t ∧ CanEmit t c n b false := by
  obtain ⟨g, hg⟩ := tagOf_ok (s := s) (c := c) h.1
  have hclear : (outForm n.t p).scaled = false := (outForm_scaled hp).elim id id
  have hok : ∀ {s}, CanEmit s c n b false → tagOf s c n.t b = .ok g →
      DstOk s c n.d g (outForm n.t p).scaled ∧ DstOk s c n.e g (outForm n.t p).scaled := fun h hg => hclear.symm ▸ h.2 g hg
  obtain ⟨s1, h1, -⟩ := sendTo_ok (hok h hg).1
  have hs1 := canEmit_sendTo h hg (hok h hg).1 h1
  have hg1 := (tagOf_congr (c := c) (sendTo_header h1) n.t b).trans hg
  simp only [finish, sendBoth, hg, h1, bind, Except.bind]
  by_cases hde : n.e = n.d
  · exact ⟨s1, if_pos hde, hs1⟩
  · obtain ⟨t, ht, -⟩ := sendTo_ok (hok hs1 hg1).2
    exact ⟨t, (if_neg hde).trans ht, canEmit_sendTo hs1 hg1 (hok hs1 hg1).2 ht⟩

end
end Sys2Proof.Proofs

/-! ## Lane-by-lane nodes

A line-unit firing that issues with its tiles, and the lanes of the lines that it joins. -/

namespace Sys2Proof.Proofs

open Sys2Proof Sys2Proof.Machine Sys2Proof.Laws

section

variable {s s2 t : State} {c : Cur} {n : Nd} {a b : Opd} {op : Nat} {i : Instr}

/-! ### Firings with their tiles -/

/-- A line-unit firing that issues with its tiles ready ends as its meaning answers (R40, R253). -/
theorem runLines_ends {body : State → Cur → Opd → Opd → Res State} (he : exec i s = runLines op n s body) (hop : op ≠ 0xB5)
    (hf : FiresLine s c n a b s2) (h : body s2 c a b = .ok t) : Ends i s c op t := by
  obtain ⟨hcur, hready, s1, ha, hb⟩ := hf
  have hall : (firingTiles s.base c n).all (tileReady s.base c.u.cl) = true := List.all_eq_true.2 hready
  rw [Ends, he]
  unfold runLines
  simp only [hcur, if_neg hop, hall, Bool.not_true, Bool.false_eq_true, if_false, bind, Except.bind, ha, hb, h]

/-- A line-unit node whose meaning faults takes the fault (R13, R253); an uncorrectable error has rules of its own (R355). -/
theorem runLines_faults {body : State → Cur → Opd → Opd → Res State} {cause : Cause} {detail addr : Nat}
    (he : exec i s = runLines op n s body) (hop : op ≠ 0xB5) (hf : FiresLine s c n a b s2)
    (h : body s2 c a b = flt cause detail addr) (hmem : cause ≠ .poolError ∧ cause ≠ .memError) :
    LineFaults i s c op n cause detail addr := by
  obtain ⟨hcur, hready, s1, ha, hb⟩ := hf
  have hall : (firingTiles s.base c n).all (tileReady s.base c.u.cl) = true := List.all_eq_true.2 hready
  have hplain := fun s w => (faultOrRollback_cases s w ⟨cause, detail, addr⟩).resolve_right
    fun ⟨hc, _⟩ => hc.elim hmem.1 hmem.2
  rw [LineFaults, he]
  unfold runLines
  simp only [hcur, if_neg hop, hall, Bool.not_true, Bool.false_eq_true, if_false, bind, Except.bind, ha, hb, h, flt, hplain]

/-! ### Results in order -/

/-- The tokens of a list leave in order where each can leave (R256). -/
theorem emits_ok {l : List Payload} (h : CanEmit s c n b.pay false) (hl : ∀ p ∈ l, p.scaled = false) :
    ∃ t, Emits s c n b l t :=
  let ⟨t, ht, _⟩ := foldlM_ok (P := fun s => CanEmit s c n b.pay false) (fun _ p hp hs => finish_again hs (hl p hp)) h
  ⟨t, ht⟩

/-- The result lines of a node leave in order (R256). -/
theorem emitLines_ok (l : List Line) (h : CanEmit s c n b.pay false) : ∃ t, emitLines s c n b l = .ok t :=
  let ⟨t, ht, _⟩ := foldlM_ok (P := fun s => CanEmit s c n b.pay false)
    (f := fun s (x : Line) => finish s c n b.pay (.line x.1 x.2 none)) (l := l) (fun _ _ _ hs => finish_again hs rfl) h
  ⟨t, ht⟩

/-! ### Lanes of lines -/

/-- The lanes of every format fill a line (R75). -/
theorem lineShape_bits (f : Nat) : (lineShape f).1 * (lineShape f).2 = 512 := by
  unfold lineShape
  split <;> rfl

theorem lineShape_width_pos (f : Nat) : 0 < (lineShape f).1 := by
  unfold lineShape
  split <;> decide

theorem lineLanes_length (f : Nat) (d : LineData) : (lineLanes f d).length = (lineShape f).2 := lanesOf_length _ _ _

/-- A lane of a joined line is the member of its list. -/
theorem laneAt_lineJoin {w j : Nat} {l : List Nat} (hl : w * l.length = 512) (hj : j < l.length) :
    laneAt w j (lineJoin w l).toNat = l[j] % 2 ^ w := by
  have hlt : joinLanes w l < 2 ^ (w * l.length) := joinLanes_lt w l
  rw [hl] at hlt
  rw [lineJoin, BitVec.toNat_ofNat, Nat.mod_eq_of_lt hlt, laneAt_joinLanes w l j hj]

/-- A line joined of as many lanes as its format has has those lanes. -/
theorem lanesAre_lineJoin {f : Nat} {l : List Nat} {lane : Nat → Nat} (e : Desc) (hl : l.length = (lineShape f).2)
    (h : ∀ j (hj : j < l.length), BitVec.ofNat (lineShape f).1 l[j] = BitVec.ofNat (lineShape f).1 (lane j)) :
    LanesAre f lane (lineJoin (lineShape f).1 l, e) := by
  intro j hj
  rw [laneBv, laneAt_lineJoin (hl ▸ lineShape_bits f) (hl.symm ▸ hj), ofNat_mod_two_pow]
  exact h j (hl.symm ▸ hj)

/-- A line whose lanes are made of the lanes of two lines. -/
theorem lanesAre_zipWith {f : Nat} {g h : Nat → Nat → Nat} (x y : Line) (e : Desc)
    (hg : ∀ p q, p < 2 ^ (lineShape f).1 → BitVec.ofNat (lineShape f).1 (h p q) = BitVec.ofNat (lineShape f).1 (g p q)) :
    LanesAre f (fun j => g (lineLane f x j) (lineLane f y j))
      (lineJoin (lineShape f).1 (List.zipWith h (lineLanes f x.1) (lineLanes f y.1)), e) := by
  refine lanesAre_lineJoin e (by rw [List.length_zipWith, lineLanes_length, lineLanes_length, Nat.min_self]) fun j _ => ?_
  rw [List.getElem_zipWith]
  simp only [lineLanes, lanesOf_get]
  exact hg _ _ (laneAt_lt _ _ _)

/-- A line whose lanes are made of the lanes of one. -/
theorem lanesAre_map {f : Nat} {g h : Nat → Nat} (x : Line) (e : Desc)
    (hg : ∀ p, p < 2 ^ (lineShape f).1 → BitVec.ofNat (lineShape f).1 (h p) = BitVec.ofNat (lineShape f).1 (g p)) :
    LanesAre f (fun j => g (lineLane f x j)) (lineJoin (lineShape f).1 ((lineLanes f x.1).map h), e) := by
  refine lanesAre_lineJoin e (by rw [List.length_map, lineLanes_length]) fun j _ => ?_
  rw [List.getElem_map]
  simp only [lineLanes, lanesOf_get]
  exact hg _ (laneAt_lt _ _ _)

/-! ### Nodes that act lane by lane -/

/-- A function of the lanes of two lines makes each lane of width `w` of the two lanes in its place. -/
def ActsOnPairs (gl : List Nat → List Nat → Option (List Nat)) (w : Nat) (lane : Nat → Nat → Nat) : Prop :=
  ∃ h, (∀ p q, gl p q = some (List.zipWith h p q)) ∧
    ∀ p q, p < 2 ^ w → BitVec.ofNat w (h p q) = BitVec.ofNat w (lane p q)

/-- The same for the lanes of one line. -/
def ActsOnLanes (gl : List Nat → Option (List Nat)) (w : Nat) (lane : Nat → Nat) : Prop :=
  ∃ h, (∀ p, gl p = some (p.map h)) ∧ ∀ p, p < 2 ^ w → BitVec.ofNat w (h p) = BitVec.ofNat w (lane p)

theorem ActsOnPairs.diagonal {gl : List Nat → List Nat → Option (List Nat)} {w : Nat} {lane : Nat → Nat → Nat}
    (h : ActsOnPairs gl w lane) : ActsOnLanes (fun p => gl p p) w fun p => lane p p :=
  let ⟨g, hlanes, hlane⟩ := h
  ⟨fun p => g p p, fun p => (hlanes p p).trans (congrArg some (List.zipWith_self ..)), fun p => hlane p p⟩

/-- Every line of A has its line of B (R254). -/
theorem lineB_length {x : LineA} {exempt : Bool} {y : List Line} {cl : Nat} (h : lineB s cl x exempt b = .ok y) :
    y.length = x.lines.length := by
  unfold lineB at h
  extract_lets one paired at h
  have hpaired : ∀ {bs}, paired bs = .ok y → bs = y := fun {bs} hbs => by
    simp only [paired] at hbs
    split at hbs
    · cases hbs
    · exact Except.ok.inj hbs
  split at h
  · obtain ⟨_, hone, h⟩ := ok_of_bind h
    cases hone
    exact hpaired h ▸ List.length_map _
  · split at h
    · obtain ⟨_, hzero, h⟩ := ok_of_bind h
      cases hzero
      exact hpaired h ▸ List.length_map _
    · split at h
      · obtain ⟨_, htile, h⟩ := ok_of_bind h
        obtain ⟨_, _, htile⟩ := ok_of_bind htile
        obtain ⟨_, _, htile⟩ := ok_of_bind htile
        obtain ⟨_, _, htile⟩ := ok_of_bind htile
        obtain ⟨_, _, htile⟩ := ok_of_bind htile
        obtain ⟨_, hlen, htile⟩ := ok_of_bind htile
        cases htile
        unfold need at hlen
        split at hlen
        next hk => exact hpaired h ▸ beq_iff_eq.1 hk
        next => cases hlen
      · obtain ⟨_, hscal, h⟩ := ok_of_bind h
        obtain ⟨_, _, hscal⟩ := ok_of_bind hscal
        obtain ⟨_, _, hscal⟩ := ok_of_bind hscal
        cases hscal
        exact hpaired h ▸ List.length_map _

/-- Lines whose formats are of an operation's set give a line each, of the lanes that the operation answers (R256, R258). -/
theorem mapLines_ok {g : Nat → List Nat → List Nat → Option (List Nat)} {desc : Desc → Desc} {lane : Nat → Nat → Nat → Nat}
    {ok : Nat → Prop}
    (hg : ∀ x y : Line, ok x.2.fmt → ∃ r, g x.2.fmt (lineLanes x.2.fmt x.1) (lineLanes x.2.fmt y.1) = some r ∧
      LanesAre x.2.fmt (fun j => lane x.2.fmt (lineLane x.2.fmt x j) (lineLane x.2.fmt y j))
        (lineJoin (lineShape x.2.fmt).1 r, desc x.2)) :
    ∀ {l l' : List Line}, l'.length = l.length → (∀ x ∈ l, ok x.2.fmt) → ∃ r, mapLines g desc l l' = .ok r ∧
      r.length = l.length ∧ ∀ p ∈ List.zip r (List.zip l l'), p.1.2 = desc p.2.1.2 ∧
        LanesAre p.2.1.2.fmt (fun j => lane p.2.1.2.fmt (lineLane p.2.1.2.fmt p.2.1 j) (lineLane p.2.1.2.fmt p.2.2 j)) p.1 := by
  intro l
  induction l with
  | nil => exact fun {l'} _ _ => ⟨[], by cases l' <;> rfl, rfl, fun _ hp => absurd hp List.not_mem_nil⟩
  | cons x l ih =>
    intro l' hlen hok
    obtain ⟨y, l', rfl⟩ := List.exists_cons_of_length_eq_add_one hlen
    obtain ⟨hx, hl⟩ := List.forall_mem_cons.1 hok
    obtain ⟨r, hr, hlanes⟩ := hg x y hx
    obtain ⟨rest, hrest, hcount, hall⟩ := ih (Nat.succ.inj hlen) hl
    refine ⟨(lineJoin (lineShape x.2.fmt).1 r, desc x.2) :: rest, ?_, congrArg Nat.succ hcount, ?_⟩
    · simp only [mapLines, hr, hrest, bind, Except.bind]
      rfl
    · exact List.forall_mem_cons.2 ⟨And.intro (Eq.refl (desc x.2)) hlanes, hall⟩

/-- An instruction that combines the lanes of two lines is what its lane function says. -/
theorem lineNode2_of {exempt : Bool} {desc : Desc → Desc} {ok : Nat → Prop} {g : Cur → State → Nat → Nat → Nat → Nat}
    {gl : Cur → State → Nat → List Nat → List Nat → Option (List Nat)} (he : ∀ s, exec i s = lines2 op n exempt desc s gl)
    (hop : op ≠ 0xB5)
    (hg : ∀ c s f, ok f → ActsOnPairs (gl c s f) (lineShape f).1 (g c s f)) :
    LineNode2 op i n exempt ok desc g := by
  intro s c a b s2 x y hf hx hy hok hemit
  have hlanes := fun (x y : Line) (hx : ok x.2.fmt) =>
    let ⟨h, hgl, heq⟩ := hg c s2 x.2.fmt hx
    (⟨_, hgl _ _, lanesAre_zipWith x y (desc x.2) heq⟩ : ∃ r, gl c s2 x.2.fmt (lineLanes x.2.fmt x.1)
      (lineLanes x.2.fmt y.1) = some r ∧ LanesAre x.2.fmt (fun j => g c s2 x.2.fmt (lineLane x.2.fmt x j)
        (lineLane x.2.fmt y j)) (lineJoin (lineShape x.2.fmt).1 r, desc x.2))
  obtain ⟨l, hl, hlen, hall⟩ := mapLines_ok hlanes (lineB_length hy) hok
  obtain ⟨t, ht⟩ := emitLines_ok l hemit
  refine ⟨l, t, hlen, hall, ht, runLines_ends (he s) hop hf ?_⟩
  simp only [hx, hy, hl, bind, Except.bind, ht]

/-- An instruction that acts on the lanes of one line is what its lane function says. -/
theorem lineNode1_of {ok : Nat → Prop} {g : Nat → Nat → Nat} {gl : Nat → List Nat → Option (List Nat)}
    (he : ∀ s, exec i s = lines1 op n s gl) (hop : op ≠ 0xB5)
    (hg : ∀ f, ok f → ActsOnLanes (gl f) (lineShape f).1 (g f)) :
    LineNode1 op i n ok g := by
  intro s c a b s2 x hf hx hok hemit
  have hlanes := fun (x y : Line) (hx : ok x.2.fmt) =>
    let ⟨h, hgl, heq⟩ := hg x.2.fmt hx
    (⟨_, hgl _, lanesAre_map x (resultDesc x.2) heq⟩ : ∃ r, gl x.2.fmt (lineLanes x.2.fmt x.1) = some r ∧
      LanesAre x.2.fmt (fun j => g x.2.fmt (lineLane x.2.fmt x j)) (lineJoin (lineShape x.2.fmt).1 r, resultDesc x.2))
  obtain ⟨l, hl, hlen, hall⟩ := mapLines_ok (g := fun k l _ => gl k l) (lane := fun f p _ => g f p) hlanes rfl hok
  obtain ⟨t, ht⟩ := emitLines_ok l hemit
  refine ⟨l, t, hlen, fun p hp => ?_, ht, runLines_ends (he s) hop hf ?_⟩
  · refine hall (p.1, p.2, p.2) ?_
    have hdouble : List.zip x.lines x.lines = x.lines.map fun y => (y, y) := List.zipWith_self ..
    rw [hdouble, List.zip_map_right]
    exact List.mem_map_of_mem (f := Prod.map id fun y => (y, y)) hp
  · simp only [hx, hl, bind, Except.bind, ht]

end
end Sys2Proof.Proofs

/-! ## Line arithmetic, comparison and bit operations

The lane functions of the line units (O31, O32). -/

namespace Sys2Proof.Proofs

open Sys2Proof Sys2Proof.Machine Sys2Proof.Laws

section

variable {f : Nat}

/-! ### The format sets of Table 09-1 -/

theorem setF_of_inF (h : inF f) : setF f = some (fmtF f) := by rcases h with rfl | rfl <;> rfl

theorem setF_of_inI (h : inI f) : setF f = none := by rcases h with rfl | rfl | rfl <;> rfl

theorem setI_of_inI (h : inI f) : setI f = true := by rcases h with rfl | rfl | rfl <;> rfl

theorem setX_of_inX (h : inX f) : setX f = true := by rcases h with rfl | (rfl | rfl | rfl | rfl | rfl) | rfl | rfl | rfl <;> rfl

theorem inFI_iff : inFI f ↔ inF f ∨ inI f := by
  unfold inFI inF inI
  omega

/-- No format is of both sets. -/
theorem not_inF_of_inI (h : inI f) : ¬ (f = 0x04 ∨ f = 0x05) := by rcases h with rfl | rfl | rfl <;> decide

theorem fiLane_of_inF {fz sat : Bool} {m : Rnd} {v : FV} {x : Int} (h : inF f) :
    fiLane m fz sat f v x = ((fmtF f).round m fz .arith v).1 := if_pos h

theorem fiLane_of_inI {fz sat : Bool} {m : Rnd} {v : FV} {x : Int} (h : inI f) :
    fiLane m fz sat f v x = (laneOf (lineShape f).1 false sat x).toNat := if_neg (not_inF_of_inI h)

/-! ### Lane functions -/

/-- The lanes of set F and set I that a node combines: exact values rounded once, integers brought into their lane (R258). -/
theorem fiLanes_acts {fz sat : Bool} {m : Rnd} {gf : FV → FV → FV} {gi gi' : Int → Int → Int} (hi : ∀ x y, gi x y = gi' x y)
    (hf : inFI f) : ActsOnPairs (fiLanes fz m sat gf gi f) (lineShape f).1
      fun p q => fiLane m fz sat f (gf (fvF fz f p) (fvF fz f q)) (gi' (intI f p) (intI f q)) := by
  rcases inFI_iff.1 hf with hF | hI
  · refine ⟨_, fun p q => by rw [fiLanes, setF_of_inF hF], fun p q _ => ?_⟩
    beta_reduce
    rw [fiLane_of_inF hF]
    rfl
  · refine ⟨_, fun p q => by rw [fiLanes, setF_of_inI hI]; exact if_pos (setI_of_inI hI), fun p q _ => ?_⟩
    beta_reduce
    rw [laneFit_eq, fiLane_of_inI hI, ofNat_toNat_self, hi, toSigned_eq (lineShape_width_pos f),
      toSigned_eq (lineShape_width_pos f)]
    rfl

/-- The lanes of a fused product and sum: alpha times a, plus b, rounded once (R258). -/
theorem fmaLanes_acts {fz : Bool} {m : Rnd} (v : Nat) (hf : inF f) :
    ActsOnPairs (fmaLanes fz m (Fmt.f32.value v) f) (lineShape f).1 fun p q =>
      ((fmtF f).round m fz .arith (FV.add m (FV.mul (fvF fz 0x04 v) (fvF fz f p)) (fvF fz f q))).1 :=
  ⟨_, fun p q => by simp only [fmaLanes, fiLanes, setF_of_inF hf, Option.isSome_some, if_true]; rfl, fun _ _ _ => rfl⟩

/-- The lanes of an approximation, rounded once to P12 or to BF16 (R194, R258). -/
theorem approxLanes_acts {fz : Bool} {m : Rnd} (g : FV → Near) (hf : inF f) :
    ActsOnLanes (approxLanes fz m g f) (lineShape f).1 fun p =>
      ((if f = 0x04 then Fmt.p12 else .bf16).round m fz .arith (g (fvF fz f p)).1 (g (fvF fz f p)).2).1 := by
  refine ⟨_, fun p => by rw [approxLanes, setF_of_inF hf, Option.map_some], fun p _ => ?_⟩
  rcases hf with rfl | rfl <;> rfl

/-- The lanes of set X that a node combines as raw bits (R258). -/
theorem rawLanes_acts (g : Nat → Nat → Nat) (hf : inX f) : ActsOnPairs (rawLanes g f) (lineShape f).1 g :=
  ⟨g, fun p q => by rw [rawLanes, setX_of_inX hf, if_pos rfl], fun _ _ _ => rfl⟩

/-- The lanes of set I that a node combines at their width (R258). -/
theorem shiftLanes_acts {g : Nat → Nat → Nat → Nat} {lane : Nat → Nat → Nat} (hf : inI f)
    (hg : ∀ p q, p < 2 ^ (lineShape f).1 →
      BitVec.ofNat (lineShape f).1 (g (lineShape f).1 p q) = BitVec.ofNat (lineShape f).1 (lane p q)) :
    ActsOnPairs (shiftLanes g f) (lineShape f).1 lane :=
  ⟨_, fun p q => by rw [shiftLanes]; exact if_pos (setI_of_inI hf), hg⟩

/-- The lanes of a comparison: all ones where the condition holds (R259). -/
theorem cmpLanes_acts (k : Cond) (hf : inFI f) : ActsOnPairs (cmpLanes k f) (lineShape f).1 fun p q =>
    if (if f = 0x04 ∨ f = 0x05 then floatCond k ((fmtF f).value p) ((fmtF f).value q) else intCond k (lineShape f).1 p q) = true
    then 2 ^ (lineShape f).1 - 1 else 0 := by
  rcases inFI_iff.1 hf with hF | hI
  · refine ⟨_, fun p q => by rw [cmpLanes, setF_of_inF hF], fun p q _ => ?_⟩
    beta_reduce
    rw [if_pos (show f = 0x04 ∨ f = 0x05 from hF)]
  · refine ⟨_, fun p q => by rw [cmpLanes, setF_of_inI hI]; exact if_pos (setI_of_inI hI), fun p q _ => ?_⟩
    beta_reduce
    rw [if_neg (not_inF_of_inI hI)]

/-- A shift of a lane keeps the low bits that fit (Table 09-1). -/
theorem ofNat_shl_mod (w p k : Nat) : BitVec.ofNat w (p * 2 ^ k % 2 ^ w) = BitVec.ofNat w (p <<< k) := by
  rw [ofNat_mod_two_pow, Nat.shiftLeft_eq]

/-- A lane shifted to the right, its sign kept or not (Table 09-1). -/
theorem ofNat_shr_lane {w p : Nat} (hw : 0 < w) (hp : p < 2 ^ w) (u : Bool) (k : Nat) :
    BitVec.ofNat w (truncInt w (laneInt w u p / ((2 ^ k : Nat) : Int))) =
      BitVec.ofNat w (if u then p >>> k else ((BitVec.ofNat w p).sshiftRight k).toNat) := by
  have hlane : (BitVec.ofNat w p).toNat = p := by rw [BitVec.toNat_ofNat, Nat.mod_eq_of_lt hp]
  cases u with
  | true =>
    simp only [laneInt, if_true, truncInt_eq, Nat.mod_eq_of_lt hp, Nat.shiftRight_eq_div_pow]
    rw [← Int.natCast_ediv, BitVec.ofInt_natCast]
  | false =>
    have hsar := ofNat_sar hw (BitVec.ofNat w p) k
    rw [hlane] at hsar
    simp only [laneInt, Bool.false_eq_true, if_false, ofNat_toNat_self]
    exact hsar

end

/-- Settles O31: each node hands its lane function to the one rule of lane-by-lane nodes. -/
theorem lineArithmeticActsOnEachLane : Obligations.LineArithmeticActsOnEachLane := by
  intro n x fz m near
  have hmin (x y : Int) : (if y < x then y else x) = min x y := by omega
  have hmax (x y : Int) : (if x < y then y else x) = max x y := by omega
  have pairwise {op i} sat m (gf : FV → FV → FV) {gi : Int → Int → Int} (gi' : Int → Int → Int)
      (he : ∀ s, exec i s = lines2 op n false resultDesc s fun _ _ => fiLanes fz m sat gf gi) (hop : op ≠ 0xB5)
      (hi : ∀ x y, gi x y = gi' x y) : LineNode2 op i n false inFI resultDesc fun _ _ f p q =>
        fiLane m fz sat f (gf (fvF fz f p) (fvF fz f q)) (gi' (intI f p) (intI f q)) :=
    lineNode2_of he hop fun _ _ _ => fiLanes_acts hi
  have signs {op i} (gf : FV → FV) (gi : Int → Int)
      (he : ∀ s, exec i s = lines1 op n s fun f p => fiLanes fz .ne x (fun v _ => gf v) (fun v _ => gi v) f p p)
      (hop : op ≠ 0xB5) : LineNode1 op i n inFI fun f p => fiLane .ne fz x f (gf (fvF fz f p)) (gi (intI f p)) :=
    lineNode1_of he hop fun _ hf => (fiLanes_acts (fun _ _ => rfl) hf).diagonal
  have nears {op i} (g : FV → Near) (he : ∀ s, exec i s = lines1 op n s (approxLanes fz m g)) (hop : op ≠ 0xB5) :
      LineNode1 op i n inF (near g) := lineNode1_of he hop fun _ => approxLanes_acts g
  exact ⟨pairwise x m (FV.add m) (· + ·) (fun _ => rfl) (by decide) fun _ _ => rfl,
    pairwise x m (fun v w => FV.add m v (FV.neg w)) (· - ·) (fun _ => rfl) (by decide) fun _ _ => rfl,
    pairwise x m FV.mul (· * ·) (fun _ => rfl) (by decide) fun _ _ => rfl,
    lineNode2_of (fun _ => rfl) (by decide) fun _ _ _ => fmaLanes_acts _,
    pairwise false .ne (minMax false x) min (fun _ => rfl) (by decide) hmin,
    pairwise false .ne (minMax true x) max (fun _ => rfl) (by decide) hmax,
    signs FV.abs (fun v => v.natAbs) (fun _ => rfl) (by decide), signs FV.neg (fun v => -v) (fun _ => rfl) (by decide),
    nears _ (fun _ => rfl) (by decide), nears _ (fun _ => rfl) (by decide),
    nears _ (fun _ => rfl) (by decide), nears _ (fun _ => rfl) (by decide)⟩

/-- Settles O32: comparison, selection, bit operations and shifts each hand their lane function to the same rule. -/
theorem lineComparisonSelectionAndBits : Obligations.LineComparisonSelectionAndBits := by
  intro n k m u
  have raw {op i g} (he : ∀ s, exec i s = lines2 op n true resultDesc s fun _ _ => rawLanes g) (hop : op ≠ 0xB5) :
      LineNode2 op i n true inX resultDesc fun _ _ _ p q => g p q := lineNode2_of he hop fun _ _ _ => rawLanes_acts g
  exact ⟨lineNode2_of (fun _ => rfl) (by decide) fun _ _ _ => cmpLanes_acts k,
    raw (fun _ => rfl) (by decide), raw (fun _ => rfl) (by decide), raw (fun _ => rfl) (by decide), raw (fun _ => rfl) (by decide),
    lineNode2_of (fun _ => rfl) (by decide) fun _ _ _ hf => shiftLanes_acts hf fun _ _ _ => ofNat_shl_mod _ _ _,
    lineNode2_of (fun _ => rfl) (by decide) fun _ _ f hf =>
      shiftLanes_acts hf fun _ _ hp => ofNat_shr_lane (lineShape_width_pos f) hp u _⟩

end Sys2Proof.Proofs

/-! ## Links, clocks and drives

What memory reads once a range of it is cleared, and the events of the links, of partition time and of the drives (O50). -/

namespace Sys2Proof.Proofs

open Sys2Proof Sys2Proof.Machine Sys2Proof.Laws

section

variable {s : State} {m : Memory} {lo n k : Nat}

/-! ### Cleared memory -/

/-- A byte that is not listed is zero. -/
theorem read_of_not_listed (h : ∀ c ∈ m, c.1 ≠ k) : Memory.read m k = 0 := by
  induction m with
  | nil => rfl
  | cons c m ih =>
    obtain ⟨hc, hm⟩ := List.forall_mem_cons.1 h
    rw [Memory.read, if_neg hc]
    split
    · rfl
    · exact ih hm

/-- A byte that dropping cells passes by reads as before. -/
theorem read_filter {p : Host.Cell → Bool} (hp : ∀ b, p (k, b) = true) :
    ∀ {m : Memory}, m.wf = true → Memory.read (m.filter p) k = Memory.read m k := by
  have above : ∀ {m : Memory} {j : Nat}, m.above j = true → Memory.read (m.filter p) k = Memory.read m k := by
    intro m
    induction m with
    | nil => exact fun _ => rfl
    | cons c m ih =>
      obtain ⟨a, b⟩ := c
      intro j h
      simp only [Memory.above, Bool.and_eq_true, decide_eq_true_eq] at h
      rw [List.filter_cons]
      by_cases ha : a = k
      · rw [ha, if_pos (hp b), Memory.read, Memory.read, if_pos rfl, if_pos rfl]
      · split
        · rw [Memory.read, Memory.read, if_neg ha, if_neg ha, ih h.2]
        · rw [Memory.read, if_neg ha, ih h.2]
          split
          next hlt => exact read_below h.2 (by omega)
          next => rfl
  intro m h
  cases m with
  | nil => rfl
  | cons c m =>
    obtain ⟨a, b⟩ := c
    simp only [Memory.wf, Bool.and_eq_true, decide_eq_true_eq] at h
    rw [List.filter_cons]
    by_cases ha : a = k
    · rw [ha, if_pos (hp b), Memory.read, Memory.read, if_pos rfl, if_pos rfl]
    · split
      · rw [Memory.read, Memory.read, if_neg ha, if_neg ha, above h.2]
      · rw [Memory.read, if_neg ha, above h.2]
        split
        next hlt => exact read_below h.2 (by omega)
        next => rfl

theorem read_clearKeys_inside (s : State) (hlo : lo ≤ k) (hhi : k < lo + n) : Memory.read (clearKeys s lo n).mem k = 0 := by
  refine read_of_not_listed fun c hc => ?_
  simp only [clearKeys, List.mem_filter, Bool.or_eq_true, decide_eq_true_eq] at hc
  omega

theorem read_clearKeys_outside (hs : s.MemOk) (hk : k < lo ∨ lo + n ≤ k) :
    Memory.read (clearKeys s lo n).mem k = Memory.read s.mem k :=
  read_filter (fun _ => by simp only [Bool.or_eq_true, decide_eq_true_eq]; exact hk) hs

end

/-! ### Lists of pairs -/

/-- An entry that was deleted is not found. -/
theorem find_del_self {α β : Type} [DecidableEq α] (l : AL α β) (k : α) : AL.find? (AL.del l k) k = none := by
  induction l with
  | nil => rfl
  | cons p l ih =>
    obtain ⟨a, b⟩ := p
    rw [AL.del]
    split
    · exact ih
    · rename_i h
      rw [AL.find?, if_neg h, ih]

/-- The value of a listed key where every value was changed. -/
theorem get_map_of_find {α β : Type} [DecidableEq α] {l : AL α β} {k : α} {v : β} (d : β) (g : α × β → β)
    (h : AL.find? l k = some v) : AL.get d (l.map fun p => (p.1, g p)) k = g (k, v) := by
  rw [AL.get, find_map, h]
  rfl

/-! ### Events -/

section

variable {s : State} {v : Word} {k : Nat}

theorem anyValid_iff : anyValid s = true ↔ ∃ p ∈ s.parts, p.2.valid = true := List.any_eq_true

theorem anyValid_false (h : ∀ p ∈ s.parts, p.2.valid = false) : anyValid s = false :=
  List.any_eq_false.2 fun p hp => by rw [h p hp]; exact Bool.false_ne_true

/-- The flits that failed authentication at a port within the window, this one among them (R396). -/
theorem failures_with (l : List (Nat × Nat)) (port clock : Nat) :
    (((port, clock) :: l).filter fun d => d.1 == port).length = (l.filter fun d => d.1 == port).length + 1 := by
  rw [List.filter_cons, if_pos (beq_self_eq_true port), List.length_cons]

/-- An offset that was set so that partition time is `time` makes it so (R399). -/
theorem steered_time {time x : Nat} (h : time < 2 ^ 64) : ((time + 2 ^ 64 - x % 2 ^ 64) % 2 ^ 64 + x) % 2 ^ 64 = time := by
  omega

/-- Devices that do not span devices are not told of a lost clock (R399, log 5). -/
theorem tell_none {l : List (Nat × VDev)} (h : ∀ v ∈ l, policyField v.2 65 65 ≠ 1) (s : State) :
    l.foldl (fun s v => if spans v.2 then postNotice s v.2 0x20 else s) s = s := by
  induction l generalizing s with
  | nil => rfl
  | cons v l ih =>
    obtain ⟨hv, hl⟩ := List.forall_mem_cons.1 h
    rw [List.foldl_cons, if_neg (by rw [spans, beq_iff_eq]; exact hv)]
    exact ih hl s

end

/-- Settles O50: each event is one record of the device's links, clocks or drives. -/
theorem linksClocksAndDrivesTakeEffect : Obligations.LinksClocksAndDrivesTakeEffect := by
  refine ⟨fun s v hv => ?_, fun s v hv => ?_, fun s port hport => ?_, fun s time p htime hp => ?_, fun s hlost hlate => ?_,
    fun s d => ?_, fun s oid o ho hdel => ?_⟩
  · have hany := anyValid_iff.2 hv
    refine ⟨congrArg Host.Outcome.next (if_pos hany), fun k hk => ?_⟩
    simp only [exec, execKnRouteWrite, if_neg (Nat.not_le.2 hk), hany, if_true, runEvent]
  · have hany := anyValid_false hv
    refine ⟨congrArg Host.Outcome.next (if_neg (by rw [hany]; exact Bool.false_ne_true)), fun k hk => ?_⟩
    simp only [exec, execKnRouteWrite, if_neg (Nat.not_le.2 hk), hany, Bool.false_eq_true, if_false, runEvent]
  · intro old mine
    have hcount : (((port, s.clock) :: old).filter fun d => d.1 == port).length = mine + 1 := failures_with old port s.clock
    refine ⟨fun hfew => ⟨{ s with out := { s.out with drops := (port, s.clock) :: old } }, ?_, rfl, rfl, rfl, rfl⟩,
      fun hmany => ⟨{ s with out := { s.out with 
        drops := ((port, s.clock) :: old).filter fun d => d.1 != port
        linksUp := s.out.linksUp.set port false } }, ?_, rfl, rfl, rfl⟩⟩
    · simp only [exec, execKnanoloFlitAuthFailure, if_neg (Nat.not_le.2 hport), runEvent]
      rw [if_neg (by rw [hcount]; omega)]
    · simp only [exec, execKnanoloFlitAuthFailure, if_neg (Nat.not_le.2 hport), runEvent]
      rw [if_pos (by rw [hcount]; omega)]
  · obtain ⟨q, hq⟩ := hp
    refine ⟨_, rfl, ?_, rfl, rfl, rfl, rfl⟩
    rw [partTime, State.part, get_map_of_find _ (fun p : Nat × Part => p.2.steer _ _) hq]
    exact steered_time htime
  · intro s1
    have hexec : exec .timeSyncLoss s =
        .next (s.hg.vds.foldl (fun s v => if spans v.2 then postNotice s v.2 0x20 else s) s1) := by
      have hdue : (s.out.timeLost || decide (s.clock < s.out.timeAt + 600000000)) = false := by
        rw [hlost, Bool.false_or, decide_eq_false (Nat.not_lt.2 hlate)]
      simp only [exec, execTimeSyncLoss, hdue, Bool.false_eq_true, if_false, runEvent]
      rfl
    refine ⟨fun hnone => by rw [hexec, tell_none hnone], fun k v hvds hspan => ?_⟩
    rw [hexec, hvds, List.foldl_cons, List.foldl_nil, if_pos (by rw [spans, hspan]; rfl)]
    rfl
  · refine ⟨_, rfl, ?_, rfl, fun oid o ho => ?_⟩
    · split
      next h => exact List.contains_iff_mem.1 h
      next => exact List.mem_cons_self
    · have hfind := find_map (fun o : Nat × CvObject => { o.2 with bad := o.2.bad ++
        (o.2.written.filter fun p => Config.driveOf o.1 p == d).filter fun p => !o.2.bad.contains p }) s.out.objects oid
      rw [ho] at hfind
      refine ⟨_, hfind, rfl, fun p => ?_⟩
      simp only [List.mem_append, List.mem_filter, beq_iff_eq, Bool.not_eq_true', List.contains_eq_mem,
        decide_eq_false_iff_not]
      tauto
  · refine ⟨clearKeys { s with out := { s.out with objects := AL.del s.out.objects oid } } (flashKey oid 0 0) (2 ^ 50), ?_,
      find_del_self _ _, fun k hlo hhi => read_clearKeys_inside _ hlo hhi⟩
    simp only [exec, execCulvertDeletionComplete, ho, bind, Option.bind, hdel, if_true, runEvent]

end Sys2Proof.Proofs

/-! ## System instructions and privileged registers

What a visible write leaves unchanged, and `trap`, `brk`, `rdctr`, `csr.rd`, `csr.wr` and the register write (O45). -/

namespace Sys2Proof.Proofs

open Sys2Proof Sys2Proof.Machine Sys2Proof.Laws

/-! ### Visible writes -/

/-- Only memory with its marks, units and clusters have changed. -/
def OnlyMemory (s t : State) : Prop :=
  t = { s with mem := t.mem, enc := t.enc, poison := t.poison, clusters := t.clusters, units := t.units, pageRecs := t.pageRecs }

namespace OnlyMemory

variable {s t u : State}

theorem refl (s : State) : OnlyMemory s s := rfl

theorem trans (h : OnlyMemory s t) (g : OnlyMemory t u) : OnlyMemory s u := by
  unfold OnlyMemory at h g ⊢
  rw [g, h]

theorem foldl {α : Type} (g : State → α → State) (hg : ∀ s a, OnlyMemory s (g s a)) (l : List α) :
    ∀ s, OnlyMemory s (l.foldl g s) := by
  induction l with
  | nil => exact refl
  | cons a l ih => exact fun s => (hg s a).trans (ih _)

theorem device (h : OnlyMemory s t) : SameDevice s t :=
  h ▸ ⟨rfl, rfl, rfl, rfl, rfl, rfl, rfl, rfl, rfl, rfl⟩

theorem regions (h : OnlyMemory s t) : t.regions = s.regions := h ▸ rfl

theorem net (h : OnlyMemory s t) : t.net = s.net := h ▸ rfl

theorem frames (h : OnlyMemory s t) : t.frames = s.frames := h ▸ rfl

theorem part (h : OnlyMemory s t) (p : Nat) : t.part p = s.part p := by
  rw [State.part, State.part, h]

theorem landWrite (s : State) (line : Nat) (cells : List Host.Cell) (d : Option Desc) (e : Option EncTag) :
    OnlyMemory s (landWrite s line cells d e) := rfl

theorem landHeld (s : State) (line : Nat) (p : Nat → HeldStore → Bool) : OnlyMemory s (landHeld s line p) :=
  (foldl _ (fun s (e : HeldStore) => landWrite s e.line e.bytes e.desc e.enc) _ s).trans rfl

theorem landAll (s : State) : OnlyMemory s (landAll s) := foldl _ (fun s _ => landHeld s _ _) _ s

theorem drainLine (s : State) (line : Nat) (p : Nat → HeldStore → Bool) : OnlyMemory s (drainLine s line p) := by
  refine (landHeld s line p).trans ?_
  simp only [Machine.drainLine]
  split
  · exact landAll _
  · exact refl _

theorem drainWhere (s : State) (p : Nat → HeldStore → Bool) : OnlyMemory s (drainWhere s p) :=
  foldl _ (fun s _ => drainLine s _ _) _ s

/-- A visible write changes only memory, its marks, and what units and clusters hold of it (R129). -/
theorem visibleWrite (s : State) (line : Nat) (cells : List Host.Cell) (d : Option Desc) (e : Option EncTag) :
    OnlyMemory s (visibleWrite s line cells d e) := by
  unfold Machine.visibleWrite
  refine trans ?_ (landWrite _ _ _ _ _)
  split
  · exact drainWhere _ _
  · exact drainLine _ _ _

theorem setPendBit (s : State) (p qid : Nat) (v : Bool) : OnlyMemory s (setPendBit s p qid v) := by
  unfold Machine.setPendBit
  split
  · exact visibleWrite _ _ _ _ _
  · exact refl s

end OnlyMemory

section

variable {s s1 s2 t : State} {c : Cur} {n : Nd} {a b : Opd} {x y : Scalar} {p num k : Nat} {v : Word}

/-! ### Nodes that end and nodes that fault -/

/-- A node whose meaning answers a state ends in it (R13). -/
theorem ends_of {i : Instr} {op : Nat} {p q : Src} {body : State → Cur → Res State} (he : exec i s = runNode op p q s body)
    (hf : Fires s c op) (h : body s.base c = .ok t) : Ends i s c op t :=
  he.trans (runNode_ok hf.1 hf.2 h)

/-- A node whose meaning faults takes the fault (R13). -/
theorem faults_of {i : Instr} {op : Nat} {body : State → Cur → Res State} {cause : Cause} {detail : Nat}
    (he : exec i s = runNode op n.a n.b s body) (hf : Fires s c op) (h : body s.base c = flt cause detail)
    (hmask : cause ≠ .featureMasked) (hmem : cause ≠ .poolError ∧ cause ≠ .memError) : Faults i s c op n cause detail :=
  he.trans (runNode_faults hf.1 hf.2 h hmask hmem)

/-! ### Privileged registers -/

/-- A register number in range (R315). -/
theorem csrNumber_ok (hx : asScalar a [.i64, .u64] = .ok x) (hs : x.sc = false) (h : x.val.toNat < 2 ^ 12) :
    csrNumber a = .ok x.val.toNat := by
  have hrange : (x.val.toNat / 2 ^ 12 == 0) = true := beq_iff_eq.2 (Nat.div_eq_of_lt h)
  simp only [csrNumber, scalarU_ok hx hs, hrange, need, bind, Except.bind]
  rfl

/-- A number of more than 12 bits names no register (R315). -/
theorem csrNumber_beyond (hx : asScalar a [.i64, .u64] = .ok x) (hs : x.sc = false) (h : 2 ^ 12 ≤ x.val.toNat) :
    csrNumber a = flt .csr (x.val.toNat % 2 ^ 12) := by
  have hrange : (x.val.toNat / 2 ^ 12 == 0) = false := beq_eq_false_iff_ne.2 (by omega)
  have hbits : bits x.val.toNat 11 0 = x.val.toNat % 2 ^ 12 := by simp only [bits, Nat.pow_zero, Nat.div_one]
  simp only [csrNumber, scalarU_ok hx hs, hrange, hbits, need, bind, Except.bind]
  rfl

/-- The registers of Table 12-2 that have a number of their own. -/
theorem readPriv_listed (s : State) (p : Nat) : ∀ num v, (num, v) ∈ ([(0x000, (s.part p).cfg.toNat), (0x001, s.partMap.toNat),
    (0x010, (s.part p).sluiceDrop.toNat), (0x011, (s.part p).sluiceCnt.toNat), (0x020, s.edgeCal.toNat % 2 ^ 64),
    (0x021, s.edgeCal.toNat / 2 ^ 64 % 2 ^ 64), (0x040, (s.part p).slotCtl.toNat), (0x050, (s.part p).evtQueue.toNat),
    (0x051, (s.part p).evtLost), (0x060, (s.part p).qpendBase.toNat), (0x070, grantUse s p),
    (0x300, (s.part p).retired.toNat), (0x310, scrubWord s p)] : List (Nat × Nat)) → readPriv s p num = some v := by
  intro num v h
  simp only [List.mem_cons, Prod.mk.injEq, List.not_mem_nil, or_false] at h
  rcases h with ⟨rfl, rfl⟩ | ⟨rfl, rfl⟩ | ⟨rfl, rfl⟩ | ⟨rfl, rfl⟩ | ⟨rfl, rfl⟩ | ⟨rfl, rfl⟩ | ⟨rfl, rfl⟩ | ⟨rfl, rfl⟩ |
    ⟨rfl, rfl⟩ | ⟨rfl, rfl⟩ | ⟨rfl, rfl⟩ | ⟨rfl, rfl⟩ | ⟨rfl, rfl⟩ <;> simp [readPriv, bits]

theorem readPriv_hashMask (s : State) (p : Nat) (hk : k < 5) :
    readPriv s p (0x030 + k) = some ((s.part p).hashMask.getD k 0).toNat := by
  simp (disch := omega) only [readPriv, if_neg, if_pos, Nat.add_sub_cancel_left]

/-- A slot entry reads as it is staged, where it is (R322). -/
theorem readPriv_slot (s : State) (p : Nat) (hk : k < 64) : readPriv s p (0x100 + k) =
    some (((s.part p).slotStaged.getD k none).getD ((s.part p).slotEnt.getD k 0)).toNat := by
  simp (disch := omega) only [readPriv, if_neg, if_pos, Nat.add_sub_cancel_left]

theorem readPriv_qslot (s : State) (p : Nat) (hk : k < 64) :
    readPriv s p (0x200 + k) = some ((s.part p).qslot.getD k 0).toNat := by
  simp (disch := omega) only [readPriv, if_neg, if_pos, Nat.add_sub_cancel_left]

/-- Every other number names no register (R316). -/
theorem readPriv_none (h : num ∉ [0x000, 0x001, 0x010, 0x011, 0x020, 0x021, 0x040, 0x050, 0x051, 0x060, 0x070, 0x300, 0x310])
    (hmask : ¬ (0x030 ≤ num ∧ num ≤ 0x034)) (hslot : ¬ (0x100 ≤ num ∧ num ≤ 0x13F)) (hq : ¬ (0x200 ≤ num ∧ num ≤ 0x23F)) :
    readPriv s p num = none := by
  simp only [List.mem_cons, List.not_mem_nil, or_false, not_or] at h
  simp (disch := omega) only [readPriv, if_neg]

/-- The numbers that take no write (R316). -/
theorem writePriv_none (h : num ∉ [0x010, 0x011, 0x040, 0x050, 0x051, 0x060, 0x300])
    (hmask : ¬ (0x030 ≤ num ∧ num ≤ 0x034)) (hslot : ¬ (0x100 ≤ num ∧ num ≤ 0x13F)) (hq : ¬ (0x200 ≤ num ∧ num ≤ 0x23F)) :
    writePriv s p num v = none := by
  simp only [List.mem_cons, List.not_mem_nil, or_false, not_or] at h
  simp (disch := omega) only [writePriv, if_neg]

theorem writePriv_drop (s : State) (p : Nat) (v : Word) : writePriv s p 0x010 v =
    some (if bitAt v.toNat 63 then s else s.modPart p fun q => { q with sluiceDrop := 0 }, false) := by
  rw [writePriv, if_pos rfl]
  cases bitAt v.toNat 63 <;> rfl

theorem writePriv_hashMask (s : State) (p : Nat) (v : Word) (hk : k < 5) : writePriv s p (0x030 + k) v =
    if residentIn s p = true then some (s, true) else some (s.modPart p fun q =>
      { q with hashMask := q.hashMask.set k (BitVec.ofNat 64 (bits v.toNat 51 12 * 2 ^ 12)) }, false) := by
  simp (disch := omega) only [writePriv, if_neg, if_pos, Nat.add_sub_cancel_left]

theorem writePriv_slot (s : State) (p : Nat) (v : Word) (hk : k < 64) : writePriv s p (0x100 + k) v =
    some (s.modPart p fun q => { q with
      slotStaged := q.slotStaged.set k (some (BitVec.ofNat 64 ((bitAt v.toNat 15).toNat * 2 ^ 15 + v.toNat % 2 ^ 10))) }, false) := by
  have hlow : bits v.toNat 9 0 = v.toNat % 2 ^ 10 := by simp only [bits, Nat.pow_zero, Nat.div_one]
  simp (disch := omega) only [writePriv, if_neg, if_pos, Nat.add_sub_cancel_left, hlow]

theorem writePriv_qslot (s : State) (p : Nat) (v : Word) (hk : k < 64) : writePriv s p (0x200 + k) v =
    if mapsTwice s p k v = true then none else some (writeQslot s p k v, false) := by
  simp (disch := omega) only [writePriv, if_neg, if_pos, Nat.add_sub_cancel_left]

/-- `QPEND_BASE` takes no write while a queue is mapped (R326). -/
theorem writePriv_base_mapped (h : ∃ w ∈ (s.part p).qslot, Qs.valid w = true) : writePriv s p 0x060 v = some (s, true) := by
  have hany : (s.part p).qslot.any Qs.valid = true := List.any_eq_true.2 h
  simp only [writePriv, hany, Bool.true_or, if_true]
  rfl

theorem writePriv_base (h : ∀ w ∈ (s.part p).qslot, Qs.valid w = false) (hv : v.toNat / 2 ^ 56 = 0xFC) :
    writePriv s p 0x060 v = some (s.modPart p fun q => { q with qpendBase := v }, false) := by
  have hany : (s.part p).qslot.any Qs.valid = false :=
    List.any_eq_false.2 fun w hw => by rw [h w hw]; exact Bool.false_ne_true
  simp only [writePriv, hany, hv, Bool.false_or, bne_self_eq_false, Bool.false_eq_true, if_false]
  rfl

/-! ### Queue slots -/

/-- A write maps a queue twice where another slot holds it (R325). -/
theorem mapsTwice_iff : mapsTwice s p k v = true ↔ Qs.valid v = true ∧ ∃ j, j < 64 ∧ j ≠ k ∧
    Qs.valid ((s.part p).qslot.getD j 0) = true ∧ Qs.qid ((s.part p).qslot.getD j 0) = Qs.qid v := by
  simp only [mapsTwice, Bool.and_eq_true, List.any_eq_true, List.mem_range, bne_iff_ne, ne_eq, beq_iff_eq, and_assoc]

/-- The word of a queue slot from its fields (Table 12-5). -/
def qslotWord (v : Word) (pend run : Bool) : Word :=
  BitVec.ofNat 64 (bits v.toNat 63 62 * 2 ^ 62 + pend.toNat * 2 ^ 61 + run.toNat * 2 ^ 60 + bits v.toNat 59 42 * 2 ^ 42)

theorem qslotWord_fields (v : Word) (pend run : Bool) : Qs.valid (qslotWord v pend run) = Qs.valid v ∧
    Qs.pre (qslotWord v pend run) = Qs.pre v ∧ Qs.qid (qslotWord v pend run) = Qs.qid v ∧
    Qs.pend (qslotWord v pend run) = pend ∧ Qs.run (qslotWord v pend run) = run := by
  have hv := v.isLt
  have hword : (qslotWord v pend run).toNat =
      v.toNat / 2 ^ 62 * 2 ^ 62 + pend.toNat * 2 ^ 61 + run.toNat * 2 ^ 60 + v.toNat / 2 ^ 42 % 2 ^ 18 * 2 ^ 42 := by
    have hp := Bool.toNat_le pend
    have hr := Bool.toNat_le run
    simp only [qslotWord, bits, BitVec.toNat_ofNat]
    omega
  have hbit (b : Bool) : (b.toNat == 1) = b := by cases b <;> rfl
  have hp := Bool.toNat_le pend
  have hr := Bool.toNat_le run
  refine ⟨?_, ?_, ?_, ?_, ?_⟩
  · exact congrArg (· == 1) (by rw [hword]; omega)
  · exact congrArg (· == 1) (by rw [hword]; omega)
  · simp only [Qs.qid, bits, hword]
    omega
  · exact (congrArg (· == 1) (by rw [hword]; omega : (qslotWord v pend run).toNat / 2 ^ 61 % 2 = pend.toNat)).trans (hbit _)
  · exact (congrArg (· == 1) (by rw [hword]; omega : (qslotWord v pend run).toNat / 2 ^ 60 % 2 = run.toNat)).trans (hbit _)

/-- The state in which a slot's word is written: the bitmap has been told of the queue that leaves and of the one that comes
(R326). -/
theorem writeQslot_of (s : State) (p : Nat) (v : Word) (hk : k < 64) (hlen : (s.part p).qslot.length = 64) :
    ∃ s1 pend run, OnlyMemory s s1 ∧
      writeQslot s p k v = s1.modPart p (fun q => { q with qslot := q.qslot.set k (qslotWord v pend run) }) ∧
      ((writeQslot s p k v).part p).qslot.getD k 0 = qslotWord v pend run ∧
      (Qs.valid ((s.part p).qslot.getD k 0) = true → Qs.valid v = true →
        Qs.qid ((s.part p).qslot.getD k 0) = Qs.qid v →
        pend = Qs.pend v ∧ run = Qs.run ((s.part p).qslot.getD k 0) ∧ s1 = s) ∧
      (Qs.valid ((s.part p).qslot.getD k 0) = false → Qs.valid v = true →
        pend = (Qs.pend v || pendBit s p (Qs.qid v)) ∧ run = queueRuns s p (Qs.qid v)) := by
  unfold writeQslot
  extract_lets old keep s1 moved s2 run pend w
  have h1 : OnlyMemory s s1 := by
    simp only [s1]
    split
    · exact .setPendBit _ _ _ _
    · exact .refl s
  have h2 : OnlyMemory s s2 := by
    refine h1.trans ?_
    simp only [s2]
    split
    · exact .setPendBit _ _ _ _
    · exact .refl s1
  have hslot : ((s2.modPart p fun q => { q with qslot := q.qslot.set k (BitVec.ofNat 64 w) }).part p).qslot.getD k 0 =
      BitVec.ofNat 64 w := by
    have hlt : k < (s2.part p).qslot.length := by rw [h2.part, hlen]; exact hk
    rw [part_modPart]
    simp only [List.getD_eq_getElem?_getD, List.getElem?_set_self hlt, Option.getD_some]
  refine ⟨s2, pend, run, h2, rfl, hslot, fun hold hv hq => ?_, fun hold hv => ?_⟩
  · have hkeep : keep = true := by simp only [keep, old, hold, hv, hq, beq_self_eq_true, Bool.and_self]
    have hs1 : s1 = s := by simp only [s1, hkeep, Bool.not_true, Bool.and_false, Bool.false_and, Bool.false_eq_true, if_false]
    have hmoved : moved = false := by simp only [moved, hkeep, Bool.not_true, Bool.and_false, Bool.false_and]
    refine ⟨?_, ?_, ?_⟩
    · simp only [pend, hmoved, Bool.or_false]
    · simp only [run, hkeep, if_true, old]
    · simp only [s2, hmoved, Bool.false_eq_true, if_false, hs1]
  · have hkeep : keep = false := by simp only [keep, old, hold, Bool.false_and]
    have hs1 : s1 = s := by simp only [s1, old, hold, Bool.false_and, Bool.false_eq_true, if_false]
    have hmoved : moved = pendBit s p (Qs.qid v) := by
      simp only [moved, hkeep, hv, hs1, Bool.not_false, Bool.and_true, Bool.true_and]
    refine ⟨?_, ?_⟩
    · simp only [pend, hmoved]
    · simp only [run, hkeep, hv, Bool.true_and, Bool.false_eq_true, if_false, queueRuns, h2.regions]

/-! ### Nodes of registers -/

/-- A read of a register emits its value (R315). -/
theorem csrRd_ends (hf : Fires s c 0xFB) (hr : ReadsA s c n a s1) (hx : asScalar a [.i64, .u64] = .ok x) (hs : x.sc = false)
    (ho : orderOk c.f.o = .ok ()) {w : Nat} (hw : readPriv s1 (partOf s1 c.u.cl) x.val.toNat = some w)
    (hnum : x.val.toNat < 2 ^ 12) (he : CanSay s1 c n) : ∃ t, Says s1 c n w .u64 t ∧ Ends (.csrRd n) s c 0xFB t := by
  obtain ⟨t, ht⟩ := finish_ok (p := plain (BitVec.ofNat 64 w) .u64) he
  refine ⟨t, ht, ends_of (Eq.refl (execCsrRd n s)) hf ?_⟩
  simp only [bind, Except.bind, hr, csrNumber_ok hx hs hnum, ho, hw, ht]

theorem csrRd_faults (hf : Fires s c 0xFB) (hr : ReadsA s c n a s1) (hx : asScalar a [.i64, .u64] = .ok x) (hs : x.sc = false)
    (ho : orderOk c.f.o = .ok ()) (hw : readPriv s1 (partOf s1 c.u.cl) x.val.toNat = none) (hnum : x.val.toNat < 2 ^ 12) :
    Faults (.csrRd n) s c 0xFB n .csr x.val.toNat := by
  refine faults_of (Eq.refl (execCsrRd n s)) hf ?_ (by decide) (by decide)
  simp only [bind, Except.bind, hr, csrNumber_ok hx hs hnum, ho, hw]

theorem csrRd_beyond (hf : Fires s c 0xFB) (hr : ReadsA s c n a s1) (hx : asScalar a [.i64, .u64] = .ok x)
    (hs : x.sc = false) (hnum : 2 ^ 12 ≤ x.val.toNat) : Faults (.csrRd n) s c 0xFB n .csr (x.val.toNat % 2 ^ 12) := by
  refine faults_of (Eq.refl (execCsrRd n s)) hf ?_ (by decide) (by decide)
  simp only [bind, Except.bind, hr]
  rw [csrNumber_beyond hx hs hnum]
  rfl

/-- A write that a register takes, or refuses by its rule, emits its status (R315). -/
theorem csrWr_ends (hf : Fires s c 0xFB) (hr : ReadsAB s c n a b s2) (hx : asScalar a [.i64, .u64] = .ok x) (hs : x.sc = false)
    (hy : asScalar b [.i64, .u64] = .ok y) (hsy : y.sc = false) (ho : orderOk c.f.o = .ok ()) {refused : Bool}
    (hw : writePriv (makeIrrevocable s2 c.f.rid) (partOf s2 c.u.cl) x.val.toNat y.val = some (t, refused))
    (hnum : x.val.toNat < 2 ^ 12) (he : CanEmit t c n b.pay false) :
    ∃ t', finish t c n b.pay (plain (BitVec.ofNat 64 refused.toNat) .i64) = .ok t' ∧ Ends (.csrWr n) s c 0xFB t' := by
  obtain ⟨s1, ha, hb⟩ := hr
  obtain ⟨t', ht⟩ := finish_ok (p := plain (BitVec.ofNat 64 refused.toNat) .i64) he
  refine ⟨t', ht, ends_of (Eq.refl (execCsrWr n s)) hf ?_⟩
  simp only [bind, Except.bind, ha, hb, csrNumber_ok hx hs hnum, scalarU_ok hy hsy, ho, hw, ht]

theorem csrWr_faults (hf : Fires s c 0xFB) (hr : ReadsAB s c n a b s2) (hx : asScalar a [.i64, .u64] = .ok x)
    (hs : x.sc = false) (hy : asScalar b [.i64, .u64] = .ok y) (hsy : y.sc = false) (ho : orderOk c.f.o = .ok ())
    (hw : writePriv (makeIrrevocable s2 c.f.rid) (partOf s2 c.u.cl) x.val.toNat y.val = none) (hnum : x.val.toNat < 2 ^ 12) :
    Faults (.csrWr n) s c 0xFB n .csr x.val.toNat := by
  obtain ⟨s1, ha, hb⟩ := hr
  refine faults_of (Eq.refl (execCsrWr n s)) hf ?_ (by decide) (by decide)
  simp only [bind, Except.bind, ha, hb, csrNumber_ok hx hs hnum, scalarU_ok hy hsy, ho, hw]

theorem csrWr_beyond (hf : Fires s c 0xFB) (hr : ReadsAB s c n a b s2) (hx : asScalar a [.i64, .u64] = .ok x)
    (hs : x.sc = false) (hnum : 2 ^ 12 ≤ x.val.toNat) : Faults (.csrWr n) s c 0xFB n .csr (x.val.toNat % 2 ^ 12) := by
  obtain ⟨s1, ha, hb⟩ := hr
  refine faults_of (Eq.refl (execCsrWr n s)) hf ?_ (by decide) (by decide)
  simp only [bind, Except.bind, ha, hb]
  rw [csrNumber_beyond hx hs hnum]
  rfl

end

/-! ### `trap`, `brk`, `rdctr` -/

/-- `trap` takes its fault (R297). -/
theorem trap_faults (n : Nd) (k : BitVec 4) (s : State) (c : Cur) (a : Opd) (s1 : State) (hf : Fires s c 0xF8)
    (hr : ReadsA s c n a s1) : Faults (.trap n k) s c 0xF8 n .trap k.toNat := by
  refine faults_of (Eq.refl (execTrap n k s)) hf ?_ (by decide) (by decide)
  simp only [bind, Except.bind, hr]

/-- Whether the policy of a region's device permits debug (R298). -/
theorem debugOn_iff (s : State) (rid : Nat) : debugOn s rid = true ↔
    ∃ v, vdOf s (s.region rid).vd = some v ∧ (policyField v 62 61 = 1 ∨ policyField v 62 61 = 2) := by
  unfold debugOn
  cases h : vdOf s (s.region rid).vd with
  | none => simp
  | some v => simp

/-- `brk` emits its operand, or is withheld for the debugger (R298, R387). -/
theorem brk_emits_or_waits (n : Nd) (s : State) (c : Cur) (a : Opd) (s1 : State) (hf : Fires s c 0xF9)
    (hr : ReadsA s c n a s1) :
    let debug := ∃ v, vdOf s1 (s1.region c.f.rid).vd = some v ∧ (policyField v 62 61 = 1 ∨ policyField v 62 61 = 2)
    (¬ debug ∨ c.f.stage ≠ 0 ∨ (s1.region c.f.rid).yield ≠ none → CanEmit s1 c n (plain 0 .i64) a.pay.scaled →
      ∃ t, finish s1 c n (plain 0 .i64) a.pay = .ok t ∧ Ends (.brk n) s c 0xF9 t) ∧
    (debug → c.f.stage = 0 → (s1.region c.f.rid).yield = none → Ends (.brk n) s c 0xF9 { s1 with
      nextId := s1.nextId + 1
      units := AL.set s1.units c.u { s1.unit c.u with
        withheld := (s1.unit c.u).withheld ++ [(s1.nextId, { c.f with stage := 1 })] } }) := by
  intro debug
  have hiff : debugOn s1 c.f.rid = true ↔ debug := debugOn_iff s1 c.f.rid
  refine ⟨fun hpass he => ?_, fun hd hst hy => ends_of (Eq.refl (execBrk n s)) hf ?_⟩
  · have hcond : ¬ (debugOn s1 c.f.rid && c.f.stage = 0 && (s1.region c.f.rid).yield.isNone) = true := by
      simp only [Bool.and_eq_true, decide_eq_true_eq, Option.isNone_iff_eq_none, hiff]
      exact fun ⟨⟨hd, hst⟩, hy⟩ => hpass.elim (absurd hd) fun h => h.elim (absurd hst) (absurd hy)
    obtain ⟨t, ht⟩ := finish_ok he
    refine ⟨t, ht, ends_of (Eq.refl (execBrk n s)) hf ?_⟩
    simp only [bind, Except.bind, hr, if_neg hcond, ht]
  · have hcond : (debugOn s1 c.f.rid && c.f.stage = 0 && (s1.region c.f.rid).yield.isNone) = true := by
      rw [hiff.2 hd, hst, hy]
      rfl
    simp only [bind, Except.bind, hr, if_pos hcond]
    rfl

/-- `rdctr` emits the counter it names (R299); partition time is taken modulo 2^64. -/
theorem rdctr_says (n : Nd) (k : BitVec 4) (v : Nat) (s : State) (c : Cur) (hk : (k, v) ∈ ([(0, s.clock),
      (1, (s.unit c.u).fired), (2, (s.unit c.u).ovDiscard), (3, spillUse (s.unit c.u)), (4, (s.unit c.u).grantWait),
      (5, (s.unit c.u).rebuilds), (6, (s.part (partOf s c.u.cl)).ptime + s.clock * 5 / 3)] : List (BitVec 4 × Nat)))
    (hf : Fires s c 0xFA) (he : CanSay s.base c n) : ∃ t, Says s.base c n v .u64 t ∧ Ends (.rdctr n k) s c 0xFA t := by
  have hcount : BitVec.ofNat 64 (counter s.base c.u k.toNat) = BitVec.ofNat 64 v := by
    simp only [List.mem_cons, Prod.mk.injEq, List.not_mem_nil, or_false] at hk
    rcases hk with ⟨rfl, rfl⟩ | ⟨rfl, rfl⟩ | ⟨rfl, rfl⟩ | ⟨rfl, rfl⟩ | ⟨rfl, rfl⟩ | ⟨rfl, rfl⟩ | ⟨rfl, rfl⟩
    iterate 6 rfl
    exact ofNat_mod_two_pow _ _
  obtain ⟨t, ht⟩ := finish_ok (p := plain (BitVec.ofNat 64 v) .u64) he
  refine ⟨t, ht, ends_of (Eq.refl (execRdctr n k s)) hf ?_⟩
  rw [hcount]
  exact ht

/-- A store of the device in a register keeps the register's layout (R9, R315). -/
theorem registerWrite_stores (p v : Nat) (s : State) :
    exec (.registerWrite p 0x040 v) s = .next (s.modPart p fun q => { q with
        slotCtl := slotCtlWord (bitAt v 63) (curSlot q) (holder q) }) ∧
    exec (.registerWrite p 0x050 v) s = .next (s.modPart p fun q => { q with evtQueue := BitVec.ofNat 64 v }) ∧
    exec (.registerWrite 0 0x1208 v) s = .next { s with hg := { s.hg with recoveryLen := BitVec.ofNat 32 v } } ∧
    ∀ num (g : FnRegs → FnRegs), (num, g) ∈ ([
        (0x1000, fun r => { r with cmdring := BitVec.ofNat 64 (v % 2 ^ 64 / 4096 * 4096 + v % 16) }),
        (0x1010, fun r => { r with cplring := BitVec.ofNat 64 (v % 2 ^ 64 / 4096 * 4096 + v % 16) }),
        (0x1018, fun r => { r with cplhead := BitVec.ofNat 64 v })] : List (Nat × (FnRegs → FnRegs))) →
      exec (.registerWrite p num v) s = .next (modFn s p g) := by
  have hbit : bitAt (BitVec.ofNat 64 v).toNat 63 = bitAt v 63 := by
    simp only [bitAt, BitVec.toNat_ofNat]
    exact congrArg (· == 1) (by omega)
  have hring : bits (BitVec.ofNat 64 v).toNat 63 12 * 2 ^ 12 + bits (BitVec.ofNat 64 v).toNat 3 0 =
      v % 2 ^ 64 / 4096 * 4096 + v % 16 := by
    simp only [bits, BitVec.toNat_ofNat]
    omega
  have hlen : (BitVec.ofNat 64 v).setWidth 32 = BitVec.ofNat 32 v := by
    rw [BitVec.setWidth_ofNat_of_le (by decide)]
  refine ⟨?_, rfl, ?_, fun num g h => ?_⟩
  · rw [← hbit]
    rfl
  · rw [← hlen]
    rfl
  · simp only [List.mem_cons, Prod.mk.injEq, List.not_mem_nil, or_false] at h
    rw [← hring] at h
    rcases h with ⟨rfl, rfl⟩ | ⟨rfl, rfl⟩ | ⟨rfl, rfl⟩ <;> rfl

/-- Settles O45: each register number by the lemma that says what reading or writing it does. -/
theorem systemInstructionsAndPrivilegedRegisters : Obligations.SystemInstructionsAndPrivilegedRegisters := by
  refine ⟨⟨trap_faults, brk_emits_or_waits, rdctr_says⟩, ?_, ?_, registerWrite_stores⟩
  · intro n s c a s1 x hf hr hx hs num p q gives
    have reads (ho : orderOk c.f.o = .ok ()) {v : Nat} (hnum : num < 2 ^ 12) (hv : readPriv s1 p num = some v) : gives v :=
      csrRd_ends hf hr hx hs ho hv hnum
    refine ⟨csrRd_beyond hf hr hx hs, fun ho => ⟨fun v hv => ?_,
      fun k hk hnum => ?_, fun k e hk hnum he => ?_, fun k hk hnum he => ?_, fun k hk hnum => ?_,
      fun hlt hlist hmask hslot hq => csrRd_faults hf hr hx hs ho (readPriv_none hlist hmask hslot hq) hlt⟩⟩
    · have hlt : num < 2 ^ 12 := by
        simp only [List.mem_cons, Prod.mk.injEq, List.not_mem_nil, or_false] at hv
        omega
      exact reads ho hlt (readPriv_listed s1 p num v hv)
    · exact reads ho (by omega) (hnum ▸ readPriv_hashMask s1 p hk)
    · refine reads ho (by omega) (hnum ▸ (readPriv_slot s1 p hk).trans ?_)
      rw [he]
      rfl
    · refine reads ho (by omega) (hnum ▸ (readPriv_slot s1 p hk).trans ?_)
      rw [he]
      rfl
    · exact reads ho (by omega) (hnum ▸ readPriv_qslot s1 p hk)
  · intro n s c a b s2 x y hf hr hx hs hy hsy num v p s3 q ends
    have writes (ho : orderOk c.f.o = .ok ()) {t : State} {refused : Bool} (hnum : num < 2 ^ 12)
        (hw : writePriv s3 p num v = some (t, refused)) : ends t refused.toNat :=
      csrWr_ends hf hr hx hs hy hsy ho hw hnum
    refine ⟨csrWr_beyond hf hr hx hs, fun ho => ⟨fun hnum => ?_, fun hnum => ?_, fun k hk hnum => ?_, fun hnum => ?_, fun hnum => ?_,
      fun hnum => ?_, fun hnum hmapped => ?_, fun hnum hfree hv => ?_, fun k hk hnum => ?_, fun k hk hnum hlen => ⟨?_, ?_⟩,
      fun hnum => ?_, fun hlt hlist hmask hslot hq =>
        csrWr_faults hf hr hx hs hy hsy ho (writePriv_none hlist hmask hslot hq) hlt⟩⟩
    · exact writes (refused := false) ho (by omega) (by rw [hnum, writePriv_drop])
    · exact writes (refused := false) ho (by omega) (by rw [hnum]; rfl)
    · have hw := hnum ▸ writePriv_hashMask s3 p v hk
      split
      next hres => exact writes (refused := true) ho (by omega) (hw.trans (if_pos hres))
      next hres => exact writes (refused := false) ho (by omega) (hw.trans (if_neg hres))
    · exact writes (refused := false) ho (by omega) (by rw [hnum]; rfl)
    · exact writes (refused := false) ho (by omega) (by rw [hnum]; rfl)
    · exact writes (refused := false) ho (by omega) (by rw [hnum]; rfl)
    · exact writes (refused := true) ho (by omega) (hnum ▸ writePriv_base_mapped hmapped)
    · exact writes (refused := false) ho (by omega) (hnum ▸ writePriv_base hfree hv)
    · exact writes (refused := false) ho (by omega) (hnum ▸ writePriv_slot s3 p v hk)
    · intro hvalid hother
      have htwice : mapsTwice s3 p k v = true := mapsTwice_iff.2 ⟨hvalid, hother⟩
      exact csrWr_faults hf hr hx hs hy hsy ho ((hnum ▸ writePriv_qslot s3 p v hk).trans (if_pos htwice)) (by omega)
    · intro hother t' old w
      have honce : ¬ mapsTwice s3 p k v = true := fun h =>
        let ⟨hvalid, j, hj, hne, hmapped, hid⟩ := mapsTwice_iff.1 h
        hother hvalid j hj hne hmapped hid
      obtain ⟨s4, pend, run, hmem, ht', hw, hkeep, hnew⟩ := writeQslot_of s3 p v hk hlen
      obtain ⟨hvalid, hpre, hid, hpend, hrun⟩ := qslotWord_fields v pend run
      have hword : w = qslotWord v pend run := hw
      refine ⟨writes (refused := false) ho (by omega) ((hnum ▸ writePriv_qslot s3 p v hk).trans (if_neg honce)),
        hword ▸ hvalid, hword ▸ hpre, hword ▸ hid, fun hold hv hsame => ?_, fun hold hv => ?_⟩
      · obtain ⟨hp, hr, hs4⟩ := hkeep hold hv hsame
        refine ⟨hword ▸ hpend.trans hp, hword ▸ hrun.trans hr, ?_⟩
        rw [show t' = _ from ht', hs4]
        rfl
      · obtain ⟨hp, hr⟩ := hnew hold hv
        exact ⟨hword ▸ hpend.trans hp, hword ▸ hrun.trans hr⟩
    · exact writes (refused := false) ho (by omega) (by rw [hnum]; rfl)

end Sys2Proof.Proofs

/-! ## What the commitment of a log leaves of a cluster

The operations that a node makes before its own effect, an interval's commitment and the writing of a frame slot among them,
change of a cluster only its logs and queues and what a write to memory spoils (O37, O39). -/

namespace Sys2Proof.Proofs

open Sys2Proof Sys2Proof.Machine Sys2Proof.Laws

/-- A cluster but for its logs, its write queue, its runs and the marks that a write to memory clears. -/
def coreOf (c : Cluster) : Cluster :=
  { c with writeQ := [], ilog := [], undo := [], drains := [], build := none,
           bankA := { c.bankA with valid := false }, bankB := { c.bankB with valid := false } }

/-- Every cluster is the same but for its logs, its write queue, its runs and the marks that a write to memory clears. -/
def SameCore (s t : State) : Prop := ∀ cl, coreOf (t.cluster cl) = coreOf (s.cluster cl)

namespace SameCore

variable {s t u : State} {cl : Nat}

theorem refl (s : State) : SameCore s s := fun _ => rfl

theorem trans (h : SameCore s t) (g : SameCore t u) : SameCore s u := fun cl => (g cl).trans (h cl)

theorem foldl {α : Type} (g : State → α → State) (hg : ∀ s a, SameCore s (g s a)) (l : List α) :
    ∀ s, SameCore s (l.foldl g s) := by
  induction l with
  | nil => exact refl
  | cons a l ih => exact fun s => (hg s a).trans (ih _)

theorem of_clusters (h : t.clusters = s.clusters) : SameCore s t := fun cl => by simp only [State.cluster, h]

/-- Clusters that are changed one by one, each outside its core, keep their cores. -/
theorem of_map (g : Nat × Cluster → Cluster) (hg : ∀ p, coreOf (g p) = coreOf p.2)
    (h : t.clusters = s.clusters.map fun p => (p.1, g p)) : SameCore s t := by
  intro cl
  simp only [State.cluster, AL.get, h, find_map]
  cases AL.find? s.clusters cl with
  | none => rfl
  | some c => exact hg (cl, c)

theorem modCluster (s : State) (k : Nat) (g : Cluster → Cluster) (hg : ∀ c, coreOf (g c) = coreOf c) :
    SameCore s (s.modCluster k g) := by
  intro cl
  rw [cluster_modCluster]
  split
  next h => rw [hg, h]
  next => rfl

theorem landWrite (s : State) (line : Nat) (cells : List Host.Cell) (d : Option Desc) (e : Option EncTag) :
    SameCore s (landWrite s line cells d e) := by
  refine of_map (fun p => if isHbm line then wakeRuns line p.2 else invalidateBanks line p.2) (fun p => ?_) rfl
  split
  · rfl
  · simp only [coreOf, invalidateBanks, apply_ite, ite_self]

theorem landHeld (s : State) (line : Nat) (p : Nat → HeldStore → Bool) : SameCore s (landHeld s line p) :=
  (foldl _ (fun s (e : HeldStore) => landWrite s e.line e.bytes e.desc e.enc) _ s).trans
    (of_map (fun c => { c.2 with writeQ := c.2.writeQ.filter fun e => !(e.line == line && p c.1 e) }) (fun _ => rfl) rfl)

theorem landAll (s : State) : SameCore s (landAll s) := foldl _ (fun s _ => landHeld s _ _) _ s

theorem drainLine (s : State) (line : Nat) (p : Nat → HeldStore → Bool) : SameCore s (drainLine s line p) := by
  refine (landHeld s line p).trans ?_
  simp only [Machine.drainLine]
  split
  · exact landAll _
  · exact refl _

theorem drainWhere (s : State) (p : Nat → HeldStore → Bool) : SameCore s (drainWhere s p) :=
  foldl _ (fun s _ => drainLine s _ _) _ s

theorem visibleWrite (s : State) (line : Nat) (cells : List Host.Cell) (d : Option Desc) (e : Option EncTag) :
    SameCore s (visibleWrite s line cells d e) := by
  unfold Machine.visibleWrite
  refine trans ?_ (landWrite _ _ _ _ _)
  split
  · exact drainWhere _ _
  · exact drainLine _ _ _

theorem post (s : State) (f : Flit) : SameCore s (Machine.post s f) := of_clusters (post_frames s f).2.1

theorem postCpl (s : State) (fn a b c d : Nat) : SameCore s (postCpl s fn a b c d) := of_clusters rfl

theorem tellLaunch (s : State) (rid cls : Nat) : SameCore s (tellLaunch s rid cls) := by
  unfold Machine.tellLaunch
  split
  · split
    · exact postCpl _ _ _ _ _ _
    · exact refl s
  · exact refl s

theorem ringWrite (s : State) (p : Part) (r : BitVec 512) : SameCore s (ringWrite s p r) :=
  ((visibleWrite _ _ _ _ _).trans (visibleWrite _ _ _ _ _)).trans (post _ _)

/-- Taking a fault leaves the core of every cluster. -/
theorem takeFault (s : State) (w : FaultSite) (f : Flt) : SameCore s (takeFault s w f) := by
  unfold Machine.takeFault
  extract_lets pn p record s1
  split
  · exact (of_clusters rfl : SameCore s (s.modPart pn _)).trans (postCpl _ _ _ _ _ _)
  · refine trans (t := s1) (tellLaunch s w.rid _) ?_
    split
    · exact of_clusters rfl
    · exact ringWrite _ _ _

theorem commitStore (s : State) (k : Nat) (e : LogStore) : SameCore s (commitStore s k e) := by
  unfold Machine.commitStore
  extract_lets t d
  have hdrop : SameCore s t := by
    refine trans (t := if translates s e.line then Machine.landAll s else Machine.drainLine s e.line fun _ _ => true) ?_
      (of_clusters rfl)
    split
    · exact landAll s
    · exact drainLine s _ _
  split
  · exact hdrop.trans (landWrite _ _ _ _ _)
  · exact hdrop.trans (takeFault _ _ _)

theorem commitCluster (s : State) (rid k : Nat) : SameCore s (commitCluster s rid k) :=
  (foldl _ (fun s e => commitStore s k e) _ s).trans
    (modCluster _ k (fun c => { c with ilog := c.ilog.filter (·.rid != rid), undo := c.undo.filter (·.1 != rid) }) fun _ => rfl)

/-- An interval that becomes irrevocable leaves the core of every cluster. -/
theorem makeIrrevocable (s : State) (rid : Nat) : SameCore s (makeIrrevocable s rid) := by
  unfold Machine.makeIrrevocable
  split
  · exact (foldl _ (fun s k => commitCluster s rid k) _ s).trans (of_clusters rfl)
  · exact refl s

theorem logUndo (s : State) (rid k : Nat) (v : Undo) : SameCore s (logUndo s rid k v) := by
  unfold Machine.logUndo
  split
  · split
    · exact makeIrrevocable s rid
    · exact modCluster s k _ fun _ => rfl
  · exact refl s

theorem changeFrame (s : State) (rid k : Nat) (g : Tag) (f : Frame) : SameCore s (changeFrame s rid k g f) :=
  (logUndo s rid k _).trans (of_clusters rfl)

theorem ensureCopy {rid k : Nat} {g : Tag} (h : ensureCopy s rid g k = .ok t) : SameCore s t := by
  unfold Machine.ensureCopy at h
  extract_lets f at h
  split at h
  · cases h
    exact refl s
  · split at h
    · cases h
      exact of_clusters rfl
    · cases h

theorem writeSlot {rid k slot seq : Nat} {g : Tag} {v : Word} (h : writeSlot s rid g k slot v seq = .ok t) : SameCore s t := by
  obtain ⟨_, _, h⟩ := ok_of_bind h
  obtain ⟨s1, h1, h⟩ := ok_of_bind h
  obtain ⟨_, _, h⟩ := ok_of_bind h
  cases h
  refine (ensureCopy h1).trans ?_
  split
  · exact changeFrame _ _ _ _ _
  · exact refl s1

theorem sendTo {c : Cur} {d : Dst} {p : Payload} {g : Tag} (h : sendTo s c d p g = .ok t) : SameCore s t := by
  by_cases hd : d = .slot
  · subst hd
    simp only [Machine.sendTo] at h
    split at h
    · cases h
    · exact writeSlot h
  · exact of_clusters (sendTo_frames h hd).2.1

/-- The tokens of a result leave the core of every cluster. -/
theorem finish {c : Cur} {n : Nd} {b p : Payload} (h : finish s c n b p = .ok t) : SameCore s t := by
  obtain ⟨g, _, h⟩ := ok_of_bind h
  obtain ⟨s1, h1, h⟩ := ok_of_bind h
  rcases of_ite_eq h with h | h
  · cases h
    exact sendTo h1
  · exact (sendTo h1).trans (sendTo h)

theorem tiles (h : SameCore s t) : (t.cluster cl).tiles = (s.cluster cl).tiles := (congrArg Cluster.tiles (h cl) :)

/-- A bank keeps its owner. -/
theorem bankOwner (h : SameCore s t) (b : Nat) : (bankOf t cl b).owner = (bankOf s cl b).owner := by
  unfold bankOf
  split
  · exact (congrArg (fun c : Cluster => c.bankA.owner) (h cl) :)
  · exact (congrArg (fun c : Cluster => c.bankB.owner) (h cl) :)

end SameCore

end Sys2Proof.Proofs

/-! ## Lookup banks

Claims, clearings, releases, the status word and the gating of a bank (O37). -/

namespace Sys2Proof.Proofs

open Sys2Proof Sys2Proof.Machine Sys2Proof.Laws

/-- A key that is written twice has its last value. -/
theorem set_set {α β : Type} [DecidableEq α] (l : AL α β) (k : α) (v w : β) : AL.set (AL.set l k v) k w = AL.set l k w := by
  induction l with
  | nil => exact if_pos rfl
  | cons p l ih =>
    obtain ⟨a, b⟩ := p
    rw [AL.set, AL.set]
    split
    next h => rw [AL.set, if_pos h]
    next h => rw [AL.set, if_neg h, ih]

section

variable {s s2 t : State} {c : Cur} {n : Nd} {a b : Opd} {x : Scalar} {k cl : Nat} {B : Bank}

/-- A lookup-matrix node whose meaning faults takes the fault (R268). -/
theorem lmNode_faults {i : Instr} {op : Nat} {body : State → Cur → Opd → Opd → Res State} {cause : Cause} {detail addr : Nat}
    (he : exec i s = lmNode op n s body) (hf : Fires s c op) (hr : ReadsAB s c n a b s2) (ho : orderOk c.f.o = .ok ())
    (h : body s2 c a b = flt cause detail addr) (hmask : cause ≠ .featureMasked) (hmem : cause ≠ .poolError ∧ cause ≠ .memError) :
    exec i s = .next (takeFault (countRetired s.base c op) (siteOf s c op n.a n.b) ⟨cause, detail, addr⟩) := by
  obtain ⟨s1, ha, hb⟩ := hr
  refine he.trans (runNode_faults hf.1 hf.2 ?_ hmask hmem)
  simp only [bind, Except.bind, ha, hb, ho, h, flt]

/-! ### Banks -/

/-- A bank that is set twice is what it was set to last. -/
theorem setBank_setBank (s : State) (cl b : Nat) (B C : Bank) : setBank (setBank s cl b B) cl b C = setBank s cl b C := by
  simp only [setBank, State.modCluster, State.cluster, set_set, get_set, if_true]
  congr 2
  split <;> rfl

/-- A bank goes to a claim of another region, or of its own once gated, by way of a clearing (R269). -/
theorem grantBank_clears {u : UId} {f : Firing} (h : (bankOf s cl k).last ≠ some f.rid ∨ (bankOf s cl k).gated = true) :
    grantBank s cl k u f = setBank s cl k { bankOf s cl k with
      owner := some f.rid, last := some f.rid, clearing := true, valid := false, auto := false, filled := 0
      gated := false } := by
  refine if_neg ?_
  rw [Bool.and_eq_true, decide_eq_true_eq, Bool.not_eq_true']
  rintro ⟨hlast, hgated⟩
  rcases h with h | h
  · exact h hlast
  · rw [hgated] at h
    cases h

/-! ### Claims -/

/-- What a claim of a bank does (R269). -/
def claimEffect (s : State) (c : Cur) (n : Nd) (k : Nat) : Res State :=
  let B := bankOf s c.u.cl k
  let join := setBank s c.u.cl k { B with claims := B.claims ++ [(c.u, c.f)] }
  if B.owner = some c.f.rid then finish s c n (plain 0 .i64) (plain 0 .control)
  else if B.owner.isSome || B.claims != [] then .ok join
  else if B.last = some c.f.rid && !B.gated then
    finish (setBank s c.u.cl k { B with owner := some c.f.rid }) c n (plain 0 .i64) (plain 0 .control)
  else .ok (grantBank join c.u.cl k c.u c.f)

/-- A claim whose operand names a bank ends as the claim of that bank does. -/
theorem lmClaim_ends (hf : Fires s c 0xC0) (hr : ReadsAB s c n a b s2) (ho : orderOk c.f.o = .ok ())
    (hb : bankHandle a = .ok k) (h : claimEffect s2 c n k = .ok t) : Ends (.lmClaim n) s c 0xC0 t := by
  refine lmNode_ends (Eq.refl (execLmClaim n s)) hf hr ho ?_
  simp only [bind, Except.bind, hb]
  exact h

theorem claim_owned (h : (bankOf s c.u.cl k).owner = some c.f.rid) :
    claimEffect s c n k = finish s c n (plain 0 .i64) (plain 0 .control) := if_pos h

theorem claim_again (hown : (bankOf s c.u.cl k).owner = none) (hcl : (bankOf s c.u.cl k).claims = [])
    (hlast : (bankOf s c.u.cl k).last = some c.f.rid) (hgate : (bankOf s c.u.cl k).gated = false) : claimEffect s c n k =
      finish (setBank s c.u.cl k { bankOf s c.u.cl k with owner := some c.f.rid }) c n (plain 0 .i64) (plain 0 .control) := by
  simp only [claimEffect, hown, hcl, hlast, hgate, reduceCtorEq, if_false, Option.isSome_none, bne_self_eq_false, Bool.or_self,
    Bool.false_eq_true, decide_true, Bool.not_false, Bool.and_self, if_true]

theorem claim_clears (hown : (bankOf s c.u.cl k).owner = none) (hcl : (bankOf s c.u.cl k).claims = [])
    (h : (bankOf s c.u.cl k).last ≠ some c.f.rid ∨ (bankOf s c.u.cl k).gated = true) : claimEffect s c n k =
      .ok (setBank s c.u.cl k { bankOf s c.u.cl k with
        owner := some c.f.rid, last := some c.f.rid, clearing := true, valid := false, auto := false, filled := 0
        gated := false, claims := [(c.u, c.f)] }) := by
  have hnot : ¬ ((bankOf s c.u.cl k).last = some c.f.rid && !(bankOf s c.u.cl k).gated) = true := by
    rw [Bool.and_eq_true, decide_eq_true_eq, Bool.not_eq_true']
    rintro ⟨hlast, hgated⟩
    rcases h with h | h
    · exact h hlast
    · rw [hgated] at h
      cases h
  simp only [claimEffect, hown, reduceCtorEq, if_false, Option.isSome_none, hcl, bne_self_eq_false, Bool.or_self,
    Bool.false_eq_true, if_neg hnot, List.nil_append]
  rw [grantBank_clears (by rw [bankOf_setBank]; exact h), bankOf_setBank, setBank_setBank]

theorem claim_joins (h : (∃ r, (bankOf s c.u.cl k).owner = some r ∧ r ≠ c.f.rid) ∨
    (bankOf s c.u.cl k).owner = none ∧ (bankOf s c.u.cl k).claims ≠ []) : claimEffect s c n k =
      .ok (setBank s c.u.cl k { bankOf s c.u.cl k with claims := (bankOf s c.u.cl k).claims ++ [(c.u, c.f)] }) := by
  have hother : (bankOf s c.u.cl k).owner ≠ some c.f.rid := by
    rcases h with ⟨r, hr, hne⟩ | ⟨hnone, -⟩
    · rw [hr]
      exact fun he => hne (Option.some.inj he)
    · rw [hnone]
      exact nofun
  have hwait : ((bankOf s c.u.cl k).owner.isSome || (bankOf s c.u.cl k).claims != []) = true := by
    rcases h with ⟨r, hr, -⟩ | ⟨-, hne⟩
    · rw [hr]
      rfl
    · rw [Bool.or_eq_true, bne_iff_ne]
      exact .inr hne
  simp only [claimEffect, if_neg hother, hwait, if_true]

/-! ### Releases -/

theorem needOwner_faults (h : (bankOf s c.u.cl k).owner ≠ some c.f.rid) : needOwner s c k = flt .claim k := by
  rw [needOwner, beq_false_of_ne h]
  rfl

/-- A release of a bank that nothing waits for leaves it without an owner (R270). -/
theorem releaseBank_frees (h : (bankOf s cl k).claims = []) : (bankOf (releaseBank s cl k) cl k).owner = none := by
  simp only [releaseBank, h, bankOf_setBank]

/-! ### Clearings -/

/-- The bank of a clearing that ends for its claim: its entries are zero (R269). -/
theorem claimClear_ends {u : UId} {f : Firing} {l : List (UId × Firing)} (hcl : (bankOf s cl k).claims = (u, f) :: l)
    (hclear : (bankOf s cl k).clearing = true) (hown : (bankOf s cl k).owner = some f.rid)
    (h : claimToken (zeroTables (setBank s cl k { bankOf s cl k with clearing := false, srcLines := 0, claims := l }) cl k) u f =
      .ok t) : exec (.claimClearComplete cl k) s = .next (settle t) := by
  refine (Eq.refl (execClaimClearComplete cl k s)).trans ?_
  simp only [execClaimClearComplete, hclear, hcl, if_true, if_pos hown, List.drop_succ_cons, List.drop_zero, h, conclude,
    runWork, runEvent, Option.map_some]

theorem claimClear_starts {u : UId} {f : Firing} {l : List (UId × Firing)} (hcl : (bankOf s cl k).claims = (u, f) :: l)
    (hclear : (bankOf s cl k).clearing = false) (hown : (bankOf s cl k).owner = none)
    (h : (bankOf s cl k).last ≠ some f.rid ∨ (bankOf s cl k).gated = true) :
    exec (.claimClearComplete cl k) s = .next (settle (setBank s cl k { bankOf s cl k with
      owner := some f.rid, last := some f.rid, clearing := true, valid := false, auto := false, filled := 0
      gated := false })) := by
  have hgrant := grantBank_clears (u := u) h
  have hne : grantBank s cl k u f ≠ s := fun he => by
    have howner := congrArg (fun s => (bankOf s cl k).owner) he
    simp only [hgrant, bankOf_setBank, hown, reduceCtorEq] at howner
  have hexec : exec (.claimClearComplete cl k) s = .next (settle (grantBank s cl k u f)) := by
    refine (Eq.refl (execClaimClearComplete cl k s)).trans ?_
    simp only [execClaimClearComplete, hclear, Bool.false_eq_true, if_false, hown, hcl, if_neg hne, runWork, runEvent,
      Option.map_some]
  rw [hexec, hgrant]

end

/-! ### The status word -/

section

variable {S V j i : Nat}

theorem bitAt_testBit (v i : Nat) : bitAt v i = v.testBit i := by
  rw [bitAt, Nat.testBit_eq_decide_div_mod_eq, Bool.eq_iff_iff, beq_iff_eq, decide_eq_true_eq]

/-- A bit of a quarter of a word. -/
theorem getLsbD_quarter (hS : V / 2 ^ j % 2 ^ 16 = S) (hi : i < 16) (hj : j + i < 64) :
    (BitVec.ofNat 64 V).getLsbD (j + i) = bitAt S i := by
  rw [BitVec.getLsbD_ofNat, decide_eq_true hj, Bool.true_and, ← hS, bitAt_testBit, Nat.testBit_mod_two_pow,
    decide_eq_true hi, Bool.true_and, Nat.testBit_div_two_pow, Nat.add_comm]

/-- The fields of a bank's status (Table 09-6). -/
theorem bankStatus_fields (B : Bank) (rid : Nat) (hcode : B.bcode < 8) (hfill : B.filled < 2) :
    let S := bankStatus B rid
    S < 2 ^ 9 ∧ bitAt S 0 = B.valid ∧ bitAt S 1 = B.auto ∧ bitAt S 2 = B.planes ∧ S / 2 ^ 3 % 2 ^ 3 = B.bcode ∧
      S / 2 ^ 6 % 2 = B.filled ∧ bitAt S 7 = B.owner.isSome ∧ bitAt S 8 = decide (B.owner = some rid) := by
  intro S
  have hmine : (B.owner == some rid) = decide (B.owner = some rid) := by
    rw [Bool.eq_iff_iff, beq_iff_eq, decide_eq_true_eq]
  have hS : S = B.valid.toNat + B.auto.toNat * 2 + B.planes.toNat * 4 + B.bcode * 8 + B.filled * 64 +
      B.owner.isSome.toNat * 128 + (decide (B.owner = some rid)).toNat * 256 := by rw [← hmine]; rfl
  have hbit (v : Bool) : (v.toNat == 1) = v := by cases v <;> rfl
  have h0 := Bool.toNat_le B.valid
  have h1 := Bool.toNat_le B.auto
  have h2 := Bool.toNat_le B.planes
  have h7 := Bool.toNat_le B.owner.isSome
  have h8 := Bool.toNat_le (decide (B.owner = some rid))
  have field (i : Nat) (v : Bool) (h : S / 2 ^ i % 2 = v.toNat) : bitAt S i = v := (congrArg (· == 1) h).trans (hbit v)
  refine ⟨by omega, field 0 _ ?_, field 1 _ ?_, field 2 _ ?_, by omega, by omega, field 7 _ ?_, field 8 _ ?_⟩ <;> omega

/-- The quarters of the status word of the unit (R281). -/
theorem lmStatus_quarters {A B u : Nat} (p q : Bool) (hA : A < 2 ^ 9) (hB : B < 2 ^ 9) :
    let V := A + B * 2 ^ 16 + p.toNat * 2 ^ 32 + q.toNat * 2 ^ 33 + u % 2 ^ 16 * 2 ^ 48
    V < 2 ^ 64 ∧ V / 2 ^ 0 % 2 ^ 16 = A ∧ V / 2 ^ 16 % 2 ^ 16 = B ∧ V / 2 ^ 32 % 2 ^ 16 = p.toNat + q.toNat * 2 ∧
      V / 2 ^ 48 = u % 2 ^ 16 := by
  have hp := Bool.toNat_le p
  have hq := Bool.toNat_le q
  refine ⟨?_, ?_, ?_, ?_, ?_⟩ <;> omega

/-- The status word of the unit as a region's node reads it (R281). -/
def lmStatus (k : Cluster) (rid : Nat) : Word :=
  BitVec.ofNat 64 (bankStatus k.bankA rid + bankStatus k.bankB rid * 2 ^ 16 + k.pass.armed.toNat * 2 ^ 32 +
    k.pass.running.toNat * 2 ^ 33 + (k.pass.n - k.pass.u) % 2 ^ 16 * 2 ^ 48)

/-- The fields of a bank where its status stands in a word. -/
theorem statusAt_fields {B : Bank} {rid : Nat} (hcode : B.bcode < 8) (hfill : B.filled < 2) (hj : j ≤ 48) (hlt : V < 2 ^ 64)
    (hV : V / 2 ^ j % 2 ^ 16 = bankStatus B rid) : let v := BitVec.ofNat 64 V
    v.getLsbD j = B.valid ∧ v.getLsbD (j + 1) = B.auto ∧ v.getLsbD (j + 2) = B.planes ∧
      bits v.toNat (j + 5) (j + 3) = B.bcode ∧ bits v.toNat (j + 6) (j + 6) = B.filled ∧
      v.getLsbD (j + 7) = B.owner.isSome ∧ v.getLsbD (j + 8) = decide (B.owner = some rid) ∧
      bits v.toNat (j + 15) (j + 9) = 0 := by
  intro v
  obtain ⟨hS, hvalid, hauto, hplanes, hb, hf, howned, hmine⟩ := bankStatus_fields B rid hcode hfill
  have hv : v.toNat = V := by rw [BitVec.toNat_ofNat, Nat.mod_eq_of_lt hlt]
  have hbits (hi lo : Nat) (hlo : lo ≤ hi) (hhi : hi < 16) :
      bits v.toNat (j + hi) (j + lo) = bankStatus B rid / 2 ^ lo % 2 ^ (hi + 1 - lo) := by
    have hshift : V / 2 ^ (j + lo) = V / 2 ^ j / 2 ^ lo := by rw [Nat.pow_add, Nat.div_div_eq_div_mul]
    have hwide : 2 ^ lo * 2 ^ (hi + 1 - lo) ∣ 2 ^ 16 := by
      rw [← Nat.pow_add]
      exact Nat.pow_dvd_pow 2 (by omega)
    rw [bits, hv, show j + hi + 1 - (j + lo) = hi + 1 - lo by omega, hshift, ← hV]
    generalize V / 2 ^ j = W
    rw [← Nat.mod_mul_right_div_self, ← Nat.mod_mul_right_div_self, Nat.mod_mod_of_dvd _ hwide]
  refine ⟨(getLsbD_quarter (i := 0) hV (by omega) (by omega)).trans hvalid,
    (getLsbD_quarter hV (by omega) (by omega)).trans hauto, (getLsbD_quarter hV (by omega) (by omega)).trans hplanes,
    (hbits 5 3 (by omega) (by omega)).trans hb, (hbits 6 6 (by omega) (by omega)).trans hf,
    (getLsbD_quarter hV (by omega) (by omega)).trans howned, (getLsbD_quarter hV (by omega) (by omega)).trans hmine,
    (hbits 15 9 (by omega) (by omega)).trans ?_⟩
  rw [Nat.div_eq_of_lt hS, Nat.zero_mod]

end

/-- Settles O37: a claim by its four cases, a release, the end and the start of a clearing, the status word by its quarters, and
the gating of a bank. -/
theorem lookupBanksAreClaimedAndReleased : Obligations.LookupBanksAreClaimedAndReleased := by
  refine ⟨fun n s c a b s2 x k hf hr ho hx hs hv hk => ?_, fun n s c a b s2 x k hf hr ho hx hs hv hk => ?_,
    fun s cl b u f l hb => ?_, fun n s c a b s2 hf hr ho hsc => ?_, fun n s c a b s2 hf hr ho hsc he => ?_,
    fun s cl b hs hb => ?_⟩
  · intro B
    have ends {t} := lmClaim_ends (t := t) hf hr ho (bankHandle_ok hx hs hv hk)
    refine ⟨fun hown he => ?_, fun hown hcl hlast hgate he => ?_, fun hown hcl hother => ends (claim_clears hown hcl hother),
      fun hwait => ends (claim_joins hwait)⟩
    · obtain ⟨t, ht⟩ := finish_ok (p := plain 0 .control) he
      exact ⟨t, ht, ends ((claim_owned hown).trans ht)⟩
    · obtain ⟨t, ht⟩ := finish_ok (p := plain 0 .control) he
      exact ⟨t, ht, ends ((claim_again hown hcl hlast hgate).trans ht)⟩
  · have hbank := bankHandle_ok hx hs hv hk
    refine ⟨fun hown huse he => ?_, fun hown => ?_⟩
    · obtain ⟨t, ht⟩ := finish_ok (p := plain 0 .control) he
      refine ⟨t, ht, lmNode_ends (Eq.refl (execLmRelease n s)) hf hr ho ?_, fun hcl => ?_⟩
      · simp only [bind, Except.bind, hbank, needOwner_ok hown, needWait, huse, Bool.not_false, if_true, ht]
      · exact ((SameCore.finish ht).bankOwner k).trans (releaseBank_frees hcl)
    · refine lmNode_faults (Eq.refl (execLmRelease n s)) hf hr ho ?_ (by decide) (by decide)
      simp only [bind, Except.bind, hbank, needOwner_faults hown]
      rfl
  · intro B hcl
    refine ⟨fun hclear hown he => ?_, fun hclear hown hother => claimClear_starts hcl hclear hown hother⟩
    obtain ⟨t, ht⟩ := finish_ok (p := plain 0 .control) he
    exact ⟨t, ht, claimClear_ends hcl hclear hown ht, fun q hlo hhi => read_clearKeys_inside _ hlo hhi⟩
  · refine lmNode_faults (Eq.refl (execLmStat n s)) hf hr ho ?_ (by decide) (by decide)
    cases hp : a.pay with
    | scal x =>
      rw [hp] at hsc
      simp only [bind, Except.bind, show x.sc = true from hsc]
      rfl
    | line d e src =>
      rw [hp] at hsc
      cases hsc
  · intro k hcodeA hcodeB hfillA hfillB
    obtain ⟨hltA, -⟩ := bankStatus_fields k.bankA c.f.rid hcodeA hfillA
    obtain ⟨hltB, -⟩ := bankStatus_fields k.bankB c.f.rid hcodeB hfillB
    obtain ⟨hlt, hqA, hqB, hqP, hqU⟩ := lmStatus_quarters (u := k.pass.n - k.pass.u) k.pass.armed k.pass.running hltA hltB
    have hv : (lmStatus k c.f.rid).toNat = _ := (BitVec.toNat_ofNat ..).trans (Nat.mod_eq_of_lt hlt)
    have hbit (v : Bool) : (v.toNat == 1) = v := by cases v <;> rfl
    have hp := Bool.toNat_le k.pass.armed
    have hq := Bool.toNat_le k.pass.running
    obtain ⟨t, ht⟩ := finish_ok (p := plain (lmStatus k c.f.rid) .i64) he
    refine ⟨lmStatus k c.f.rid, t, ht, lmNode_ends (Eq.refl (execLmStat n s)) hf hr ho ?_, ?_, ?_, ?_, ?_, ?_⟩
    · simp only [bind, Except.bind]
      cases hp : a.pay with
      | scal x =>
        rw [hp] at hsc
        simp only [show x.sc = false from hsc]
        exact ht
      | line d e src => exact ht
    · rintro j B (⟨rfl, rfl⟩ | ⟨rfl, rfl⟩)
      · exact statusAt_fields hcodeA hfillA (by omega) hlt hqA
      · exact statusAt_fields hcodeB hfillB (by omega) hlt hqB
    · refine (getLsbD_quarter (j := 32) (i := 0) hqP (by omega) (by omega)).trans ?_
      exact (congrArg (· == 1) (by omega)).trans (hbit _)
    · refine (getLsbD_quarter (j := 32) (i := 1) hqP (by omega) (by omega)).trans ?_
      exact (congrArg (· == 1) (by omega)).trans (hbit _)
    · rw [bits, hv]
      omega
    · rw [hv]
      exact hqU
  · intro B hown hcl hgate hclear hsince
    refine ⟨zeroTables (setBank s cl b { B with gated := true, valid := false, auto := false, filled := 0, srcLines := 0 }) cl b,
      ?_, ?_, ?_, fun q => ?_⟩
    · have hidle : (B.owner.isNone && B.claims == [] && !B.gated && !B.clearing && decide (b < 2) &&
          decide (B.since + 4096 ≤ s.clock)) = true := by
        rw [hown, hcl, hgate, hclear, decide_eq_true hb, decide_eq_true hsince]
        rfl
      exact (Eq.refl (execBankPowerGate cl b s)).trans ((congrArg (runEvent "BANK_POWER_GATE") (if_pos hidle)).trans rfl)
    · exact congrArg Bank.gated (bankOf_setBank _ _ _ _)
    · exact congrArg Bank.valid (bankOf_setBank _ _ _ _)
    · split
      next h => exact read_clearKeys_inside _ h.1 h.2
      next h => exact read_clearKeys_outside hs (by omega)

end Sys2Proof.Proofs

/-! ## Passes

How a pass of the lookup matrix unit is armed, started and carried on, use by use (O39). -/

namespace Sys2Proof.Proofs

open Sys2Proof Sys2Proof.Machine Sys2Proof.Laws

/-! ### Steps after which no region ends -/

/-- Nothing has changed but what units and runs hold of stopped regions. -/
structure OnlyHeld (s t : State) : Prop where
  rest : t = { s with units := t.units, clusters := t.clusters }
  clusters : ∀ cl, { t.cluster cl with drains := [] } = { s.cluster cl with drains := [] }
  rebuilds : ∀ u, (t.unit u).rebuilds = (s.unit u).rebuilds

namespace OnlyHeld

variable {s t u : State}

theorem refl (s : State) : OnlyHeld s s := ⟨rfl, fun _ => rfl, fun _ => rfl⟩

theorem trans (h : OnlyHeld s t) (g : OnlyHeld t u) : OnlyHeld s u := by
  refine ⟨?_, fun cl => (g.clusters cl).trans (h.clusters cl), fun u => (g.rebuilds u).trans (h.rebuilds u)⟩
  have hs := h.rest
  have ht := g.rest
  rw [ht, hs]

theorem dropHeld (s : State) (rid : Nat) : OnlyHeld s (dropHeld s rid) := by
  refine ⟨rfl, fun cl => ?_, fun u => ?_⟩
  · simp only [Machine.dropHeld, State.cluster, AL.get, find_map]
    cases AL.find? s.clusters cl <;> rfl
  · simp only [Machine.dropHeld, State.unit, AL.get, find_map]
    cases AL.find? s.units u <;> rfl

theorem regions (h : OnlyHeld s t) : t.regions = s.regions := h.rest ▸ rfl

theorem mem (h : OnlyHeld s t) : t.mem = s.mem := h.rest ▸ rfl

theorem net (h : OnlyHeld s t) : t.net = s.net := h.rest ▸ rfl

theorem pass (h : OnlyHeld s t) (cl : Nat) : (t.cluster cl).pass = (s.cluster cl).pass :=
  (congrArg Cluster.pass (h.clusters cl) :)

theorem build (h : OnlyHeld s t) (cl : Nat) : (t.cluster cl).build = (s.cluster cl).build :=
  (congrArg Cluster.build (h.clusters cl) :)

/-- Where no region ends, a step's end discards at most what is held of regions (R58). -/
theorem settle (h : NoneEnding s) : OnlyHeld s (settle s) := by
  have step : ∀ l : List (Nat × Region), (∀ p ∈ l, p ∈ s.regions) → ∀ t, OnlyHeld s t →
      OnlyHeld s (l.foldl (fun (s : State) (p : Nat × Region) =>
        let s := if p.2.st = .ending then Machine.dropHeld s p.1 else s
        if mayFinish s p.1 then finishRegion s p.1 else s) t) := by
    intro l
    induction l with
    | nil => exact fun _ t ht => ht
    | cons p l ih =>
      intro hl t ht
      obtain ⟨hp, hl⟩ := List.forall_mem_cons.1 hl
      refine ih hl _ ?_
      beta_reduce
      extract_lets t1
      have ht1 : OnlyHeld s t1 := by
        simp only [t1]
        split
        · exact ht.trans (dropHeld t p.1)
        · exact ht
      have hnot : mayFinish t1 p.1 = false := by
        have hst : ((t1.region p.1).st == .ending) = false := by
          rw [State.region, ht1.regions]
          exact beq_false_of_ne (h p hp)
        rw [mayFinish, hst, Bool.false_and, Bool.false_and]
      rw [if_neg (by rw [hnot]; exact Bool.false_ne_true)]
      exact ht1
  exact step s.regions (fun _ hp => hp) s (refl s)

end OnlyHeld

theorem noneEnding_of_regions {s t : State} (h : NoneEnding s) (hr : t.regions = s.regions) : NoneEnding t := by
  intro p hp
  rw [State.region, hr]
  exact h p (hr ▸ hp)

section

variable {s s2 t : State} {c : Cur} {n : Nd} {a b : Opd} {x y : Scalar} {k cl rid : Nat} {tl : Tile}

/-! ### Tiles -/

/-- A handle of a declared tile names it (R104, R268). -/
theorem anyTile_ok (hx : asScalar a [.handle] = .ok x) (hs : x.sc = false) (hv : x.val.toNat = 2 ^ 56 + k) (hk : k < 64)
    (ht : AL.find? (s.cluster cl).tiles k = some tl) : anyTile s cl a = .ok (k, tl) := by
  have hkind : (x.val.toNat / 2 ^ 56 == 0x01) = true := by rw [hv, beq_iff_eq]; omega
  have hrest : (bits x.val.toNat 55 6 == 0) = true := by simp only [bits, hv, beq_iff_eq]; omega
  have hnum : bits x.val.toNat 5 0 = k := by simp only [bits, hv]; omega
  simp only [anyTile, scalarU_ok hx hs, bind, Except.bind, hkind, hrest, hnum, need, Bool.and_self, if_true, ht]
  rfl

/-- A tile without an uncorrectable error can be read (R355). -/
theorem tileClean_ok (ht : AL.find? (s.cluster cl).tiles k = some tl)
    (h : ∀ i, i < tl.lines → s.poison.contains (tileKey cl tl i) = false) : tileClean s cl k = .ok () := by
  have hnone : ((List.range tl.lines).find? fun i => s.poison.contains (tileKey cl tl i)) = none :=
    List.find?_eq_none.2 fun i hi => by rw [h i (List.mem_range.1 hi)]; exact Bool.false_ne_true
  simp only [tileClean, ht, hnone]

/-- A use of a tile is counted in its cluster; where the log has room nothing else changes. -/
theorem tileUse_keeps (hroom : LogRoom s tl.rid cl) (ht : AL.find? (s.cluster cl).tiles k = some tl) (d : Tile) :
    let t := tileUse s cl k d
    t = { s with clusters := t.clusters } ∧ (t.cluster cl).look = (s.cluster cl).look ∧
      (t.cluster cl).pass = (s.cluster cl).pass := by
  have hcore := SameCore.logUndo s tl.rid cl (.tile cl k tl) cl
  simp only [tileUse, setTile, ht]
  refine ⟨?_, ?_, ?_⟩
  · rw [logUndo_clusters hroom]
    rfl
  · rw [cluster_modCluster, if_pos rfl]
    exact (congrArg Cluster.look hcore :)
  · rw [cluster_modCluster, if_pos rfl]
    exact (congrArg Cluster.pass hcore :)

/-- A consuming firing of a tile whose region logs nothing changes only its cluster, and not its pass. -/
theorem consumeTile_keeps (hlog : logging s tl.rid = false) (ht : AL.find? (s.cluster cl).tiles k = some tl) :
    let t := consumeTile cl s k
    t = { s with clusters := t.clusters } ∧ (t.cluster cl).pass = (s.cluster cl).pass := by
  have hroom : LogRoom s tl.rid cl := fun h => by rw [hlog] at h; cases h
  obtain ⟨hrest, -, hpass⟩ := tileUse_keeps hroom ht tl
  simp only [consumeTile, ht, tileDone]
  split
  · refine ⟨?_, ?_⟩
    · rw [hrest]
      rfl
    · rw [cluster_modCluster, if_pos rfl]
      exact hpass
  · exact ⟨hrest, hpass⟩

end

end Sys2Proof.Proofs

/-! ## Passes that are armed and run

The start of a pass, one use of its tile, and an accumulation (O39). -/

namespace Sys2Proof.Proofs

open Sys2Proof Sys2Proof.Machine Sys2Proof.Laws

section

variable {s s2 t : State} {c : Cur} {n : Nd} {a b : Opd} {x y : Scalar} {k cl rid rows cols pick : Nat} {tl : Tile} {r : LmRun}
  {more : State → State}

/-! ### Starting a pass -/

/-- What a pass loads stands in memory alone (R275, step 3). -/
theorem loadAcc_only_mem (s : State) (cl pick m : Nat) : loadAcc s cl pick m = { s with mem := (loadAcc s cl pick m).mem } := by
  unfold loadAcc
  split
  · rfl
  · split <;> rfl

/-- The state in which a pass runs that keeps or clears the buffer (R275). -/
def passStarted (s : State) (c : Cur) (rows cols : Nat) (r : LmRun) : State :=
  let p := (s.cluster c.u.cl).pass
  (loadAcc (makeIrrevocable s c.f.rid) c.u.cl p.pick (rows * cols)).modCluster c.u.cl fun k =>
    { k with look := some r, pass := { p with armed := false, running := true, u := 0, rows, cols } }

/-- A pass within its size that loads nothing starts (R275). -/
theorem startPass_runs {op : Nat} (hsize : rows * cols ≤ 16384) (hpick : (s.cluster c.u.cl).pass.pick ≤ 1) :
    startPass s c op n none rows cols r more = more (passStarted s c rows cols r) := by
  have hin : (decide (16384 < rows * cols) || loadOutside s c.u.cl (s.cluster c.u.cl).pass.pick (rows * cols)) = false := by
    rw [loadOutside, decide_eq_false (by omega), decide_eq_false (by omega), Bool.false_and, Bool.or_self]
  simp only [startPass, hin, Bool.false_eq_true, if_false, if_neg (show ¬ 2 ≤ (s.cluster c.u.cl).pass.pick by omega),
    passStarted]

theorem passStarted_net (s : State) (c : Cur) (rows cols : Nat) (r : LmRun) :
    (passStarted s c rows cols r).net = (makeIrrevocable s c.f.rid).net := by
  rw [passStarted, modCluster_net, loadAcc_only_mem]

theorem passStarted_frames (s : State) (c : Cur) (rows cols : Nat) (r : LmRun) :
    (passStarted s c rows cols r).frames = (makeIrrevocable s c.f.rid).frames := by
  rw [passStarted, modCluster_frames, loadAcc_only_mem]

theorem passStarted_regions (s : State) (c : Cur) (rows cols : Nat) (r : LmRun) :
    (passStarted s c rows cols r).regions = (makeIrrevocable s c.f.rid).regions := by
  rw [passStarted, modCluster_regions, loadAcc_only_mem]

/-- The cluster of a pass that has started differs from what it was by its look and its pass. -/
theorem passStarted_cluster (s : State) (c : Cur) (rows cols : Nat) (r : LmRun) :
    (passStarted s c rows cols r).cluster c.u.cl = { (makeIrrevocable s c.f.rid).cluster c.u.cl with
      look := some r, pass := { (s.cluster c.u.cl).pass with armed := false, running := true, u := 0, rows, cols } } := by
  rw [passStarted, cluster_modCluster, if_pos rfl, loadAcc_only_mem]
  rfl

/-- The log has the room in a pass that has started that it had before. -/
theorem logRoom_passStarted (h : LogRoom (makeIrrevocable s c.f.rid) rid c.u.cl) :
    LogRoom (passStarted s c rows cols r) rid c.u.cl := by
  intro hlog
  have hroom := h (by rw [logging, State.region, passStarted_regions] at hlog; exact hlog)
  rw [ilogRoom, passStarted_cluster]
  exact hroom

/-- A pass armed to clear the buffer starts from zeros (R274, R275). -/
theorem passStarted_clears (hpick : (s.cluster c.u.cl).pass.pick = 1) {j : Nat} (hj : j < 4 * (rows * cols)) :
    Memory.read (passStarted s c rows cols r).mem (accKey c.u.cl 0 + j) = 0 := by
  have hmem : (passStarted s c rows cols r).mem =
      (clearKeys (makeIrrevocable s c.f.rid) (accKey c.u.cl 0) (4 * (rows * cols))).mem := by
    simp only [passStarted, modCluster_mem, hpick, loadAcc, Nat.one_ne_zero, if_false, if_true]
  rw [hmem]
  exact read_clearKeys_inside _ (by omega) (by omega)

/-- The state in which a direct pass runs, with the use of its operand tile counted (R277). -/
def directStarted (s : State) (c : Cur) (rows cols : Nat) (r : LmRun) (k : Nat) (tl : Tile) : State :=
  tileUse (passStarted s c rows cols r) c.u.cl k tl

theorem passStarted_tiles (ht : AL.find? (s.cluster c.u.cl).tiles k = some tl) :
    AL.find? ((passStarted s c rows cols r).cluster c.u.cl).tiles k = some tl := by
  simp only [passStarted_cluster, (SameCore.makeIrrevocable s c.f.rid).tiles, ht]

/-- A direct pass that has started sends nothing and changes no frame, and its cluster has its look and its pass (R277). -/
theorem directStarted_keeps (hroom : LogRoom (makeIrrevocable s c.f.rid) tl.rid c.u.cl)
    (ht : AL.find? (s.cluster c.u.cl).tiles k = some tl) :
    let t := directStarted s c rows cols r k tl
    t.net = (makeIrrevocable s c.f.rid).net ∧ t.frames = (makeIrrevocable s c.f.rid).frames ∧
      (t.cluster c.u.cl).look = some r ∧ (t.cluster c.u.cl).pass =
        { (s.cluster c.u.cl).pass with armed := false, running := true, u := 0, rows, cols } := by
  obtain ⟨hrest, hlook, hpass⟩ := tileUse_keeps (logRoom_passStarted hroom)
    (passStarted_tiles (rows := rows) (cols := cols) (r := r) ht) tl
  refine ⟨?_, ?_, hlook.trans ?_, hpass.trans ?_⟩
  · rw [directStarted, hrest]
    exact passStarted_net s c rows cols r
  · rw [directStarted, hrest]
    exact passStarted_frames s c rows cols r
  · rw [passStarted_cluster]
  · rw [passStarted_cluster]

/-- The shapes that a direct pass demands of its word and its tiles (R277). -/
theorem directShape_ok {word K lanes per la lw : Nat} (hword : word < 2 ^ 19) (hK : 0 < K) (hdiv : K % lanes = 0)
    (hrows : rows ≤ 16) (hla : la = rows * per) (hlw : lw % per = 0) (hcols : 0 < cols) (hcols16 : cols % 16 = 0) :
    (decide (word / 2 ^ 19 ≠ 0) || decide (K = 0) || K % lanes != 0 || decide (16 < rows) || la != rows * per ||
      lw % per != 0 || decide (cols = 0) || cols % 16 != 0) = false := by
  rw [hla, hlw, hdiv, hcols16, decide_eq_false (by omega), decide_eq_false (by omega), decide_eq_false (by omega),
    decide_eq_false (by omega)]
  simp only [bne_self_eq_false, Bool.or_self]

/-! ### Arming a pass -/

/-- What `lm.arm` demands of its operands (R274). -/
def armOk (ld : Bool) (v off : Nat) : Prop := 1 ≤ v ∧ v ≤ 65535 ∧ if ld then off % 64 = 0 else off = 0

theorem armOk_iff {ld : Bool} {v off : Nat} : armOk ld v off ↔
    (decide (1 ≤ v) && decide (v ≤ 65535) && if ld then off % 64 == 0 else off == 0) = true := by
  cases ld <;> simp [armOk, and_assoc]

/-! ### One use of a look -/

theorem accumulate_only_mem (s : State) (cl i : Nat) (v : FV) : accumulate s cl i v = { s with mem := (accumulate s cl i v).mem } :=
  rfl

/-- The uses of a look's tile change memory alone (R276). -/
theorem lookUse_only_mem (s : State) (cl b : Nat) (k : Bank) (p4 : Bool) (planes : Nat) (tl : Tile) (l : List Line) :
    lookUse s cl b k p4 planes tl l = { s with mem := (lookUse s cl b k p4 planes tl l).mem } := by
  have fold {α : Type} (g : State → α → State) (hg : ∀ s a, g s a = { s with mem := (g s a).mem }) (l : List α) :
      ∀ s, l.foldl g s = { s with mem := (l.foldl g s).mem } := by
    induction l with
    | nil => exact fun _ => rfl
    | cons a l ih =>
      intro s
      rw [List.foldl_cons, ih (g s a), hg s a]
  exact fold _ (fun s _ => fold _ (fun s _ => fold _ (fun s _ => fold _ (fun s _ => accumulate_only_mem s _ _ _) _ s) _ s) _ s) _ s

/-- The state once a use of a pass's tile is counted (R275, step 5). -/
def useCounted (s : State) (cl : Nat) (r : LmRun) (k : Nat) : State :=
  (consumeTile cl s k).modCluster cl fun c =>
    { c with pass := { c.pass with u := c.pass.u + 1 }, look := some { r with pos := r.pos + 1 } }

theorem useCounted_pass (hlog : logging s tl.rid = false) (ht : AL.find? (s.cluster cl).tiles k = some tl) :
    ((useCounted s cl r k).cluster cl).pass = { (s.cluster cl).pass with u := (s.cluster cl).pass.u + 1 } := by
  rw [useCounted, cluster_modCluster, if_pos rfl, (consumeTile_keeps hlog ht).2]

theorem useCounted_rest (hlog : logging s tl.rid = false) (ht : AL.find? (s.cluster cl).tiles k = some tl) :
    useCounted s cl r k = { s with clusters := (useCounted s cl r k).clusters } := by
  rw [useCounted, (consumeTile_keeps hlog ht).1]
  rfl

/-- A use that is not the pass's last leaves it running with one more use counted (R275). -/
theorem useDone_goes_on (hlog : logging s tl.rid = false) (ht : AL.find? (s.cluster cl).tiles k = some tl)
    (hmore : (s.cluster cl).pass.u + 1 ≠ (s.cluster cl).pass.n) : useDone s cl r n k = some (useCounted s cl r k) := by
  refine if_neg ?_
  show ¬ ((useCounted s cl r k).cluster cl).pass.u = ((useCounted s cl r k).cluster cl).pass.n
  rw [useCounted_pass hlog ht]
  exact hmore

/-- A use that has accumulated, and is not the pass's last, is counted, and the step ends with that (R275). -/
theorem useDone_settles {s1 : State} (hs1 : s1 = { s with mem := s1.mem }) (hnone : NoneEnding s)
    (hlog : logging s tl.rid = false) (ht : AL.find? (s.cluster cl).tiles k = some tl)
    (hmore : (s.cluster cl).pass.u + 1 ≠ (s.cluster cl).pass.n) :
    ∃ t, useDone s1 cl r n k = some t ∧ (settle t).mem = s1.mem ∧
      ((settle t).cluster cl).pass = { (s.cluster cl).pass with u := (s.cluster cl).pass.u + 1 } ∧ (settle t).net = s.net := by
  obtain ⟨m, rfl⟩ : ∃ m, s1 = { s with mem := m } := ⟨_, hs1⟩
  have hrest := useCounted_rest (s := { s with mem := m }) (r := r) hlog ht
  have hheld := OnlyHeld.settle (noneEnding_of_regions hnone (t := useCounted { s with mem := m } cl r k) (by rw [hrest]))
  refine ⟨_, useDone_goes_on hlog ht hmore, ?_, ?_, ?_⟩
  · rw [hheld.mem, hrest]
  · exact (hheld.pass cl).trans (useCounted_pass hlog ht)
  · rw [hheld.net, hrest]

/-! ### The step of a look -/

/-- The next use of a look runs where its region may go on and its bank is not being rebuilt (R275, R386). -/
theorem passTileUse_look {k : BitVec 3} {p4 : Bool} (hlook : (s.cluster cl).look = some r) (hi : r.i = .lmLook n k p4)
    (hbuild : (s.cluster cl).build = none) (hgate : (s.region r.f.rid).gated = false)
    (hhalt : (s.region r.f.rid).halted = false ∨ r.f.seq ∈ (s.region r.f.rid).stepped) :
    exec (.passTileUse cl) s = runWork "PASS_TILE_USE" (lookStep s cl r n (k.toNat + 1) p4) := by
  have hgo : ((s.region r.f.rid).halted && !(s.region r.f.rid).stepped.contains r.f.seq) = false := by
    rcases hhalt with h | h
    · rw [h, Bool.false_and]
    · rw [List.contains_iff_mem.2 h, Bool.not_true, Bool.and_false]
  refine (Eq.refl (execPassTileUse cl s)).trans ?_
  simp only [execPassTileUse, hlook, bind, Option.bind, hbuild, hgate, hgo, Bool.or_self, Bool.false_eq_true, if_false, hi]

section

variable {planes : Nat} {p4 : Bool} (ht : AL.find? (s.cluster cl).tiles (r.aux.getD 1 0) = some tl) (hst : tl.st = .ready)
  (hlines : lookLines s cl (r.aux.getD 1 0) p4 tl (tileLines s cl (r.aux.getD 1 0)) = .ok ())

include ht hst hlines

/-- An invalid bank that was not built with `.auto` ends the pass (R276). -/
theorem lookStep_stale (hvalid : (bankOf s cl (r.aux.getD 0 0)).valid = false)
    (hauto : (bankOf s cl (r.aux.getD 0 0)).auto = false) : lookStep s cl r n planes p4 =
      some (takeFault (stopPass s cl r) (runSite (lmUnit cl) r) ⟨.tableStale, r.aux.getD 0 0, 0⟩) := by
  have hplain := (faultOrRollback_cases (stopPass s cl r) (runSite (lmUnit cl) r) ⟨.tableStale, r.aux.getD 0 0, 0⟩).resolve_right
    fun ⟨hc, _⟩ => hc.elim nofun nofun
  simp only [lookStep, bind, Option.bind, ht, hst, ne_eq, not_true_eq_false, if_false, hlines, hvalid, Bool.not_false, if_true,
    hauto, Bool.true_or, passFault, hplain]

/-- An invalid bank that was built with `.auto` is rebuilt first (R144, R276). -/
theorem lookStep_rebuilds (hvalid : (bankOf s cl (r.aux.getD 0 0)).valid = false)
    (hauto : (bankOf s cl (r.aux.getD 0 0)).auto = true) (hsrc : (bankOf s cl (r.aux.getD 0 0)).srcLines ≠ 0)
    (hbuild : (s.cluster cl).build = none) : lookStep s cl r n planes p4 =
      some ((s.modUnit (lmUnit cl) fun h => { h with rebuilds := h.rebuilds + 1 }).modCluster cl fun c =>
        { c with build := some (buildOf r.i r.f 1 cl (bankOf s cl (r.aux.getD 0 0)).srcOff
          (bankOf s cl (r.aux.getD 0 0)).srcLines (r.aux.getD 0 0) true) }) := by
  simp only [lookStep, bind, Option.bind, ht, hst, ne_eq, not_true_eq_false, if_false, hlines, hvalid, Bool.not_false, if_true,
    hauto, Bool.not_true, hsrc, decide_false, Bool.or_self, Bool.false_eq_true, hbuild, Option.isSome_none]

/-- A valid bank is used, and its tile consumed (R276). -/
theorem lookStep_uses (hvalid : (bankOf s cl (r.aux.getD 0 0)).valid = true)
    (hcode : badCode (bankOf s cl (r.aux.getD 0 0)) p4 (tileLines s cl (r.aux.getD 1 0)) = none) :
    lookStep s cl r n planes p4 = useDone (lookUse s cl (r.aux.getD 0 0) (bankOf s cl (r.aux.getD 0 0)) p4 planes tl
      (tileLines s cl (r.aux.getD 1 0))) cl r n (r.aux.getD 1 0) := by
  simp only [lookStep, bind, Option.bind, ht, hst, ne_eq, not_true_eq_false, if_false, hlines, hvalid, Bool.not_true,
    Bool.false_eq_true, hcode]

end

end

/-- Settles O39: arming, the start of a look and of a direct pass, one use of a look's tile, and an accumulation. -/
theorem passesAreArmedAndRun : Obligations.PassesAreArmedAndRun := by
  refine ⟨fun n ld clr s c a b s2 x y hf hr ho hx hs hy hsy harm hrun => ?_,
    fun n k p4 s c a b s2 x h y tn tl hf hr ho hx hs hv hh hy hsy hvy htn ht hst hlook hbuild hreload hown => ?_,
    fun n f s c a b s2 x an ta y wn tw hf hr ho hx hs hv han hy hsy hvy hwn hta htw hsta hstw hlook => ?_,
    fun s cl r n k p4 tl hlook hi hbuild hgate hhalt ht hst hnone hlog => ?_, fun s cl i v hs => ⟨accumulate_wf hs, ?_, ?_⟩⟩
  · intro ok
    have hok : ok ↔ armOk ld x.val.toNat y.val.toNat := Iff.rfl
    refine ⟨fun hnot => ?_, fun hyes he => ?_⟩
    · refine lmNode_faults (Eq.refl (execLmArm n ld clr s)) hf hr ho ?_ (by decide) (by decide)
      have hcond := Bool.eq_false_iff.2 (mt (fun h => hok.2 (armOk_iff.2 h)) hnot)
      simp only [bind, Except.bind, scalarU_ok hx hs, scalarU_ok hy hsy, harm, hrun, needWait, Bool.not_false, Bool.and_self,
        if_true, need, hcond, Bool.false_eq_true, if_false]
      rfl
    · obtain ⟨t, ht⟩ := finish_ok (p := plain x.val .control) he
      refine ⟨t, ht, lmNode_ends (Eq.refl (execLmArm n ld clr s)) hf hr ho ?_⟩
      have hcond := armOk_iff.1 (hok.1 hyes)
      simp only [bind, Except.bind, scalarU_ok hx hs, scalarU_ok hy hsy, harm, hrun, needWait, Bool.not_false, Bool.and_self,
        if_true, need, hcond]
      exact ht
  · intro ps B q cols
    have hbank := bankHandle_ok hx hs hv hh
    have htile := anyTile_ok hy hsy hvy htn ht
    have hfree : ((s2.cluster c.u.cl).look.isNone && buildBank s2 c.u.cl != some h && !reloadsBank s2 c.u.cl h &&
        tl.st == .ready) = true := by
      rw [hlook, bne_iff_ne.2 hbuild, hreload, hst]
      rfl
    refine ⟨fun harm => ?_, fun harm hdiv hsize hpick => ?_⟩
    · refine lmNode_faults (Eq.refl (execLmLook n k p4 s)) hf hr ho ?_ (by decide) (by decide)
      simp only [bind, Except.bind, hbank, htile, hfree, needWait, if_true, needOwner_ok hown,
        show (s2.cluster c.u.cl).pass.armed = false from harm, need, Bool.false_eq_true, if_false]
      rfl
    · intro s3
      refine ⟨passStarted s2 c B.b cols ⟨.lmLook n k p4, { c.f with l := some a.pay, r := some b.pay }, 0, [h, tn], false, none,
        false⟩, lmNode_ends (Eq.refl (execLmLook n k p4 s)) hf hr ho ?_, passStarted_net .., passStarted_frames .., ?_, ?_,
        fun hp j hj => passStarted_clears hp hj⟩
      · simp only [bind, Except.bind, hbank, htile, hfree, needWait, if_true, needOwner_ok hown,
          show (s2.cluster c.u.cl).pass.armed = true from harm, need,
          show tl.lines % lookQ (bankOf s2 c.u.cl h) p4 (k.toNat + 1) = 0 from hdiv]
        exact congrArg Except.ok (startPass_runs hsize hpick)
      · rw [passStarted_cluster]
      · rw [passStarted_cluster]
  · intro ps fmt word K rows per cols
    have htileA := anyTile_ok hx hs hv han hta
    have htileW := anyTile_ok hy hsy hvy hwn htw
    have hfree : ((s2.cluster c.u.cl).look.isNone && ta.st == .ready && tw.st == .ready) = true := by
      rw [hlook, hsta, hstw]
      rfl
    refine ⟨fun harm => ?_, fun harm hword hK hdiv hrows hlinesA hlinesW hcols hcols16 hsize hpick hgood hfmt => ?_⟩
    · refine lmNode_faults (Eq.refl (execLmDirect n f s)) hf hr ho ?_ (by decide) (by decide)
      simp only [bind, Except.bind, htileA, htileW, hfree, needWait, if_true,
        show (s2.cluster c.u.cl).pass.armed = false from harm, need, Bool.false_eq_true, if_false]
      rfl
    · intro s3 hroom
      have hshape := directShape_ok hword hK hdiv hrows hlinesA hlinesW hcols hcols16
      refine ⟨directStarted s2 c rows (ps.n * cols) ⟨.lmDirect n f, { c.f with l := some a.pay, r := some b.pay }, 0,
        [an, wn, per, cols], false, none, false⟩ an ta, lmNode_ends (Eq.refl (execLmDirect n f s)) hf hr ho ?_,
        directStarted_keeps hroom hta⟩
      simp only [bind, Except.bind, htileA, htileW, hfree, needWait, if_true,
        show (s2.cluster c.u.cl).pass.armed = true from harm, need]
      refine congrArg Except.ok ?_
      have hread : (match tileClean s2 c.u.cl an with
        | .error (.fault f) => some f
        | _ => ((tileLines s2 c.u.cl an).find? fun l => l.2.fmt != fmt).map fun l => (⟨.format, l.2.toNat, 0⟩ : Flt)) = none := by
        have hnone : ((tileLines s2 c.u.cl an).find? fun l => l.2.fmt != fmt) = none :=
          List.find?_eq_none.2 fun l hl => by simp [hfmt l hl]
        simp only [tileClean_ok hta hgood, hnone, Option.map_none]
      have hbad := (if_neg (h := instDecidableEqBool _ true) (t := some (⟨.pass, 0, 0⟩ : Flt)) (Bool.eq_false_iff.1 hshape)).trans hread
      refine (congrArg (fun bad => startPass s2 c 0xC6 n bad rows (ps.n * cols) _ _) hbad).trans ?_
      rw [startPass_runs hsize hpick]
      simp only [passStarted_tiles hta]
      rfl
  · intro B lines hlines
    have hexec := passTileUse_look hlook hi hbuild hgate hhalt
    refine ⟨fun hvalid hauto => ?_, fun hvalid hauto hsrc => ?_, fun hvalid hcode hmore => ?_⟩
    · rw [hexec, lookStep_stale ht hst hlines hvalid hauto]
      rfl
    · have hheld := OnlyHeld.settle (noneEnding_of_regions hnone (t := (s.modUnit (lmUnit cl) fun h =>
        { h with rebuilds := h.rebuilds + 1 }).modCluster cl fun c => { c with build := some (buildOf r.i r.f 1 cl B.srcOff
          B.srcLines (r.aux.getD 0 0) true) }) rfl)
      refine ⟨_, by rw [hexec, lookStep_rebuilds ht hst hlines hvalid hauto hsrc hbuild]; rfl, ?_, ?_, hheld.mem, ?_⟩
      · rw [hheld.build, cluster_modCluster, if_pos rfl]
        rfl
      · rw [hheld.rebuilds, unit_modCluster, unit_modUnit, if_pos rfl]
      · rw [hheld.pass, cluster_modCluster, if_pos rfl]
        rfl
    · obtain ⟨t, hdone, hmem, hpass, hnet⟩ := useDone_settles (n := n) (r := r)
        (lookUse_only_mem s cl (r.aux.getD 0 0) B p4 (k.toNat + 1) tl lines) hnone hlog ht hmore
      exact ⟨settle t, by rw [hexec, lookStep_uses ht hst hlines hvalid hcode, hdone]; rfl, hmem, hpass, hnet⟩
  · exact readN_writeN _ _ _ hs
  · exact fun q hq => read_writeN _ _ _ _ hs hq

end Sys2Proof.Proofs

/-! ## Reductions of lines

The lanes of a reduction's lines as values or integers, and the member that a fold from the first picks (O35). -/

namespace Sys2Proof.Proofs

open Sys2Proof Sys2Proof.Machine Sys2Proof.Laws

section

variable {f k j v : Nat} {s s2 : State} {c : Cur} {n : Nd} {a b : Opd} {x : LineA}

/-- The lanes of a value are its lanes in order (R74). -/
theorem lanesOf_eq_map (k n v : Nat) : lanesOf k n v = (List.range n).map fun j => laneAt k j v :=
  List.ext_getElem (by rw [lanesOf_length, List.length_map, List.length_range]) fun j hj _ => by
    rw [lanesOf_get, List.getElem_map, List.getElem_range]

theorem lineLanes_eq_map (f : Nat) (l : Line) : lineLanes f l.1 = (List.range (lineShape f).2).map (lineLane f l) :=
  lanesOf_eq_map ..

/-- The lanes of lines of set F are their exact values, line by line (R263). -/
theorem redLanes_of_inF {l : Line} {rest : List Line} (h : inF l.2.fmt) : redLanes (l :: rest) =
    .ok (.floats ((l :: rest).map fun y =>
      (List.range (lineShape l.2.fmt).2).map fun j => (fmtF l.2.fmt).value (lineLane l.2.fmt y j))) := by
  simp only [redLanes, List.headD_cons, setF_of_inF h, lineLanes_eq_map, List.map_map]
  rfl

/-- The lanes of lines of set I are their integers, one line after another (R263). -/
theorem redLanes_of_inI {l : Line} {rest : List Line} (h : inI l.2.fmt) : redLanes (l :: rest) =
    .ok (.ints ((l :: rest).flatMap fun y =>
      (List.range (lineShape l.2.fmt).2).map fun j => intI l.2.fmt (lineLane l.2.fmt y j))) := by
  simp only [redLanes, List.headD_cons, setF_of_inI h, setI_of_inI h, if_true, lineLanes_eq_map, List.map_map]
  refine congrArg (Except.ok ∘ RedLanes.ints) (List.flatMap_congr fun y _ => List.map_congr_left fun j _ => ?_)
  exact toSigned_eq (lineShape_width_pos _) _

/-- Lines of set I have lanes. -/
theorem intLanes_ne_nil (f : Nat) (l : Line) (rest : List Line) (g : Line → Nat → Int) :
    ((l :: rest).flatMap fun y => (List.range (lineShape f).2).map (g y)) ≠ [] := by
  have hpos : (lineShape f).2 ≠ 0 := fun h0 => by
    have h := lineShape_bits f
    rw [h0] at h
    cases h
  rw [List.flatMap_cons]
  refine List.append_ne_nil_of_left_ne_nil (fun h => hpos ?_) _
  rw [← List.length_range (n := (lineShape f).2), ← List.length_map (g l), h, List.length_nil]

/-- The member that a fold picks: one of a list that every member stands in relation to. -/
theorem foldFirst_picks {R : Int → Int → Prop} {pick : Int → Int → Int} (hrefl : ∀ a, R a a)
    (htrans : ∀ a b c, R a b → R b c → R a c)
    (hpick : ∀ a b, (pick a b = a ∨ pick a b = b) ∧ R (pick a b) a ∧ R (pick a b) b) {l : List Int} (hl : l ≠ []) :
    foldFirst pick 0 l ∈ l ∧ ∀ w ∈ l, R (foldFirst pick 0 l) w := by
  obtain ⟨a, l, rfl⟩ := List.exists_cons_of_ne_nil hl
  show l.foldl pick a ∈ a :: l ∧ ∀ w ∈ a :: l, R (l.foldl pick a) w
  induction l generalizing a with
  | nil => exact ⟨List.mem_cons_self, List.forall_mem_cons.2 ⟨hrefl a, fun _ h => absurd h List.not_mem_nil⟩⟩
  | cons b l ih =>
    obtain ⟨hin, hall⟩ := ih (pick a b) (List.cons_ne_nil _ _)
    obtain ⟨hp, hrest⟩ := List.forall_mem_cons.1 hall
    obtain ⟨hmem, ha, hb⟩ := hpick a b
    refine ⟨?_, List.forall_mem_cons.2 ⟨htrans _ _ _ hp ha, List.forall_mem_cons.2 ⟨htrans _ _ _ hp hb, hrest⟩⟩⟩
    rw [List.foldl_cons]
    rcases List.mem_cons.1 hin with h | h
    · rw [h]
      rcases hmem with h | h <;> simp [h]
    · exact List.mem_cons_of_mem _ (List.mem_cons_of_mem _ h)

/-- The value of `rmin` over integers is their least (R263). -/
theorem minLanes_ints {nan ab : Bool} {l : List Int} (hl : l ≠ []) : ∃ v ∈ l.map (fun x => if ab then (x.natAbs : Int) else x),
    (∀ w ∈ l.map (fun x => if ab then (x.natAbs : Int) else x), v ≤ w) ∧
      minMaxLanes false nan ab (.ints l) = plain (BitVec.ofInt 64 v) .i64 := by
  obtain ⟨hin, hall⟩ := foldFirst_picks (R := (· ≤ ·)) (pick := fun a b => if b < a then b else a) Int.le_refl
    (fun _ _ _ => Int.le_trans) (fun a b => by split <;> omega) (fun h => hl (List.map_eq_nil_iff.1 h))
  exact ⟨_, hin, hall, congrArg (plain · .i64) (truncInt_eq 64 _)⟩

/-- The value of `rmax` over integers is their greatest (R263). -/
theorem maxLanes_ints {nan ab : Bool} {l : List Int} (hl : l ≠ []) : ∃ v ∈ l.map (fun x => if ab then (x.natAbs : Int) else x),
    (∀ w ∈ l.map (fun x => if ab then (x.natAbs : Int) else x), w ≤ v) ∧
      minMaxLanes true nan ab (.ints l) = plain (BitVec.ofInt 64 v) .i64 := by
  obtain ⟨hin, hall⟩ := foldFirst_picks (R := (· ≥ ·)) (pick := fun a b => if a < b then b else a) Int.le_refl
    (fun _ _ _ h h' => Int.le_trans h' h) (fun a b => by split <;> omega) (fun h => hl (List.map_eq_nil_iff.1 h))
  exact ⟨_, hin, hall, congrArg (plain · .i64) (truncInt_eq 64 _)⟩

/-- The sum of integers exact, cut to 64 bits (R263). -/
theorem sumLanes_ints (l : List Int) : sumLanes (.ints l) = plain (BitVec.ofInt 64 l.sum) .i64 := by
  rw [sumLanes, truncInt_eq, List.sum_eq_foldl]

/-- A reduction emits the scalar that its lanes give. -/
theorem reduceLines_ends {i : Instr} {op : Nat} {g : RedLanes → Payload} {r : RedLanes} (he : exec i s = reduceLines op n s g)
    (hop : op ≠ 0xB5) (hf : FiresLine s c n a b s2) (hx : lineA s2 c.u.cl a = .ok x) (hr : redLanes x.lines = .ok r)
    (hemit : CanEmit s2 c n b.pay false) (hp : (g r).scaled = false) :
    ∃ t, finish s2 c n b.pay (g r) = .ok t ∧ Ends i s c op t := by
  obtain ⟨t, ht, -⟩ := finish_again hemit hp
  refine ⟨t, ht, runLines_ends he hop hf ?_⟩
  simp only [hx, hr, bind, Except.bind, ht]

end

/-- Settles O35: the reductions fold the lanes that `redLanes` collects. -/
theorem reductionsGiveOneScalar : Obligations.ReductionsGiveOneScalar := by
  unfold Obligations.ReductionsGiveOneScalar
  intro n nan ab m s c a b s2 x l rest hf hx hl hfmt hemit f fv iv mag imag f32 best
  have hfloats : inF f → redLanes x.lines = .ok (.floats (x.lines.map fv)) := fun h => hl ▸ redLanes_of_inF h
  have hints : inI f → redLanes x.lines = .ok (.ints iv) := fun h => by
    simp only [iv, hl]
    exact redLanes_of_inI h
  have hne : iv ≠ [] := by
    simp only [iv, hl]
    exact intLanes_ne_nil f l rest fun y j => intI f (lineLane f y j)
  have hbest : ∀ more, minMaxLanes more nan ab (.floats (x.lines.map fv)) = f32 (best more) := fun more => by
    simp only [minMaxLanes, best, mag, List.flatMap_map, id_eq]
    cases (x.lines.flatMap fv).map fun v => if ab then FV.abs v else v <;> rfl
  refine ⟨fun h => ?_, fun h => ?_, fun h => ?_, fun h => ?_, fun h => ?_, fun h => ?_⟩
  · have hsum : sumLanes (.floats (x.lines.map fv)) =
        f32 ((rest.map fun y => treeSum (fv y)).foldl addF32 (treeSum (fv l))) := by
      simp only [sumLanes, hl, List.map_map, List.map_cons, foldFirst]
      rfl
    exact hsum ▸ reduceLines_ends (Eq.refl (execRsum n m s)) (by decide) hf hx (hfloats h) hemit rfl
  · exact sumLanes_ints iv ▸ reduceLines_ends (Eq.refl (execRsum n m s)) (by decide) hf hx (hints h) hemit rfl
  · exact hbest false ▸ reduceLines_ends (Eq.refl (execRmin n nan ab m s)) (by decide) hf hx (hfloats h) hemit rfl
  · exact hbest true ▸ reduceLines_ends (Eq.refl (execRmax n nan ab m s)) (by decide) hf hx (hfloats h) hemit rfl
  · obtain ⟨v, hin, hall, hv⟩ := minLanes_ints (nan := nan) (ab := ab) hne
    obtain ⟨t, ht⟩ := reduceLines_ends (i := .rmin n nan ab m) (op := 0xB9) (g := minMaxLanes false nan ab) rfl (by decide)
      hf hx (hints h) hemit rfl
    exact ⟨v, t, hin, hall, hv ▸ ht⟩
  · obtain ⟨v, hin, hall, hv⟩ := maxLanes_ints (nan := nan) (ab := ab) hne
    obtain ⟨t, ht⟩ := reduceLines_ends (i := .rmax n nan ab m) (op := 0xBA) (g := minMaxLanes true nan ab) rfl (by decide)
      hf hx (hints h) hemit rfl
    exact ⟨v, t, hin, hall, hv ▸ ht⟩

end Sys2Proof.Proofs

/-! ## Lane moves

A scalar broadcast over a line, the lane that a node extracts, and lanes gathered by the bytes of another line (O34). -/

namespace Sys2Proof.Proofs

open Sys2Proof Sys2Proof.Machine Sys2Proof.Laws

section

variable {f k j v w g : Nat} {s s2 : State} {c : Cur} {n : Nd} {a b : Opd} {x : Scalar}

/-- Each member of a list gives its result. -/
theorem mapM_ok {α β : Type} {f : α → Res β} {P : β → α → Prop} {l : List α} (h : ∀ x ∈ l, ∃ y, f x = .ok y ∧ P y x) :
    ∃ r, l.mapM f = .ok r ∧ r.length = l.length ∧ ∀ q ∈ List.zip r l, P q.1 q.2 := by
  induction l with
  | nil => exact ⟨[], rfl, rfl, fun _ h => absurd h List.not_mem_nil⟩
  | cons x l ih =>
    obtain ⟨⟨y, hy, hP⟩, hl⟩ := List.forall_mem_cons.1 h
    obtain ⟨r, hr, hlen, hall⟩ := ih hl
    exact ⟨y :: r, by rw [List.mapM_cons, hy, hr]; rfl, congrArg Nat.succ hlen, List.forall_mem_cons.2 ⟨hP, hall⟩⟩

/-- A member of the lanes of a value, of those it has. -/
theorem lanesOf_getD (h : j < k) : (lanesOf w k v).getD j 0 = laneAt w j v := by
  have hj : j < (lanesOf w k v).length := by rwa [lanesOf_length]
  rw [List.getD_eq_getElem _ _ hj, lanesOf_get]

/-- An index beyond the lanes of a value gives zero. -/
theorem lanesOf_getD_beyond (h : k ≤ j) : (lanesOf w k v).getD j 0 = 0 :=
  List.getD_eq_default _ _ (by rwa [lanesOf_length])

/-- The low bits of a value hold the lanes that lie within them. -/
theorem laneAt_ofNat {m : Nat} (h : w * (j + 1) ≤ m) : laneAt w j (BitVec.ofNat m v).toNat = laneAt w j v := by
  have hw : w * j + w ≤ m := Nat.mul_succ w j ▸ h
  rw [BitVec.toNat_ofNat, laneAt, ← Nat.add_sub_cancel' (Nat.le_trans (Nat.le_add_right _ _) hw), Nat.pow_add,
    Nat.mod_mul_right_div_self, Nat.mod_mod_of_dvd _ (Nat.pow_dvd_pow 2 (Nat.le_sub_of_add_le' hw))]
  rfl

/-- A lane of a line joined of lanes, of those that it holds. -/
theorem laneAt_lineJoin_within {l : List Nat} (hw : w * (j + 1) ≤ 512) (hj : j < l.length) :
    laneAt w j (lineJoin w l).toNat = l[j] % 2 ^ w := by
  rw [lineJoin, laneAt_ofNat hw, laneAt_joinLanes w l j hj]

/-! ### A scalar broadcast -/

/-- Values agree on the bits that lanes hold which are the same. -/
theorem mod_eq_of_lanes {p q : Nat} : ∀ {k : Nat}, (∀ j, j < k → laneAt w j p = laneAt w j q) →
    p % 2 ^ (w * k) = q % 2 ^ (w * k)
  | 0, _ => by rw [Nat.mul_zero, Nat.pow_zero, Nat.mod_one, Nat.mod_one]
  | k + 1, h => by
    rw [Nat.mul_succ, Nat.pow_add, Nat.mod_mul, Nat.mod_mul, mod_eq_of_lanes fun j hj => h j (Nat.lt_succ_of_lt hj)]
    exact congrArg (_ + _ * ·) (h k (Nat.lt_succ_self k))

/-- A lane of lanes: the lanes that it is made of. -/
theorem laneAt_div (w k g j v : Nat) : laneAt w j (v / 2 ^ (w * k * g)) = laneAt w (k * g + j) v := by
  rw [laneAt, laneAt, Nat.div_div_eq_div_mul, ← Nat.pow_add, Nat.mul_add, Nat.mul_assoc]

/-- A scalar broadcast stands in every group of its lanes (R254). -/
theorem laneAt_broadcastLine {m : Nat} (hshape : scalarShape x.ty w = (v, k)) (hbits : v * (k * m) = 512)
    (hg : g < m) : laneAt (v * k) g (broadcastLine x w (k * m)).toNat = x.val.toNat % 2 ^ (v * k) := by
  simp only [broadcastLine, hshape]
  refine mod_eq_of_lanes fun j hj => ?_
  have hlane : k * g + j < k * m := Nat.lt_of_lt_of_le (Nat.add_lt_add_left hj _) (by
    rw [← Nat.mul_succ]
    exact Nat.mul_le_mul_left k hg)
  rw [laneAt_div, laneAt_lineJoin (by rwa [List.length_map, List.length_range]) (by rwa [List.length_map, List.length_range]),
    List.getElem_map, List.getElem_range, Nat.mul_add_mod, Nat.mod_eq_of_lt hj, lanesOf_getD hj,
    Nat.mod_eq_of_lt (laneAt_lt _ _ _)]

/-- Every doubleword of a line that broadcasts a scalar of 64 bits is that scalar (R254, R262). -/
theorem broadcastLine_wide (h : x.ty ≠ .f32 ∧ x.ty ≠ .i32) (hg : g < 8) :
    laneAt 64 g (broadcastLine x (lineShape (declared x.ty)).1 (lineShape (declared x.ty)).2).toNat = x.val.toNat := by
  have hval : x.val.toNat % 2 ^ 64 = x.val.toNat := Nat.mod_eq_of_lt x.val.isLt
  obtain ⟨val, ty, sc⟩ := x
  refine Eq.trans ?_ hval
  cases ty with
  | f32 => exact absurd rfl h.1
  | i32 => exact absurd rfl h.2
  | bf16x4 | i16x4 => exact laneAt_broadcastLine (v := 16) (k := 4) (m := 8) rfl rfl hg
  | qn4x16 => exact laneAt_broadcastLine (v := 4) (k := 16) (m := 8) rfl rfl hg
  | _ => exact laneAt_broadcastLine (w := 8) (v := 8) (k := 8) (m := 8) rfl rfl hg

/-- Every word of a line that broadcasts a scalar of 32 bits is the low word of that scalar (R254, R262). -/
theorem broadcastLine_narrow (h : x.ty = .f32 ∨ x.ty = .i32) (hg : g < 16) :
    laneAt 32 g (broadcastLine x (lineShape (declared x.ty)).1 (lineShape (declared x.ty)).2).toNat = x.val.toNat % 2 ^ 32 := by
  obtain ⟨val, ty, sc⟩ := x
  rcases h with rfl | rfl <;> exact laneAt_broadcastLine (v := 32) (k := 1) (m := 16) rfl rfl hg

/-- A broadcast issues with no tile (R262). -/
theorem runLines_ends_scalar {body : State → Cur → Opd → Opd → Res State} {i : Instr} {t : State}
    (he : exec i s = runLines 0xB5 n s body) (hcur : s.cur = some c) (hr : ReadsAB s c n a b s2) (h : body s2 c a b = .ok t) :
    Ends i s c 0xB5 t := by
  obtain ⟨s1, ha, hb⟩ := hr
  rw [Ends, he]
  unfold runLines
  simp only [hcur, if_true, List.all_nil, Bool.not_true, Bool.false_eq_true, if_false, List.foldl_nil, bind, Except.bind, ha, hb, h]

/-! ### Lanes extracted and gathered -/

/-- The token of a lane, by the set of its format (R262). -/
def ExtractedLane (k : Nat) (p : Payload) (l : Line) : Prop :=
  (inF l.2.fmt → p = plain (BitVec.ofNat 64 (Fmt.f32.round .ne false .arith
    ((fmtF l.2.fmt).value (lineLane l.2.fmt l k))).1) .f32) ∧
  (inI l.2.fmt ∨ l.2.fmt = 0x0A →
    p = plain ((BitVec.ofNat (lineShape l.2.fmt).1 (lineLane l.2.fmt l k)).signExtend 64) .i64) ∧
  (l.2.fmt = 0x00 ∨ l.2.fmt = 0x07 ∨ l.2.fmt = 0x08 → p = plain (BitVec.ofNat 64 (lineLane l.2.fmt l k)) .i64)

/-- A lane of a format of set X, within the lanes of its line, is extracted (R262). -/
theorem extLane_ok {l : Line} (hf : inX l.2.fmt) (hk : k < (lineShape l.2.fmt).2) :
    ∃ p, extLane k l = .ok p ∧ p.scaled = false ∧ ExtractedLane k p l := by
  have hlane : (lineLanes l.2.fmt l.1).getD k 0 = lineLane l.2.fmt l k := lanesOf_getD hk
  have hsign := ofNat_truncInt_toSigned (lineShape_width_pos l.2.fmt) (lineLane l.2.fmt l k)
  simp only [extLane, setX_of_inX hf, Bool.not_true, Bool.false_eq_true, if_false, need, hk, decide_true, if_true, hlane,
    bind, Except.bind, pure, Except.pure]
  unfold ExtractedLane
  obtain ⟨d, e⟩ := l
  simp only at hf hsign ⊢
  generalize e.fmt = fmt at hf hsign ⊢
  rcases hf with rfl | hf | rfl | rfl | rfl
  · exact ⟨_, rfl, rfl, fun h => by cases h <;> contradiction, fun h => by simp [inI] at h, fun _ => rfl⟩
  · rcases inFI_iff.1 hf with hF | hI
    · rw [setF_of_inF hF]
      refine ⟨_, rfl, rfl, fun _ => rfl, fun h => ?_, fun h => ?_⟩
      all_goals simp only [inF, inI] at hF h; omega
    · rw [setF_of_inI hI, setI_of_inI hI]
      refine ⟨_, rfl, rfl, fun h => absurd h (not_inF_of_inI hI), fun _ => congrArg (plain · .i64) hsign, fun h => ?_⟩
      simp only [inI] at hI
      omega
  · exact ⟨_, rfl, rfl, fun h => by cases h <;> contradiction, fun h => by simp [inI] at h, fun _ => rfl⟩
  · exact ⟨_, rfl, rfl, fun h => by cases h <;> contradiction, fun h => by simp [inI] at h, fun _ => rfl⟩
  · exact ⟨_, rfl, rfl, fun h => by cases h <;> contradiction, fun _ => congrArg (plain · .i64) hsign, fun h => by simp at h⟩

/-- An index at or above the lane count of a line is a lane fault (R262). -/
theorem extLane_beyond {l : Line} (hf : inX l.2.fmt) (hk : (lineShape l.2.fmt).2 ≤ k) : extLane k l = flt .lane (k % 16) := by
  simp only [extLane, setX_of_inX hf, Bool.not_true, Bool.false_eq_true, if_false, need, Nat.not_lt.2 hk, decide_false, flt,
    bind, Except.bind]

/-- The format whose lanes a permutation moves: an INT4 line moves whole bytes (R262). -/
def permFmt (f : Nat) : Nat := if f = 0x0A then 0x00 else f

/-- A line of a format of set X is permuted (R262). -/
theorem permLine_ok {l : Line} (y : Line) (hf : inX l.2.fmt) : ∃ r, permLine l y = .ok r ∧ r.2 = resultDesc l.2 ∧
    ∀ j, j < min 64 (lineShape (permFmt l.2.fmt)).2 →
      laneBv (lineShape (permFmt l.2.fmt)).1 j r.1.toNat =
        BitVec.ofNat _ (if laneAt 8 j y.1.toNat < (lineShape (permFmt l.2.fmt)).2
          then lineLane (permFmt l.2.fmt) l (laneAt 8 j y.1.toNat) else 0) := by
  have hshape : (if l.2.fmt = 0x0A then ((8, 64) : Nat × Nat) else lineShape l.2.fmt) = lineShape (permFmt l.2.fmt) := by
    unfold permFmt
    split <;> rfl
  simp only [permLine, hshape, setX_of_inX hf, if_true]
  refine ⟨_, rfl, rfl, fun j hj => ?_⟩
  obtain ⟨hbyte, hlane⟩ := Nat.lt_min.1 hj
  have hfit : (lineShape (permFmt l.2.fmt)).1 * (j + 1) ≤ 512 := lineShape_bits (permFmt l.2.fmt) ▸ Nat.mul_le_mul_left _ hlane
  rw [laneBv, laneAt_lineJoin_within hfit (by rwa [List.length_map, lanesOf_length]), ofNat_mod_two_pow, List.getElem_map,
    lanesOf_get]
  split
  next h => rw [lanesOf_getD h]
  next h => rw [lanesOf_getD_beyond (Nat.not_lt.1 h)]

end

/-- Settles O34: a scalar's groups of lanes, a lane of each line and the lanes that the bytes of B name. -/
theorem laneMoves : Obligations.LaneMoves := by
  unfold Obligations.LaneMoves
  refine ⟨fun n m s c a b s2 x hcur hr hx hsc hemit => ?_, fun n m s c a b s2 x y k hf hx hy hsc hk hall hemit => ⟨fun hlt => ?_,
    fun l rest hl hle => ?_⟩, fun n m s c a b s2 x y hf hx hy hall hemit => ?_⟩
  · obtain ⟨t, ht, -⟩ := finish_again (p := .line _ (Desc.mk (declared x.ty) 0) none) hemit rfl
    refine ⟨_, t, ht, runLines_ends_scalar (Eq.refl (execVbcast n m s)) hcur hr ?_,
      fun h g hg => broadcastLine_wide (by rcases h with h | h | h | h | h | h | h | h | h | h | h | h <;> simp [h]) hg,
      fun h g hg => broadcastLine_narrow h hg⟩
    simp only [scalarU_ok hx hsc, emitLines, List.foldlM_cons, List.foldlM_nil, bind, Except.bind, ht]
    rfl
  · obtain rfl := hk.trans (steerValue_eq y).symm
    obtain ⟨l, hl, hlen, hlanes⟩ := mapM_ok fun z hz => extLane_ok (hall z hz) (hlt z hz)
    have hclear : ∀ p ∈ l, p.scaled = false := fun p hp => by
      rw [← List.map_fst_zip (Nat.le_of_eq hlen)] at hp
      obtain ⟨q, hq, rfl⟩ := List.mem_map.1 hp
      exact (hlanes q hq).1
    obtain ⟨t, ht⟩ := emits_ok hemit hclear
    refine ⟨t, l, ht, runLines_ends (Eq.refl (execVext n m s)) (by decide) hf ?_, hlen, fun q hq => (hlanes q hq).2⟩
    simp only [hx, scalarU_ok hy hsc, hl, bind, Except.bind, ht]
  · obtain rfl := hk.trans (steerValue_eq y).symm
    refine runLines_faults (Eq.refl (execVext n m s)) (by decide) hf ?_ ⟨nofun, nofun⟩
    have hfault := extLane_beyond (hall l (hl ▸ List.mem_cons_self)) hle
    simp only [hx, scalarU_ok hy hsc, hl, List.mapM_cons, hfault, flt, bind, Except.bind]
  · obtain ⟨l, hl, hlen, hlanes⟩ := mapM_ok (l := List.zip x.lines y) (f := fun p => permLine p.1 p.2)
      fun p hp => permLine_ok p.2 (hall p.1 (List.of_mem_zip hp).1)
    obtain ⟨t, ht⟩ := emitLines_ok l hemit
    refine ⟨l, t, ?_, ht, runLines_ends (Eq.refl (execVperm n m s)) (by decide) hf ?_, hlanes⟩
    · rw [hlen, List.length_zip, lineB_length hy, Nat.min_self]
    · simp only [hx, hy, hl, bind, Except.bind, ht]

end Sys2Proof.Proofs

/-! ## Line conversions and scales

A converted line with its overflow tokens, and a line times a power of two (O33). -/

namespace Sys2Proof.Proofs

open Sys2Proof Sys2Proof.Machine Sys2Proof.Laws

section

variable {s s2 t : State} {c : Cur} {n : Nd} {b : Payload} {g : Tag} {fz : Bool} {m : Rnd} {w : Nat} {l : Line} {k : Int}

/-! ### Converted lines leave -/

/-- A firing that can send tokens without scaled bits, with the tag that they carry. -/
def SendsUnder (c : Cur) (n : Nd) (b : Payload) (g : Tag) (s : State) : Prop :=
  CanEmit s c n b false ∧ tagOf s c n.t b = .ok g

/-- A token of the firing leaves on one of its destinations, and another can follow. -/
theorem SendsUnder.sendTo {d : Dst} {p : Payload} (h : SendsUnder c n b g s) (hd : d = n.d ∨ d = n.e) (hp : p.scaled = false) :
    ∃ t, Machine.sendTo s c d p g = .ok t ∧ SendsUnder c n b g t := by
  obtain ⟨hemit, hg⟩ := h
  obtain ⟨h1, h2⟩ := hemit.2 g hg
  have hok : DstOk s c d g p.scaled := by
    rw [hp]
    rcases hd with rfl | rfl
    · exact h1
    · exact h2
  obtain ⟨t, ht, -⟩ := sendTo_ok hok
  exact ⟨t, ht, canEmit_sendTo hemit hg hok ht, (tagOf_congr (sendTo_header ht) n.t b).trans hg⟩

/-- A discarded overflow token leaves what the firing can send. -/
theorem SendsUnder.countDiscard (h : SendsUnder c n b g s) : SendsUnder c n b g (countDiscard s c.u) := by
  have harcs : SameArcs s (Machine.countDiscard s c.u) := ⟨fun u => ?_, fun _ _ => rfl⟩
  · exact ⟨SamePlaces.canEmit (s := s) (SamePlaces.of_clusters rfl rfl rfl) harcs h.1, h.2⟩
  rw [Machine.countDiscard, unit_modUnit]
  split
  next hu => rw [hu]
  next => rfl

theorem cvtOverflow_clear {ov : List Bool} {p : Payload} (h : p ∈ cvtOverflow ov) : p.scaled = false := by
  unfold cvtOverflow at h
  split at h
  · rcases List.mem_cons.1 h with rfl | h
    · rfl
    · split at h
      · obtain rfl := List.mem_singleton.1 h
        rfl
      · exact absurd h List.not_mem_nil
  · exact absurd h List.not_mem_nil

/-- A converted line leaves with its overflow tokens, or with the count of those it has no destination for (R93, R260). -/
theorem cvtEmit_ok {o : Opd} (h : CanEmit s c n o.pay false) (r : Line × List Bool) :
    ∃ t, cvtEmit s c n o r = .ok t ∧ CanEmit t c n o.pay false := by
  obtain ⟨g, hg⟩ := tagOf_ok (s := s) (c := c) h.1
  obtain ⟨s1, h1, hs1⟩ := SendsUnder.sendTo (d := n.d) (p := .line r.1.1 r.1.2 none) ⟨h, hg⟩ (.inl rfl) rfl
  simp only [cvtEmit, hg, h1, bind, Except.bind]
  obtain ⟨t, ht, hemit, -⟩ := foldlM_ok (P := SendsUnder c n o.pay g) (f := fun s p =>
    if n.e = .none then .ok (countDiscard s c.u) else if n.e = n.d then .ok s else sendTo s c n.e p g) (l := cvtOverflow r.2)
    (fun s p hp hs => by
      split
      · exact ⟨_, rfl, hs.countDiscard⟩
      · split
        · exact ⟨_, rfl, hs⟩
        · exact hs.sendTo (.inr rfl) (cvtOverflow_clear hp)) hs1
  exact ⟨t, ht, hemit⟩

/-! ### Converted lanes -/

/-- Lanes that stand from place `p`, zeros before and behind. -/
theorem getElem_padded {lanes : List Nat} {p q j : Nat} (hj : j < (List.replicate p 0 ++ lanes ++ List.replicate q 0).length) :
    (List.replicate p 0 ++ lanes ++ List.replicate q 0)[j] = if p ≤ j ∧ j < p + lanes.length then lanes.getD (j - p) 0 else 0 := by
  have hzero : ∀ r i, (List.replicate r 0).getD i 0 = 0 := fun r i => by
    rw [List.getD_eq_getElem?_getD, List.getElem?_getD_replicate_default_eq]
  rw [← List.getD_eq_getElem _ 0 hj, List.append_assoc]
  by_cases hp : j < p
  · rw [List.getD_append _ _ _ _ (by rwa [List.length_replicate]), if_neg fun h => Nat.not_lt.2 h.1 hp,
      hzero]
  · have hp := Nat.not_lt.1 hp
    rw [List.getD_append_right _ _ _ _ (by rwa [List.length_replicate]), List.length_replicate]
    by_cases hl : j - p < lanes.length
    · rw [List.getD_append _ _ _ _ hl, if_pos ⟨hp, (Nat.sub_lt_iff_lt_add' hp).1 hl⟩]
    · rw [List.getD_append_right _ _ _ _ (Nat.not_lt.1 hl), hzero, if_neg fun h =>
        hl (Nat.sub_lt_left_of_lt_add hp h.2)]

/-- The lanes that a conversion takes, from place `o` of the input (R260). -/
theorem map_window {α β : Type} (f : α → β) (x : List α) (d : α) {o k : Nat} (h : o + k ≤ x.length) :
    ((x.drop o).take k).map f = (List.range k).map fun j => f (x.getD (o + j) d) := by
  have hlen : k ≤ x.length - o := Nat.le_sub_of_add_le' h
  refine List.ext_getElem (by simp [hlen]) fun j _ hj => ?_
  have hj : j < k := by simpa using hj
  simp only [List.getElem_map, List.getElem_take, List.getElem_drop, List.getElem_range]
  rw [List.getD_eq_getElem _ _ (Nat.lt_of_lt_of_le (Nat.add_lt_add_left hj o) h)]

/-- The descriptor of a converted line (R260). -/
theorem cvtDesc_eq (target scale : Nat) : cvtDesc target scale =
    Desc.mk target (if target = 0x02 ∨ target = 0x03 ∨ target = 0x04 ∨ target = 0x05 then 0 else scale) := by
  simp only [cvtDesc, List.contains_cons, List.contains_nil, Bool.or_false, Bool.or_eq_true, beq_iff_eq]
  split <;> rfl

/-- A line under a conversion word that R260 allows: the line of the lanes from `p`, and an overflow bit for each. -/
theorem cvtWord_ok {target p o : Nat} {o' : OutFmt} {x : List FV} (htarget : bits w 7 0 = target) (hp : bits w 22 16 = p)
    (ho : bits w 30 24 = o) (ht : cvtTarget target = some o') (hx : lineValues fz (bits w 63 32) l.1 l.2 = some x)
    (h23 : bitAt w 23 = false) (h31 : bitAt w 31 = false)
    (hq : (target = 0x09 ∨ l.2.fmt = 0x09 ∨ l.2.fmt = 0x10) → superOk (bits w 63 32) = true)
    (hpt : p < (lineShape target).2) (hox : o < x.length) :
    cvtWord w fz m l = .ok (cvtLine o' target (bits w 15 8) (bits w 63 32) p o fz m x) := by
  have hquant : ((target == 0x09 || l.2.fmt == 0x09 || l.2.fmt == 0x10) && !superOk (bits w 63 32)) = false := by
    by_cases h : target = 0x09 ∨ l.2.fmt = 0x09 ∨ l.2.fmt = 0x10
    · rw [hq h, Bool.not_true, Bool.and_false]
    · simp only [not_or] at h
      simp [h]
  simp only [cvtWord, htarget, hp, ho, ht, hx, h23, h31, hquant, targetLanes, Nat.not_le.2 hpt, Nat.not_le.2 hox, decide_false,
    Bool.or_false, Bool.false_eq_true, if_false]

/-- The line and the overflow bits of a conversion, lane by lane (R260). -/
theorem cvtLine_lanes {o' : OutFmt} {target scale super p o k : Nat} {x : List FV} {down : Int} {lane : Nat → Nat × Bool}
    (hpt : p < (lineShape target).2) (hox : o < x.length) (hk : k = min (x.length - o) ((lineShape target).2 - p))
    (hdown : down = if signedExp target = true then -(BitVec.ofNat 8 scale).toInt else 0)
    (hlane : ∀ j, lane j = cvtLane o' false fz m (lineScale super scale) (.fv (FV.scale down (x.getD (o + j) .nan)))) :
    LanesAre target (fun j => if p ≤ j ∧ j < p + k then (lane (j - p)).1 else 0)
        (cvtLine o' target scale super p o fz m x).1 ∧
      (cvtLine o' target scale super p o fz m x).2 = (List.range k).map fun j => (lane j).2 := by
  have hfit : o + k ≤ x.length := by omega
  have hroom : p + k ≤ (lineShape target).2 := by omega
  have hexp : (if signedExp target = true then -(toSigned 8 scale) else 0) = down := by
    rw [hdown, toSigned_eq (by decide)]
  simp only [cvtLine, targetLanes, ← hk, hexp, map_window _ x .nan hfit, List.map_map]
  refine ⟨lanesAre_lineJoin _ ?_ fun j hj => ?_, ?_⟩
  · simp only [List.length_append, List.length_replicate, List.length_map, List.length_range]
    omega
  · rw [getElem_padded, List.length_map, List.length_range]
    refine congrArg (BitVec.ofNat _) (if_ctx_congr Iff.rfl (fun h => ?_) fun _ => rfl)
    rw [List.getD_eq_getElem _ _ (by simpa using Nat.sub_lt_left_of_lt_add h.1 h.2), List.getElem_map, List.getElem_range, hlane]
    rfl
  · exact List.map_congr_left fun j _ => congrArg Prod.snd (hlane j).symm

/-! ### Scaled lines -/

/-- A line of set F is scaled lane by lane (R261). -/
theorem sclLine_of_inF (h : inF l.2.fmt) : ∃ r, sclLine fz m k l = .ok r ∧ r.2 = Desc.mk l.2.fmt 0 ∧
    (-4096 ≤ k ∧ k ≤ 4096 → LanesAre l.2.fmt (fun j =>
      ((fmtF l.2.fmt).round m fz .arith (FV.scale k (fvF fz l.2.fmt (lineLane l.2.fmt l j)))).1) r) := by
  simp only [sclLine, setF_of_inF h]
  refine ⟨_, rfl, ?_, fun hk => ?_⟩
  · rcases h with h | h <;> simp [resultDesc, h]
  · rw [min_eq_right hk.2, max_eq_right hk.1]
    exact lanesAre_map (g := fun v => ((fmtF l.2.fmt).round m fz .arith (FV.scale k (fvF fz l.2.fmt v))).1) l _ fun _ _ => rfl

theorem setF_of_not_inF {f : Nat} (h : ¬ inF f) : setF f = none := by
  rw [inF, not_or] at h
  rw [setF, if_neg h.1, if_neg h.2]

/-- The scale byte of a line is moved by `k` where its format has a signed exponent and the sum fits it; any other is a format
fault (R261). -/
theorem sclLine_of_not_inF (h : ¬ inF l.2.fmt) : sclLine fz m k l =
    if signedExp l.2.fmt = true ∧ -128 ≤ (BitVec.ofNat 8 l.2.scale).toInt + k ∧ (BitVec.ofNat 8 l.2.scale).toInt + k ≤ 127 then
      .ok (l.1, Desc.mk l.2.fmt (BitVec.ofInt 8 ((BitVec.ofNat 8 l.2.scale).toInt + k)).toNat)
    else flt .format l.2.toNat := by
  simp only [sclLine, setF_of_not_inF h, toSigned_eq (show 0 < 8 by decide), Bool.and_eq_true, decide_eq_true_eq, and_assoc,
    BitVec.toNat_ofInt]
  rfl

end

/-- Settles O33: each line converts or scales by itself, and the results leave in order. -/
theorem lineConversionsAndScales : Obligations.LineConversionsAndScales := by
  unfold Obligations.LineConversionsAndScales
  refine ⟨fun n fz m s c a b s2 x y l hf hx hy hsc hl hemit => ?_, ?_, fun n fz m s c a b s2 x y l hf hx hy hsc hl hemit => ?_,
    fun fz m k l => sclLine_of_inF, fun fz m k l h => ⟨fun hexp hlo hhi => ?_, fun hbad => ?_⟩⟩
  · obtain ⟨t, ht, -⟩ := foldlM_ok (P := fun s => CanEmit s c n b.pay false) (f := fun s z => cvtEmit s c n b z) (l := l)
      (fun _ r _ hs => cvtEmit_ok hs r) hemit
    refine ⟨t, ht, runLines_ends (Eq.refl (execVcvt n fz m s)) (by decide) hf ?_⟩
    simp only [hx, scalarU_ok hy hsc, hl, bind, Except.bind, ht]
  · intro w fz m l o' x target p o ht hx h23 h31 hq hpt hox k down lane
    obtain ⟨hlanes, hov⟩ := cvtLine_lanes (lane := lane) hpt hox rfl rfl fun _ => rfl
    exact ⟨_, _, cvtWord_ok rfl rfl rfl ht hx h23 h31 hq hpt hox, cvtDesc_eq .., hlanes, hov⟩
  · obtain ⟨t, ht⟩ := emitLines_ok l hemit
    refine ⟨t, ht, runLines_ends (Eq.refl (execVscl n fz m s)) (by decide) hf ?_⟩
    simp only [hx, scalarU_ok hy hsc, toSigned_toNat (show 0 < 64 by decide), hl, bind, Except.bind, ht]
  · exact (sclLine_of_not_inF h).trans (if_pos ⟨hexp, hlo, hhi⟩)
  · refine (sclLine_of_not_inF h).trans (if_neg fun ⟨hexp, hlo, hhi⟩ => ?_)
    rcases hbad with hbad | hbad
    · exact absurd (hexp.symm.trans hbad) (by decide)
    · omega

end Sys2Proof.Proofs

/-! ## Accumulation

What `racc` leaves in its accumulator lines, and in every other byte (O36). -/

namespace Sys2Proof.Proofs

open Sys2Proof Sys2Proof.Machine Sys2Proof.Laws

section

variable {s s2 t : State} {c : Cur} {n : Nd} {fz : Bool} {k i j w v key line base : Nat} {m : Memory}

/-! ### Slices of what is read -/

theorem readN_lt (m : Memory) (k : Nat) : ∀ n, m.readN k n < 2 ^ (8 * n)
  | 0 => Nat.one_pos
  | n + 1 => by
    have hbyte := (m.read k).isLt
    have hrest := readN_lt m (k + 1) n
    rw [Memory.readN, Nat.mul_succ, Nat.pow_add]
    omega

theorem readN_add (m : Memory) (n : Nat) : ∀ i k, m.readN k (i + n) = m.readN k i + 2 ^ (8 * i) * m.readN (k + i) n
  | 0, k => by rw [Nat.zero_add, Memory.readN, Nat.mul_zero, Nat.pow_zero, Nat.one_mul, Nat.zero_add, Nat.add_zero]
  | i + 1, k => by
    rw [show i + 1 + n = i + n + 1 by omega, Memory.readN, Memory.readN, readN_add m n i, Nat.mul_succ, Nat.pow_add,
      show k + (i + 1) = k + 1 + i by omega]
    ring

/-- A lane of the words of a line is the word in its place (R74). -/
theorem laneAt_readN (m : Memory) (k : Nat) {j n : Nat} (h : 4 * (j + 1) ≤ n) :
    laneAt 32 j (m.readN k n) = m.readN (k + 4 * j) 4 := by
  obtain ⟨r, rfl⟩ := Nat.exists_eq_add_of_le h
  rw [show 4 * (j + 1) + r = 4 * j + (4 + r) by omega, readN_add, readN_add, show 8 * (4 * j) = 32 * j by omega, laneAt,
    Nat.add_mul_div_left _ _ (Nat.two_pow_pos _), Nat.div_eq_of_lt ((readN_lt m k (4 * j)).trans_eq (by congr 1; omega)),
    Nat.zero_add, Nat.add_mul_mod_self_left, Nat.mod_eq_of_lt (readN_lt m _ 4)]

/-! ### A visible write where nothing is held -/

theorem heldTo_of_noneHeld (h : NoneHeld s line) (p : Nat → HeldStore → Bool) : heldTo s line p = [] := by
  have hnone : (s.clusters.flatMap fun c => c.2.writeQ.filter fun e => e.line == line && p c.1 e) = [] := by
    refine List.flatMap_eq_nil_iff.2 fun c hc => List.filter_eq_nil_iff.2 fun e he => ?_
    rw [beq_eq_false_iff_ne.2 (h c hc e he)]
    exact Bool.false_ne_true
  rw [heldTo, hnone]
  rfl

/-- The bytes and the descriptor of a line that nothing is held for (R129). -/
theorem visibleWrite_mem {cells : List Host.Cell} {d : Desc} {e : Option EncTag} (h : Quiet s line) :
    (visibleWrite s line cells (some d) e).mem = Memory.writeN (Memory.writeCells s.mem cells) (descKey line) 2 d.toNat := by
  simp only [visibleWrite, h.1, Bool.false_eq_true, if_false, landWrite, drainLine_none line _ (heldTo_of_noneHeld h.2 _)]

/-- A write of a line of operand memory leaves every other quiet line quiet. -/
theorem quiet_visibleWrite {cells : List Host.Cell} {d : Option Desc} {e : Option EncTag} {l : Nat} (h : Quiet s line)
    (hpool : isHbm line = false) (hl : Quiet s l) : Quiet (visibleWrite s line cells d e) l := by
  obtain ⟨htlb, hheld⟩ := hl
  simp only [visibleWrite, h.1, Bool.false_eq_true, if_false, drainLine, Bool.false_and, landHeld,
    heldTo_of_noneHeld h.2, List.foldl_nil, landWrite, hpool]
  refine ⟨htlb, fun p hp e he => ?_⟩
  simp only [List.map_map] at hp
  obtain ⟨q, hq, rfl⟩ := List.mem_map.1 hp
  exact hheld q hq e (List.mem_filter.1 he).1

/-! ### One accumulator line -/

/-- The bits of an accumulator word that a value has been added to (R264). -/
def accWord (fz : Bool) (x : Nat) (a : FV) : Nat := (Fmt.f32.round .ne fz .arith (FV.add .ne (fvF fz 0x04 x) a)).1

theorem accAdd_mem {l : List FV} (h : Quiet s key) : (accAdd s fz key l).mem = Memory.writeN (Memory.writeN s.mem key 64
    (joinLanes 32 (List.zipWith (accWord fz) (lanesOf 32 16 (Memory.readN s.mem key 64)) l))) (descKey key) 2 0x0400 := by
  rw [accAdd, visibleWrite_mem h, writeCells_cellsOf]
  rfl

theorem descKey_add (base i : Nat) : descKey (base + 64 * i) = descKey base + 2 * i := by
  rw [descKey, descKey, Nat.add_mul_div_left _ _ (by decide)]
  omega

/-- What adding lists of values into the accumulator lines from `base` up leaves in memory (R264). -/
structure Accumulated (fz : Bool) (m m' : Memory) (base : Nat) (l : List (List FV)) : Prop where
  word : ∀ i (hi : i < l.length) j (hj : j < l[i].length),
    m'.readN (base + 64 * i + 4 * j) 4 = accWord fz (m.readN (base + 64 * i + 4 * j) 4) l[i][j] % 2 ^ 32
  desc : ∀ i, i < l.length → m'.readN (descKey (base + 64 * i)) 2 = 0x0400
  outside : ∀ q, (q < base ∨ base + 64 * l.length ≤ q) → (q < descKey base ∨ descKey base + 2 * l.length ≤ q) →
    m'.read q = m.read q

/-- Values added into one line. -/
theorem accumulated_one {l : List FV} (hm : s.MemOk) (h : Quiet s key) (hl : l.length = 16) (hkey : key + 64 ≤ 2 ^ 120) :
    Accumulated fz s.mem (accAdd s fz key l).mem key [l] := by
  have hdesc : 2 ^ 120 ≤ descKey key := Nat.le_add_right _ _
  have hwf := fun v => writeN_wf key 64 v hm
  rw [accAdd_mem h]
  refine ⟨fun i hi j hj => ?_, fun i hi => ?_, fun q hq hd => ?_⟩
  · obtain rfl : i = 0 := by simpa using hi
    have hj : j < 16 := hl ▸ hj
    have hlen : j < (List.zipWith (accWord fz) (lanesOf 32 16 (Memory.readN s.mem key 64)) l).length := by
      rwa [List.length_zipWith, lanesOf_length, hl, Nat.min_self]
    rw [readN_writeN_outside _ _ (hwf _) (.inl (by omega)), Nat.mul_zero, Nat.add_zero,
      readN_writeN_slice _ _ hm (by omega), show 8 * (4 * j) = 32 * j by omega]
    refine (laneAt_joinLanes 32 _ j hlen).trans ?_
    rw [List.getElem_zipWith, lanesOf_get, laneAt_readN _ _ (by omega)]
    rfl
  · obtain rfl : i = 0 := by simpa using hi
    rw [Nat.mul_zero, Nat.add_zero, readN_writeN _ _ _ (hwf _)]
    rfl
  · rw [List.length_singleton] at hq hd
    rw [read_writeN _ _ _ _ (hwf _) hd, read_writeN _ _ _ _ hm hq]

/-! ### Lines in order -/

/-- Values added into a line, and then those of the lines behind it. -/
theorem Accumulated.cons {m1 m2 : Memory} {v : List FV} {l : List (List FV)} (h : Accumulated fz m m1 base [v])
    (g : Accumulated fz m1 m2 (base + 64) l) (hv : v.length = 16) (hl : ∀ x ∈ l, x.length = 16)
    (hbase : base + 64 * (l.length + 1) ≤ 2 ^ 120) : Accumulated fz m m2 base (v :: l) := by
  have hdesc : 2 ^ 120 ≤ descKey base := Nat.le_add_right _ _
  have hnext : descKey (base + 64) = descKey base + 2 := descKey_add base 1
  have hfirst : ∀ q, q < base + 64 ∨ descKey base ≤ q ∧ q < descKey base + 2 → m2.read q = m1.read q := fun q hq =>
    g.outside q (by omega) (by omega)
  have hrest : ∀ q, base + 64 ≤ q → q < base + 64 * (l.length + 1) → m1.read q = m.read q := fun q hlo hhi =>
    h.outside q (.inr (by rwa [List.length_singleton])) (.inl (by omega))
  refine ⟨fun i hi j hj => ?_, fun i hi => ?_, fun q hq hd => ?_⟩
  · cases i with
    | zero =>
      have hj : j < 16 := hv ▸ hj
      rw [readN_congr fun q _ hlt => hfirst q (.inl (by omega))]
      exact h.word 0 Nat.one_pos j (hv.symm ▸ hj)
    | succ i =>
      have hi : i < l.length := Nat.lt_of_succ_lt_succ hi
      have hj' : j < 16 := hl _ (List.getElem_mem hi) ▸ hj
      have hword := g.word i hi j hj
      rw [show base + 64 + 64 * i + 4 * j = base + 64 * (i + 1) + 4 * j by omega] at hword
      rw [hword, readN_congr fun q hlo hlt => hrest q (by omega) (by omega)]
      rfl
  · cases i with
    | zero =>
      rw [Nat.mul_zero, Nat.add_zero, readN_congr fun q hlo hlt => hfirst q (.inr ⟨hlo, hlt⟩)]
      exact h.desc 0 Nat.one_pos
    | succ i =>
      have hword := g.desc i (Nat.lt_of_succ_lt_succ hi)
      rwa [Nat.add_assoc, show 64 + 64 * i = 64 * (i + 1) by omega] at hword
  · rw [List.length_cons] at hq hd
    rw [g.outside q (by omega) (by omega), h.outside q (by rw [List.length_singleton]; omega) (by rw [List.length_singleton]; omega)]

/-- What adding values changes beside memory: nothing that a send depends on, and nothing of the device. -/
def KeepsSends (s t : State) : Prop := OnlyMemory s t ∧ SamePlaces s t ∧ SameArcs s t

theorem KeepsSends.trans {u : State} (h : KeepsSends s t) (g : KeepsSends t u) : KeepsSends s u :=
  ⟨h.1.trans g.1, h.2.1.trans g.2.1, h.2.2.trans g.2.2⟩

theorem keepsSends_accAdd (l : List FV) : KeepsSends s (accAdd s fz key l) := by
  unfold accAdd
  exact ⟨OnlyMemory.visibleWrite .., SamePlaces.visibleWrite .., sameArcs_visibleWrite ..⟩

theorem quiet_accAdd {l : List FV} {k : Nat} (h : Quiet s key) (hpool : 2 ^ 40 ≤ key) (hk : Quiet s k) :
    Quiet (accAdd s fz key l) k := by
  unfold accAdd
  exact quiet_visibleWrite h (decide_eq_false (Nat.not_lt.2 hpool)) hk

/-- Values are added line by line, each into its own accumulator line (R264). -/
theorem foldl_accAdd {l : List (List FV)} : ∀ {s t : State} {n : Nat},
    (l.zipIdx n).foldl (fun s p => accAdd s fz (base + 64 * p.2) p.1) s = t → s.MemOk →
    (∀ i, i < l.length → Quiet s (base + 64 * (n + i))) → (∀ v ∈ l, v.length = 16) → 2 ^ 40 ≤ base →
    base + 64 * (n + l.length) ≤ 2 ^ 120 → KeepsSends s t ∧ Accumulated fz s.mem t.mem (base + 64 * n) l := by
  induction l with
  | nil =>
    rintro s t n rfl - - - - -
    exact ⟨⟨.refl s, .refl s, .refl s⟩, nofun, nofun, fun _ _ _ => rfl⟩
  | cons v l ih =>
    intro s t n ht hm hq hlen hlo hhi
    obtain ⟨hv, hl⟩ := List.forall_mem_cons.1 hlen
    rw [List.length_cons] at hhi hq
    rw [List.zipIdx_cons, List.foldl_cons] at ht
    have hq0 : Quiet s (base + 64 * n) := hq 0 (Nat.succ_pos _)
    have hquiet : ∀ i, i < l.length → Quiet (accAdd s fz (base + 64 * n) v) (base + 64 * (n + 1 + i)) := fun i hi => by
      rw [Nat.add_assoc, Nat.add_comm 1 i]
      exact quiet_accAdd hq0 (by omega) (hq (i + 1) (Nat.succ_lt_succ hi))
    obtain ⟨hkeeps, hrest⟩ := ih ht (accAdd_wf hm) hquiet hl hlo (by omega)
    rw [Nat.mul_succ, ← Nat.add_assoc] at hrest
    exact ⟨(keepsSends_accAdd v).trans hkeeps, (accumulated_one hm hq0 hv (by omega)).cons hrest hv hl (by omega)⟩

/-! ### The values that a line brings -/

/-- The accumulator lines that a line of a format of set F takes (R264). -/
def accLines (f : Nat) : Nat := if f = 0x04 then 1 else 2

/-- A line of set F brings 16 values to each of its accumulator lines (R264). -/
theorem accParts_ok {l : Line} (h : inF l.2.fmt) : ∃ parts, accParts fz l = .ok parts ∧ parts.length = accLines l.2.fmt ∧
    (∀ v ∈ parts, v.length = 16) ∧ ∀ i (hi : i < parts.length) j (hj : j < parts[i].length),
      parts[i][j] = fvF fz l.2.fmt (lineLane l.2.fmt l (16 * i + j)) := by
  obtain ⟨d, e⟩ := l
  simp only [accParts, accLines, setF_of_inF h, lineLane] at h ⊢
  generalize e.fmt = f at h ⊢
  have hlanes : ∀ j (hj : j < ((lineLanes f d).map fun x => (fmtF f).flushIn fz ((fmtF f).value x)).length),
      ((lineLanes f d).map fun x => (fmtF f).flushIn fz ((fmtF f).value x))[j] = fvF fz f (laneAt (lineShape f).1 j d.toNat) :=
    fun j hj => by
      rw [List.getElem_map]
      simp only [lineLanes, lanesOf_get]
      rfl
  rcases h with rfl | rfl
  · refine ⟨_, rfl, rfl, fun v hv => ?_, fun i hi j hj => ?_⟩
    · obtain rfl := List.mem_singleton.1 hv
      rw [List.length_map, lineLanes_length]
      rfl
    · obtain rfl : i = 0 := by simpa using hi
      rw [Nat.mul_zero, Nat.zero_add]
      exact hlanes j hj
  · have hlen : ((lineLanes 0x05 d).map fun x => (fmtF 0x05).flushIn fz ((fmtF 0x05).value x)).length = 32 := by
      rw [List.length_map, lineLanes_length]
      rfl
    refine ⟨_, rfl, rfl, fun v hv => ?_, fun i hi j hj => ?_⟩
    · rcases List.mem_pair.1 hv with rfl | rfl
      · rw [List.length_take, hlen]
        rfl
      · rw [List.length_drop, hlen]
    · rcases i with _ | _ | i
      · simp only [Nat.reduceEqDiff, if_false, List.getElem_cons_zero, List.getElem_take, Nat.mul_zero, Nat.zero_add]
        exact hlanes j _
      · simp only [Nat.reduceEqDiff, if_false, List.getElem_cons_succ, List.getElem_cons_zero, List.getElem_drop]
        exact hlanes (16 + j) _
      · simp at hi

/-- Lines of set F bring values to as many accumulator lines as they take (R264). -/
theorem mapM_accParts {l : List Line} (h : ∀ x ∈ l, inF x.2.fmt) : ∃ parts, l.mapM (accParts fz) = .ok parts ∧
    (parts.flatMap id).length = (l.map fun x => accLines x.2.fmt).sum := by
  induction l with
  | nil => exact ⟨[], rfl, rfl⟩
  | cons x l ih =>
    obtain ⟨hx, hl⟩ := List.forall_mem_cons.1 h
    obtain ⟨p, hp, hlen, -⟩ := accParts_ok (fz := fz) hx
    obtain ⟨parts, hparts, hsum⟩ := ih hl
    refine ⟨p :: parts, by rw [List.mapM_cons, hp, hparts]; rfl, ?_⟩
    rw [List.flatMap_cons, List.length_append, hsum, List.map_cons, List.sum_cons, ← hlen]
    rfl

/-- An offset of the accumulator class is an i64 (R264). -/
theorem scalarOr_ok {o : Opd} {y : Scalar} {cause : Cause} (h : asScalar o [.i64] = .ok y) (hs : y.sc = false) :
    scalarOr o .i64 cause = .ok y := by
  simp only [scalarOr, clearOf, h, hs, need, bind, Except.bind]
  rfl

/-- The accumulator class of a partition word lies in the operand memory of its cluster (Table 04-7). -/
theorem accClass_le (w : Word) : classBase w 2 + classSize w 2 ≤ 2 ^ 22 := by
  have hsize : ∀ k, classSize w k ≤ 2 ^ 20 := fun k => by
    simp only [classSize, bits]
    split <;> omega
  have h0 := hsize 0
  have h1 := hsize 1
  have h2 := hsize 2
  simp only [classBase]
  omega

theorem firesLine_wf {a b : Opd} (hm : s.MemOk) (hf : FiresLine s c n a b s2) : s2.MemOk := by
  obtain ⟨_, _, s1, ha, hb⟩ := hf
  have h0 : s.base.MemOk := hm
  have h1 := readSrc_wf (foldl_ok h0 fun _ _ h => consumeTile_wf h) (a, s1) ha
  exact readSrc_wf h1 (b, s2) hb

end

/-- Settles O36: the parts of a line are added into the accumulator lines in order, and the token changes no memory. -/
theorem accumulationAddsIntoItsLines : Obligations.AccumulationAddsIntoItsLines := by
  unfold Obligations.AccumulationAddsIntoItsLines
  refine ⟨fun n fz m s c a b s2 l y hm hf hx hF hy hsc hal => ?_, fun n fz m s c a b s2 x e hf hx hy => ?_,
    fun n fz m s c a b s2 x y hf hx hF hy hsc hbad => ?_⟩
  · intro w k hsize hcl base hpoison s3 hquiet hemit
    obtain ⟨parts, hparts, hlen, h16, hvalue⟩ := accParts_ok (fz := fz) hF
    have hlen : parts.length = k := hlen
    have hbase : base = 2 ^ 40 + c.u.cl * 2 ^ 19 + (classBase w 2 + y.val.toNat) := rfl
    have hclass := accClass_le w
    have h3 : s3.MemOk := makeIrrevocable_wf _ (firesLine_wf hm hf)
    obtain ⟨s4, hs4⟩ : ∃ s4, parts.zipIdx.foldl (fun s p => accAdd s fz (base + 64 * p.2) p.1) s3 = s4 := ⟨_, rfl⟩
    obtain ⟨⟨honly, hplaces, harcs⟩, hacc⟩ := foldl_accAdd (fz := fz) (base := base) (n := 0) hs4 h3
      (fun i hi => by rw [Nat.zero_add]; exact hquiet i (hlen ▸ hi)) h16 (by omega) (by omega)
    rw [Nat.mul_zero, Nat.add_zero] at hacc
    obtain ⟨t, ht, -⟩ := finish_again (p := marker 1 false) (hplaces.canEmit harcs hemit) rfl
    have hlog : logging s4 c.f.rid = false := by
      have hregion : s4.region c.f.rid = s3.region c.f.rid := by rw [State.region, State.region, honly.regions]
      rw [logging, hregion]
      exact logging_makeIrrevocable s2 c.f.rid
    have hmem : t.mem = s4.mem := (finish_frame (fun hl => absurd (hlog.symm.trans hl) (by decide)) ht).memory.1
    rw [← hmem] at hacc
    have hbody : ([l].mapM (accParts fz)) = .ok [parts] := by
      rw [List.mapM_cons, hparts]
      rfl
    have hfit : (y.val.toNat % 64 == 0 && decide (y.val.toNat + 64 * parts.length ≤ classSize w 2)) = true := by
      rw [Bool.and_eq_true, beq_iff_eq, decide_eq_true_eq, hlen]
      exact ⟨hal, hsize⟩
    have hclean : (List.range parts.length).find? (fun i => s2.poison.contains (base + 64 * i)) = none :=
      List.find?_eq_none.2 fun i hi => by
        rw [hpoison i (hlen ▸ List.mem_range.1 hi)]
        exact Bool.false_ne_true
    refine ⟨t, runLines_ends (Eq.refl (execRacc n fz m s)) (by decide) hf ?_, fun j hj => ?_,
      fun i hi => hacc.desc i (hlen.symm ▸ hi), fun q hq hd => hacc.outside q (hlen.symm ▸ hq) (hlen.symm ▸ hd),
      s4, ht, honly.device, honly.net, honly.frames⟩
    · simp only [hx, scalarOr_ok hy hsc, hbody, List.flatMap_cons, List.flatMap_nil, List.append_nil, id_eq, bind, Except.bind]
      rw [hfit]
      simp only [need, if_true]
      rw [hclean, hs4]
      exact ht
    · have hi : j / 16 < parts.length := by omega
      have hj : j % 16 < parts[j / 16].length := by
        rw [h16 _ (List.getElem_mem hi)]
        exact Nat.mod_lt _ (by decide)
      have hword := hacc.word (j / 16) hi (j % 16) hj
      rw [hvalue _ hi _ hj, Nat.div_add_mod, show base + 64 * (j / 16) + 4 * (j % 16) = base + 4 * j by omega] at hword
      exact hword
  · refine runLines_faults (Eq.refl (execRacc n fz m s)) (by decide) hf ?_ ⟨nofun, nofun⟩
    simp only [hx, scalarOr, hy, flt, bind, Except.bind]
  · obtain ⟨parts, hparts, hlen⟩ := mapM_accParts (fz := fz) hF
    refine runLines_faults (Eq.refl (execRacc n fz m s)) (by decide) hf ?_ ⟨nofun, nofun⟩
    have hfit : (y.val.toNat % 64 == 0 && decide (y.val.toNat + 64 * (parts.flatMap id).length ≤
        classSize (s2.cluster c.u.cl).pword 2)) = false := by
      rw [Bool.and_eq_false_iff, beq_eq_false_iff_ne, decide_eq_false_iff_not, Nat.not_le, hlen]
      exact hbad
    simp only [hx, scalarOr_ok hy hsc, hparts, need, bind, Except.bind]
    rw [hfit]
    rfl

end Sys2Proof.Proofs

/-! ## A drain whose issue wakes a run

What the statement on drains leaves out (O40): a drain of a logged interval commits it first, and a committed store to the table entry
that a held run waits on wakes that run. -/

namespace Sys2Proof.Proofs

open Sys2Proof Sys2Proof.Machine Sys2Proof.Laws

/-- A spill of region 5 that is held until the line at key 0 is written (R345). -/
def heldSpill : LmRun :=
  ⟨.lmSpill toSink .clu, ⟨0, 5, 0, some (plain 0 .u64), some (plain (2 * 2 ^ 56) .handle), none, none, 0, 0, 0⟩, 0, [0, 0, 0], false,
    some 0, true⟩

/-- A store of one byte to the line at key 0 in the log of region 5. -/
def loggedByte : LogStore := ⟨5, [(0, 1)], 0, none, none, .clu, .any, runSite (lmUnit 0) heldSpill, none⟩

/-- A firing of region 5 that drains row group 0 to offset 0 of the accumulator class. -/
def drainFiring : Cur := ⟨lmUnit 0, ⟨0, 5, 0, some (plain 0 .i64), some (plain 0 .i64), none, none, 0, 0, 0⟩⟩

/-- The device that issues the firing, in a logged interval of region 5 whose cluster has one page of accumulators. -/
def draining : State :=
  { State.reset with
    regions := [(5, { activeRegion with logged := true })]
    clusters := [(0, { Cluster.empty with pword := 0x0100, ilog := [loggedByte], drains := [heldSpill] })]
    cur := some drainFiring }

/-- The lines that the runs of cluster 0 are held for. -/
def heldFor (t : State) : List (Option Nat) := (t.cluster 0).drains.map LmRun.wline

/-- The lines that runs are held for in the state that an answer gives. -/
def nextHeldFor (o : Answer) : Option (List (Option Nat)) :=
  match o with
  | .next t => some (heldFor t)
  | _ => none

theorem heldFor_countRetired (t : State) (c : Cur) (op : Nat) : heldFor (countRetired t c op) = heldFor t := by
  unfold countRetired
  split <;> rfl

/-- The issue of the drain commits the store, which wakes the held spill. -/
theorem draining_wakes : nextHeldFor (exec (.lmDrain toSink false .clu) draining) = some [none, none] := by decide +kernel

/-- Refutes O40: in `draining` the issue of `lm.drain` commits a store to the line that a held spill waits for, and the spill is woken
(R345); the statement's first clause has the list of runs keep what it held and gain the drain. -/
theorem not_drainsSpillsAndReloads : ¬ Obligations.DrainsSpillsAndReloads := by
  rintro ⟨hdrain, -⟩
  obtain ⟨-, hroutes⟩ := hdrain toSink false .clu draining drainFiring _ _ draining.base ⟨0, .i64, false⟩ ⟨0, .i64, false⟩ 0
    ⟨rfl, nofun⟩ ⟨_, rfl, rfl⟩ rfl rfl rfl
  obtain ⟨-, hgroup⟩ := hroutes rfl rfl rfl
  obtain ⟨-, hacc, -⟩ := hgroup (by decide) (by decide +kernel)
  obtain ⟨hinto, -⟩ := hacc (by decide) (by decide +kernel)
  obtain ⟨t, hexec, -, hruns⟩ := hinto (by decide +kernel) (by decide +kernel)
  have hheld : heldFor t = [some 0, none] := congrArg (List.map LmRun.wline) hruns
  have hnext := congrArg nextHeldFor hexec
  rw [draining_wakes, nextHeldFor, heldFor_countRetired, hheld] at hnext
  exact absurd hnext (by decide)

end Sys2Proof.Proofs
